-- ==== Sys2Proof/Word.lean ====
section
/-! DEFINITION. The word types of the block: a register is a 32-bit word, memory and messages are bytes
(R12, R67). Addresses, counts, coordinates and doses are unbounded numbers (R15), so they are Nat or Int. -/

namespace Sys2Proof

/-- A 32-bit register word. -/
abbrev Word := BitVec 32

/-- A byte of DRAM, flash or of a message. -/
abbrev Byte := BitVec 8

end Sys2Proof
end

