-- ==== Sys2Proof/Syntax.lean ====
section
/-! DEFINITION. The commands of the block (spec/opcode_table.json), one constructor for each row. The operands of a
command are what the outside world or the passing of time decides: the party, the value written, a word received, a
reading, the outcome of a self-test. -/

namespace Sys2Proof

/-- What the world and the clock decide in the first eight steps of a start (R418, R428–R433): which Harrow tiles and
slices fail their self-test, whether the flash answers SFDP and in octal, whether the write window holds, and the last
of these steps that ends within its limit. -/
structure StartEnv where
  failedTiles : List Nat
  failedSlices : List Nat
  flashAbsent : Bool
  flashOctal : Bool
  windowHolds : Bool
  reached : Nat
deriving DecidableEq, Repr

/-- 50 bits received from a group's back-channel, read as code groups of 10 from a running disparity (R199). -/
structure BkCode where
  group : Nat
  rd : Bool
  raw : Nat
deriving DecidableEq, Repr

/-- An attempt of a group's outstanding command, by its command count (R193). -/
structure CmdAttempt where
  group : Nat
  seq : Nat
deriving DecidableEq, Repr

/-- The commands of the block, one for each row of the table of operations and events. -/
inductive Instr where
  /-- AON_POWER_UP (R453): VDD_AON and VDDIO_AON come up; AON is released, BLANK_ALL_L is driven low and THERMTRIP_L
  is released. -/
  | aonPowerUp (straps : Nat)
  /-- CORE_PWRGD_RISE (R430): A rising edge of CORE_PWRGD begins a start, which runs the start sequence through to
  READY, FACTORY or a stall. -/
  | corePwrgdRise (env : StartEnv)
  /-- START_STEP_TIMEOUT (R433): A start step exceeds its limit, so the start stops with STATE STALLED and a CAUSE. -/
  | startStepTimeout (step : Nat)
  /-- CORE_PWRGD_FALL (R428): CORE_PWRGD falls; every island except AON is held in reset, DRAM content is lost and the
  resume record survives. -/
  | corePwrgdFall
  /-- SYSCLK_LOSS (R467): SYSCLK is absent for 1 µs, which acts as a fall of CORE_PWRGD. -/
  | sysclkLoss
  /-- REF_10M_LOSS (R466): REF_10M is lost; the synthesiser holds over and the device goes fallow with cause REF_LOST.
  -/
  | ref10mLoss
  /-- REF_10M_RESTORED (R466): REF_10M has been present and in range for 10 ms and the synthesiser has relocked, which
  meets the REF_LOST resume condition. -/
  | ref10mRestored
  /-- OPERATING_SECOND_TICK (R388): The 32.768 kHz crystal completes a second, and AON advances the saturating
  operating-seconds counter. -/
  | operatingSecondTick
  /-- OPERATING_SECONDS_READ (R470): A read of GLB_OPERATING_SECONDS returns the seconds and latches SUB_SECOND for
  GLB_POWER_CYCLES. -/
  | operatingSecondsRead (party : Nat)
  /-- REGISTER_WRITE (R13): A write to a register with no behaviour of its own: allowed fields are stored, refused
  fields are kept, and the refusal is counted. -/
  | registerWrite (party : Nat) (bar2 : Bool) (off : Nat) (value : Word)
  /-- READ_CLEAR (R12): A read of an RC field returns its value and then clears it. -/
  | readClear (party off : Nat)
  /-- LEASE_ACQUIRE (R270): ACQUIRE through GLB_LEASE grants the lease, or ends BUSY, NOT_PERMITTED or NO_EFFECT. -/
  | leaseAcquire (party : Nat)
  /-- LEASE_RELEASE (R270): RELEASE through GLB_LEASE frees the lease when the requester holds it. -/
  | leaseRelease (party : Nat)
  /-- LEASE_KEEPALIVE (R442): KEEPALIVE from the holder renews the lease watchdog. -/
  | leaseKeepalive (party : Nat)
  /-- LEASE_WATCHDOG_EXPIRY (R271): LEASE_TIMEOUT ms pass with no KEEPALIVE or accepted LW write, so the lease ends. -/
  | leaseWatchdogExpiry
  /-- SERVICE_POD_PRESENT (R296): SVC_VBUS_SENSE has been high for 10 ms, so the service party's rights begin. -/
  | servicePodPresent
  /-- SERVICE_POD_REMOVED (R9): The sense goes low, which ends the service rights, its lease and its requests, and
  aborts its channels. -/
  | servicePodRemoved
  /-- GATE_CLOSE (R37): The CLOSE gate command leaves an island closed and out of service. -/
  | gateClose (party island : Nat)
  /-- GATE_OPEN (R37): The OPEN gate command reopens a gate closed by CLOSE. -/
  | gateOpen (party island : Nat)
  /-- GATE_RESET (R37): The RESET gate command closes the gate, resets the island and reopens it. -/
  | gateReset (party island : Nat)
  /-- GATE_LOAD (R37): The LOAD gate command closes the gate, resets the island, loads its image section and reopens
  it. -/
  | gateLoad (party island : Nat)
  /-- ISLAND_RESET_DONE (R415): A reset or load of an island completes: layers are applied, self-tests run, the gate
  reopens and RESULT is set. -/
  | islandResetDone (pass : Bool)
  /-- GATE_REQUEST (R28): A request presented to a gate is passed, or answered RETRY or OUT_OF_SERVICE according to
  the gate state. -/
  | gateRequest (island requester seq : Nat) (nonIdem write : Bool) (off : Nat) (value : Word)
  /-- GATE_DRAIN_DONE (R28): A closing gate finds nothing outstanding and becomes closed. -/
  | gateDrainDone (island : Nat)
  /-- GATE_DRAIN_LIMIT (R29): The drain limit expires, so the gate closes by force and reports DRAIN_FORCED. -/
  | gateDrainLimit (island : Nat)
  /-- RETRY_REPRESENT (R31): 256 ns after a RETRY, the requester presents the same request again. -/
  | retryRepresent (party island : Nat)
  /-- REQUESTER_TIMEOUT (R34): An accepted request has no reply within the requester timeout, so it is reissued, or
  after three reissues GATE_TIMEOUT is raised. -/
  | requesterTimeout (island requester : Nat)
  /-- HOST_READ_EXPIRY (R35): A host read still receiving RETRY after 32 µs completes with 0xFFFF_FFFF and sets the
  expiry flag. -/
  | hostReadExpiry (party : Nat)
  /-- PCIE_FUNCTION_RESET (R268): An FLR, hot reset, link down or PERST resets the port island, ends the host's lease
  and frees its DMA channels. -/
  | pcieFunctionReset (party : Nat)
  /-- JOB_TAIL_WRITE (R273): A party writes JOB_TAIL to publish descriptors, or the write is discarded with
  RING_ERROR. -/
  | jobTailWrite (party value : Nat)
  /-- TAKE_DESCRIPTOR (R274): The sequencer takes the next descriptor of the holder's ring into the furrow queue when
  there is room. -/
  | takeDescriptor
  /-- STREAM_READY (R280): The stream-ready doorbell posts and locks a stream, or is refused with a code of 0x11–0x14.
  -/
  | streamReady (party value : Nat)
  /-- ADMISSION_START (R86): The sequencer begins admitting the oldest waiting post. -/
  | admissionStart
  /-- ADMISSION_END (R89): Admission ends ADMITTED or rejected at the first failing word; the report is written and
  the admission interrupt is raised. -/
  | admissionEnd
  /-- ARM_FURROW (R16): The head furrow arms once every arming condition holds; otherwise it waits or is blocked. -/
  | armFurrow
  /-- PRE_RUN_START (R138): Harrow starts a pre-run of a stream to make a density map valid before arming. -/
  | preRunStart
  /-- JOB_ACK (R279): ACK acknowledges a held furrow. -/
  | jobAck (party : Nat)
  /-- JOB_CANCEL_HEAD (R279): CANCEL_HEAD cancels the head furrow. -/
  | jobCancelHead (party : Nat)
  /-- JOB_CANCEL_JOB (R279): CANCEL_JOB cancels every queued descriptor of the head's job. -/
  | jobCancelJob (party : Nat)
  /-- JOB_CANCEL_ALL (R279): CANCEL_ALL empties the furrow queue. -/
  | jobCancelAll (party : Nat)
  /-- FURROW_COMPLETE (R336): A furrow and its repair traverse end; the stream unlocks, and the pending swaps and the
  completion record follow. -/
  | furrowComplete (microcodeOk : Bool)
  /-- TILTH_TILE_DECODE (R101): A decoder instance completes one tile and hands its coverage to Harrow. -/
  | tilthTileDecode (inst : Nat)
  /-- HARROW_SEGMENT_DONE (R125): A tile finishes a segment, delivers its rows or cell sums, and an audit comparison
  is made if due. -/
  | harrowSegmentDone (tile : Nat) (bad : List (Nat × Nat))
  /-- HARROW_SECOND_OPINION_DONE (R129): The second opinion completes and decides which tile is retired. -/
  | harrowSecondOpinionDone (bad : List (Nat × Nat))
  /-- HARROW_RETIRE (R131): HRW_RETIRE_CTRL GO retires the named tile. -/
  | harrowRetire (party tile : Nat)
  /-- HARROW_AUDIT_ENABLE (R126): A write of HRW_AUDIT_CTRL.ENABLE starts auditing, or ends it and returns the auditor
  to standby. -/
  | harrowAuditEnable (party : Nat) (enable : Bool)
  /-- MADDER_MULT_ROW (R144): Madder computes the m2 row of a cell row once its density rows are complete. -/
  | madderMultRow (row : Nat)
  /-- MADDER_ROW_CONVERT (R145): Madder converts a delivered pixel row into target dose in the field window. -/
  | madderRowConvert (row : Nat)
  /-- MDR_MAP_BASE_WRITE (R158): A write of the map base invalidates the maps, or is discarded with BASE_REFUSED while
  a furrow is armed. -/
  | mdrMapBaseWrite (party : Nat) (hi : Bool) (value : Word)
  /-- SOW_SHOT_COMPUTE (R160): A slice computes and hands over the eight payloads of one shot of its group. -/
  | sowShotCompute (group : Nat) (bad : List (Nat × Nat × Nat))
  /-- SOW_AUDITOR_SELF_TEST_DONE (R177): The auditor's self-test ends and decides which slice is retired. -/
  | sowAuditorSelfTestDone (pass : Bool)
  /-- SOW_RETIRE (R179): SOW_RETIRE_CTRL GO retires the named slice. -/
  | sowRetire (party slice : Nat)
  /-- SOW_AUDIT_ENABLE (R175): A write of SOW_AUDIT_CTRL.ENABLE starts auditing, or abandons the unit and stops it. -/
  | sowAuditEnable (party : Nat) (enable : Bool)
  /-- CHECKPOINT_WRITE_DONE (R324): A checkpoint write completes, the checkpoint is kept and the resume record is
  rewritten. -/
  | checkpointWriteDone
  /-- LANE_FRAME_BOUNDARY (R200): At a frame boundary a lane sends the first ready item: spare map, due attempt,
  command, new frame, idle frame or idle bits. -/
  | laneFrameBoundary (group lane : Nat)
  /-- ACK_SHOT (R201): An ACK_SHOT word marks the covered lanes' frames of a shot acknowledged. -/
  | ackShot (group shot mask : Nat)
  /-- ACK_FRAME (R193): An ACK_FRAME word acknowledges an executed command. -/
  | ackFrame (group seq : Nat)
  /-- NAK (R201): A NAK word makes a further attempt of the named latest attempt due. -/
  | nak (group lane value : Nat)
  /-- SHOT_REPORT (R205): A SHOT_REPORT word reconciles fired shots, voiding entries or adding HEAD_REPORTED entries. -/
  | shotReport (group first fired lanes : Nat)
  /-- STATUS (R198): A STATUS word updates head state, temperatures, alarms and GENERATION. -/
  | statusWord (group value : Nat)
  /-- LANE_STATE (R198): A LANE_STATE word updates lane locks and CK_OK, losing lanes or the group as needed. -/
  | laneState (group locks : Nat) (ckOk : Bool)
  /-- FOM (R209): A FOM word reports a lane's eye opening for adaptation. -/
  | fom (group lane value : Nat)
  /-- MEM_DATA (R215): A MEM_DATA word returns a half-word of head memory, and the last one completes a block read. -/
  | memData (group value : Nat)
  /-- IDLE_BK (R197): A valid IDLE_BK word keeps the back-channel alive. -/
  | idleBk (group : Nat)
  /-- BK_WORD_ERROR (R199): An invalid back-channel word is discarded and counted. -/
  | bkWordError (code : BkCode)
  /-- BK_LOST (R199): 1 µs passes with no valid word, so BK is lost: the group goes fallow or retrains. -/
  | bkLost (group : Nat)
  /-- ATTEMPT_TIMEOUT (R201): The 9th trigger, or 3 µs before the first trigger, passes with no reply, so an attempt
  becomes due. -/
  | attemptTimeout (group lane alive : Nat)
  /-- COMMAND_ATTEMPT_TIMEOUT (R193): 4 µs pass with no ACK_FRAME, so a command attempt becomes due; after 16 the
  group goes fallow. -/
  | commandAttemptTimeout (attempt : CmdAttempt)
  /-- LINK_ACCOUNT_CLOSE (R205): 20 µs after the last trigger the furrow's link account closes. -/
  | linkAccountClose
  /-- TRAIN (R207): DRL_Gnn_CTRL.TRAIN starts training of a group. -/
  | train (party group : Nat)
  /-- TRAINING_TIMEOUT (R207): A group not ready 20 ms after step 1 restarts training once, then is lost. -/
  | trainingTimeout (group : Nat)
  /-- BK_SLIP (R208): A write of BK_SLIP makes one bit slip when AUTO_ALIGN is 0. -/
  | bkSlip (party group : Nat)
  /-- BK_ALIGN_SLIP_TEST (R208): After the 1 µs wait, 64 words are tested and BK_ALIGNED set, another slip made, or
  the group lost. -/
  | bkAlignSlipTest (group : Nat) (good : Bool)
  /-- FOM_TIMEOUT (R210): No FOM arrives within 100 µs, so FOM_REQUEST is resent or the merit taken as 0. -/
  | fomTimeout (group lane : Nat)
  /-- SPARE_GO (R212): SPARE_GO moves logical lane SPARE_LANE to L8 without declaring a loss. -/
  | spareGo (party group lane : Nat)
  /-- BLANK_ALL_CHECK (R353): 20 µs after BLANK_ALL_L falls, groups without alarm bit 19 set BLANK_UNSEEN. -/
  | blankAllCheck
  /-- ENC_SAMPLE (R221): A 20 ns encoder sample updates position, edges, speed, direction, yaw, prediction and dibble
  counts. -/
  | encSample (codes : List (Int × Int))
  /-- ENC_TRACKING_QUALIFIED (R225): 1 ms of samples in the window moves an idle channel to tracking. -/
  | encTrackingQualified (ch : Nat)
  /-- ENC_AMPLITUDE_FAULT (R224): A run outside the amplitude window reaches AMP_SAMPLES, which is an AMPLITUDE fault.
  -/
  | encAmplitudeFault (ch : Nat)
  /-- ENC_YAW_FAULT (R235): Dy stays outside the yaw window for YAW_SAMPLES, which is a YAW fault. -/
  | encYawFault (axis : Nat)
  /-- ENC_SPEED_RESTART (R228): 10 ms without a speed edge restarts the speed, and a hard-stopped axis takes its
  command position. -/
  | encSpeedRestart (ch : Nat)
  /-- ENC_INDEX_EDGE (R231): An index edge is interpolated, and a completed pulse sets or checks the reference. -/
  | encIndexEdge (ch : Nat) (rising : Bool) (frac : Nat)
  /-- REREF (R232): REREF clears a channel's reference so that the next valid pulse sets it. -/
  | reref (party ch : Nat)
  /-- ZERO_X (R235): ZERO_X latches Z of the X pair when no furrow is armed. -/
  | zeroX (party : Nat)
  /-- ZERO_Y (R235): ZERO_Y latches Z of the Y pair when no furrow is armed. -/
  | zeroY (party : Nat)
  /-- ENC_FAULT_ACK (R236): The lease holder clears encoder fault bits, returning channels to idle. -/
  | encFaultAck (party mask : Nat)
  /-- SHOT_TRIGGER (R244): At a committed instant STAGE fires SHOT for s_f if every condition holds, and the
  shot-boundary checks run. -/
  | shotTrigger
  /-- DEFLECTION_WORD (R253): Every 20 ns a deflection word with X and Y corrections is sent. -/
  | deflectionWord
  /-- PATH_HOLD_TIMEOUT (R251): The stage does not return to the path within PATH_HOLD, so the device goes fallow with
  OFF_PATH. -/
  | pathHoldTimeout
  /-- HOME_X (R265): HOME_X homes the X axis. -/
  | homeX (party : Nat)
  /-- HOME_Y (R265): HOME_Y homes the Y axis. -/
  | homeY (party : Nat)
  /-- MOVE (R260): MOVE drives the stage to PLN_TARGET_X and PLN_TARGET_Y. -/
  | movePlanner (party : Nat)
  /-- STOP (R260): STOP makes a ramped stop and holds an armed furrow with PLN_STOP. -/
  | stopPlanner (party : Nat)
  /-- PLANNER_MOVE_DONE (R258): A planned move, stop or homing phase reaches its target or rest. -/
  | plannerMoveDone (x y : Int)
  /-- TURN_DWELL_END (R257): TURN_DWELL expires at the start point. -/
  | turnDwellEnd
  /-- WRITING_SEGMENT_START (R257): The ramp of a writing segment begins once the run is armed, the dwell has ended
  and 64 frames are sent. -/
  | writingSegmentStart
  /-- SWITCH_RAW_EDGE (R262): A raw switch edge is latched if armed, and counted as chatter when the filter rejects
  it. -/
  | switchRawEdge (sw : Nat) (was level : Bool)
  /-- SWITCH_FILTERED_EDGE (R263): A switch's filtered level becomes active and its action applies. -/
  | switchFilteredEdge (sw : Nat)
  /-- LATCH_REARM (R262): Writing 1 to LATCHED re-arms a switch latch. -/
  | latchRearm (party mask : Nat)
  /-- TRIPPED_ACK (R263): Writing 1 to TRIPPED acknowledges a switch stop. -/
  | trippedAck (party mask : Nat)
  /-- STOPPED_ACK (R260): Writing 1 to STOPPED acknowledges a PLN_STOP hold. -/
  | stoppedAck (party : Nat)
  /-- RESUME (R329): A held furrow whose conditions are met resumes by re-expanding from a checkpoint at s_f. -/
  | resumeFurrow
  /-- REPAIR_TRAVERSE_ARM (R333): A repair traverse or its next round arms and runs its repair runs. -/
  | repairTraverseArm
  /-- REPAIR_SKIP (R335): SKIP ends the repair traverse of the head furrow. -/
  | repairSkip (party : Nat)
  /-- BANK_SWAP_REQUEST (R341): SWAP requests a bank exchange, refused BUSY when not allowed. -/
  | bankSwapRequest (party : Nat) (microcodeOk : Bool)
  /-- DMA_CLAIM (R286): CLAIM takes a free DMA channel. -/
  | dmaClaim (party ch : Nat)
  /-- DMA_RELEASE (R286): RELEASE aborts and frees a channel. -/
  | dmaRelease (party ch : Nat)
  /-- DMA_START (R291): START begins a chain or resumes a halted descriptor. -/
  | dmaStart (party ch : Nat)
  /-- DMA_ABORT (R292): ABORT stops a channel at its next burst boundary. -/
  | dmaAbort (party ch : Nat)
  /-- DMA_DESCRIPTOR_FETCH (R287): A channel fetches and checks its next descriptor. -/
  | dmaDescriptorFetch (ch : Nat) (ok : Bool) (host : List Byte)
  /-- DMA_BURST_DONE (R291): A burst completes or fails, advancing or retrying the descriptor. -/
  | dmaBurstDone (ch : Nat) (ok : Bool) (host : List Byte)
  /-- DMA_ACCESS_RETRY (R291): 1 µs after a failed access it is retried, or the channel halts. -/
  | dmaAccessRetry (ch : Nat) (ok : Bool) (host : List Byte)
  /-- DMA_TIMER_TICK (R289): A channel timer tick adds a pacing event. -/
  | dmaTimerTick (ch : Nat)
  /-- SMBUS_ADDRESS (R295): SMBus ADDRESS sets the register address. -/
  | smbusAddress (addr : Nat) (pecOk : Bool)
  /-- SMBUS_READ (R295): SMBus READ returns status and the register data and advances the address. -/
  | smbusRead (pecOk : Bool)
  /-- SMBUS_WRITE (R295): SMBus WRITE writes a register and advances the address. -/
  | smbusWrite (value : Word) (pecOk : Bool)
  /-- SMBUS_READ_TIMEOUT (R295): A management read not complete in 1 ms returns RETRY. -/
  | smbusReadTimeout
  /-- USB_READ (R296): A USB READ request returns data from BAR0, the context window or DRAM. -/
  | usbRead (space seq length addr : Nat)
  /-- USB_WRITE (R296): A USB WRITE request writes BAR0, the context window or DRAM. -/
  | usbWrite (space seq length addr : Nat) (data : List Byte)
  /-- MEM_MAP_CFG_WRITE (R300): A MEM_MAP_CFG write remaps DRAM and clears valid bits, or is refused. -/
  | memMapCfgWrite (party : Nat) (value : Word)
  /-- MEM_INVALIDATE (R308): INVALIDATE clears the valid bits of a block range. -/
  | memInvalidate (party : Nat)
  /-- MEM_SCRUB (R316): SCRUB starts a scrub pass over a range. -/
  | memScrub (party : Nat)
  /-- SCRUB_PASS_END (R316): A scrub pass ends and its summary is written. -/
  | scrubPassEnd (us : Nat)
  /-- PATROL_PASS_END (R315): The patrol scrubber completes a pass over valid blocks. -/
  | patrolPassEnd (upsets : List (Nat × Nat))
  /-- MEM_RETIRE (R318): MEM_RETIRE_CTRL GO nominates a pseudo-channel for retirement. -/
  | memRetire (party phys : Nat)
  /-- PC_COPY_DONE (R319): The retirement copy ends, and the swap follows at once or waits for a furrow boundary. -/
  | pcCopyDone
  /-- REFRESH_READING_STALE (R309): No stack reading is newer than 10 ms, so refresh runs at ×4. -/
  | refreshReadingStale (stack : Nat)
  /-- RETRAIN_BURST (R310): Every PERIOD_US a controller retrains one pseudo-channel unless a checkpoint notice holds.
  -/
  | retrainBurst (stack : Nat)
  /-- SELF_REFRESH_ENTER (R311): ENTER puts a stack into self-refresh. -/
  | selfRefreshEnter (party stack : Nat)
  /-- SELF_REFRESH_EXIT (R311): EXIT takes a stack out of self-refresh. -/
  | selfRefreshExit (party stack : Nat)
  /-- SELF_REFRESH_AUTO (R311): AUTO_IDLE_US passes with no request, so the stack enters self-refresh. -/
  | selfRefreshAuto (stack : Nat)
  /-- MEM_FREQ_CHANGE (R313): FREQ_CTRL GO starts a change of every stack's data rate. -/
  | memFreqChange (party freq : Nat)
  /-- FREQ_CHANGE_DONE (R313): The frequency change ends and the MEM gates reopen. -/
  | freqChangeDone
  /-- FLIP_ARM (R321): ARM arms the flip mask for the next write to a word, or is refused. -/
  | flipArm (party check : Nat)
  /-- FENCE_NOP (R348): A Fence NOP frame restarts the watchdog and returns FNC_STATUS next frame. -/
  | fenceNop (seq off data : Nat)
  /-- FENCE_READ (R348): A Fence READ frame returns an FNC register in the next frame. -/
  | fenceRead (seq off data : Nat)
  /-- FENCE_WRITE (R348): A Fence WRITE frame writes an FNC register, or is answered BUSY while loading. -/
  | fenceWrite (seq off data : Nat)
  /-- FENCE_BAD_FRAME (R348): A frame with a length, CRC, op or offset error is discarded and its status returned. -/
  | fenceBadFrame (cycles : Nat) (bytes : List Byte)
  /-- FENCE_WATCHDOG_EXPIRY (R349): WATCHDOG_MS pass without a good frame, which sets WATCHDOG as a Fence trip. -/
  | fenceWatchdogExpiry
  /-- FENCE_FALLOW (R350): Writing FNC_CTRL.FALLOW through the Fence starts or ends a beam hold. -/
  | fenceFallow (on : Bool)
  /-- REVOKE_LEASE (R356): REVOKE_LEASE ends any lease. -/
  | revokeLease
  /-- LEASE_LOCK (R356): Writing LEASE_LOCK makes every ACQUIRE refused, or allows it again. -/
  | leaseLock (on : Bool)
  /-- THERMTRIP_RELEASE (R364): THERMTRIP_RELEASE with COOLED set releases THERMTRIP_L. -/
  | thermtripRelease
  /-- FENCE_TRIP_CLEAR (R354): Writing 1 to FNC_TRIP_STATUS bits clears latched trips. -/
  | fenceTripClear (mask : Nat)
  /-- TX_ENABLE_WRITE (R358): A write of FNC_TX_ENABLE disables groups, taking them fallow, or enables them for
  training. -/
  | txEnableWrite (value : Nat)
  /-- LIMIT_FORCE_WRITE (R357): A write of FNC_LIMIT_FORCE forces or releases HARD STOP on limit switches. -/
  | limitForceWrite (value : Nat)
  /-- SERVICE_ENABLE_WRITE (R359): Writing SERVICE_ENABLE grants or ends the service party's rights. -/
  | serviceEnableWrite (on : Bool)
  /-- DOSE_CEILING_WRITE (R66): A ceiling write is raised at the next boundary, or lowered at once with a fallow. -/
  | doseCeilingWrite (value : Nat)
  /-- LEDGER_AUTHORISE (R396): AUTHORISE with KEY authorises one ledger clear or refuses it with KEY_MISMATCH. -/
  | ledgerAuthorise (key : Nat)
  /-- HOLD_REQ_EDGE (R351): An accepted edge of HOLD_REQ_L drives BLANK_ALL_L and takes the device fallow. -/
  | holdReqEdge
  /-- DOOR_OK_EDGE (R351): An accepted edge of DOOR_OK drives BLANK_ALL_L, takes the device fallow and stops the
  stage. -/
  | doorOkEdge
  /-- INTERLOCK_RELEASE (R354): An interlock input stays released for RELEASE_MS, so its driver ends. -/
  | interlockRelease (door : Bool)
  /-- HK_ROUND (R360): A housekeeping round reads 64 channels and applies the thermal, supply, refresh and window
  checks. -/
  | hkRound (readings : List (Option Int)) (taken : Bool)
  /-- AON_COMPARATOR_READ (R361): Every 32 µs the AON comparators read TS_00–TS_03 and act on trips in hardware mode. -/
  | aonComparatorRead (readings : List Int)
  /-- THERMAL_STOP_LIMIT (R364): A ramped stop not ended 100 ms after a trip ends as a hard stop. -/
  | thermalStopLimit
  /-- THERMAL_SHUTDOWN (R364): When the trip steps end, records are saved, the islands are reset and THERMTRIP_L is
  driven low. -/
  | thermalShutdown (heldMs stopMs : Nat)
  /-- CAL_RUN (R372): RUN makes an item's instances due. -/
  | calRun (party item : Nat)
  /-- CAL_DUE_AGE (R372): MAX_AGE seconds pass since an instance completed, so it becomes due. -/
  | calDueAge (item inst : Nat)
  /-- CAL_INSTANCE_START (R373): The engine starts the next runnable due instance. -/
  | calInstanceStart
  /-- CAL_INSTANCE_DONE (R371): A calibration instance completes and its choice is applied. -/
  | calInstanceDone (choice : Nat)
  /-- CAL_RETRY_ELIGIBLE (R379): RETRY_MS after a preemption the instance becomes eligible again. -/
  | calRetryEligible (item inst : Nat)
  /-- CAL_OVERDUE (R373): An instance due for 2 × MAX_AGE becomes overdue and is recorded. -/
  | calOverdue (item inst : Nat)
  /-- CAL_TEST_COMPOSE (R380): CAL_TEST_CTRL GO composes a test stream, or is refused. -/
  | calTestCompose (party : Nat)
  /-- CAL_TEST_DONE (R380): Composition ends DONE with CAL_TEST_BYTES. -/
  | calTestDone
  /-- TILTH_ENCODE (R105): ENCODE starts a Tilth encoder job. -/
  | tilthEncode (party : Nat)
  /-- TILTH_DECODE (R105): DECODE starts a Tilth decoder job. -/
  | tilthDecode (party : Nat)
  /-- TILTH_RESUME (R107): RESUME continues a stopped Tilth job. -/
  | tilthResume (party : Nat)
  /-- TILTH_SAVE (R108): SAVE writes the job's context record. -/
  | tilthSave (party : Nat)
  /-- TILTH_RESTORE (R108): RESTORE loads a context record into a stopped job, or sets CTX_BAD. -/
  | tilthRestore (party : Nat)
  /-- TILTH_ABORT (R106): ABORT stops the running job before its next tile. -/
  | tilthAbort (party : Nat)
  /-- TILTH_JOB_TILE_DONE (R106): A job completes a tile, advances its counts and stops or ends DONE as the checks
  require. -/
  | tilthJobTileDone
  /-- LEDGER_HOLD_EXPIRY (R391): The open record has been open for HOLD_S, so it closes. -/
  | ledgerHoldExpiry
  /-- LEDGER_COMMIT (R392): A closed record is committed to the flash when the window holds, or is lost when full. -/
  | ledgerCommit
  /-- LEDGER_FREEZE (R394): FREEZE commits the queue and freezes the log. -/
  | ledgerFreeze (party : Nat)
  /-- LEDGER_UNFREEZE (R394): UNFREEZE ends a freeze and commits queued records. -/
  | ledgerUnfreeze (party : Nat)
  /-- FREEZE_TIMEOUT (R394): FREEZE_S seconds after FROZEN the freeze ends. -/
  | freezeTimeout
  /-- LDG_READ_DATA (R395): A read of LDG_READ_DATA returns 4 bytes and advances the party's pointer. -/
  | ldgReadData (party : Nat)
  /-- CLEAR_REQUEST (R396): CLEAR_REQUEST awaits authorisation with a new nonce, or is refused. -/
  | clearRequest (party : Nat)
  /-- CLEAR_CONFIRM (R397): CLEAR_CONFIRM runs an authorised clear of the ledger region. -/
  | clearConfirm (party : Nat)
  /-- AUTHORISATION_EXPIRY (R396): 10 s after authorisation without confirmation the authorisation expires. -/
  | authorisationExpiry
  /-- TELEMETRY_RECORD (R400): After ROUNDS rounds a telemetry record is formed and delivered. -/
  | telemetryRecord
  /-- USAGE_CLEAR (R399): LDG_USAGE_CTRL.CLEAR zeroes every usage counter. -/
  | usageClear (party : Nat)
  /-- CHK_CLAIM (R402): CLAIM takes unit U03. -/
  | chkClaim (party : Nat)
  /-- CHK_RELEASE (R402): RELEASE frees unit U03. -/
  | chkRelease (party : Nat)
  /-- CHK_INIT (R403): INIT loads the initial value, clears COUNT and feeds ALIVE when enabled. -/
  | chkInit (party unit : Nat)
  /-- CHK_FEED8 (R403): FEED8 feeds one byte. -/
  | chkFeed8 (party unit : Nat) (value : Word)
  /-- CHK_FEED16 (R403): FEED16 feeds two bytes. -/
  | chkFeed16 (party unit : Nat) (value : Word)
  /-- CHK_FEED32 (R403): FEED32 feeds four bytes. -/
  | chkFeed32 (party unit : Nat) (value : Word)
  /-- CHK_RESULT (R403): A read of RESULT waits for earlier feeds and returns the final value. -/
  | chkResult (party unit : Nat)
  /-- NVL_UPDATE (R421): UPDATE writes the staged image into the inactive slot. -/
  | nvlUpdate (party : Nat)
  /-- NVL_ABORT (R422): ABORT stops an update after the current page or erase. -/
  | nvlAbort (party : Nat)
  /-- NVL_CONFIRM (R423): CONFIRM marks a trial active slot confirmed. -/
  | nvlConfirm (party : Nat)
  /-- NVL_ADOPT (R423): ADOPT makes a trial inactive slot active, or refuses with SEAL_DIFFERS. -/
  | nvlAdopt (party : Nat)
  /-- NVL_VERIFY (R423): VERIFY checks a slot or the staged image. -/
  | nvlVerify (party target : Nat)
  /-- FLASH_OPERATION_DONE (R424): A flash page program, erase or read completes and the next flash operation
  proceeds. -/
  | flashOperationDone
  /-- VDD_AON_LOSS (R40): VDD_AON fails, so AON and its retention RAM are lost and only the flash content survives. -/
  | vddAonLoss
  /-- XTAL32_START (R428): The 32.768 kHz crystal starts or stops oscillating, and AON moves operating-seconds
  counting between the crystal and its 25 MHz RC oscillator. -/
  | xtal32Start (running : Bool)
  /-- SYSCLK_RESTORED (R467): SYSCLK becomes present again, which ends the stall with cause SYSCLK. -/
  | sysclkRestored
  /-- JTAG_INSTRUCTION (R363): An instruction is loaded into the JTAG TAP, and any instruction other than BYPASS or
  IDCODE puts the device in hardware mode. -/
  | jtagInstruction (bypassOrIdcode : Bool)
  /-- KEY_PROGRAM (R413): The JTAG instruction KEY_PROGRAM programs a blank fuse key in hardware mode. -/
  | keyProgram (which : Nat) (key : List Byte)
  /-- KEY_REVOKE (R413): The JTAG instruction KEY_REVOKE revokes a fuse key irreversibly. -/
  | keyRevoke (which : Nat)
  /-- PCIE_LINK_UP (R268): A PCI Express port's link trains up, and HST_x_LINK reports UP, WIDTH and SPEED. -/
  | pcieLinkUp (party width speed : Nat)
  /-- GATE_REPLY (R28): A reply crosses a gate: it is delivered and, for a non-idempotent request, kept; at a closed
  gate it is discarded and counted. -/
  | gateReply (island requester : Nat)
  /-- SWITCH_FILTERED_INACTIVE (R263): A switch's filtered level becomes inactive, which meets the LIMIT resume
  condition or ends the homing back-off. -/
  | switchFilteredInactive (sw : Nat)
  /-- MEM_INVALIDATE_DONE (R308): An INVALIDATE finishes clearing its range of valid bits, and RESULT reads done. -/
  | memInvalidateDone
  /-- RETRAIN_BURST_DONE (R314): A retraining burst ends, which releases waiting requests and lets a waiting frequency
  change or checkpoint write proceed. -/
  | retrainBurstDone (stack : Nat)
  /-- SRAM_PATROL_PASS (R303): An on-die SRAM patrol reads and corrects its words, at least once every 10 ms, and
  counts corrected and uncorrectable words. -/
  | sramPatrolPass (island : Nat) (data check : List (Nat × Nat))
  /-- USAGE_CLEAR_DONE (R399): The zeroing of the usage counters completes, and increments that landed during it are
  applied. -/
  | usageClearDone
deriving DecidableEq, Repr

end Sys2Proof
end

