-- ==== Sys2Proof/Decode.lean ====
section
/-! DEFINITION. The command that a word spells. The opcode table gives no row of this block any bits: its commands are
register accesses, protocol words and events, which have no common encoding; so no word spells one. -/

namespace Sys2Proof

/-- The command of an instruction word, numbered as the opcode table numbers its bits: none. -/
def decodeTableWord (_nbits _w : Nat) : Option Instr := none

end Sys2Proof
end

