-- ==== Sys2Proof/Config.lean ====
section
/-! DEFINITION. The values the manual leaves open. Each is an opaque function of State's counter of free values
(State.freeCount), or of the operands it depends on: nothing in Lean can tell which value it is, so a claim about
it is a claim about every value. -/

namespace Sys2Proof.Config

/-- The 16-bit nonce of a ledger clear, taken from free-running counters (R396). Log entry 5. -/
opaque freeNonce : Nat → BitVec 16

/-- What a 64-bit word with three or more wrong bits reads as: it is detected or miscorrected without guarantee
(R302). Log entry 6. -/
opaque freeEccWord : Nat → BitVec 64

/-- Whether such a word is reported as uncorrectable (R302). Log entry 6. -/
opaque freeEccDetected : Nat → Bool

/-- The error of an encoder phase against the nearest integer of 4096 atan2 / 2 pi: it is reduced to −1, 0 or 1
(R221). Log entry 7. -/
opaque freePhase : Nat → Fin 3

/-- The nearest sensor of a calibration instance, numbered 256 × item + instance: it is chosen by floorplan (R371,
CAL_RESULT_0). Log entry 9. -/
opaque nearestSensor : Nat → Fin 24

/-- The phase of a sample whose corrected signals are both zero: it has no angle (R221). Log entry 10. -/
opaque freeAngle : Nat → Fin 4096

/-- Whether a value the manual does not say how to round is rounded up: the extrapolated means of a deflection word
(R253) and the crossing of an interpolated mean (R243). Log entry 11. -/
opaque freeRound : Nat → Bool

/-- Places of the vernier bars of the STITCH pattern, by edge and bar: the bar's column offset in its 64 columns and
its row offset in its 256 rows, which R381 does not give. Log entry 15. -/
opaque stitchBar : Nat → Fin 63 × Fin 225

/-- Places of the pads of the DENSITY pattern: first column, columns, first row from 1,032, and the side of its line,
which R381 does not give. Log entry 15. -/
opaque densityPad : Nat → Fin 5376 × Fin 5376 × Fin 59377 × Bool

/-- The sub-second of the 32.768 kHz crystal at a command (R388): no command tells how much of a second has passed.
Log entry 17. -/
opaque subSecond : Nat → BitVec 8

/-- The flash's JEDEC manufacturer number (R427): the board chooses the flash. Log entry 18. -/
opaque flashMaker : BitVec 8

/-- The CHOICE of a calibration instance that the start or its group's training ran (R371, R378, R384), by 256 × item +
instance. Log entry 19. -/
opaque startChoice : Nat → Nat → BitVec 8

/-- Whether the inactive microcode bank passes its CRC at a swap that a plain register write asks for (R341, R342): what
microcode an image holds is the composer's. Log entry 20. -/
opaque microcodeOk : Nat → Bool

/-- STATUS of a USB read of DRAM with an uncorrectable word: R296 and R304 give none. Log entry 21. -/
opaque usbErrorStatus : Nat → Fin 5

/-- GLB_BOOT_TIME as a start leaves it: the milliseconds to READY and those of step 10, each saturating (R436). Log
entry 83. -/
opaque bootTime : Nat → BitVec 32

end Sys2Proof.Config
end

