-- ==== Sys2Proof/Machine/Bits.lean ====
section
/-! DEFINITION. Bit fields, the integer operators of R15, byte order, sorted association lists, the check values of
R402 and the SHA-256 and HMAC that R412 and R413 name. -/

namespace Sys2Proof.Machine

/-! ### Integer operators of R15 -/

/-- rnd(a, n) of R15: `(a + 2^(n-1)) >> n`, which rounds half up. -/
def rnd (a : Int) : Nat → Int
  | 0 => a
  | n + 1 => (a + 2 ^ n) / 2 ^ (n + 1)

/-- sat(a, lo, hi) of R15. -/
def sat (a lo hi : Int) : Int := if a < lo then lo else if hi < a then hi else a

/-- a div b of R15, which rounds toward zero. -/
def tdiv (a b : Int) : Int := Int.tdiv a b

/-- `n` saturated at the largest value of `w` bits. -/
def satN (w n : Nat) : Nat := min n (2 ^ w - 1)

/-- Bits [hi:lo] of a number. -/
def bits (n hi lo : Nat) : Nat := (n >>> lo) % 2 ^ (hi + 1 - lo)

/-- The number of `w` bits read as two's complement. -/
def signed (w n : Nat) : Int :=
  let m := n % 2 ^ w
  if m < 2 ^ (w - 1) then (m : Int) else (m : Int) - (2 ^ w : Nat)

/-- Two's complement of an integer in `w` bits. -/
def unsigned (w : Nat) (i : Int) : Nat := (i % (2 ^ w : Nat)).toNat

/-- 1 for true. -/
def bitOf (b : Bool) : Nat := if b then 1 else 0

/-- Bits [hi:lo] of `old` replaced by the low bits of `v`. -/
def withBits (old hi lo v : Nat) : Nat :=
  let w := 2 ^ (hi + 1 - lo)
  old - ((old >>> lo) % w) <<< lo + (v % w) <<< lo

/-- The number of ones among the lowest `w` bits. -/
def popCount (n : Nat) : Nat → Nat
  | 0 => 0
  | w + 1 => popCount n w + (if n.testBit w then 1 else 0)

/-- The indexes below `w` of the ones of `n`, ascending. -/
def onesOf (n w : Nat) : List Nat := (List.range w).filter n.testBit

/-- The number with ones at the listed places. -/
def maskOf (l : List Nat) : Nat := l.foldl (fun m i => m ||| (1 <<< i)) 0

/-! ### Sorted association lists -/

/-- The value a key is listed with. -/
def alGet {α : Type} : List (Nat × α) → Nat → Option α
  | [], _ => none
  | (k, v) :: t, a => if a = k then some v else if a < k then none else alGet t a

/-- The list with `a` listed with `x`, keys rising. -/
def alSet {α : Type} : List (Nat × α) → Nat → α → List (Nat × α)
  | [], a, x => [(a, x)]
  | (k, v) :: t, a, x =>
    if a = k then (k, x) :: t else if a < k then (a, x) :: (k, v) :: t else (k, v) :: alSet t a x

/-- The list without `a`. -/
def alErase {α : Type} : List (Nat × α) → Nat → List (Nat × α)
  | [], _ => []
  | (k, v) :: t, a => if a = k then t else if a < k then (k, v) :: t else (k, v) :: alErase t a

/-- The keys rise strictly. -/
def alSorted {α : Type} : List (Nat × α) → Bool
  | [] => true
  | [_] => true
  | (k, _) :: (k', v') :: t => decide (k < k') && alSorted ((k', v') :: t)

/-- A byte memory read: the listed byte, or what an unlisted address reads as. -/
def cellGet (dflt : Byte) (m : List (Nat × Byte)) (a : Nat) : Byte := (alGet m a).getD dflt

/-- A byte memory write that keeps the canonical form: the default byte is never listed. -/
def cellSet (dflt : Byte) (m : List (Nat × Byte)) (a : Nat) (b : Byte) : List (Nat × Byte) :=
  if b = dflt then alErase m a else alSet m a b

/-- A sorted list of numbers with `a` in it. -/
def setInsert : List Nat → Nat → List Nat
  | [], a => [a]
  | k :: t, a => if a = k then k :: t else if a < k then a :: k :: t else k :: setInsert t a

/-- The list without `a`. -/
def setErase (l : List Nat) (a : Nat) : List Nat := l.filter (· != a)

/-- Element `i` of a list of numbers, 0 beyond its end. -/
def nth (l : List Nat) (i : Nat) : Nat := l.getD i 0

/-! ### Byte order -/

/-- The `n` little-endian bytes of a number. -/
def leBytes : Nat → Nat → List Byte
  | 0, _ => []
  | n + 1, v => BitVec.ofNat 8 v :: leBytes n (v / 256)

/-- The number whose little-endian bytes are given. -/
def ofLe : List Byte → Nat
  | [] => 0
  | b :: t => b.toNat + 256 * ofLe t

/-- Bytes [a, a + n) of a list of bytes, zero beyond its end. -/
def sliceBytes (l : List Byte) (a n : Nat) : List Byte :=
  let x := (l.drop a).take n
  x ++ List.replicate (n - x.length) 0

/-- The little-endian number of `n` bytes from byte `a`. -/
def leAt (l : List Byte) (a n : Nat) : Nat := ofLe (sliceBytes l a n)

/-- Little-endian bytes of a list of 32-bit numbers. -/
def wordsLe (l : List Nat) : List Byte := l.flatMap (leBytes 4)

/-! ### Check values (R67, R197, R347, R386, R402) -/

/-- One bit of a non-reflected CRC of width `w`. -/
def crcBit (w poly crc : Nat) (bit : Bool) : Nat :=
  let top := crc.testBit (w - 1) != bit
  let sh := (crc <<< 1) % 2 ^ w
  if top then sh ^^^ poly else sh

/-- One byte of a non-reflected CRC, most significant bit first. -/
def crcByte (w poly crc : Nat) (b : Byte) : Nat :=
  [7, 6, 5, 4, 3, 2, 1, 0].foldl (fun c i => crcBit w poly c (b.toNat.testBit i)) crc

/-- One bit of a reflected CRC; `poly` is the reversed polynomial. -/
def crcBitR (poly crc : Nat) (bit : Bool) : Nat :=
  if crc.testBit 0 != bit then (crc >>> 1) ^^^ poly else crc >>> 1

/-- One byte of a reflected CRC, least significant bit first. -/
def crcByteR (poly crc : Nat) (b : Byte) : Nat :=
  [0, 1, 2, 3, 4, 5, 6, 7].foldl (fun c i => crcBitR poly c (b.toNat.testBit i)) crc

/-- CRC-32C of R67: polynomial 0x1EDC_6F41, reflected (0x82F6_3B78), initial value and final XOR all ones. -/
def crc32c (l : List Byte) : Nat := l.foldl (crcByteR 0x82F63B78) 0xFFFFFFFF ^^^ 0xFFFFFFFF

/-- CRC-16 of R386. -/
def crc16 (l : List Byte) : Nat := l.foldl (crcByte 16 0x1021) 0xFFFF

/-- CRC-8 of R197 and R347: polynomial 0x2F, initial value 0xFF, final XOR 0xFF. -/
def crc8 (l : List Byte) : Nat := l.foldl (crcByte 8 0x2F) 0xFF ^^^ 0xFF

/-- The initial value of a check unit's POLY (R402). -/
def chkInit (poly : Nat) : Nat :=
  if poly = 0 then 0xFFFFFFFF else if poly = 1 then 0xFFFFFFFF else if poly = 2 then 0xFFFF else 0xFF

/-- A check unit's running value after one byte (R402, R403). -/
def chkByte (poly crc : Nat) (b : Byte) : Nat :=
  if poly = 0 then crcByteR 0xEDB88320 crc b
  else if poly = 1 then crcByteR 0x82F63B78 crc b
  else if poly = 2 then crcByte 16 0x1021 crc b
  else crcByte 8 0x2F crc b

/-- The final XOR of a check unit's POLY (R402). -/
def chkFinal (poly crc : Nat) : Nat :=
  if poly = 0 then crc ^^^ 0xFFFFFFFF else if poly = 1 then crc ^^^ 0xFFFFFFFF
  else if poly = 2 then crc else crc ^^^ 0xFF

/-! ### SHA-256 and HMAC (R412, R413): PRESUMED from their public standards, log entry 8 -/

/-- Right rotation of a 32-bit number. -/
def rotr32 (n x : Nat) : Nat := (x >>> n ||| x <<< (32 - n)) % 2 ^ 32

/-- `r`, whose lowest `n` bits are 0, with those bits set from the highest down as long as its `e`-th power is at most
`x`. -/
def rootFrom (e x : Nat) : Nat → Nat → Nat
  | 0, r => r
  | n + 1, r => rootFrom e x n (if (r + 2 ^ n) ^ e ≤ x then r + 2 ^ n else r)

/-- The first `n` prime numbers among those below 312. -/
def firstPrimes (n : Nat) : List Nat :=
  ((List.range 312).filter fun p => 1 < p && (List.range p).all fun d => decide (d < 2) || p % d != 0).take n

/-- The first 32 bits behind the binary point of the `e`-th root of a prime. -/
def rootWord (e p : Nat) : Nat := rootFrom e (p <<< (32 * e)) 36 0 % 2 ^ 32

/-- The round constants come from the cube roots of 64 primes. -/
def shaK : List Nat := (firstPrimes 64).map (rootWord 3)

/-- The initial hash value comes from the square roots of eight primes. -/
def shaH0 : List Nat := (firstPrimes 8).map (rootWord 2)

/-- The rotations of a word XORed together. -/
def rotations (l : List Nat) (x : Nat) : Nat := l.foldl (fun a n => a ^^^ rotr32 n x) 0

/-- The word that joins a window of 16 words of the message schedule, oldest first. -/
def shaNext (w : List Nat) : Nat :=
  let old := nth w 1
  let late := nth w 14
  (nth w 0 + nth w 9 + (rotations [7, 18] old ^^^ old >>> 3) + (rotations [17, 19] late ^^^ late >>> 10)) % 2 ^ 32

/-- The eight working words after a round that adds `x`, its constant and its word of the schedule together. -/
def shaStep (v : List Nat) (x : Nat) : List Nat :=
  let pick := nth v 6 ^^^ (nth v 4 &&& (nth v 5 ^^^ nth v 6))
  let most := nth v 0 &&& nth v 1 ||| nth v 2 &&& (nth v 0 ||| nth v 1)
  let low := nth v 7 + rotations [6, 11, 25] (nth v 4) + pick + x
  let high := rotations [2, 13, 22] (nth v 0) + most
  (low + high) % 2 ^ 32 :: v.take 3 ++ (nth v 3 + low) % 2 ^ 32 :: (v.drop 4).take 3

/-- The rounds of a block, one for each constant, with the window of the schedule moving on. -/
def shaRounds : List Nat → List Nat → List Nat → List Nat
  | [], _, v => v
  | k :: t, w, v => shaRounds t (w.drop 1 ++ [shaNext w]) (shaStep v (k + nth w 0))

/-- The big-endian 32-bit words of a list of bytes. -/
def beWords : List Byte → List Nat
  | a :: b :: c :: d :: t => (((a.toNat * 256 + b.toNat) * 256 + c.toNat) * 256 + d.toNat) :: beWords t
  | _ => []

/-- The hash value after a block of 64 bytes. -/
def shaBlock (h : List Nat) (blk : List Byte) : List Nat :=
  List.zipWith (fun x y => (x + y) % 2 ^ 32) h (shaRounds shaK (beWords blk) h)

/-- The blocks of a padded message, at most `n` of them. -/
def shaBlocks : Nat → List Nat → List Byte → List Nat
  | 0, h, _ => h
  | n + 1, h, l => if l.length < 64 then h else shaBlocks n (shaBlock h (l.take 64)) (l.drop 64)

/-- The big-endian bytes of a number. -/
def beBytes (n v : Nat) : List Byte := (leBytes n v).reverse

/-- SHA-256 of a message. -/
def sha256 (m : List Byte) : List Byte :=
  let z := (119 - m.length % 64) % 64
  let p := m ++ [0x80] ++ List.replicate z 0 ++ beBytes 8 (8 * m.length)
  (shaBlocks (p.length / 64) shaH0 p).flatMap (beBytes 4)

/-- HMAC-SHA-256 with a key of at most 64 bytes. -/
def hmac256 (key m : List Byte) : List Byte :=
  let k := key ++ List.replicate (64 - key.length) 0
  sha256 (k.map (· ^^^ 0x5C) ++ sha256 (k.map (· ^^^ 0x36) ++ m))

end Sys2Proof.Machine
end

