-- ==== Sys2Proof/Machine/RegTable.lean ====
section
/-! DEFINITION. The register map of the manual's chapters: for every register its BAR0 offset, its instances, its reset
value where the manual gives one number, and its fields with their access codes (R12); and one name for every field.
Written from the register tables of spec/ (R37, R65, R89, R110, R133, R158, R181, R218, R237, R267, R297, R322, R344,
R369, R384, R405, R427, R436, R441-R443). -/

namespace Sys2Proof.Machine

/-- The access codes of R12. A field the tables call reserved is `reserved` (R14). -/
inductive Acc where
  | rw | ro | w1c | w1s | wo | rc | lw | fl | reserved
deriving DecidableEq, Repr

/-- A field of one register: its BAR0 offset and its bits [hi:lo]. -/
structure Fld where
  off : Nat
  hi : Nat
  lo : Nat
deriving DecidableEq, Repr

/-- A field of a register's table. -/
structure RegField where
  hi : Nat
  lo : Nat
  acc : Acc
deriving DecidableEq, Repr

/-- A register, or an array of `n1` by `n2` registers at `base + s1 × i + 4 × j`. -/
structure RegRow where
  name : String
  base : Nat
  n1 : Nat
  s1 : Nat
  n2 : Nat
  reset : Nat
  fields : List RegField
deriving DecidableEq, Repr

/-- Rows of the GLB block. -/
def regGlb0 : List RegRow := [
  ⟨"GLB_ID", 0x0, 1, 0x0, 1, 0x4A044510, [⟨31, 16, .ro⟩, ⟨15, 8, .ro⟩, ⟨7, 4, .ro⟩, ⟨3, 0, .ro⟩]⟩,
  ⟨"GLB_VARIANT", 0x4, 1, 0x0, 1, 0x0, [⟨31, 28, .reserved⟩, ⟨27, 24, .ro⟩, ⟨23, 16, .ro⟩, ⟨15, 12, .ro⟩, ⟨11, 10, .reserved⟩, ⟨9, 8, .ro⟩, ⟨7, 6, .reserved⟩, ⟨5, 4, .ro⟩, ⟨3, 1, .reserved⟩, ⟨0, 0, .ro⟩]⟩,
  ⟨"GLB_SERIAL_LO", 0x8, 1, 0x0, 1, 0x0, [⟨31, 0, .ro⟩]⟩,
  ⟨"GLB_SERIAL_HI", 0xC, 1, 0x0, 1, 0x0, [⟨31, 0, .ro⟩]⟩,
  ⟨"GLB_OPERATING_SECONDS", 0x10, 1, 0x0, 1, 0x0, [⟨31, 0, .ro⟩]⟩,
  ⟨"GLB_POWER_CYCLES", 0x14, 1, 0x0, 1, 0x0, [⟨31, 24, .ro⟩, ⟨23, 0, .ro⟩]⟩,
  ⟨"GLB_BOOT_STATUS", 0x40, 1, 0x0, 1, 0x0, [⟨31, 28, .ro⟩, ⟨27, 24, .ro⟩, ⟨23, 16, .ro⟩, ⟨15, 14, .ro⟩, ⟨13, 5, .reserved⟩, ⟨4, 4, .ro⟩, ⟨3, 3, .ro⟩, ⟨2, 0, .ro⟩]⟩,
  ⟨"GLB_BOOT_TIME", 0x44, 1, 0x0, 1, 0x0, [⟨31, 16, .ro⟩, ⟨15, 0, .ro⟩]⟩,
  ⟨"GLB_STATUS", 0x48, 1, 0x0, 1, 0x1800000, [⟨31, 31, .ro⟩, ⟨30, 30, .ro⟩, ⟨29, 29, .ro⟩, ⟨28, 26, .ro⟩, ⟨25, 25, .ro⟩, ⟨24, 24, .ro⟩, ⟨23, 23, .ro⟩, ⟨22, 22, .ro⟩, ⟨21, 21, .ro⟩, ⟨20, 20, .ro⟩, ⟨19, 19, .ro⟩, ⟨18, 16, .ro⟩, ⟨15, 0, .reserved⟩]⟩,
  ⟨"GLB_REFUSED_LAST", 0x60, 1, 0x0, 1, 0x0, [⟨31, 29, .ro⟩, ⟨28, 26, .ro⟩, ⟨25, 24, .reserved⟩, ⟨23, 0, .ro⟩]⟩,
  ⟨"GLB_REFUSED_COUNT", 0x64, 1, 0x0, 1, 0x0, [⟨31, 24, .rc⟩, ⟨23, 16, .rc⟩, ⟨15, 8, .rc⟩, ⟨7, 0, .rc⟩]⟩,
  ⟨"GLB_LEASE", 0x80, 1, 0x0, 1, 0x0, [⟨31, 31, .w1s⟩, ⟨30, 28, .rw⟩, ⟨27, 25, .ro⟩, ⟨24, 22, .reserved⟩, ⟨21, 19, .ro⟩, ⟨18, 16, .reserved⟩, ⟨15, 0, .lw⟩]⟩,
  ⟨"GLB_EVENT_PENDING", 0xC0, 1, 0x0, 1, 0x0, [⟨31, 0, .w1c⟩]⟩,
  ⟨"GLB_EVENT_ENABLE", 0xC4, 1, 0x0, 1, 0x0, [⟨31, 0, .rw⟩]⟩,
  ⟨"GLB_GATE_CTRL", 0x100, 1, 0x0, 1, 0x0, [⟨31, 31, .w1s⟩, ⟨30, 20, .reserved⟩, ⟨19, 16, .lw⟩, ⟨15, 7, .reserved⟩, ⟨6, 0, .lw⟩]⟩,
  ⟨"GLB_GATE_STATUS", 0x104, 1, 0x0, 1, 0x0, [⟨31, 31, .ro⟩, ⟨30, 30, .w1c⟩, ⟨29, 29, .w1c⟩, ⟨28, 27, .reserved⟩, ⟨26, 24, .ro⟩, ⟨23, 16, .ro⟩, ⟨15, 9, .reserved⟩, ⟨8, 7, .ro⟩, ⟨6, 0, .ro⟩]⟩,
  ⟨"GLB_GATE_TIMING", 0x108, 1, 0x0, 1, 0x640040, [⟨31, 16, .lw⟩, ⟨15, 0, .lw⟩]⟩,
  ⟨"GLB_GATE_STATE", 0x110, 1, 0x0, 4, 0x0, [⟨31, 0, .ro⟩]⟩]

/-- Rows of the FNC block. -/
def regFnc0 : List RegRow := [
  ⟨"FNC_STATUS", 0x10000, 1, 0x0, 1, 0x44000000, [⟨31, 31, .ro⟩, ⟨30, 30, .ro⟩, ⟨29, 29, .ro⟩, ⟨28, 28, .ro⟩, ⟨27, 27, .ro⟩, ⟨26, 26, .ro⟩, ⟨25, 25, .ro⟩, ⟨24, 24, .ro⟩, ⟨23, 0, .reserved⟩]⟩,
  ⟨"FNC_CTRL", 0x10004, 1, 0x0, 1, 0x0, [⟨31, 31, .fl⟩, ⟨30, 30, .fl⟩, ⟨29, 29, .fl⟩, ⟨28, 28, .fl⟩, ⟨27, 0, .reserved⟩]⟩,
  ⟨"FNC_TRIP_STATUS", 0x10008, 1, 0x0, 1, 0x0, [⟨31, 4, .reserved⟩, ⟨3, 3, .fl⟩, ⟨2, 2, .fl⟩, ⟨1, 1, .fl⟩, ⟨0, 0, .fl⟩]⟩,
  ⟨"FNC_INTERLOCK_CFG", 0x1000C, 1, 0x0, 1, 0xC000000A, [⟨31, 31, .fl⟩, ⟨30, 30, .fl⟩, ⟨29, 16, .fl⟩, ⟨15, 0, .fl⟩]⟩,
  ⟨"FNC_DIE_THERMAL", 0x10010, 1, 0x0, 1, 0x0, [⟨31, 27, .reserved⟩, ⟨26, 18, .fl⟩, ⟨17, 9, .fl⟩, ⟨8, 0, .fl⟩]⟩,
  ⟨"FNC_STACK_THERMAL", 0x10014, 1, 0x0, 1, 0x0, [⟨31, 27, .reserved⟩, ⟨26, 18, .fl⟩, ⟨17, 9, .fl⟩, ⟨8, 0, .fl⟩]⟩,
  ⟨"FNC_HEAD_THERMAL", 0x10018, 1, 0x0, 1, 0x7D00003, [⟨31, 16, .fl⟩, ⟨15, 8, .reserved⟩, ⟨7, 0, .fl⟩]⟩,
  ⟨"FNC_LIMIT_FORCE", 0x1001C, 1, 0x0, 1, 0xF, [⟨31, 4, .reserved⟩, ⟨3, 0, .fl⟩]⟩,
  ⟨"FNC_TX_ENABLE", 0x10020, 1, 0x0, 1, 0x0, [⟨31, 24, .reserved⟩, ⟨23, 0, .fl⟩]⟩,
  ⟨"FNC_LEDGER_KEY", 0x10030, 1, 0x0, 1, 0x0, [⟨31, 31, .fl⟩, ⟨30, 16, .reserved⟩, ⟨15, 0, .fl⟩]⟩,
  ⟨"FNC_DOSE_CEILING", 0x10040, 1, 0x0, 1, 0x0, [⟨31, 26, .reserved⟩, ⟨25, 16, .fl⟩, ⟨15, 4, .reserved⟩, ⟨3, 0, .fl⟩]⟩,
  ⟨"FNC_SPI_STATS", 0x10050, 1, 0x0, 1, 0x0, [⟨31, 16, .ro⟩, ⟨15, 8, .ro⟩, ⟨7, 0, .ro⟩]⟩]

/-- Rows of the LDG block. -/
def regLdg0 : List RegRow := [
  ⟨"LDG_STATUS", 0x20000, 1, 0x0, 1, 0x0, [⟨31, 29, .ro⟩, ⟨28, 28, .ro⟩, ⟨27, 23, .reserved⟩, ⟨22, 20, .ro⟩, ⟨19, 16, .reserved⟩, ⟨15, 0, .ro⟩]⟩,
  ⟨"LDG_CTRL", 0x20004, 1, 0x0, 1, 0x0, [⟨31, 31, .w1s⟩, ⟨30, 30, .w1s⟩, ⟨29, 29, .w1s⟩, ⟨28, 28, .w1s⟩, ⟨27, 0, .reserved⟩]⟩,
  ⟨"LDG_CFG", 0x20008, 1, 0x0, 1, 0xA03003C, [⟨31, 24, .lw⟩, ⟨23, 20, .reserved⟩, ⟨19, 16, .lw⟩, ⟨15, 0, .lw⟩]⟩,
  ⟨"LDG_USED", 0x2000C, 1, 0x0, 1, 0x0, [⟨31, 23, .reserved⟩, ⟨22, 0, .ro⟩]⟩,
  ⟨"LDG_RECORDS", 0x20010, 1, 0x0, 1, 0x0, [⟨31, 0, .ro⟩]⟩,
  ⟨"LDG_LOST", 0x20014, 1, 0x0, 1, 0x0, [⟨31, 16, .ro⟩, ⟨15, 8, .ro⟩, ⟨7, 0, .ro⟩]⟩,
  ⟨"LDG_CLEAR", 0x2001C, 1, 0x0, 1, 0x0, [⟨31, 29, .ro⟩, ⟨28, 27, .reserved⟩, ⟨26, 24, .ro⟩, ⟨23, 20, .ro⟩, ⟨19, 16, .reserved⟩, ⟨15, 0, .ro⟩]⟩,
  ⟨"LDG_READ_ADDR", 0x20020, 1, 0x0, 1, 0x0, [⟨31, 22, .reserved⟩, ⟨21, 2, .rw⟩, ⟨1, 0, .reserved⟩]⟩,
  ⟨"LDG_READ_DATA", 0x20024, 1, 0x0, 1, 0x0, [⟨31, 0, .ro⟩]⟩,
  ⟨"LDG_TELEM_BASE_LO", 0x20030, 1, 0x0, 1, 0x0, [⟨31, 0, .lw⟩]⟩,
  ⟨"LDG_TELEM_BASE_HI", 0x20034, 1, 0x0, 1, 0x0, [⟨31, 4, .reserved⟩, ⟨3, 0, .lw⟩]⟩,
  ⟨"LDG_TELEM_CFG", 0x20038, 1, 0x0, 1, 0x1F4, [⟨31, 31, .w1c⟩, ⟨30, 28, .reserved⟩, ⟨27, 16, .lw⟩, ⟨15, 0, .lw⟩]⟩,
  ⟨"LDG_USAGE_CTRL", 0x20040, 1, 0x0, 1, 0x0, [⟨31, 31, .w1s⟩, ⟨30, 0, .reserved⟩]⟩,
  ⟨"LDG_TELEM_LAST", 0x20400, 1, 0x0, 64, 0x0, [⟨31, 0, .ro⟩]⟩]

/-- Rows of the HK block. -/
def regHk0 : List RegRow := [
  ⟨"HK_ROUND", 0x30000, 1, 0x0, 1, 0x0, [⟨31, 16, .ro⟩, ⟨15, 0, .ro⟩]⟩,
  ⟨"HK_DIE_RANGE", 0x30004, 1, 0x0, 1, 0x0, [⟨31, 16, .ro⟩, ⟨15, 0, .ro⟩]⟩,
  ⟨"HK_FLAGS", 0x30008, 1, 0x0, 1, 0x0, [⟨31, 31, .ro⟩, ⟨30, 4, .reserved⟩, ⟨3, 3, .w1c⟩, ⟨2, 2, .w1c⟩, ⟨1, 1, .w1c⟩, ⟨0, 0, .w1c⟩]⟩,
  ⟨"HK_CHANNEL", 0x30100, 1, 0x0, 64, 0x0, [⟨31, 31, .ro⟩, ⟨30, 24, .reserved⟩, ⟨23, 16, .ro⟩, ⟨15, 0, .ro⟩]⟩]

/-- Rows of the CAL block. -/
def regCal0 : List RegRow := [
  ⟨"CAL_CTRL", 0x40000, 1, 0x0, 1, 0x80000000, [⟨31, 31, .lw⟩, ⟨30, 30, .w1s⟩, ⟨29, 28, .reserved⟩, ⟨27, 24, .lw⟩, ⟨23, 8, .reserved⟩, ⟨7, 0, .lw⟩]⟩,
  ⟨"CAL_CFG", 0x40004, 1, 0x0, 1, 0x18200E10, [⟨31, 24, .lw⟩, ⟨23, 16, .lw⟩, ⟨15, 0, .lw⟩]⟩,
  ⟨"CAL_RETRY", 0x40008, 1, 0x0, 1, 0x64, [⟨31, 16, .reserved⟩, ⟨15, 0, .lw⟩]⟩,
  ⟨"CAL_STATUS", 0x4000C, 1, 0x0, 1, 0x0, [⟨31, 29, .ro⟩, ⟨28, 28, .ro⟩, ⟨27, 24, .ro⟩, ⟨23, 16, .ro⟩, ⟨15, 9, .reserved⟩, ⟨8, 0, .ro⟩]⟩,
  ⟨"CAL_RESULT_SEL", 0x40010, 1, 0x0, 1, 0x0, [⟨31, 28, .reserved⟩, ⟨27, 24, .rw⟩, ⟨23, 8, .reserved⟩, ⟨7, 0, .rw⟩]⟩,
  ⟨"CAL_RESULT_0", 0x40014, 1, 0x0, 1, 0x0, [⟨31, 31, .ro⟩, ⟨30, 30, .ro⟩, ⟨29, 24, .ro⟩, ⟨23, 16, .reserved⟩, ⟨15, 8, .ro⟩, ⟨7, 0, .ro⟩]⟩,
  ⟨"CAL_RESULT_1", 0x40018, 1, 0x0, 1, 0x0, [⟨31, 16, .ro⟩, ⟨15, 0, .ro⟩]⟩,
  ⟨"CAL_PREEMPT", 0x4001C, 1, 0x0, 1, 0x0, [⟨31, 16, .rc⟩, ⟨15, 0, .rc⟩]⟩,
  ⟨"CAL_TEST_CTRL", 0x40100, 1, 0x0, 1, 0x0, [⟨31, 31, .w1s⟩, ⟨30, 28, .ro⟩, ⟨27, 26, .reserved⟩, ⟨25, 24, .lw⟩, ⟨23, 0, .reserved⟩]⟩,
  ⟨"CAL_TEST_JOB", 0x40104, 1, 0x0, 1, 0x0, [⟨31, 0, .lw⟩]⟩,
  ⟨"CAL_TEST_FURROW", 0x40108, 1, 0x0, 1, 0x1000000, [⟨31, 26, .reserved⟩, ⟨25, 24, .lw⟩, ⟨23, 18, .reserved⟩, ⟨17, 16, .lw⟩, ⟨15, 0, .lw⟩]⟩,
  ⟨"CAL_TEST_PARAM", 0x4010C, 1, 0x0, 1, 0x3800000, [⟨31, 16, .lw⟩, ⟨15, 6, .reserved⟩, ⟨5, 0, .lw⟩]⟩,
  ⟨"CAL_TEST_ADDR_LO", 0x40110, 1, 0x0, 1, 0x0, [⟨31, 0, .lw⟩]⟩,
  ⟨"CAL_TEST_ADDR_HI", 0x40114, 1, 0x0, 1, 0x0, [⟨31, 4, .reserved⟩, ⟨3, 0, .lw⟩]⟩,
  ⟨"CAL_TEST_BYTES", 0x40118, 1, 0x0, 1, 0x0, [⟨31, 0, .ro⟩]⟩]

/-- Rows of the NVL block. -/
def regNvl0 : List RegRow := [
  ⟨"NVL_STATUS", 0x50000, 1, 0x0, 1, 0x0, [⟨31, 29, .ro⟩, ⟨28, 27, .ro⟩, ⟨26, 25, .ro⟩, ⟨24, 24, .ro⟩, ⟨23, 18, .reserved⟩, ⟨17, 17, .ro⟩, ⟨16, 16, .ro⟩, ⟨15, 0, .reserved⟩]⟩,
  ⟨"NVL_SLOT_A", 0x50004, 1, 0x0, 1, 0x0, [⟨31, 29, .ro⟩, ⟨28, 27, .reserved⟩, ⟨26, 24, .ro⟩, ⟨23, 16, .ro⟩, ⟨15, 0, .ro⟩]⟩,
  ⟨"NVL_SLOT_B", 0x50008, 1, 0x0, 1, 0x0, [⟨31, 29, .ro⟩, ⟨28, 27, .reserved⟩, ⟨26, 24, .ro⟩, ⟨23, 16, .ro⟩, ⟨15, 0, .ro⟩]⟩,
  ⟨"NVL_FAIL", 0x5000C, 1, 0x0, 1, 0x0, [⟨31, 24, .ro⟩, ⟨23, 22, .ro⟩, ⟨21, 16, .ro⟩, ⟨15, 0, .ro⟩]⟩,
  ⟨"NVL_CTRL", 0x50010, 1, 0x0, 1, 0x0, [⟨31, 31, .w1s⟩, ⟨30, 27, .ro⟩, ⟨26, 24, .lw⟩, ⟨23, 2, .reserved⟩, ⟨1, 0, .lw⟩]⟩,
  ⟨"NVL_SRC_LO", 0x50014, 1, 0x0, 1, 0x0, [⟨31, 0, .lw⟩]⟩,
  ⟨"NVL_SRC_HI", 0x50018, 1, 0x0, 1, 0x0, [⟨31, 4, .reserved⟩, ⟨3, 0, .lw⟩]⟩,
  ⟨"NVL_SRC_BYTES", 0x5001C, 1, 0x0, 1, 0x0, [⟨31, 25, .reserved⟩, ⟨24, 0, .lw⟩]⟩,
  ⟨"NVL_PROGRESS", 0x50020, 1, 0x0, 1, 0x0, [⟨31, 29, .ro⟩, ⟨28, 15, .reserved⟩, ⟨14, 0, .ro⟩]⟩,
  ⟨"NVL_FLASH_INFO", 0x50024, 1, 0x0, 1, 0x0, [⟨31, 24, .ro⟩, ⟨23, 22, .ro⟩, ⟨21, 8, .reserved⟩, ⟨7, 0, .ro⟩]⟩,
  ⟨"NVL_WEAR_A", 0x50030, 1, 0x0, 1, 0x0, [⟨31, 31, .ro⟩, ⟨30, 30, .ro⟩, ⟨29, 17, .reserved⟩, ⟨16, 0, .ro⟩]⟩,
  ⟨"NVL_WEAR_B", 0x50034, 1, 0x0, 1, 0x0, [⟨31, 31, .ro⟩, ⟨30, 30, .ro⟩, ⟨29, 17, .reserved⟩, ⟨16, 0, .ro⟩]⟩,
  ⟨"NVL_WEAR_LEDGER", 0x50038, 1, 0x0, 1, 0x0, [⟨31, 31, .ro⟩, ⟨30, 30, .ro⟩, ⟨29, 17, .reserved⟩, ⟨16, 0, .ro⟩]⟩,
  ⟨"NVL_WEAR_STORE", 0x5003C, 1, 0x0, 1, 0x0, [⟨31, 31, .ro⟩, ⟨30, 30, .ro⟩, ⟨29, 17, .reserved⟩, ⟨16, 0, .ro⟩]⟩,
  ⟨"NVL_KEY_STATUS", 0x50040, 1, 0x0, 1, 0x0, [⟨31, 30, .ro⟩, ⟨29, 28, .ro⟩, ⟨27, 0, .reserved⟩]⟩,
  ⟨"NVL_KEY_FINGERPRINT", 0x50044, 1, 0x0, 1, 0x0, [⟨31, 16, .ro⟩, ⟨15, 0, .ro⟩]⟩]

/-- Rows of the CHK block. -/
def regChk0 : List RegRow := [
  ⟨"CHK_Unn_CTRL", 0x60000, 4, 0x100, 1, 0x0, [⟨31, 31, .w1s⟩, ⟨30, 30, .w1s⟩, ⟨29, 29, .w1s⟩, ⟨28, 22, .reserved⟩, ⟨21, 16, .ro⟩, ⟨15, 9, .reserved⟩, ⟨8, 8, .rw⟩, ⟨7, 2, .reserved⟩, ⟨1, 0, .rw⟩]⟩,
  ⟨"CHK_Unn_ALIVE", 0x60004, 4, 0x100, 1, 0x0, [⟨31, 8, .reserved⟩, ⟨7, 0, .rw⟩]⟩,
  ⟨"CHK_Unn_FEED8", 0x60010, 4, 0x100, 1, 0x0, [⟨31, 0, .wo⟩]⟩,
  ⟨"CHK_Unn_FEED16", 0x60014, 4, 0x100, 1, 0x0, [⟨31, 0, .wo⟩]⟩,
  ⟨"CHK_Unn_FEED32", 0x60018, 4, 0x100, 1, 0x0, [⟨31, 0, .wo⟩]⟩,
  ⟨"CHK_Unn_RESULT", 0x60020, 4, 0x100, 1, 0x0, [⟨31, 0, .ro⟩]⟩,
  ⟨"CHK_Unn_COUNT", 0x60024, 4, 0x100, 1, 0x0, [⟨31, 0, .ro⟩]⟩]

/-- Rows of the JOB block. -/
def regJob0 : List RegRow := [
  ⟨"JOB_CTRL", 0x70000, 1, 0x0, 1, 0x0, [⟨31, 31, .w1s⟩, ⟨30, 28, .reserved⟩, ⟨27, 24, .lw⟩, ⟨23, 0, .reserved⟩]⟩,
  ⟨"JOB_STATUS", 0x70004, 1, 0x0, 1, 0x0, [⟨31, 29, .ro⟩, ⟨28, 28, .ro⟩, ⟨27, 26, .ro⟩, ⟨25, 24, .reserved⟩, ⟨23, 16, .ro⟩, ⟨15, 0, .ro⟩]⟩,
  ⟨"JOB_HEAD_JOB", 0x70008, 1, 0x0, 1, 0x0, [⟨31, 0, .ro⟩]⟩,
  ⟨"JOB_QUEUE", 0x7000C, 1, 0x0, 1, 0x0, [⟨31, 14, .reserved⟩, ⟨13, 8, .ro⟩, ⟨7, 3, .reserved⟩, ⟨2, 0, .ro⟩]⟩,
  ⟨"JOB_TABLE_SET_NEXT", 0x70010, 1, 0x0, 1, 0x0, [⟨31, 0, .lw⟩]⟩,
  ⟨"JOB_TABLE_SET_ACTIVE", 0x70014, 1, 0x0, 1, 0x0, [⟨31, 0, .ro⟩]⟩,
  ⟨"JOB_ADMIT_STATUS_A", 0x70200, 1, 0x0, 1, 0x0, [⟨31, 30, .ro⟩, ⟨29, 26, .reserved⟩, ⟨25, 24, .ro⟩, ⟨23, 16, .ro⟩, ⟨15, 0, .ro⟩]⟩,
  ⟨"JOB_ADMIT_JOB_A", 0x70204, 1, 0x0, 1, 0x0, [⟨31, 0, .ro⟩]⟩,
  ⟨"JOB_ADMIT_SEGMENT_A", 0x70208, 1, 0x0, 1, 0x0, [⟨31, 31, .ro⟩, ⟨30, 19, .reserved⟩, ⟨18, 0, .ro⟩]⟩,
  ⟨"JOB_ADMIT_OFFSET_LO_A", 0x7020C, 1, 0x0, 1, 0x0, [⟨31, 0, .ro⟩]⟩,
  ⟨"JOB_ADMIT_OFFSET_HI_A", 0x70210, 1, 0x0, 1, 0x0, [⟨31, 4, .reserved⟩, ⟨3, 0, .ro⟩]⟩,
  ⟨"JOB_ADMIT_STATUS_B", 0x70220, 1, 0x0, 1, 0x0, [⟨31, 30, .ro⟩, ⟨29, 26, .reserved⟩, ⟨25, 24, .ro⟩, ⟨23, 16, .ro⟩, ⟨15, 0, .ro⟩]⟩,
  ⟨"JOB_ADMIT_JOB_B", 0x70224, 1, 0x0, 1, 0x0, [⟨31, 0, .ro⟩]⟩,
  ⟨"JOB_ADMIT_SEGMENT_B", 0x70228, 1, 0x0, 1, 0x0, [⟨31, 31, .ro⟩, ⟨30, 19, .reserved⟩, ⟨18, 0, .ro⟩]⟩,
  ⟨"JOB_ADMIT_OFFSET_LO_B", 0x7022C, 1, 0x0, 1, 0x0, [⟨31, 0, .ro⟩]⟩,
  ⟨"JOB_ADMIT_OFFSET_HI_B", 0x70230, 1, 0x0, 1, 0x0, [⟨31, 4, .reserved⟩, ⟨3, 0, .ro⟩]⟩,
  ⟨"JOB_CKPT_BASE_LO", 0x70300, 1, 0x0, 1, 0x0, [⟨31, 12, .lw⟩, ⟨11, 0, .reserved⟩]⟩,
  ⟨"JOB_CKPT_BASE_HI", 0x70304, 1, 0x0, 1, 0x0, [⟨31, 4, .reserved⟩, ⟨3, 0, .lw⟩]⟩,
  ⟨"JOB_CKPT_STATUS", 0x70308, 1, 0x0, 1, 0x0, [⟨31, 26, .ro⟩, ⟨25, 0, .ro⟩]⟩,
  ⟨"JOB_REPAIR_BASE_LO", 0x70310, 1, 0x0, 1, 0x8000000, [⟨31, 12, .lw⟩, ⟨11, 0, .reserved⟩]⟩,
  ⟨"JOB_REPAIR_BASE_HI", 0x70314, 1, 0x0, 1, 0x0, [⟨31, 4, .reserved⟩, ⟨3, 0, .lw⟩]⟩,
  ⟨"JOB_REPAIR_CFG", 0x70318, 1, 0x0, 1, 0x10020040, [⟨31, 31, .w1c⟩, ⟨30, 24, .lw⟩, ⟨23, 20, .reserved⟩, ⟨19, 16, .lw⟩, ⟨15, 0, .lw⟩]⟩,
  ⟨"JOB_REPAIR_CTRL", 0x7031C, 1, 0x0, 1, 0x0, [⟨31, 31, .w1s⟩, ⟨30, 0, .reserved⟩]⟩,
  ⟨"JOB_REPAIR_STATUS", 0x70320, 1, 0x0, 1, 0x0, [⟨31, 29, .ro⟩, ⟨28, 27, .ro⟩, ⟨26, 26, .reserved⟩, ⟨25, 0, .ro⟩]⟩]

/-- Rows of the JOB block. -/
def regJob1 : List RegRow := [
  ⟨"JOB_LAST_REPAIR", 0x70324, 1, 0x0, 1, 0x0, [⟨31, 16, .ro⟩, ⟨15, 8, .ro⟩, ⟨7, 0, .ro⟩]⟩,
  ⟨"JOB_LAST_HOLD", 0x70328, 1, 0x0, 1, 0x0, [⟨31, 26, .ro⟩, ⟨25, 0, .ro⟩]⟩,
  ⟨"JOB_HOLD_PENDING", 0x7032C, 1, 0x0, 1, 0x0, [⟨31, 0, .ro⟩]⟩,
  ⟨"JOB_BANK_CTRL", 0x70330, 1, 0x0, 1, 0x0, [⟨31, 31, .w1s⟩, ⟨30, 28, .ro⟩, ⟨27, 27, .w1c⟩, ⟨26, 2, .reserved⟩, ⟨1, 1, .ro⟩, ⟨0, 0, .ro⟩]⟩,
  ⟨"JOB_RESUME_JOB", 0x70340, 1, 0x0, 1, 0x0, [⟨31, 0, .ro⟩]⟩,
  ⟨"JOB_RESUME_FURROW", 0x70344, 1, 0x0, 1, 0x0, [⟨31, 31, .ro⟩, ⟨30, 30, .ro⟩, ⟨29, 18, .reserved⟩, ⟨17, 16, .ro⟩, ⟨15, 0, .ro⟩]⟩,
  ⟨"JOB_RESUME_SHOT", 0x70348, 1, 0x0, 1, 0x0, [⟨31, 26, .reserved⟩, ⟨25, 0, .ro⟩]⟩]

/-- Rows of the DMA block. -/
def regDma0 : List RegRow := [
  ⟨"DMA_CH_nn_CTRL", 0x80000, 16, 0x100, 1, 0x0, [⟨31, 31, .w1s⟩, ⟨30, 30, .w1s⟩, ⟨29, 29, .w1s⟩, ⟨28, 28, .w1s⟩, ⟨27, 27, .rw⟩, ⟨26, 24, .rw⟩, ⟨23, 0, .reserved⟩]⟩,
  ⟨"DMA_CH_nn_STATUS", 0x80004, 16, 0x100, 1, 0x0, [⟨31, 29, .ro⟩, ⟨28, 25, .ro⟩, ⟨24, 22, .reserved⟩, ⟨21, 16, .ro⟩, ⟨15, 0, .ro⟩]⟩,
  ⟨"DMA_CH_nn_DESC_LO", 0x80008, 16, 0x100, 1, 0x0, [⟨31, 0, .rw⟩]⟩,
  ⟨"DMA_CH_nn_DESC_HI", 0x8000C, 16, 0x100, 1, 0x0, [⟨31, 0, .rw⟩]⟩,
  ⟨"DMA_CH_nn_TIMER", 0x80010, 16, 0x100, 1, 0x0, [⟨31, 16, .reserved⟩, ⟨15, 0, .rw⟩]⟩,
  ⟨"DMA_CH_nn_BYTES_READ", 0x80014, 16, 0x100, 1, 0x0, [⟨31, 0, .ro⟩]⟩,
  ⟨"DMA_CH_nn_BYTES_WRITTEN", 0x80018, 16, 0x100, 1, 0x0, [⟨31, 0, .ro⟩]⟩,
  ⟨"DMA_CH_nn_CUR_LO", 0x8001C, 16, 0x100, 1, 0x0, [⟨31, 0, .ro⟩]⟩,
  ⟨"DMA_CH_nn_CUR_HI", 0x80020, 16, 0x100, 1, 0x0, [⟨31, 0, .ro⟩]⟩]

/-- Rows of the HST block. -/
def regHst0 : List RegRow := [
  ⟨"HST_A_LINK", 0x90000, 1, 0x0, 1, 0x0, [⟨31, 31, .ro⟩, ⟨30, 8, .reserved⟩, ⟨7, 4, .ro⟩, ⟨3, 0, .ro⟩]⟩,
  ⟨"HST_A_INT_ENABLE", 0x90004, 1, 0x0, 1, 0x0, [⟨31, 0, .rw⟩]⟩,
  ⟨"HST_A_INT_PENDING", 0x90008, 1, 0x0, 1, 0x0, [⟨31, 0, .w1c⟩]⟩,
  ⟨"HST_A_LOCKED_WRITES", 0x9000C, 1, 0x0, 1, 0x0, [⟨31, 0, .rc⟩]⟩,
  ⟨"HST_B_LINK", 0x90100, 1, 0x0, 1, 0x0, [⟨31, 31, .ro⟩, ⟨30, 8, .reserved⟩, ⟨7, 4, .ro⟩, ⟨3, 0, .ro⟩]⟩,
  ⟨"HST_B_INT_ENABLE", 0x90104, 1, 0x0, 1, 0x0, [⟨31, 0, .rw⟩]⟩,
  ⟨"HST_B_INT_PENDING", 0x90108, 1, 0x0, 1, 0x0, [⟨31, 0, .w1c⟩]⟩,
  ⟨"HST_B_LOCKED_WRITES", 0x9010C, 1, 0x0, 1, 0x0, [⟨31, 0, .rc⟩]⟩]

/-- Rows of the MEM block. -/
def regMem0 : List RegRow := [
  ⟨"MEM_Snn_STATUS", 0x100000, 4, 0x10000, 1, 0x4000000, [⟨31, 29, .ro⟩, ⟨28, 27, .ro⟩, ⟨26, 25, .ro⟩, ⟨24, 8, .reserved⟩, ⟨7, 0, .ro⟩]⟩,
  ⟨"MEM_Snn_SR_CTRL", 0x100004, 4, 0x10000, 1, 0x0, [⟨31, 31, .w1s⟩, ⟨30, 30, .w1s⟩, ⟨29, 16, .reserved⟩, ⟨15, 0, .lw⟩]⟩,
  ⟨"MEM_Snn_RETRAIN_STATS", 0x100008, 4, 0x10000, 1, 0x0, [⟨31, 16, .rc⟩, ⟨15, 0, .rc⟩]⟩,
  ⟨"MEM_Snn_PC_ECC", 0x100100, 4, 0x10000, 32, 0x0, [⟨31, 16, .rc⟩, ⟨15, 0, .rc⟩]⟩,
  ⟨"MEM_MAP_CFG", 0x140000, 1, 0x0, 1, 0xC0000, [⟨31, 31, .w1c⟩, ⟨30, 20, .reserved⟩, ⟨19, 16, .lw⟩, ⟨15, 4, .reserved⟩, ⟨3, 0, .lw⟩]⟩,
  ⟨"MEM_CAPACITY", 0x140004, 1, 0x0, 1, 0x0, [⟨31, 17, .reserved⟩, ⟨16, 0, .ro⟩]⟩,
  ⟨"MEM_ERRORS", 0x140008, 1, 0x0, 1, 0x0, [⟨31, 16, .rc⟩, ⟨15, 0, .rc⟩]⟩,
  ⟨"MEM_SRAM_ECC", 0x14000C, 1, 0x0, 1, 0x0, [⟨31, 16, .rc⟩, ⟨15, 0, .rc⟩]⟩,
  ⟨"MEM_PC_MAP", 0x140100, 1, 0x0, 32, 0x0, [⟨31, 31, .ro⟩, ⟨30, 24, .ro⟩, ⟨23, 23, .ro⟩, ⟨22, 16, .ro⟩, ⟨15, 15, .ro⟩, ⟨14, 8, .ro⟩, ⟨7, 7, .ro⟩, ⟨6, 0, .ro⟩]⟩,
  ⟨"MEM_RETIRE_CTRL", 0x140200, 1, 0x0, 1, 0x0, [⟨31, 31, .w1s⟩, ⟨30, 28, .ro⟩, ⟨27, 17, .reserved⟩, ⟨16, 7, .ro⟩, ⟨6, 0, .lw⟩]⟩,
  ⟨"MEM_RETIRE_CFG", 0x140204, 1, 0x0, 1, 0x80000410, [⟨31, 31, .lw⟩, ⟨30, 16, .reserved⟩, ⟨15, 8, .lw⟩, ⟨7, 0, .lw⟩]⟩,
  ⟨"MEM_RETRAIN_CFG", 0x140210, 1, 0x0, 1, 0xFA, [⟨31, 16, .reserved⟩, ⟨15, 0, .lw⟩]⟩,
  ⟨"MEM_FREQ_CTRL", 0x140220, 1, 0x0, 1, 0x0, [⟨31, 31, .w1s⟩, ⟨30, 28, .ro⟩, ⟨27, 2, .reserved⟩, ⟨1, 0, .lw⟩]⟩,
  ⟨"MEM_RANGE_FIRST", 0x140230, 1, 0x0, 1, 0x0, [⟨31, 25, .reserved⟩, ⟨24, 0, .lw⟩]⟩,
  ⟨"MEM_RANGE_END", 0x140234, 1, 0x0, 1, 0x0, [⟨31, 25, .reserved⟩, ⟨24, 0, .lw⟩]⟩,
  ⟨"MEM_RANGE_CTRL", 0x140238, 1, 0x0, 1, 0x1, [⟨31, 31, .w1s⟩, ⟨30, 28, .ro⟩, ⟨27, 26, .reserved⟩, ⟨25, 24, .lw⟩, ⟨23, 8, .reserved⟩, ⟨7, 0, .lw⟩]⟩,
  ⟨"MEM_SCRUB_BLOCKS", 0x140240, 1, 0x0, 1, 0x0, [⟨31, 0, .ro⟩]⟩,
  ⟨"MEM_SCRUB_CORRECTED", 0x140244, 1, 0x0, 1, 0x0, [⟨31, 0, .ro⟩]⟩,
  ⟨"MEM_SCRUB_UNCORRECTABLE", 0x140248, 1, 0x0, 1, 0x0, [⟨31, 0, .ro⟩]⟩,
  ⟨"MEM_SCRUB_FIRST_UE_LO", 0x14024C, 1, 0x0, 1, 0x0, [⟨31, 0, .ro⟩]⟩,
  ⟨"MEM_SCRUB_FIRST_UE_HI", 0x140250, 1, 0x0, 1, 0x0, [⟨31, 31, .ro⟩, ⟨29, 24, .ro⟩, ⟨3, 0, .ro⟩]⟩,
  ⟨"MEM_SCRUB_TIME", 0x140254, 1, 0x0, 1, 0x0, [⟨31, 0, .ro⟩]⟩,
  ⟨"MEM_PATROL_CFG", 0x140260, 1, 0x0, 1, 0x8000003C, [⟨31, 31, .lw⟩, ⟨30, 16, .reserved⟩, ⟨15, 0, .lw⟩]⟩,
  ⟨"MEM_PATROL_STATUS", 0x140264, 1, 0x0, 1, 0x0, [⟨31, 16, .ro⟩, ⟨15, 7, .reserved⟩, ⟨6, 0, .ro⟩]⟩]

/-- Rows of the MEM block. -/
def regMem1 : List RegRow := [
  ⟨"MEM_UE_LAST_LO", 0x140270, 1, 0x0, 1, 0x0, [⟨31, 0, .ro⟩]⟩,
  ⟨"MEM_UE_LAST_HI", 0x140274, 1, 0x0, 1, 0x0, [⟨31, 31, .ro⟩, ⟨29, 24, .ro⟩, ⟨3, 0, .ro⟩]⟩,
  ⟨"MEM_FLIP_ADDR_LO", 0x140300, 1, 0x0, 1, 0x0, [⟨31, 3, .lw⟩, ⟨2, 0, .reserved⟩]⟩,
  ⟨"MEM_FLIP_ADDR_HI", 0x140304, 1, 0x0, 1, 0x0, [⟨31, 31, .lw⟩, ⟨30, 4, .reserved⟩, ⟨3, 0, .lw⟩]⟩,
  ⟨"MEM_FLIP_DATA_LO", 0x140308, 1, 0x0, 1, 0x0, [⟨31, 0, .lw⟩]⟩,
  ⟨"MEM_FLIP_DATA_HI", 0x14030C, 1, 0x0, 1, 0x0, [⟨31, 0, .lw⟩]⟩,
  ⟨"MEM_FLIP_CTRL", 0x140310, 1, 0x0, 1, 0x0, [⟨31, 31, .w1s⟩, ⟨30, 30, .ro⟩, ⟨29, 29, .w1c⟩, ⟨28, 8, .reserved⟩, ⟨7, 0, .lw⟩]⟩]

/-- Rows of the TLT block. -/
def regTlt0 : List RegRow := [
  ⟨"TLT_SLOT_OVERRUNS", 0x200004, 1, 0x0, 1, 0x0, [⟨31, 0, .rc⟩]⟩,
  ⟨"TLT_JOB_CTRL", 0x200100, 1, 0x0, 1, 0x0, [⟨31, 31, .w1s⟩, ⟨30, 28, .reserved⟩, ⟨27, 24, .lw⟩, ⟨23, 22, .reserved⟩, ⟨21, 20, .lw⟩, ⟨19, 17, .reserved⟩, ⟨16, 16, .lw⟩, ⟨15, 0, .reserved⟩]⟩,
  ⟨"TLT_JOB_STATUS", 0x200104, 1, 0x0, 1, 0x0, [⟨31, 29, .ro⟩, ⟨28, 24, .reserved⟩, ⟨23, 20, .ro⟩, ⟨19, 1, .reserved⟩, ⟨0, 0, .w1c⟩]⟩,
  ⟨"TLT_JOB_GEOMETRY", 0x200108, 1, 0x0, 1, 0x0, [⟨31, 10, .lw⟩, ⟨9, 0, .lw⟩]⟩,
  ⟨"TLT_JOB_SRC", 0x200110, 1, 0x0, 1, 0x0, [⟨31, 0, .lw⟩]⟩,
  ⟨"TLT_JOB_DST", 0x200114, 1, 0x0, 1, 0x0, [⟨31, 0, .lw⟩]⟩,
  ⟨"TLT_JOB_OVF", 0x200118, 1, 0x0, 1, 0x0, [⟨31, 0, .lw⟩]⟩,
  ⟨"TLT_JOB_CTX", 0x20011C, 1, 0x0, 1, 0x0, [⟨31, 0, .lw⟩]⟩,
  ⟨"TLT_JOB_DST_LIMIT", 0x200120, 1, 0x0, 1, 0x0, [⟨31, 0, .lw⟩]⟩,
  ⟨"TLT_JOB_OVF_LIMIT", 0x200124, 1, 0x0, 1, 0x0, [⟨31, 0, .lw⟩]⟩,
  ⟨"TLT_JOB_SLOT_COUNT", 0x200130, 1, 0x0, 1, 0x0, [⟨31, 0, .ro⟩]⟩,
  ⟨"TLT_JOB_TILE_COUNT", 0x200134, 1, 0x0, 1, 0x0, [⟨31, 0, .ro⟩]⟩,
  ⟨"TLT_JOB_OVF_BITS", 0x200138, 1, 0x0, 1, 0x0, [⟨31, 0, .ro⟩]⟩,
  ⟨"TLT_RB_CTRL", 0x200200, 1, 0x0, 1, 0x0, [⟨31, 31, .lw⟩, ⟨30, 30, .reserved⟩, ⟨29, 28, .lw⟩, ⟨27, 10, .reserved⟩, ⟨9, 0, .lw⟩]⟩,
  ⟨"TLT_RB_FIRST", 0x200204, 1, 0x0, 1, 0x0, [⟨31, 22, .reserved⟩, ⟨21, 0, .lw⟩]⟩,
  ⟨"TLT_RB_BUF", 0x200208, 1, 0x0, 1, 0x0, [⟨31, 0, .lw⟩]⟩,
  ⟨"TLT_RB_STATUS", 0x20020C, 1, 0x0, 1, 0x0, [⟨31, 29, .ro⟩, ⟨28, 18, .reserved⟩, ⟨17, 16, .ro⟩, ⟨15, 0, .ro⟩]⟩]

/-- Rows of the HRW block. -/
def regHrw0 : List RegRow := [
  ⟨"HRW_Tnn_STATUS", 0x300000, 34, 0x1000, 1, 0x0, [⟨31, 29, .ro⟩, ⟨28, 21, .reserved⟩, ⟨20, 16, .ro⟩, ⟨15, 5, .reserved⟩, ⟨4, 0, .ro⟩]⟩,
  ⟨"HRW_Tnn_ECC", 0x300004, 34, 0x1000, 1, 0x0, [⟨31, 16, .rc⟩, ⟨15, 0, .rc⟩]⟩,
  ⟨"HRW_Tnn_AUDITS", 0x300008, 34, 0x1000, 1, 0x0, [⟨31, 0, .ro⟩]⟩,
  ⟨"HRW_POSITION_MAP", 0x330000, 1, 0x0, 8, 0x0, [⟨31, 30, .reserved⟩, ⟨29, 24, .ro⟩, ⟨23, 22, .reserved⟩, ⟨21, 16, .ro⟩, ⟨15, 14, .reserved⟩, ⟨13, 8, .ro⟩, ⟨7, 6, .reserved⟩, ⟨5, 0, .ro⟩]⟩,
  ⟨"HRW_AUDIT_CTRL", 0x330020, 1, 0x0, 1, 0x80000000, [⟨31, 31, .lw⟩, ⟨30, 0, .reserved⟩]⟩,
  ⟨"HRW_AUDIT_STATUS", 0x330024, 1, 0x0, 1, 0x0, [⟨31, 29, .ro⟩, ⟨28, 21, .reserved⟩, ⟨20, 16, .ro⟩, ⟨15, 15, .ro⟩, ⟨14, 14, .reserved⟩, ⟨13, 8, .ro⟩, ⟨7, 0, .reserved⟩]⟩,
  ⟨"HRW_MISMATCH_0", 0x330028, 1, 0x0, 1, 0x0, [⟨31, 29, .ro⟩, ⟨28, 28, .ro⟩, ⟨27, 22, .ro⟩, ⟨21, 16, .ro⟩, ⟨15, 10, .ro⟩, ⟨9, 5, .reserved⟩, ⟨4, 0, .ro⟩]⟩,
  ⟨"HRW_MISMATCH_1", 0x33002C, 1, 0x0, 1, 0x0, [⟨31, 18, .reserved⟩, ⟨17, 16, .ro⟩, ⟨15, 0, .ro⟩]⟩,
  ⟨"HRW_MISMATCH_2", 0x330030, 1, 0x0, 1, 0x0, [⟨31, 19, .reserved⟩, ⟨18, 0, .ro⟩]⟩,
  ⟨"HRW_RETIRE_CTRL", 0x330034, 1, 0x0, 1, 0x0, [⟨31, 31, .w1s⟩, ⟨30, 30, .reserved⟩, ⟨29, 28, .ro⟩, ⟨27, 6, .reserved⟩, ⟨5, 0, .lw⟩]⟩,
  ⟨"HRW_LAST_FURROW", 0x330040, 1, 0x0, 1, 0x0, [⟨31, 18, .reserved⟩, ⟨17, 16, .ro⟩, ⟨15, 0, .ro⟩]⟩,
  ⟨"HRW_LAST_OVERLAP_PIXELS", 0x330044, 1, 0x0, 1, 0x0, [⟨31, 0, .ro⟩]⟩,
  ⟨"HRW_LAST_SATURATED_PIXELS", 0x330048, 1, 0x0, 1, 0x0, [⟨31, 0, .ro⟩]⟩,
  ⟨"HRW_LAST_SWEEPS", 0x33004C, 1, 0x0, 1, 0x0, [⟨31, 0, .ro⟩]⟩,
  ⟨"HRW_LAST_LEAD", 0x330050, 1, 0x0, 1, 0x0, [⟨31, 16, .ro⟩, ⟨15, 11, .reserved⟩, ⟨10, 0, .ro⟩]⟩]

/-- Rows of the MDR block. -/
def regMdr0 : List RegRow := [
  ⟨"MDR_MAP_BASE_LO", 0x400000, 1, 0x0, 1, 0x0, [⟨31, 0, .lw⟩]⟩,
  ⟨"MDR_MAP_BASE_HI", 0x400004, 1, 0x0, 1, 0x0, [⟨31, 4, .reserved⟩, ⟨3, 0, .lw⟩]⟩,
  ⟨"MDR_STATUS", 0x400008, 1, 0x0, 1, 0x80000000, [⟨31, 29, .ro⟩, ⟨28, 28, .w1c⟩, ⟨27, 27, .ro⟩, ⟨26, 26, .ro⟩, ⟨25, 25, .ro⟩, ⟨24, 19, .reserved⟩, ⟨18, 0, .ro⟩]⟩,
  ⟨"MDR_LAST_MULT", 0x400010, 1, 0x0, 1, 0x0, [⟨31, 16, .ro⟩, ⟨15, 0, .ro⟩]⟩,
  ⟨"MDR_LAST_CLAMPS", 0x400014, 1, 0x0, 1, 0x0, [⟨31, 0, .ro⟩]⟩,
  ⟨"MDR_LAST_TARGET_CLAMPED", 0x400018, 1, 0x0, 1, 0x0, [⟨31, 0, .ro⟩]⟩,
  ⟨"MDR_LAST_STARVED", 0x40001C, 1, 0x0, 1, 0x0, [⟨31, 16, .ro⟩, ⟨15, 0, .ro⟩]⟩]

/-- Rows of the MDT block. -/
def regMdt0 : List RegRow := [
  ⟨"MDT_LAST_PEAK", 0x440000, 1, 0x0, 1, 0x0, [⟨31, 24, .reserved⟩, ⟨23, 0, .ro⟩]⟩,
  ⟨"MDT_LAST_TRAIL_PEAK", 0x440004, 1, 0x0, 1, 0x0, [⟨31, 24, .reserved⟩, ⟨23, 0, .ro⟩]⟩,
  ⟨"MDT_LAST_SCALED", 0x440008, 1, 0x0, 1, 0x0, [⟨31, 0, .ro⟩]⟩,
  ⟨"MDT_LAST_PAUSE", 0x44000C, 1, 0x0, 1, 0x0, [⟨31, 31, .ro⟩, ⟨30, 16, .reserved⟩, ⟨15, 0, .ro⟩]⟩]

/-- Rows of the SOW block. -/
def regSow0 : List RegRow := [
  ⟨"SOW_Snn_STATUS", 0x500000, 25, 0x1000, 1, 0x0, [⟨31, 29, .ro⟩, ⟨28, 21, .reserved⟩, ⟨20, 16, .ro⟩, ⟨15, 5, .reserved⟩, ⟨4, 0, .ro⟩]⟩,
  ⟨"SOW_Snn_ECC", 0x500004, 25, 0x1000, 1, 0x0, [⟨31, 16, .rc⟩, ⟨15, 0, .rc⟩]⟩,
  ⟨"SOW_Snn_AUDITS", 0x500008, 25, 0x1000, 1, 0x0, [⟨31, 0, .ro⟩]⟩,
  ⟨"SOW_GROUP_MAP", 0x520000, 1, 0x0, 6, 0x0, [⟨31, 29, .reserved⟩, ⟨28, 24, .ro⟩, ⟨23, 21, .reserved⟩, ⟨20, 16, .ro⟩, ⟨15, 13, .reserved⟩, ⟨12, 8, .ro⟩, ⟨7, 5, .reserved⟩, ⟨4, 0, .ro⟩]⟩,
  ⟨"SOW_AUDIT_CTRL", 0x520020, 1, 0x0, 1, 0x80000000, [⟨31, 31, .lw⟩, ⟨30, 0, .reserved⟩]⟩,
  ⟨"SOW_AUDIT_STATUS", 0x520024, 1, 0x0, 1, 0x0, [⟨31, 29, .ro⟩, ⟨28, 21, .reserved⟩, ⟨20, 16, .ro⟩, ⟨15, 13, .reserved⟩, ⟨12, 8, .ro⟩, ⟨7, 0, .reserved⟩]⟩,
  ⟨"SOW_MISMATCH_0", 0x520028, 1, 0x0, 1, 0x0, [⟨31, 29, .ro⟩, ⟨28, 21, .reserved⟩, ⟨20, 16, .ro⟩, ⟨15, 13, .reserved⟩, ⟨12, 8, .ro⟩, ⟨7, 5, .reserved⟩, ⟨4, 0, .ro⟩]⟩,
  ⟨"SOW_MISMATCH_1", 0x52002C, 1, 0x0, 1, 0x0, [⟨31, 18, .reserved⟩, ⟨17, 16, .ro⟩, ⟨15, 0, .ro⟩]⟩,
  ⟨"SOW_MISMATCH_2", 0x520030, 1, 0x0, 1, 0x0, [⟨31, 26, .reserved⟩, ⟨25, 0, .ro⟩]⟩,
  ⟨"SOW_RETIRE_CTRL", 0x520034, 1, 0x0, 1, 0x0, [⟨31, 31, .w1s⟩, ⟨30, 30, .reserved⟩, ⟨29, 28, .ro⟩, ⟨27, 5, .reserved⟩, ⟨4, 0, .lw⟩]⟩,
  ⟨"SOW_CEILING_IN_FORCE", 0x520038, 1, 0x0, 1, 0x0, [⟨31, 26, .reserved⟩, ⟨25, 16, .ro⟩, ⟨15, 14, .reserved⟩, ⟨13, 4, .ro⟩, ⟨3, 0, .ro⟩]⟩,
  ⟨"SOW_LAST_CEILING_CLAMPED", 0x520040, 1, 0x0, 1, 0x0, [⟨31, 0, .ro⟩]⟩,
  ⟨"SOW_LAST_STUCK_EXCESS", 0x520044, 1, 0x0, 1, 0x0, [⟨31, 0, .ro⟩]⟩,
  ⟨"SOW_LAST_NO_EXPOSURE", 0x520048, 1, 0x0, 1, 0x0, [⟨31, 0, .ro⟩]⟩,
  ⟨"SOW_LAST_EXCESS_QUANTA", 0x52004C, 1, 0x0, 1, 0x0, [⟨31, 0, .ro⟩]⟩,
  ⟨"SOW_LAST_DISPLACED_OUT", 0x520050, 1, 0x0, 1, 0x0, [⟨31, 0, .ro⟩]⟩,
  ⟨"SOW_GUARD_TRIPS", 0x520054, 1, 0x0, 1, 0x0, [⟨31, 0, .rc⟩]⟩]

/-- Rows of the DRL block. -/
def regDrl0 : List RegRow := [
  ⟨"DRL_Gnn_STATUS", 0x600000, 24, 0x10000, 1, 0xF, [⟨31, 29, .ro⟩, ⟨28, 28, .ro⟩, ⟨27, 27, .ro⟩, ⟨26, 18, .ro⟩, ⟨17, 9, .ro⟩, ⟨8, 4, .reserved⟩, ⟨3, 0, .ro⟩]⟩,
  ⟨"DRL_Gnn_CTRL", 0x600004, 24, 0x10000, 1, 0x1, [⟨31, 31, .w1s⟩, ⟨30, 30, .w1s⟩, ⟨29, 29, .w1s⟩, ⟨28, 20, .reserved⟩, ⟨19, 16, .lw⟩, ⟨15, 1, .reserved⟩, ⟨0, 0, .lw⟩]⟩,
  ⟨"DRL_Gnn_TAPS", 0x600010, 24, 0x10000, 9, 0x4000206, [⟨31, 31, .lw⟩, ⟨30, 28, .reserved⟩, ⟨27, 24, .lw⟩, ⟨23, 12, .reserved⟩, ⟨11, 8, .lw⟩, ⟨7, 5, .reserved⟩, ⟨4, 0, .lw⟩]⟩,
  ⟨"DRL_Gnn_FOM", 0x600040, 24, 0x10000, 9, 0x0, [⟨31, 24, .ro⟩, ⟨23, 16, .reserved⟩, ⟨15, 8, .ro⟩, ⟨7, 0, .ro⟩]⟩,
  ⟨"DRL_Gnn_NAKS", 0x600080, 24, 0x10000, 1, 0x0, [⟨31, 16, .rc⟩, ⟨15, 0, .rc⟩]⟩,
  ⟨"DRL_Gnn_RETRANSMITS", 0x600084, 24, 0x10000, 1, 0x0, [⟨31, 16, .rc⟩, ⟨15, 0, .rc⟩]⟩,
  ⟨"DRL_Gnn_MISSES", 0x600088, 24, 0x10000, 1, 0x0, [⟨31, 16, .rc⟩, ⟨15, 8, .rc⟩, ⟨7, 0, .rc⟩]⟩,
  ⟨"DRL_Gnn_LEAD", 0x60008C, 24, 0x10000, 1, 0x0, [⟨31, 16, .ro⟩, ⟨15, 7, .reserved⟩, ⟨6, 0, .ro⟩]⟩,
  ⟨"DRL_HEAD_ID", 0x780000, 1, 0x0, 1, 0x0, [⟨31, 16, .ro⟩, ⟨15, 0, .ro⟩]⟩,
  ⟨"DRL_HEAD_SERIAL_LO", 0x780004, 1, 0x0, 1, 0x0, [⟨31, 0, .ro⟩]⟩,
  ⟨"DRL_HEAD_SERIAL_HI", 0x780008, 1, 0x0, 1, 0x0, [⟨31, 0, .ro⟩]⟩,
  ⟨"DRL_HEAD_RANK", 0x78000C, 1, 0x0, 1, 0x0, [⟨31, 16, .ro⟩, ⟨15, 12, .reserved⟩, ⟨11, 10, .ro⟩, ⟨9, 0, .ro⟩]⟩,
  ⟨"DRL_HEAD_TIMING", 0x780010, 1, 0x0, 1, 0x0, [⟨31, 16, .ro⟩, ⟨15, 0, .ro⟩]⟩,
  ⟨"DRL_HEAD_TQ", 0x780014, 1, 0x0, 1, 0x0, [⟨31, 16, .ro⟩, ⟨15, 0, .ro⟩]⟩,
  ⟨"DRL_HEAD_TEMP", 0x780018, 1, 0x0, 1, 0x0, [⟨31, 24, .ro⟩, ⟨23, 16, .ro⟩, ⟨15, 8, .ro⟩, ⟨7, 0, .ro⟩]⟩,
  ⟨"DRL_HEAD_MEMORY", 0x78001C, 1, 0x0, 1, 0x0, [⟨31, 29, .ro⟩, ⟨28, 14, .ro⟩, ⟨13, 8, .ro⟩, ⟨7, 0, .ro⟩]⟩,
  ⟨"DRL_ADAPT_CTRL", 0x780020, 1, 0x0, 1, 0x400040, [⟨31, 16, .lw⟩, ⟨15, 0, .lw⟩]⟩]

/-- Rows of the STG block. -/
def regStg0 : List RegRow := [
  ⟨"ENC_Cnn_STATUS", 0x800000, 4, 0x100, 1, 0x0, [⟨31, 30, .ro⟩, ⟨29, 29, .ro⟩, ⟨28, 28, .ro⟩, ⟨27, 27, .ro⟩, ⟨26, 20, .reserved⟩, ⟨19, 0, .ro⟩]⟩,
  ⟨"ENC_Cnn_CTRL", 0x800004, 4, 0x100, 1, 0x0, [⟨31, 31, .w1s⟩, ⟨30, 1, .reserved⟩, ⟨0, 0, .lw⟩]⟩,
  ⟨"ENC_Cnn_TRIM", 0x800008, 4, 0x100, 1, 0x800, [⟨31, 22, .lw⟩, ⟨21, 12, .lw⟩, ⟨11, 0, .lw⟩]⟩,
  ⟨"ENC_Cnn_AMPLITUDE", 0x80000C, 4, 0x100, 1, 0xFFFF0000, [⟨31, 16, .rc⟩, ⟨15, 0, .ro⟩]⟩,
  ⟨"ENC_Cnn_INDEX_PERIOD", 0x800010, 4, 0x100, 1, 0x0, [⟨31, 24, .reserved⟩, ⟨23, 0, .lw⟩]⟩,
  ⟨"ENC_Cnn_INDEX_LAST", 0x800014, 4, 0x100, 1, 0x0, [⟨31, 31, .ro⟩, ⟨30, 24, .reserved⟩, ⟨23, 0, .ro⟩]⟩,
  ⟨"ENC_Cnn_INDEX_STATS", 0x800018, 4, 0x100, 1, 0x0, [⟨31, 16, .rc⟩, ⟨15, 8, .rc⟩, ⟨7, 0, .rc⟩]⟩,
  ⟨"ENC_Cnn_EVENTS", 0x80001C, 4, 0x100, 1, 0x0, [⟨31, 16, .rc⟩, ⟨15, 0, .rc⟩]⟩,
  ⟨"ENC_CONFIG", 0x800800, 1, 0x0, 1, 0x821008, [⟨31, 28, .reserved⟩, ⟨27, 20, .lw⟩, ⟨19, 16, .lw⟩, ⟨15, 8, .lw⟩, ⟨7, 0, .lw⟩]⟩,
  ⟨"ENC_AMP_WINDOW", 0x800804, 1, 0x0, 1, 0x2A400900, [⟨31, 16, .lw⟩, ⟨15, 0, .lw⟩]⟩,
  ⟨"ENC_YAW_WINDOW_X", 0x800808, 1, 0x0, 1, 0x320FCE0, [⟨31, 16, .lw⟩, ⟨15, 0, .lw⟩]⟩,
  ⟨"ENC_YAW_WINDOW_Y", 0x80080C, 1, 0x0, 1, 0x320FCE0, [⟨31, 16, .lw⟩, ⟨15, 0, .lw⟩]⟩,
  ⟨"ENC_YAW_X", 0x800810, 1, 0x0, 1, 0x0, [⟨31, 16, .rc⟩, ⟨15, 0, .ro⟩]⟩,
  ⟨"ENC_YAW_Y", 0x800814, 1, 0x0, 1, 0x0, [⟨31, 16, .rc⟩, ⟨15, 0, .ro⟩]⟩,
  ⟨"ENC_YAW_CTRL", 0x800818, 1, 0x0, 1, 0x0, [⟨31, 31, .w1s⟩, ⟨30, 30, .w1s⟩, ⟨29, 0, .reserved⟩]⟩,
  ⟨"ENC_FAULT_STATUS", 0x80081C, 1, 0x0, 1, 0x0, [⟨31, 20, .reserved⟩, ⟨19, 16, .w1c⟩, ⟨15, 12, .w1c⟩, ⟨11, 8, .w1c⟩, ⟨7, 2, .reserved⟩, ⟨1, 1, .w1c⟩, ⟨0, 0, .w1c⟩]⟩,
  ⟨"ENC_INT_STATUS", 0x800820, 1, 0x0, 1, 0x0, [⟨31, 21, .reserved⟩, ⟨20, 20, .w1c⟩, ⟨19, 16, .w1c⟩, ⟨15, 12, .w1c⟩, ⟨11, 8, .w1c⟩, ⟨7, 4, .w1c⟩, ⟨3, 0, .reserved⟩]⟩,
  ⟨"ENC_INT_ENABLE", 0x800824, 1, 0x0, 1, 0x100000, [⟨31, 21, .reserved⟩, ⟨20, 4, .lw⟩, ⟨3, 0, .reserved⟩]⟩,
  ⟨"SHT_DOSE_QUANTUM", 0x801000, 1, 0x0, 1, 0x320, [⟨31, 12, .reserved⟩, ⟨11, 0, .lw⟩]⟩,
  ⟨"SHT_SHOT_RATE", 0x801004, 1, 0x0, 1, 0x0, [⟨31, 16, .ro⟩, ⟨15, 0, .ro⟩]⟩,
  ⟨"SHT_TRIGGER_CFG", 0x801008, 1, 0x0, 1, 0x14, [⟨31, 16, .lw⟩, ⟨15, 7, .reserved⟩, ⟨6, 0, .lw⟩]⟩,
  ⟨"SHT_MODE_CFG", 0x80100C, 1, 0x0, 1, 0x7D001F4, [⟨31, 16, .lw⟩, ⟨15, 0, .lw⟩]⟩,
  ⟨"SHT_DIBBLE_CFG", 0x801010, 1, 0x0, 1, 0x2007D0, [⟨31, 16, .lw⟩, ⟨15, 0, .lw⟩]⟩,
  ⟨"SHT_PATH_CFG", 0x801014, 1, 0x0, 1, 0x3000180, [⟨31, 16, .lw⟩, ⟨15, 0, .lw⟩]⟩]

/-- Rows of the STG block. -/
def regStg1 : List RegRow := [
  ⟨"SHT_PATH_HOLD", 0x801018, 1, 0x0, 1, 0x3E83E80, [⟨31, 16, .lw⟩, ⟨15, 0, .lw⟩]⟩,
  ⟨"SHT_DEFL_CFG", 0x80101C, 1, 0x0, 1, 0x80000000, [⟨31, 31, .lw⟩, ⟨30, 11, .reserved⟩, ⟨10, 0, .lw⟩]⟩,
  ⟨"SHT_ORIGIN_X_LO", 0x801020, 1, 0x0, 1, 0x0, [⟨31, 0, .lw⟩]⟩,
  ⟨"SHT_ORIGIN_X_HI", 0x801024, 1, 0x0, 1, 0x0, [⟨31, 8, .reserved⟩, ⟨7, 0, .lw⟩]⟩,
  ⟨"SHT_ORIGIN_Y_LO", 0x801028, 1, 0x0, 1, 0x0, [⟨31, 0, .lw⟩]⟩,
  ⟨"SHT_ORIGIN_Y_HI", 0x80102C, 1, 0x0, 1, 0x0, [⟨31, 8, .reserved⟩, ⟨7, 0, .lw⟩]⟩,
  ⟨"SHT_STATUS", 0x801030, 1, 0x0, 1, 0x0, [⟨31, 29, .ro⟩, ⟨28, 28, .w1c⟩, ⟨27, 26, .reserved⟩, ⟨25, 0, .ro⟩]⟩,
  ⟨"SHT_LAST_FALLOW", 0x801034, 1, 0x0, 1, 0x0, [⟨31, 30, .ro⟩, ⟨29, 26, .reserved⟩, ⟨25, 0, .ro⟩]⟩,
  ⟨"SHT_STATS", 0x801038, 1, 0x0, 1, 0x0, [⟨31, 16, .rc⟩, ⟨15, 0, .rc⟩]⟩,
  ⟨"SHT_SPEED", 0x80103C, 1, 0x0, 1, 0x0, [⟨31, 31, .ro⟩, ⟨30, 20, .reserved⟩, ⟨19, 0, .ro⟩]⟩,
  ⟨"PLN_PROFILE", 0x802000, 1, 0x0, 1, 0xC8C83A98, [⟨31, 24, .lw⟩, ⟨23, 16, .lw⟩, ⟨15, 0, .lw⟩]⟩,
  ⟨"PLN_LEAD_IN", 0x802004, 1, 0x0, 1, 0x20000300, [⟨31, 16, .lw⟩, ⟨15, 0, .lw⟩]⟩,
  ⟨"PLN_TURN", 0x802008, 1, 0x0, 1, 0x14, [⟨31, 10, .reserved⟩, ⟨9, 0, .lw⟩]⟩,
  ⟨"PLN_HOME_CFG", 0x80200C, 1, 0x0, 1, 0x532, [⟨31, 31, .lw⟩, ⟨30, 30, .lw⟩, ⟨29, 16, .reserved⟩, ⟨15, 8, .lw⟩, ⟨7, 0, .lw⟩]⟩,
  ⟨"PLN_CMD", 0x802010, 1, 0x0, 1, 0x0, [⟨31, 31, .w1s⟩, ⟨30, 28, .reserved⟩, ⟨27, 24, .lw⟩, ⟨23, 0, .reserved⟩]⟩,
  ⟨"PLN_TARGET_X", 0x802014, 1, 0x0, 1, 0x0, [⟨31, 0, .lw⟩]⟩,
  ⟨"PLN_TARGET_Y", 0x802018, 1, 0x0, 1, 0x0, [⟨31, 0, .lw⟩]⟩,
  ⟨"PLN_STATUS", 0x80201C, 1, 0x0, 1, 0x0, [⟨31, 29, .ro⟩, ⟨28, 28, .ro⟩, ⟨27, 27, .ro⟩, ⟨26, 26, .w1c⟩, ⟨25, 25, .w1c⟩, ⟨24, 24, .reserved⟩, ⟨23, 20, .ro⟩, ⟨19, 0, .reserved⟩]⟩,
  ⟨"PLN_CMD_POS_X", 0x802020, 1, 0x0, 1, 0x0, [⟨31, 0, .ro⟩]⟩,
  ⟨"PLN_CMD_POS_Y", 0x802024, 1, 0x0, 1, 0x0, [⟨31, 0, .ro⟩]⟩,
  ⟨"PLN_SWITCH_CFG", 0x802030, 1, 0x0, 6, 0x0, [⟨31, 31, .lw⟩, ⟨30, 26, .reserved⟩, ⟨25, 24, .lw⟩, ⟨23, 10, .reserved⟩, ⟨9, 0, .lw⟩]⟩,
  ⟨"PLN_SWITCH_STATUS", 0x802048, 1, 0x0, 1, 0x0, [⟨31, 30, .reserved⟩, ⟨29, 24, .w1c⟩, ⟨23, 22, .reserved⟩, ⟨21, 16, .ro⟩, ⟨15, 14, .reserved⟩, ⟨13, 8, .ro⟩, ⟨7, 6, .reserved⟩, ⟨5, 0, .w1c⟩]⟩,
  ⟨"PLN_LATCH", 0x802050, 1, 0x0, 6, 0x0, [⟨31, 0, .ro⟩]⟩,
  ⟨"PLN_CHATTER", 0x802068, 1, 0x0, 1, 0x0, [⟨31, 30, .reserved⟩, ⟨29, 0, .rc⟩]⟩]

/-- The rows of the block an offset lies in (R437). -/
def regRowsAt (off : Nat) : List RegRow :=
  if off < 0x10000 then regGlb0
  else if 0x10000 ≤ off ∧ off < 0x20000 then regFnc0
  else if 0x20000 ≤ off ∧ off < 0x30000 then regLdg0
  else if 0x30000 ≤ off ∧ off < 0x40000 then regHk0
  else if 0x40000 ≤ off ∧ off < 0x50000 then regCal0
  else if 0x50000 ≤ off ∧ off < 0x60000 then regNvl0
  else if 0x60000 ≤ off ∧ off < 0x70000 then regChk0
  else if 0x70000 ≤ off ∧ off < 0x80000 then regJob0 ++ regJob1
  else if 0x80000 ≤ off ∧ off < 0x90000 then regDma0
  else if 0x90000 ≤ off ∧ off < 0xA0000 then regHst0
  else if 0x100000 ≤ off ∧ off < 0x200000 then regMem0 ++ regMem1
  else if 0x200000 ≤ off ∧ off < 0x300000 then regTlt0
  else if 0x300000 ≤ off ∧ off < 0x400000 then regHrw0
  else if 0x400000 ≤ off ∧ off < 0x440000 then regMdr0
  else if 0x440000 ≤ off ∧ off < 0x480000 then regMdt0
  else if 0x500000 ≤ off ∧ off < 0x600000 then regSow0
  else if 0x600000 ≤ off ∧ off < 0x800000 then regDrl0
  else if 0x800000 ≤ off ∧ off < 0x810000 then regStg0 ++ regStg1
  else []

/-- A row names the offset. -/
def RegRow.covers (r : RegRow) (off : Nat) : Bool :=
  (List.range r.n1).any fun i =>
    let a := r.base + r.s1 * i
    decide (a ≤ off ∧ off < a + 4 * r.n2 ∧ (off - a) % 4 = 0)

/-- The row of the register at an offset; none where the offset names no register (R437). -/
def regRow (off : Nat) : Option RegRow := (regRowsAt off).find? (·.covers off)

/-! ### Field names -/

namespace F

abbrev GLB_ID_DEVICE : Fld := ⟨0x0, 31, 16⟩
abbrev GLB_ID_FAMILY : Fld := ⟨0x0, 15, 8⟩
abbrev GLB_ID_MAJOR : Fld := ⟨0x0, 7, 4⟩
abbrev GLB_ID_MINOR : Fld := ⟨0x0, 3, 0⟩
abbrev GLB_ID : Fld := ⟨0x0, 31, 0⟩

abbrev GLB_VARIANT_STACKS : Fld := ⟨0x4, 27, 24⟩
abbrev GLB_VARIANT_GROUPS : Fld := ⟨0x4, 23, 16⟩
abbrev GLB_VARIANT_SERIES : Fld := ⟨0x4, 15, 12⟩
abbrev GLB_VARIANT_CLASS : Fld := ⟨0x4, 9, 8⟩
abbrev GLB_VARIANT_GRADE : Fld := ⟨0x4, 5, 4⟩
abbrev GLB_VARIANT_TEMP : Fld := ⟨0x4, 0, 0⟩
abbrev GLB_VARIANT : Fld := ⟨0x4, 31, 0⟩

abbrev GLB_SERIAL_LO_SERIAL : Fld := ⟨0x8, 31, 0⟩
abbrev GLB_SERIAL_LO : Fld := ⟨0x8, 31, 0⟩

abbrev GLB_SERIAL_HI_SERIAL : Fld := ⟨0xC, 31, 0⟩
abbrev GLB_SERIAL_HI : Fld := ⟨0xC, 31, 0⟩

abbrev GLB_OPERATING_SECONDS_SECONDS : Fld := ⟨0x10, 31, 0⟩
abbrev GLB_OPERATING_SECONDS : Fld := ⟨0x10, 31, 0⟩

abbrev GLB_POWER_CYCLES_SUB_SECOND : Fld := ⟨0x14, 31, 24⟩
abbrev GLB_POWER_CYCLES_CYCLES : Fld := ⟨0x14, 23, 0⟩
abbrev GLB_POWER_CYCLES : Fld := ⟨0x14, 31, 0⟩

abbrev GLB_BOOT_STATUS_STATE : Fld := ⟨0x40, 31, 28⟩
abbrev GLB_BOOT_STATUS_STEP : Fld := ⟨0x40, 27, 24⟩
abbrev GLB_BOOT_STATUS_CAUSE : Fld := ⟨0x40, 23, 16⟩
abbrev GLB_BOOT_STATUS_SLOT : Fld := ⟨0x40, 15, 14⟩
abbrev GLB_BOOT_STATUS_FACTORY : Fld := ⟨0x40, 4, 4⟩
abbrev GLB_BOOT_STATUS_FLASH_1LINE : Fld := ⟨0x40, 3, 3⟩
abbrev GLB_BOOT_STATUS_SMB_A : Fld := ⟨0x40, 2, 0⟩
abbrev GLB_BOOT_STATUS : Fld := ⟨0x40, 31, 0⟩

abbrev GLB_BOOT_TIME_READY_MS : Fld := ⟨0x44, 31, 16⟩
abbrev GLB_BOOT_TIME_STEP_MS : Fld := ⟨0x44, 15, 0⟩
abbrev GLB_BOOT_TIME : Fld := ⟨0x44, 31, 0⟩

abbrev GLB_STATUS_READY : Fld := ⟨0x48, 31, 31⟩
abbrev GLB_STATUS_FACTORY : Fld := ⟨0x48, 30, 30⟩
abbrev GLB_STATUS_LEASE_HELD : Fld := ⟨0x48, 29, 29⟩
abbrev GLB_STATUS_HOLDER : Fld := ⟨0x48, 28, 26⟩
abbrev GLB_STATUS_FALLOW : Fld := ⟨0x48, 25, 25⟩
abbrev GLB_STATUS_BLANK_ALL : Fld := ⟨0x48, 24, 24⟩
abbrev GLB_STATUS_HW_MODE : Fld := ⟨0x48, 23, 23⟩
abbrev GLB_STATUS_SERVICE_PRESENT : Fld := ⟨0x48, 22, 22⟩
abbrev GLB_STATUS_GATE_NOT_OPEN : Fld := ⟨0x48, 21, 21⟩
abbrev GLB_STATUS_THERMAL_WARN : Fld := ⟨0x48, 20, 20⟩
abbrev GLB_STATUS_LEDGER_STOPPED : Fld := ⟨0x48, 19, 19⟩
abbrev GLB_STATUS_FURROW_STATE : Fld := ⟨0x48, 18, 16⟩
abbrev GLB_STATUS : Fld := ⟨0x48, 31, 0⟩

abbrev GLB_REFUSED_LAST_PARTY : Fld := ⟨0x60, 31, 29⟩
abbrev GLB_REFUSED_LAST_REASON : Fld := ⟨0x60, 28, 26⟩
abbrev GLB_REFUSED_LAST_WORD_OFFSET : Fld := ⟨0x60, 23, 0⟩
abbrev GLB_REFUSED_LAST : Fld := ⟨0x60, 31, 0⟩

abbrev GLB_REFUSED_COUNT_SERVICE : Fld := ⟨0x64, 31, 24⟩
abbrev GLB_REFUSED_COUNT_MANAGEMENT : Fld := ⟨0x64, 23, 16⟩
abbrev GLB_REFUSED_COUNT_HOST_B : Fld := ⟨0x64, 15, 8⟩
abbrev GLB_REFUSED_COUNT_HOST_A : Fld := ⟨0x64, 7, 0⟩
abbrev GLB_REFUSED_COUNT : Fld := ⟨0x64, 31, 0⟩

abbrev GLB_LEASE_GO : Fld := ⟨0x80, 31, 31⟩
abbrev GLB_LEASE_CMD : Fld := ⟨0x80, 30, 28⟩
abbrev GLB_LEASE_RESULT : Fld := ⟨0x80, 27, 25⟩
abbrev GLB_LEASE_HOLDER : Fld := ⟨0x80, 21, 19⟩
abbrev GLB_LEASE_LEASE_TIMEOUT_MS : Fld := ⟨0x80, 15, 0⟩
abbrev GLB_LEASE : Fld := ⟨0x80, 31, 0⟩

abbrev GLB_EVENT_PENDING_PENDING : Fld := ⟨0xC0, 31, 0⟩
abbrev GLB_EVENT_PENDING : Fld := ⟨0xC0, 31, 0⟩

abbrev GLB_EVENT_ENABLE_ENABLE : Fld := ⟨0xC4, 31, 0⟩
abbrev GLB_EVENT_ENABLE : Fld := ⟨0xC4, 31, 0⟩

abbrev GLB_GATE_CTRL_GO : Fld := ⟨0x100, 31, 31⟩
abbrev GLB_GATE_CTRL_CMD : Fld := ⟨0x100, 19, 16⟩
abbrev GLB_GATE_CTRL_ISLAND : Fld := ⟨0x100, 6, 0⟩
abbrev GLB_GATE_CTRL : Fld := ⟨0x100, 31, 0⟩

abbrev GLB_GATE_STATUS_BUSY : Fld := ⟨0x104, 31, 31⟩
abbrev GLB_GATE_STATUS_HOST_A_EXPIRED : Fld := ⟨0x104, 30, 30⟩
abbrev GLB_GATE_STATUS_HOST_B_EXPIRED : Fld := ⟨0x104, 29, 29⟩
abbrev GLB_GATE_STATUS_RESULT : Fld := ⟨0x104, 26, 24⟩
abbrev GLB_GATE_STATUS_OUTSTANDING : Fld := ⟨0x104, 23, 16⟩
abbrev GLB_GATE_STATUS_STATE : Fld := ⟨0x104, 8, 7⟩
abbrev GLB_GATE_STATUS_ISLAND : Fld := ⟨0x104, 6, 0⟩
abbrev GLB_GATE_STATUS : Fld := ⟨0x104, 31, 0⟩

abbrev GLB_GATE_TIMING_DRAIN_LIMIT_US : Fld := ⟨0x108, 31, 16⟩
abbrev GLB_GATE_TIMING_REQ_TIMEOUT_US : Fld := ⟨0x108, 15, 0⟩
abbrev GLB_GATE_TIMING : Fld := ⟨0x108, 31, 0⟩

abbrev GLB_GATE_STATE_NOT_OPEN (j : Nat) : Fld := ⟨0x110 + 4 * j, 31, 0⟩
abbrev GLB_GATE_STATE (j : Nat) : Fld := ⟨0x110 + 4 * j, 31, 0⟩

abbrev FNC_STATUS_SEALED_LOADED : Fld := ⟨0x10000, 31, 31⟩
abbrev FNC_STATUS_BLANK_ALL : Fld := ⟨0x10000, 30, 30⟩
abbrev FNC_STATUS_HOLD_REQ : Fld := ⟨0x10000, 29, 29⟩
abbrev FNC_STATUS_DOOR_OPEN : Fld := ⟨0x10000, 28, 28⟩
abbrev FNC_STATUS_SERVICE_PRESENT : Fld := ⟨0x10000, 27, 27⟩
abbrev FNC_STATUS_HW_MODE : Fld := ⟨0x10000, 26, 26⟩
abbrev FNC_STATUS_COOLED : Fld := ⟨0x10000, 25, 25⟩
abbrev FNC_STATUS_THERMTRIP : Fld := ⟨0x10000, 24, 24⟩
abbrev FNC_STATUS : Fld := ⟨0x10000, 31, 0⟩

abbrev FNC_CTRL_FALLOW : Fld := ⟨0x10004, 31, 31⟩
abbrev FNC_CTRL_REVOKE_LEASE : Fld := ⟨0x10004, 30, 30⟩
abbrev FNC_CTRL_LEASE_LOCK : Fld := ⟨0x10004, 29, 29⟩
abbrev FNC_CTRL_THERMTRIP_RELEASE : Fld := ⟨0x10004, 28, 28⟩
abbrev FNC_CTRL : Fld := ⟨0x10004, 31, 0⟩

abbrev FNC_TRIP_STATUS_BLANK_UNSEEN : Fld := ⟨0x10008, 3, 3⟩
abbrev FNC_TRIP_STATUS_DIE_TRIP : Fld := ⟨0x10008, 2, 2⟩
abbrev FNC_TRIP_STATUS_STACK_TRIP : Fld := ⟨0x10008, 1, 1⟩
abbrev FNC_TRIP_STATUS_WATCHDOG : Fld := ⟨0x10008, 0, 0⟩
abbrev FNC_TRIP_STATUS : Fld := ⟨0x10008, 31, 0⟩

abbrev FNC_INTERLOCK_CFG_SERVICE_ENABLE : Fld := ⟨0x1000C, 31, 31⟩
abbrev FNC_INTERLOCK_CFG_DOOR_STOPS_STAGE : Fld := ⟨0x1000C, 30, 30⟩
abbrev FNC_INTERLOCK_CFG_WATCHDOG_MS : Fld := ⟨0x1000C, 29, 16⟩
abbrev FNC_INTERLOCK_CFG_RELEASE_MS : Fld := ⟨0x1000C, 15, 0⟩
abbrev FNC_INTERLOCK_CFG : Fld := ⟨0x1000C, 31, 0⟩

abbrev FNC_DIE_THERMAL_WARN : Fld := ⟨0x10010, 26, 18⟩
abbrev FNC_DIE_THERMAL_TRIP : Fld := ⟨0x10010, 17, 9⟩
abbrev FNC_DIE_THERMAL_RESTART : Fld := ⟨0x10010, 8, 0⟩
abbrev FNC_DIE_THERMAL : Fld := ⟨0x10010, 31, 0⟩

abbrev FNC_STACK_THERMAL_WARN : Fld := ⟨0x10014, 26, 18⟩
abbrev FNC_STACK_THERMAL_TRIP : Fld := ⟨0x10014, 17, 9⟩
abbrev FNC_STACK_THERMAL_RESTART : Fld := ⟨0x10014, 8, 0⟩
abbrev FNC_STACK_THERMAL : Fld := ⟨0x10014, 31, 0⟩

abbrev FNC_HEAD_THERMAL_ALLOWANCE_MS : Fld := ⟨0x10018, 31, 16⟩
abbrev FNC_HEAD_THERMAL_HYST : Fld := ⟨0x10018, 7, 0⟩
abbrev FNC_HEAD_THERMAL : Fld := ⟨0x10018, 31, 0⟩

abbrev FNC_LIMIT_FORCE_FORCE : Fld := ⟨0x1001C, 3, 0⟩
abbrev FNC_LIMIT_FORCE : Fld := ⟨0x1001C, 31, 0⟩

abbrev FNC_TX_ENABLE_ENABLE : Fld := ⟨0x10020, 23, 0⟩
abbrev FNC_TX_ENABLE : Fld := ⟨0x10020, 31, 0⟩

abbrev FNC_LEDGER_KEY_AUTHORISE : Fld := ⟨0x10030, 31, 31⟩
abbrev FNC_LEDGER_KEY_KEY : Fld := ⟨0x10030, 15, 0⟩
abbrev FNC_LEDGER_KEY : Fld := ⟨0x10030, 31, 0⟩

abbrev FNC_DOSE_CEILING_MAX_QUANTA : Fld := ⟨0x10040, 25, 16⟩
abbrev FNC_DOSE_CEILING_MAX_CODE : Fld := ⟨0x10040, 3, 0⟩
abbrev FNC_DOSE_CEILING : Fld := ⟨0x10040, 31, 0⟩

abbrev FNC_SPI_STATS_GOOD : Fld := ⟨0x10050, 31, 16⟩
abbrev FNC_SPI_STATS_CRC_ERRORS : Fld := ⟨0x10050, 15, 8⟩
abbrev FNC_SPI_STATS_LENGTH_ERRORS : Fld := ⟨0x10050, 7, 0⟩
abbrev FNC_SPI_STATS : Fld := ⟨0x10050, 31, 0⟩

abbrev LDG_STATUS_STATE : Fld := ⟨0x20000, 31, 29⟩
abbrev LDG_STATUS_WINDOW_WAIT : Fld := ⟨0x20000, 28, 28⟩
abbrev LDG_STATUS_FREEZER : Fld := ⟨0x20000, 22, 20⟩
abbrev LDG_STATUS_QUEUED_BYTES : Fld := ⟨0x20000, 15, 0⟩
abbrev LDG_STATUS : Fld := ⟨0x20000, 31, 0⟩

abbrev LDG_CTRL_FREEZE : Fld := ⟨0x20004, 31, 31⟩
abbrev LDG_CTRL_UNFREEZE : Fld := ⟨0x20004, 30, 30⟩
abbrev LDG_CTRL_CLEAR_REQUEST : Fld := ⟨0x20004, 29, 29⟩
abbrev LDG_CTRL_CLEAR_CONFIRM : Fld := ⟨0x20004, 28, 28⟩
abbrev LDG_CTRL : Fld := ⟨0x20004, 31, 0⟩

abbrev LDG_CFG_HOLD_S : Fld := ⟨0x20008, 31, 24⟩
abbrev LDG_CFG_INT_LEVEL : Fld := ⟨0x20008, 19, 16⟩
abbrev LDG_CFG_FREEZE_S : Fld := ⟨0x20008, 15, 0⟩
abbrev LDG_CFG : Fld := ⟨0x20008, 31, 0⟩

abbrev LDG_USED_BYTES : Fld := ⟨0x2000C, 22, 0⟩
abbrev LDG_USED : Fld := ⟨0x2000C, 31, 0⟩

abbrev LDG_RECORDS_COUNT : Fld := ⟨0x20010, 31, 0⟩
abbrev LDG_RECORDS : Fld := ⟨0x20010, 31, 0⟩

abbrev LDG_LOST_LOST : Fld := ⟨0x20014, 31, 16⟩
abbrev LDG_LOST_LOST_SEVERE : Fld := ⟨0x20014, 15, 8⟩
abbrev LDG_LOST_SKIPPED : Fld := ⟨0x20014, 7, 0⟩
abbrev LDG_LOST : Fld := ⟨0x20014, 31, 0⟩

abbrev LDG_CLEAR_STATE : Fld := ⟨0x2001C, 31, 29⟩
abbrev LDG_CLEAR_REQUESTER : Fld := ⟨0x2001C, 26, 24⟩
abbrev LDG_CLEAR_REASON : Fld := ⟨0x2001C, 23, 20⟩
abbrev LDG_CLEAR_NONCE : Fld := ⟨0x2001C, 15, 0⟩
abbrev LDG_CLEAR : Fld := ⟨0x2001C, 31, 0⟩

abbrev LDG_READ_ADDR_OFFSET : Fld := ⟨0x20020, 21, 2⟩
abbrev LDG_READ_ADDR : Fld := ⟨0x20020, 31, 0⟩

abbrev LDG_READ_DATA_DATA : Fld := ⟨0x20024, 31, 0⟩
abbrev LDG_READ_DATA : Fld := ⟨0x20024, 31, 0⟩

abbrev LDG_TELEM_BASE_LO_ADDR : Fld := ⟨0x20030, 31, 0⟩
abbrev LDG_TELEM_BASE_LO : Fld := ⟨0x20030, 31, 0⟩

abbrev LDG_TELEM_BASE_HI_ADDR : Fld := ⟨0x20034, 31, 0⟩
abbrev LDG_TELEM_BASE_HI : Fld := ⟨0x20034, 31, 0⟩

abbrev LDG_TELEM_CFG_TELEM_REFUSED : Fld := ⟨0x20038, 31, 31⟩
abbrev LDG_TELEM_CFG_SLOTS : Fld := ⟨0x20038, 27, 16⟩
abbrev LDG_TELEM_CFG_ROUNDS : Fld := ⟨0x20038, 15, 0⟩
abbrev LDG_TELEM_CFG : Fld := ⟨0x20038, 31, 0⟩

abbrev LDG_USAGE_CTRL_CLEAR : Fld := ⟨0x20040, 31, 31⟩
abbrev LDG_USAGE_CTRL : Fld := ⟨0x20040, 31, 0⟩

abbrev LDG_TELEM_LAST_WORD (j : Nat) : Fld := ⟨0x20400 + 4 * j, 31, 0⟩
abbrev LDG_TELEM_LAST (j : Nat) : Fld := ⟨0x20400 + 4 * j, 31, 0⟩

abbrev HK_ROUND_MISSED : Fld := ⟨0x30000, 31, 16⟩
abbrev HK_ROUND_ROUND : Fld := ⟨0x30000, 15, 0⟩
abbrev HK_ROUND : Fld := ⟨0x30000, 31, 0⟩

abbrev HK_DIE_RANGE_DIE_MAX : Fld := ⟨0x30004, 31, 16⟩
abbrev HK_DIE_RANGE_DIE_MIN : Fld := ⟨0x30004, 15, 0⟩
abbrev HK_DIE_RANGE : Fld := ⟨0x30004, 31, 0⟩

abbrev HK_FLAGS_FLASH_WINDOW : Fld := ⟨0x30008, 31, 31⟩
abbrev HK_FLAGS_DIE_WARN : Fld := ⟨0x30008, 3, 3⟩
abbrev HK_FLAGS_STACK_WARN : Fld := ⟨0x30008, 2, 2⟩
abbrev HK_FLAGS_HEAD_WARN : Fld := ⟨0x30008, 1, 1⟩
abbrev HK_FLAGS_HEAD_CRIT : Fld := ⟨0x30008, 0, 0⟩
abbrev HK_FLAGS : Fld := ⟨0x30008, 31, 0⟩

abbrev HK_CHANNEL_VALID (j : Nat) : Fld := ⟨0x30100 + 4 * j, 31, 31⟩
abbrev HK_CHANNEL_ROUND (j : Nat) : Fld := ⟨0x30100 + 4 * j, 23, 16⟩
abbrev HK_CHANNEL_VALUE (j : Nat) : Fld := ⟨0x30100 + 4 * j, 15, 0⟩
abbrev HK_CHANNEL (j : Nat) : Fld := ⟨0x30100 + 4 * j, 31, 0⟩

abbrev CAL_CTRL_ENABLE : Fld := ⟨0x40000, 31, 31⟩
abbrev CAL_CTRL_RUN : Fld := ⟨0x40000, 30, 30⟩
abbrev CAL_CTRL_ITEM : Fld := ⟨0x40000, 27, 24⟩
abbrev CAL_CTRL_INSTANCE : Fld := ⟨0x40000, 7, 0⟩
abbrev CAL_CTRL : Fld := ⟨0x40000, 31, 0⟩

abbrev CAL_CFG_DELTA_T : Fld := ⟨0x40004, 31, 24⟩
abbrev CAL_CFG_MIN_LEAD : Fld := ⟨0x40004, 23, 16⟩
abbrev CAL_CFG_MAX_AGE_S : Fld := ⟨0x40004, 15, 0⟩
abbrev CAL_CFG : Fld := ⟨0x40004, 31, 0⟩

abbrev CAL_RETRY_RETRY_MS : Fld := ⟨0x40008, 15, 0⟩
abbrev CAL_RETRY : Fld := ⟨0x40008, 31, 0⟩

abbrev CAL_STATUS_STATE : Fld := ⟨0x4000C, 31, 29⟩
abbrev CAL_STATUS_OVERDUE : Fld := ⟨0x4000C, 28, 28⟩
abbrev CAL_STATUS_ITEM : Fld := ⟨0x4000C, 27, 24⟩
abbrev CAL_STATUS_INSTANCE : Fld := ⟨0x4000C, 23, 16⟩
abbrev CAL_STATUS_DUE : Fld := ⟨0x4000C, 8, 0⟩
abbrev CAL_STATUS : Fld := ⟨0x4000C, 31, 0⟩

abbrev CAL_RESULT_SEL_ITEM : Fld := ⟨0x40010, 27, 24⟩
abbrev CAL_RESULT_SEL_INSTANCE : Fld := ⟨0x40010, 7, 0⟩
abbrev CAL_RESULT_SEL : Fld := ⟨0x40010, 31, 0⟩

abbrev CAL_RESULT_0_VALID : Fld := ⟨0x40014, 31, 31⟩
abbrev CAL_RESULT_0_OVERDUE : Fld := ⟨0x40014, 30, 30⟩
abbrev CAL_RESULT_0_SENSOR : Fld := ⟨0x40014, 29, 24⟩
abbrev CAL_RESULT_0_PREEMPTIONS : Fld := ⟨0x40014, 15, 8⟩
abbrev CAL_RESULT_0_CHOICE : Fld := ⟨0x40014, 7, 0⟩
abbrev CAL_RESULT_0 : Fld := ⟨0x40014, 31, 0⟩

abbrev CAL_RESULT_1_LAST_TEMP : Fld := ⟨0x40018, 31, 16⟩
abbrev CAL_RESULT_1_AGE_S : Fld := ⟨0x40018, 15, 0⟩
abbrev CAL_RESULT_1 : Fld := ⟨0x40018, 31, 0⟩

abbrev CAL_PREEMPT_PREEMPTED : Fld := ⟨0x4001C, 31, 16⟩
abbrev CAL_PREEMPT_ABANDONED : Fld := ⟨0x4001C, 15, 0⟩
abbrev CAL_PREEMPT : Fld := ⟨0x4001C, 31, 0⟩

abbrev CAL_TEST_CTRL_GO : Fld := ⟨0x40100, 31, 31⟩
abbrev CAL_TEST_CTRL_RESULT : Fld := ⟨0x40100, 30, 28⟩
abbrev CAL_TEST_CTRL_PATTERN : Fld := ⟨0x40100, 25, 24⟩
abbrev CAL_TEST_CTRL : Fld := ⟨0x40100, 31, 0⟩

abbrev CAL_TEST_JOB_JOB_ID : Fld := ⟨0x40104, 31, 0⟩
abbrev CAL_TEST_JOB : Fld := ⟨0x40104, 31, 0⟩

abbrev CAL_TEST_FURROW_FEEDER : Fld := ⟨0x40108, 25, 24⟩
abbrev CAL_TEST_FURROW_PASS : Fld := ⟨0x40108, 17, 16⟩
abbrev CAL_TEST_FURROW_FURROW : Fld := ⟨0x40108, 15, 0⟩
abbrev CAL_TEST_FURROW : Fld := ⟨0x40108, 31, 0⟩

abbrev CAL_TEST_PARAM_DOSE_STEP : Fld := ⟨0x4010C, 31, 16⟩
abbrev CAL_TEST_PARAM_BAND : Fld := ⟨0x4010C, 5, 0⟩
abbrev CAL_TEST_PARAM : Fld := ⟨0x4010C, 31, 0⟩

abbrev CAL_TEST_ADDR_LO_ADDR : Fld := ⟨0x40110, 31, 0⟩
abbrev CAL_TEST_ADDR_LO : Fld := ⟨0x40110, 31, 0⟩

abbrev CAL_TEST_ADDR_HI_ADDR : Fld := ⟨0x40114, 31, 0⟩
abbrev CAL_TEST_ADDR_HI : Fld := ⟨0x40114, 31, 0⟩

abbrev CAL_TEST_BYTES_BYTES : Fld := ⟨0x40118, 31, 0⟩
abbrev CAL_TEST_BYTES : Fld := ⟨0x40118, 31, 0⟩

abbrev NVL_STATUS_STATE : Fld := ⟨0x50000, 31, 29⟩
abbrev NVL_STATUS_ACTIVE : Fld := ⟨0x50000, 28, 27⟩
abbrev NVL_STATUS_FLASH : Fld := ⟨0x50000, 26, 25⟩
abbrev NVL_STATUS_ADOPTED : Fld := ⟨0x50000, 24, 24⟩
abbrev NVL_STATUS_B_FAILED : Fld := ⟨0x50000, 17, 17⟩
abbrev NVL_STATUS_A_FAILED : Fld := ⟨0x50000, 16, 16⟩
abbrev NVL_STATUS : Fld := ⟨0x50000, 31, 0⟩

abbrev NVL_SLOT_A_STATE : Fld := ⟨0x50004, 31, 29⟩
abbrev NVL_SLOT_A_ATTEMPTS : Fld := ⟨0x50004, 26, 24⟩
abbrev NVL_SLOT_A_RESULT : Fld := ⟨0x50004, 23, 16⟩
abbrev NVL_SLOT_A_SEQ_LOW : Fld := ⟨0x50004, 15, 0⟩
abbrev NVL_SLOT_A : Fld := ⟨0x50004, 31, 0⟩

abbrev NVL_SLOT_B_STATE : Fld := ⟨0x50008, 31, 29⟩
abbrev NVL_SLOT_B_ATTEMPTS : Fld := ⟨0x50008, 26, 24⟩
abbrev NVL_SLOT_B_RESULT : Fld := ⟨0x50008, 23, 16⟩
abbrev NVL_SLOT_B_SEQ_LOW : Fld := ⟨0x50008, 15, 0⟩
abbrev NVL_SLOT_B : Fld := ⟨0x50008, 31, 0⟩

abbrev NVL_FAIL_RESULT : Fld := ⟨0x5000C, 31, 24⟩
abbrev NVL_FAIL_SLOT : Fld := ⟨0x5000C, 23, 22⟩
abbrev NVL_FAIL_SECTION : Fld := ⟨0x5000C, 21, 16⟩
abbrev NVL_FAIL_ENTRY : Fld := ⟨0x5000C, 15, 0⟩
abbrev NVL_FAIL : Fld := ⟨0x5000C, 31, 0⟩

abbrev NVL_CTRL_GO : Fld := ⟨0x50010, 31, 31⟩
abbrev NVL_CTRL_RESULT : Fld := ⟨0x50010, 30, 27⟩
abbrev NVL_CTRL_CMD : Fld := ⟨0x50010, 26, 24⟩
abbrev NVL_CTRL_TARGET : Fld := ⟨0x50010, 1, 0⟩
abbrev NVL_CTRL : Fld := ⟨0x50010, 31, 0⟩

abbrev NVL_SRC_LO_ADDR : Fld := ⟨0x50014, 31, 0⟩
abbrev NVL_SRC_LO : Fld := ⟨0x50014, 31, 0⟩

abbrev NVL_SRC_HI_ADDR : Fld := ⟨0x50018, 31, 0⟩
abbrev NVL_SRC_HI : Fld := ⟨0x50018, 31, 0⟩

abbrev NVL_SRC_BYTES_BYTES : Fld := ⟨0x5001C, 24, 0⟩
abbrev NVL_SRC_BYTES : Fld := ⟨0x5001C, 31, 0⟩

abbrev NVL_PROGRESS_PHASE : Fld := ⟨0x50020, 31, 29⟩
abbrev NVL_PROGRESS_KIB : Fld := ⟨0x50020, 14, 0⟩
abbrev NVL_PROGRESS : Fld := ⟨0x50020, 31, 0⟩

abbrev NVL_FLASH_INFO_MANUFACTURER : Fld := ⟨0x50024, 31, 24⟩
abbrev NVL_FLASH_INFO_DENSITY : Fld := ⟨0x50024, 23, 22⟩
abbrev NVL_FLASH_INFO_CLOCK_MHZ : Fld := ⟨0x50024, 7, 0⟩
abbrev NVL_FLASH_INFO : Fld := ⟨0x50024, 31, 0⟩

abbrev NVL_WEAR_A_UNKNOWN : Fld := ⟨0x50030, 31, 31⟩
abbrev NVL_WEAR_A_WARN : Fld := ⟨0x50030, 30, 30⟩
abbrev NVL_WEAR_A_COUNT : Fld := ⟨0x50030, 16, 0⟩
abbrev NVL_WEAR_A : Fld := ⟨0x50030, 31, 0⟩

abbrev NVL_WEAR_B_UNKNOWN : Fld := ⟨0x50034, 31, 31⟩
abbrev NVL_WEAR_B_WARN : Fld := ⟨0x50034, 30, 30⟩
abbrev NVL_WEAR_B_COUNT : Fld := ⟨0x50034, 16, 0⟩
abbrev NVL_WEAR_B : Fld := ⟨0x50034, 31, 0⟩

abbrev NVL_WEAR_LEDGER_UNKNOWN : Fld := ⟨0x50038, 31, 31⟩
abbrev NVL_WEAR_LEDGER_WARN : Fld := ⟨0x50038, 30, 30⟩
abbrev NVL_WEAR_LEDGER_COUNT : Fld := ⟨0x50038, 16, 0⟩
abbrev NVL_WEAR_LEDGER : Fld := ⟨0x50038, 31, 0⟩

abbrev NVL_WEAR_STORE_UNKNOWN : Fld := ⟨0x5003C, 31, 31⟩
abbrev NVL_WEAR_STORE_WARN : Fld := ⟨0x5003C, 30, 30⟩
abbrev NVL_WEAR_STORE_COUNT : Fld := ⟨0x5003C, 16, 0⟩
abbrev NVL_WEAR_STORE : Fld := ⟨0x5003C, 31, 0⟩

abbrev NVL_KEY_STATUS_K1_STATE : Fld := ⟨0x50040, 31, 30⟩
abbrev NVL_KEY_STATUS_K0_STATE : Fld := ⟨0x50040, 29, 28⟩
abbrev NVL_KEY_STATUS : Fld := ⟨0x50040, 31, 0⟩

abbrev NVL_KEY_FINGERPRINT_K1 : Fld := ⟨0x50044, 31, 16⟩
abbrev NVL_KEY_FINGERPRINT_K0 : Fld := ⟨0x50044, 15, 0⟩
abbrev NVL_KEY_FINGERPRINT : Fld := ⟨0x50044, 31, 0⟩

abbrev CHK_Unn_CTRL_CLAIM (i : Nat) : Fld := ⟨0x60000 + 0x100 * i, 31, 31⟩
abbrev CHK_Unn_CTRL_RELEASE (i : Nat) : Fld := ⟨0x60000 + 0x100 * i, 30, 30⟩
abbrev CHK_Unn_CTRL_INIT (i : Nat) : Fld := ⟨0x60000 + 0x100 * i, 29, 29⟩
abbrev CHK_Unn_CTRL_OWNER (i : Nat) : Fld := ⟨0x60000 + 0x100 * i, 21, 16⟩
abbrev CHK_Unn_CTRL_ALIVE_EN (i : Nat) : Fld := ⟨0x60000 + 0x100 * i, 8, 8⟩
abbrev CHK_Unn_CTRL_POLY (i : Nat) : Fld := ⟨0x60000 + 0x100 * i, 1, 0⟩
abbrev CHK_Unn_CTRL (i : Nat) : Fld := ⟨0x60000 + 0x100 * i, 31, 0⟩

abbrev CHK_Unn_ALIVE_ALIVE (i : Nat) : Fld := ⟨0x60004 + 0x100 * i, 7, 0⟩
abbrev CHK_Unn_ALIVE (i : Nat) : Fld := ⟨0x60004 + 0x100 * i, 31, 0⟩

abbrev CHK_Unn_FEED8_DATA (i : Nat) : Fld := ⟨0x60010 + 0x100 * i, 31, 0⟩
abbrev CHK_Unn_FEED8 (i : Nat) : Fld := ⟨0x60010 + 0x100 * i, 31, 0⟩

abbrev CHK_Unn_FEED16_DATA (i : Nat) : Fld := ⟨0x60014 + 0x100 * i, 31, 0⟩
abbrev CHK_Unn_FEED16 (i : Nat) : Fld := ⟨0x60014 + 0x100 * i, 31, 0⟩

abbrev CHK_Unn_FEED32_DATA (i : Nat) : Fld := ⟨0x60018 + 0x100 * i, 31, 0⟩
abbrev CHK_Unn_FEED32 (i : Nat) : Fld := ⟨0x60018 + 0x100 * i, 31, 0⟩

abbrev CHK_Unn_RESULT_RESULT (i : Nat) : Fld := ⟨0x60020 + 0x100 * i, 31, 0⟩
abbrev CHK_Unn_RESULT (i : Nat) : Fld := ⟨0x60020 + 0x100 * i, 31, 0⟩

abbrev CHK_Unn_COUNT_BYTES (i : Nat) : Fld := ⟨0x60024 + 0x100 * i, 31, 0⟩
abbrev CHK_Unn_COUNT (i : Nat) : Fld := ⟨0x60024 + 0x100 * i, 31, 0⟩

abbrev JOB_CTRL_GO : Fld := ⟨0x70000, 31, 31⟩
abbrev JOB_CTRL_CMD : Fld := ⟨0x70000, 27, 24⟩
abbrev JOB_CTRL : Fld := ⟨0x70000, 31, 0⟩

abbrev JOB_STATUS_STATE : Fld := ⟨0x70004, 31, 29⟩
abbrev JOB_STATUS_NEEDS_ACK : Fld := ⟨0x70004, 28, 28⟩
abbrev JOB_STATUS_PASS : Fld := ⟨0x70004, 27, 26⟩
abbrev JOB_STATUS_CODE : Fld := ⟨0x70004, 23, 16⟩
abbrev JOB_STATUS_FURROW : Fld := ⟨0x70004, 15, 0⟩
abbrev JOB_STATUS : Fld := ⟨0x70004, 31, 0⟩

abbrev JOB_HEAD_JOB_JOB_ID : Fld := ⟨0x70008, 31, 0⟩
abbrev JOB_HEAD_JOB : Fld := ⟨0x70008, 31, 0⟩

abbrev JOB_QUEUE_ENTRIES : Fld := ⟨0x7000C, 13, 8⟩
abbrev JOB_QUEUE_SOURCE : Fld := ⟨0x7000C, 2, 0⟩
abbrev JOB_QUEUE : Fld := ⟨0x7000C, 31, 0⟩

abbrev JOB_TABLE_SET_NEXT_SET : Fld := ⟨0x70010, 31, 0⟩
abbrev JOB_TABLE_SET_NEXT : Fld := ⟨0x70010, 31, 0⟩

abbrev JOB_TABLE_SET_ACTIVE_SET : Fld := ⟨0x70014, 31, 0⟩
abbrev JOB_TABLE_SET_ACTIVE : Fld := ⟨0x70014, 31, 0⟩

abbrev JOB_ADMIT_STATUS_A_STATE : Fld := ⟨0x70200, 31, 30⟩
abbrev JOB_ADMIT_STATUS_A_PASS : Fld := ⟨0x70200, 25, 24⟩
abbrev JOB_ADMIT_STATUS_A_RESULT : Fld := ⟨0x70200, 23, 16⟩
abbrev JOB_ADMIT_STATUS_A_FURROW : Fld := ⟨0x70200, 15, 0⟩
abbrev JOB_ADMIT_STATUS_A : Fld := ⟨0x70200, 31, 0⟩

abbrev JOB_ADMIT_JOB_A_JOB_ID : Fld := ⟨0x70204, 31, 0⟩
abbrev JOB_ADMIT_JOB_A : Fld := ⟨0x70204, 31, 0⟩

abbrev JOB_ADMIT_SEGMENT_A_IN_SEGMENT : Fld := ⟨0x70208, 31, 31⟩
abbrev JOB_ADMIT_SEGMENT_A_SEGMENT : Fld := ⟨0x70208, 18, 0⟩
abbrev JOB_ADMIT_SEGMENT_A : Fld := ⟨0x70208, 31, 0⟩

abbrev JOB_ADMIT_OFFSET_LO_A_OFFSET_LO : Fld := ⟨0x7020C, 31, 0⟩
abbrev JOB_ADMIT_OFFSET_LO_A : Fld := ⟨0x7020C, 31, 0⟩

abbrev JOB_ADMIT_OFFSET_HI_A_OFFSET_HI : Fld := ⟨0x70210, 3, 0⟩
abbrev JOB_ADMIT_OFFSET_HI_A : Fld := ⟨0x70210, 31, 0⟩

abbrev JOB_ADMIT_STATUS_B_STATE : Fld := ⟨0x70220, 31, 30⟩
abbrev JOB_ADMIT_STATUS_B_PASS : Fld := ⟨0x70220, 25, 24⟩
abbrev JOB_ADMIT_STATUS_B_RESULT : Fld := ⟨0x70220, 23, 16⟩
abbrev JOB_ADMIT_STATUS_B_FURROW : Fld := ⟨0x70220, 15, 0⟩
abbrev JOB_ADMIT_STATUS_B : Fld := ⟨0x70220, 31, 0⟩

abbrev JOB_ADMIT_JOB_B_JOB_ID : Fld := ⟨0x70224, 31, 0⟩
abbrev JOB_ADMIT_JOB_B : Fld := ⟨0x70224, 31, 0⟩

abbrev JOB_ADMIT_SEGMENT_B_IN_SEGMENT : Fld := ⟨0x70228, 31, 31⟩
abbrev JOB_ADMIT_SEGMENT_B_SEGMENT : Fld := ⟨0x70228, 18, 0⟩
abbrev JOB_ADMIT_SEGMENT_B : Fld := ⟨0x70228, 31, 0⟩

abbrev JOB_ADMIT_OFFSET_LO_B_OFFSET_LO : Fld := ⟨0x7022C, 31, 0⟩
abbrev JOB_ADMIT_OFFSET_LO_B : Fld := ⟨0x7022C, 31, 0⟩

abbrev JOB_ADMIT_OFFSET_HI_B_OFFSET_HI : Fld := ⟨0x70230, 3, 0⟩
abbrev JOB_ADMIT_OFFSET_HI_B : Fld := ⟨0x70230, 31, 0⟩

abbrev JOB_CKPT_BASE_LO_ADDR : Fld := ⟨0x70300, 31, 12⟩
abbrev JOB_CKPT_BASE_LO : Fld := ⟨0x70300, 31, 0⟩

abbrev JOB_CKPT_BASE_HI_ADDR_HI : Fld := ⟨0x70304, 3, 0⟩
abbrev JOB_CKPT_BASE_HI : Fld := ⟨0x70304, 31, 0⟩

abbrev JOB_CKPT_STATUS_PINNED : Fld := ⟨0x70308, 31, 26⟩
abbrev JOB_CKPT_STATUS_LAST_SHOT : Fld := ⟨0x70308, 25, 0⟩
abbrev JOB_CKPT_STATUS : Fld := ⟨0x70308, 31, 0⟩

abbrev JOB_REPAIR_BASE_LO_ADDR : Fld := ⟨0x70310, 31, 12⟩
abbrev JOB_REPAIR_BASE_LO : Fld := ⟨0x70310, 31, 0⟩

abbrev JOB_REPAIR_BASE_HI_ADDR_HI : Fld := ⟨0x70314, 3, 0⟩
abbrev JOB_REPAIR_BASE_HI : Fld := ⟨0x70314, 31, 0⟩

abbrev JOB_REPAIR_CFG_CFG_REFUSED : Fld := ⟨0x70318, 31, 31⟩
abbrev JOB_REPAIR_CFG_MERGE : Fld := ⟨0x70318, 30, 24⟩
abbrev JOB_REPAIR_CFG_ROUNDS : Fld := ⟨0x70318, 19, 16⟩
abbrev JOB_REPAIR_CFG_CAPACITY : Fld := ⟨0x70318, 15, 0⟩
abbrev JOB_REPAIR_CFG : Fld := ⟨0x70318, 31, 0⟩

abbrev JOB_REPAIR_CTRL_SKIP : Fld := ⟨0x7031C, 31, 31⟩
abbrev JOB_REPAIR_CTRL : Fld := ⟨0x7031C, 31, 0⟩

abbrev JOB_REPAIR_STATUS_STATE : Fld := ⟨0x70320, 31, 29⟩
abbrev JOB_REPAIR_STATUS_ROUND : Fld := ⟨0x70320, 28, 27⟩
abbrev JOB_REPAIR_STATUS_ENTRIES : Fld := ⟨0x70320, 25, 0⟩
abbrev JOB_REPAIR_STATUS : Fld := ⟨0x70320, 31, 0⟩

abbrev JOB_LAST_REPAIR_REPAIRED : Fld := ⟨0x70324, 31, 16⟩
abbrev JOB_LAST_REPAIR_UNREPAIRED : Fld := ⟨0x70324, 15, 8⟩
abbrev JOB_LAST_REPAIR_LOST : Fld := ⟨0x70324, 7, 0⟩
abbrev JOB_LAST_REPAIR : Fld := ⟨0x70324, 31, 0⟩

abbrev JOB_LAST_HOLD_CAUSE : Fld := ⟨0x70328, 31, 26⟩
abbrev JOB_LAST_HOLD_SHOT : Fld := ⟨0x70328, 25, 0⟩
abbrev JOB_LAST_HOLD : Fld := ⟨0x70328, 31, 0⟩

abbrev JOB_HOLD_PENDING_PENDING : Fld := ⟨0x7032C, 31, 0⟩
abbrev JOB_HOLD_PENDING : Fld := ⟨0x7032C, 31, 0⟩

abbrev JOB_BANK_CTRL_SWAP : Fld := ⟨0x70330, 31, 31⟩
abbrev JOB_BANK_CTRL_RESULT : Fld := ⟨0x70330, 30, 28⟩
abbrev JOB_BANK_CTRL_FROZEN_WRITE : Fld := ⟨0x70330, 27, 27⟩
abbrev JOB_BANK_CTRL_TABLE_BANK : Fld := ⟨0x70330, 1, 1⟩
abbrev JOB_BANK_CTRL_MICROCODE_BANK : Fld := ⟨0x70330, 0, 0⟩
abbrev JOB_BANK_CTRL : Fld := ⟨0x70330, 31, 0⟩

abbrev JOB_RESUME_JOB_JOB_ID : Fld := ⟨0x70340, 31, 0⟩
abbrev JOB_RESUME_JOB : Fld := ⟨0x70340, 31, 0⟩

abbrev JOB_RESUME_FURROW_VALID : Fld := ⟨0x70344, 31, 31⟩
abbrev JOB_RESUME_FURROW_POWER_LOST : Fld := ⟨0x70344, 30, 30⟩
abbrev JOB_RESUME_FURROW_PASS : Fld := ⟨0x70344, 17, 16⟩
abbrev JOB_RESUME_FURROW_FURROW : Fld := ⟨0x70344, 15, 0⟩
abbrev JOB_RESUME_FURROW : Fld := ⟨0x70344, 31, 0⟩

abbrev JOB_RESUME_SHOT_FIRST_UNFIRED : Fld := ⟨0x70348, 25, 0⟩
abbrev JOB_RESUME_SHOT : Fld := ⟨0x70348, 31, 0⟩

abbrev DMA_CH_nn_CTRL_CLAIM (i : Nat) : Fld := ⟨0x80000 + 0x100 * i, 31, 31⟩
abbrev DMA_CH_nn_CTRL_RELEASE (i : Nat) : Fld := ⟨0x80000 + 0x100 * i, 30, 30⟩
abbrev DMA_CH_nn_CTRL_START (i : Nat) : Fld := ⟨0x80000 + 0x100 * i, 29, 29⟩
abbrev DMA_CH_nn_CTRL_ABORT (i : Nat) : Fld := ⟨0x80000 + 0x100 * i, 28, 28⟩
abbrev DMA_CH_nn_CTRL_KEEP_PARTIAL (i : Nat) : Fld := ⟨0x80000 + 0x100 * i, 27, 27⟩
abbrev DMA_CH_nn_CTRL_RETRY_COUNT (i : Nat) : Fld := ⟨0x80000 + 0x100 * i, 26, 24⟩
abbrev DMA_CH_nn_CTRL (i : Nat) : Fld := ⟨0x80000 + 0x100 * i, 31, 0⟩

abbrev DMA_CH_nn_STATUS_STATE (i : Nat) : Fld := ⟨0x80004 + 0x100 * i, 31, 29⟩
abbrev DMA_CH_nn_STATUS_ERROR (i : Nat) : Fld := ⟨0x80004 + 0x100 * i, 28, 25⟩
abbrev DMA_CH_nn_STATUS_OWNER (i : Nat) : Fld := ⟨0x80004 + 0x100 * i, 21, 16⟩
abbrev DMA_CH_nn_STATUS_DESCRIPTORS (i : Nat) : Fld := ⟨0x80004 + 0x100 * i, 15, 0⟩
abbrev DMA_CH_nn_STATUS (i : Nat) : Fld := ⟨0x80004 + 0x100 * i, 31, 0⟩

abbrev DMA_CH_nn_DESC_LO_ADDR (i : Nat) : Fld := ⟨0x80008 + 0x100 * i, 31, 0⟩
abbrev DMA_CH_nn_DESC_LO (i : Nat) : Fld := ⟨0x80008 + 0x100 * i, 31, 0⟩

abbrev DMA_CH_nn_DESC_HI_ADDR (i : Nat) : Fld := ⟨0x8000C + 0x100 * i, 31, 0⟩
abbrev DMA_CH_nn_DESC_HI (i : Nat) : Fld := ⟨0x8000C + 0x100 * i, 31, 0⟩

abbrev DMA_CH_nn_TIMER_PERIOD_US (i : Nat) : Fld := ⟨0x80010 + 0x100 * i, 15, 0⟩
abbrev DMA_CH_nn_TIMER (i : Nat) : Fld := ⟨0x80010 + 0x100 * i, 31, 0⟩

abbrev DMA_CH_nn_BYTES_READ_BYTES (i : Nat) : Fld := ⟨0x80014 + 0x100 * i, 31, 0⟩
abbrev DMA_CH_nn_BYTES_READ (i : Nat) : Fld := ⟨0x80014 + 0x100 * i, 31, 0⟩

abbrev DMA_CH_nn_BYTES_WRITTEN_BYTES (i : Nat) : Fld := ⟨0x80018 + 0x100 * i, 31, 0⟩
abbrev DMA_CH_nn_BYTES_WRITTEN (i : Nat) : Fld := ⟨0x80018 + 0x100 * i, 31, 0⟩

abbrev DMA_CH_nn_CUR_LO_ADDR (i : Nat) : Fld := ⟨0x8001C + 0x100 * i, 31, 0⟩
abbrev DMA_CH_nn_CUR_LO (i : Nat) : Fld := ⟨0x8001C + 0x100 * i, 31, 0⟩

abbrev DMA_CH_nn_CUR_HI_ADDR (i : Nat) : Fld := ⟨0x80020 + 0x100 * i, 31, 0⟩
abbrev DMA_CH_nn_CUR_HI (i : Nat) : Fld := ⟨0x80020 + 0x100 * i, 31, 0⟩

abbrev HST_A_LINK_UP : Fld := ⟨0x90000, 31, 31⟩
abbrev HST_A_LINK_WIDTH : Fld := ⟨0x90000, 7, 4⟩
abbrev HST_A_LINK_SPEED : Fld := ⟨0x90000, 3, 0⟩
abbrev HST_A_LINK : Fld := ⟨0x90000, 31, 0⟩

abbrev HST_A_INT_ENABLE_ENABLE : Fld := ⟨0x90004, 31, 0⟩
abbrev HST_A_INT_ENABLE : Fld := ⟨0x90004, 31, 0⟩

abbrev HST_A_INT_PENDING_PENDING : Fld := ⟨0x90008, 31, 0⟩
abbrev HST_A_INT_PENDING : Fld := ⟨0x90008, 31, 0⟩

abbrev HST_A_LOCKED_WRITES_BURSTS : Fld := ⟨0x9000C, 31, 0⟩
abbrev HST_A_LOCKED_WRITES : Fld := ⟨0x9000C, 31, 0⟩

abbrev HST_B_LINK_UP : Fld := ⟨0x90100, 31, 31⟩
abbrev HST_B_LINK_WIDTH : Fld := ⟨0x90100, 7, 4⟩
abbrev HST_B_LINK_SPEED : Fld := ⟨0x90100, 3, 0⟩
abbrev HST_B_LINK : Fld := ⟨0x90100, 31, 0⟩

abbrev HST_B_INT_ENABLE_ENABLE : Fld := ⟨0x90104, 31, 0⟩
abbrev HST_B_INT_ENABLE : Fld := ⟨0x90104, 31, 0⟩

abbrev HST_B_INT_PENDING_PENDING : Fld := ⟨0x90108, 31, 0⟩
abbrev HST_B_INT_PENDING : Fld := ⟨0x90108, 31, 0⟩

abbrev HST_B_LOCKED_WRITES_BURSTS : Fld := ⟨0x9010C, 31, 0⟩
abbrev HST_B_LOCKED_WRITES : Fld := ⟨0x9010C, 31, 0⟩

abbrev MEM_Snn_STATUS_STATE (i : Nat) : Fld := ⟨0x100000 + 0x10000 * i, 31, 29⟩
abbrev MEM_Snn_STATUS_FREQ (i : Nat) : Fld := ⟨0x100000 + 0x10000 * i, 28, 27⟩
abbrev MEM_Snn_STATUS_REFRESH (i : Nat) : Fld := ⟨0x100000 + 0x10000 * i, 26, 25⟩
abbrev MEM_Snn_STATUS_TEMP (i : Nat) : Fld := ⟨0x100000 + 0x10000 * i, 7, 0⟩
abbrev MEM_Snn_STATUS (i : Nat) : Fld := ⟨0x100000 + 0x10000 * i, 31, 0⟩

abbrev MEM_Snn_SR_CTRL_ENTER (i : Nat) : Fld := ⟨0x100004 + 0x10000 * i, 31, 31⟩
abbrev MEM_Snn_SR_CTRL_EXIT (i : Nat) : Fld := ⟨0x100004 + 0x10000 * i, 30, 30⟩
abbrev MEM_Snn_SR_CTRL_AUTO_IDLE_US (i : Nat) : Fld := ⟨0x100004 + 0x10000 * i, 15, 0⟩
abbrev MEM_Snn_SR_CTRL (i : Nat) : Fld := ⟨0x100004 + 0x10000 * i, 31, 0⟩

abbrev MEM_Snn_RETRAIN_STATS_BURSTS (i : Nat) : Fld := ⟨0x100008 + 0x10000 * i, 31, 16⟩
abbrev MEM_Snn_RETRAIN_STATS_DEFERRED (i : Nat) : Fld := ⟨0x100008 + 0x10000 * i, 15, 0⟩
abbrev MEM_Snn_RETRAIN_STATS (i : Nat) : Fld := ⟨0x100008 + 0x10000 * i, 31, 0⟩

abbrev MEM_Snn_PC_ECC_CORRECTED (i : Nat) (j : Nat) : Fld := ⟨0x100100 + 0x10000 * i + 4 * j, 31, 16⟩
abbrev MEM_Snn_PC_ECC_UNCORRECTABLE (i : Nat) (j : Nat) : Fld := ⟨0x100100 + 0x10000 * i + 4 * j, 15, 0⟩
abbrev MEM_Snn_PC_ECC (i : Nat) (j : Nat) : Fld := ⟨0x100100 + 0x10000 * i + 4 * j, 31, 0⟩

abbrev MEM_MAP_CFG_MAP_REFUSED : Fld := ⟨0x140000, 31, 31⟩
abbrev MEM_MAP_CFG_GRAIN : Fld := ⟨0x140000, 19, 16⟩
abbrev MEM_MAP_CFG_RESERVE : Fld := ⟨0x140000, 3, 0⟩
abbrev MEM_MAP_CFG : Fld := ⟨0x140000, 31, 0⟩

abbrev MEM_CAPACITY_CAPACITY_MIB : Fld := ⟨0x140004, 16, 0⟩
abbrev MEM_CAPACITY : Fld := ⟨0x140004, 31, 0⟩

abbrev MEM_ERRORS_OUT_OF_RANGE : Fld := ⟨0x140008, 31, 16⟩
abbrev MEM_ERRORS_POISONED : Fld := ⟨0x140008, 15, 0⟩
abbrev MEM_ERRORS : Fld := ⟨0x140008, 31, 0⟩

abbrev MEM_SRAM_ECC_CORRECTED : Fld := ⟨0x14000C, 31, 16⟩
abbrev MEM_SRAM_ECC_UNCORRECTABLE : Fld := ⟨0x14000C, 15, 0⟩
abbrev MEM_SRAM_ECC : Fld := ⟨0x14000C, 31, 0⟩

abbrev MEM_PC_MAP_RETIRED_3 (j : Nat) : Fld := ⟨0x140100 + 4 * j, 31, 31⟩
abbrev MEM_PC_MAP_PHYS_3 (j : Nat) : Fld := ⟨0x140100 + 4 * j, 30, 24⟩
abbrev MEM_PC_MAP_RETIRED_2 (j : Nat) : Fld := ⟨0x140100 + 4 * j, 23, 23⟩
abbrev MEM_PC_MAP_PHYS_2 (j : Nat) : Fld := ⟨0x140100 + 4 * j, 22, 16⟩
abbrev MEM_PC_MAP_RETIRED_1 (j : Nat) : Fld := ⟨0x140100 + 4 * j, 15, 15⟩
abbrev MEM_PC_MAP_PHYS_1 (j : Nat) : Fld := ⟨0x140100 + 4 * j, 14, 8⟩
abbrev MEM_PC_MAP_RETIRED_0 (j : Nat) : Fld := ⟨0x140100 + 4 * j, 7, 7⟩
abbrev MEM_PC_MAP_PHYS_0 (j : Nat) : Fld := ⟨0x140100 + 4 * j, 6, 0⟩
abbrev MEM_PC_MAP (j : Nat) : Fld := ⟨0x140100 + 4 * j, 31, 0⟩

abbrev MEM_RETIRE_CTRL_GO : Fld := ⟨0x140200, 31, 31⟩
abbrev MEM_RETIRE_CTRL_RESULT : Fld := ⟨0x140200, 30, 28⟩
abbrev MEM_RETIRE_CTRL_COPIED_MIB : Fld := ⟨0x140200, 16, 7⟩
abbrev MEM_RETIRE_CTRL_PHYS : Fld := ⟨0x140200, 6, 0⟩
abbrev MEM_RETIRE_CTRL : Fld := ⟨0x140200, 31, 0⟩

abbrev MEM_RETIRE_CFG_AUTO : Fld := ⟨0x140204, 31, 31⟩
abbrev MEM_RETIRE_CFG_UE_LIMIT : Fld := ⟨0x140204, 15, 8⟩
abbrev MEM_RETIRE_CFG_CE_LIMIT : Fld := ⟨0x140204, 7, 0⟩
abbrev MEM_RETIRE_CFG : Fld := ⟨0x140204, 31, 0⟩

abbrev MEM_RETRAIN_CFG_PERIOD_US : Fld := ⟨0x140210, 15, 0⟩
abbrev MEM_RETRAIN_CFG : Fld := ⟨0x140210, 31, 0⟩

abbrev MEM_FREQ_CTRL_GO : Fld := ⟨0x140220, 31, 31⟩
abbrev MEM_FREQ_CTRL_RESULT : Fld := ⟨0x140220, 30, 28⟩
abbrev MEM_FREQ_CTRL_FREQ : Fld := ⟨0x140220, 1, 0⟩
abbrev MEM_FREQ_CTRL : Fld := ⟨0x140220, 31, 0⟩

abbrev MEM_RANGE_FIRST_ADDR_4K : Fld := ⟨0x140230, 24, 0⟩
abbrev MEM_RANGE_FIRST : Fld := ⟨0x140230, 31, 0⟩

abbrev MEM_RANGE_END_ADDR_4K : Fld := ⟨0x140234, 24, 0⟩
abbrev MEM_RANGE_END : Fld := ⟨0x140234, 31, 0⟩

abbrev MEM_RANGE_CTRL_GO : Fld := ⟨0x140238, 31, 31⟩
abbrev MEM_RANGE_CTRL_RESULT : Fld := ⟨0x140238, 30, 28⟩
abbrev MEM_RANGE_CTRL_CMD : Fld := ⟨0x140238, 25, 24⟩
abbrev MEM_RANGE_CTRL_RATE_GBS : Fld := ⟨0x140238, 7, 0⟩
abbrev MEM_RANGE_CTRL : Fld := ⟨0x140238, 31, 0⟩

abbrev MEM_SCRUB_BLOCKS_COUNT : Fld := ⟨0x140240, 31, 0⟩
abbrev MEM_SCRUB_BLOCKS : Fld := ⟨0x140240, 31, 0⟩

abbrev MEM_SCRUB_CORRECTED_COUNT : Fld := ⟨0x140244, 31, 0⟩
abbrev MEM_SCRUB_CORRECTED : Fld := ⟨0x140244, 31, 0⟩

abbrev MEM_SCRUB_UNCORRECTABLE_COUNT : Fld := ⟨0x140248, 31, 0⟩
abbrev MEM_SCRUB_UNCORRECTABLE : Fld := ⟨0x140248, 31, 0⟩

abbrev MEM_SCRUB_FIRST_UE_LO_ADDR_LO : Fld := ⟨0x14024C, 31, 0⟩
abbrev MEM_SCRUB_FIRST_UE_LO : Fld := ⟨0x14024C, 31, 0⟩

abbrev MEM_SCRUB_FIRST_UE_HI_VALID : Fld := ⟨0x140250, 31, 31⟩
abbrev MEM_SCRUB_FIRST_UE_HI_SOURCE : Fld := ⟨0x140250, 29, 24⟩
abbrev MEM_SCRUB_FIRST_UE_HI_ADDR_HI : Fld := ⟨0x140250, 3, 0⟩
abbrev MEM_SCRUB_FIRST_UE_HI : Fld := ⟨0x140250, 31, 0⟩

abbrev MEM_SCRUB_TIME_COUNT : Fld := ⟨0x140254, 31, 0⟩
abbrev MEM_SCRUB_TIME : Fld := ⟨0x140254, 31, 0⟩

abbrev MEM_PATROL_CFG_ENABLE : Fld := ⟨0x140260, 31, 31⟩
abbrev MEM_PATROL_CFG_PERIOD_MIN : Fld := ⟨0x140260, 15, 0⟩
abbrev MEM_PATROL_CFG : Fld := ⟨0x140260, 31, 0⟩

abbrev MEM_PATROL_STATUS_PASSES : Fld := ⟨0x140264, 31, 16⟩
abbrev MEM_PATROL_STATUS_PROGRESS : Fld := ⟨0x140264, 6, 0⟩
abbrev MEM_PATROL_STATUS : Fld := ⟨0x140264, 31, 0⟩

abbrev MEM_UE_LAST_LO_ADDR_LO : Fld := ⟨0x140270, 31, 0⟩
abbrev MEM_UE_LAST_LO : Fld := ⟨0x140270, 31, 0⟩

abbrev MEM_UE_LAST_HI_VALID : Fld := ⟨0x140274, 31, 31⟩
abbrev MEM_UE_LAST_HI_SOURCE : Fld := ⟨0x140274, 29, 24⟩
abbrev MEM_UE_LAST_HI_ADDR_HI : Fld := ⟨0x140274, 3, 0⟩
abbrev MEM_UE_LAST_HI : Fld := ⟨0x140274, 31, 0⟩

abbrev MEM_FLIP_ADDR_LO_ADDR : Fld := ⟨0x140300, 31, 3⟩
abbrev MEM_FLIP_ADDR_LO : Fld := ⟨0x140300, 31, 0⟩

abbrev MEM_FLIP_ADDR_HI_SPACE : Fld := ⟨0x140304, 31, 31⟩
abbrev MEM_FLIP_ADDR_HI_ADDR_HI : Fld := ⟨0x140304, 3, 0⟩
abbrev MEM_FLIP_ADDR_HI : Fld := ⟨0x140304, 31, 0⟩

abbrev MEM_FLIP_DATA_LO_MASK : Fld := ⟨0x140308, 31, 0⟩
abbrev MEM_FLIP_DATA_LO : Fld := ⟨0x140308, 31, 0⟩

abbrev MEM_FLIP_DATA_HI_MASK : Fld := ⟨0x14030C, 31, 0⟩
abbrev MEM_FLIP_DATA_HI : Fld := ⟨0x14030C, 31, 0⟩

abbrev MEM_FLIP_CTRL_ARM : Fld := ⟨0x140310, 31, 31⟩
abbrev MEM_FLIP_CTRL_ARMED : Fld := ⟨0x140310, 30, 30⟩
abbrev MEM_FLIP_CTRL_REFUSED : Fld := ⟨0x140310, 29, 29⟩
abbrev MEM_FLIP_CTRL_CHECK : Fld := ⟨0x140310, 7, 0⟩
abbrev MEM_FLIP_CTRL : Fld := ⟨0x140310, 31, 0⟩

abbrev TLT_SLOT_OVERRUNS_COUNT : Fld := ⟨0x200004, 31, 0⟩
abbrev TLT_SLOT_OVERRUNS : Fld := ⟨0x200004, 31, 0⟩

abbrev TLT_JOB_CTRL_GO : Fld := ⟨0x200100, 31, 31⟩
abbrev TLT_JOB_CTRL_CMD : Fld := ⟨0x200100, 27, 24⟩
abbrev TLT_JOB_CTRL_SLOT : Fld := ⟨0x200100, 21, 20⟩
abbrev TLT_JOB_CTRL_CONTINUE : Fld := ⟨0x200100, 16, 16⟩
abbrev TLT_JOB_CTRL : Fld := ⟨0x200100, 31, 0⟩

abbrev TLT_JOB_STATUS_STATE : Fld := ⟨0x200104, 31, 29⟩
abbrev TLT_JOB_STATUS_REASON : Fld := ⟨0x200104, 23, 20⟩
abbrev TLT_JOB_STATUS_OVERRUN : Fld := ⟨0x200104, 0, 0⟩
abbrev TLT_JOB_STATUS : Fld := ⟨0x200104, 31, 0⟩

abbrev TLT_JOB_GEOMETRY_NTY : Fld := ⟨0x200108, 31, 10⟩
abbrev TLT_JOB_GEOMETRY_NTX : Fld := ⟨0x200108, 9, 0⟩
abbrev TLT_JOB_GEOMETRY : Fld := ⟨0x200108, 31, 0⟩

abbrev TLT_JOB_SRC_ADDR_64 : Fld := ⟨0x200110, 31, 0⟩
abbrev TLT_JOB_SRC : Fld := ⟨0x200110, 31, 0⟩

abbrev TLT_JOB_DST_ADDR_64 : Fld := ⟨0x200114, 31, 0⟩
abbrev TLT_JOB_DST : Fld := ⟨0x200114, 31, 0⟩

abbrev TLT_JOB_OVF_ADDR_64 : Fld := ⟨0x200118, 31, 0⟩
abbrev TLT_JOB_OVF : Fld := ⟨0x200118, 31, 0⟩

abbrev TLT_JOB_CTX_ADDR_64 : Fld := ⟨0x20011C, 31, 0⟩
abbrev TLT_JOB_CTX : Fld := ⟨0x20011C, 31, 0⟩

abbrev TLT_JOB_DST_LIMIT_LIMIT : Fld := ⟨0x200120, 31, 0⟩
abbrev TLT_JOB_DST_LIMIT : Fld := ⟨0x200120, 31, 0⟩

abbrev TLT_JOB_OVF_LIMIT_LIMIT : Fld := ⟨0x200124, 31, 0⟩
abbrev TLT_JOB_OVF_LIMIT : Fld := ⟨0x200124, 31, 0⟩

abbrev TLT_JOB_SLOT_COUNT_COUNT : Fld := ⟨0x200130, 31, 0⟩
abbrev TLT_JOB_SLOT_COUNT : Fld := ⟨0x200130, 31, 0⟩

abbrev TLT_JOB_TILE_COUNT_COUNT : Fld := ⟨0x200134, 31, 0⟩
abbrev TLT_JOB_TILE_COUNT : Fld := ⟨0x200134, 31, 0⟩

abbrev TLT_JOB_OVF_BITS_COUNT : Fld := ⟨0x200138, 31, 0⟩
abbrev TLT_JOB_OVF_BITS : Fld := ⟨0x200138, 31, 0⟩

abbrev TLT_RB_CTRL_ENABLE : Fld := ⟨0x200200, 31, 31⟩
abbrev TLT_RB_CTRL_PLANE : Fld := ⟨0x200200, 29, 28⟩
abbrev TLT_RB_CTRL_TILE_ROWS : Fld := ⟨0x200200, 9, 0⟩
abbrev TLT_RB_CTRL : Fld := ⟨0x200200, 31, 0⟩

abbrev TLT_RB_FIRST_FIRST_TILE_ROW : Fld := ⟨0x200204, 21, 0⟩
abbrev TLT_RB_FIRST : Fld := ⟨0x200204, 31, 0⟩

abbrev TLT_RB_BUF_ADDR_64 : Fld := ⟨0x200208, 31, 0⟩
abbrev TLT_RB_BUF : Fld := ⟨0x200208, 31, 0⟩

abbrev TLT_RB_STATUS_STATE : Fld := ⟨0x20020C, 31, 29⟩
abbrev TLT_RB_STATUS_PASS : Fld := ⟨0x20020C, 17, 16⟩
abbrev TLT_RB_STATUS_FURROW : Fld := ⟨0x20020C, 15, 0⟩
abbrev TLT_RB_STATUS : Fld := ⟨0x20020C, 31, 0⟩

abbrev HRW_Tnn_STATUS_ROLE (i : Nat) : Fld := ⟨0x300000 + 0x1000 * i, 31, 29⟩
abbrev HRW_Tnn_STATUS_AUDIT_POSITION (i : Nat) : Fld := ⟨0x300000 + 0x1000 * i, 20, 16⟩
abbrev HRW_Tnn_STATUS_POSITION (i : Nat) : Fld := ⟨0x300000 + 0x1000 * i, 4, 0⟩
abbrev HRW_Tnn_STATUS (i : Nat) : Fld := ⟨0x300000 + 0x1000 * i, 31, 0⟩

abbrev HRW_Tnn_ECC_CORRECTED (i : Nat) : Fld := ⟨0x300004 + 0x1000 * i, 31, 16⟩
abbrev HRW_Tnn_ECC_UNCORRECTABLE (i : Nat) : Fld := ⟨0x300004 + 0x1000 * i, 15, 0⟩
abbrev HRW_Tnn_ECC (i : Nat) : Fld := ⟨0x300004 + 0x1000 * i, 31, 0⟩

abbrev HRW_Tnn_AUDITS_PASSED (i : Nat) : Fld := ⟨0x300008 + 0x1000 * i, 31, 0⟩
abbrev HRW_Tnn_AUDITS (i : Nat) : Fld := ⟨0x300008 + 0x1000 * i, 31, 0⟩

abbrev HRW_POSITION_MAP_TILE_3 (j : Nat) : Fld := ⟨0x330000 + 4 * j, 29, 24⟩
abbrev HRW_POSITION_MAP_TILE_2 (j : Nat) : Fld := ⟨0x330000 + 4 * j, 21, 16⟩
abbrev HRW_POSITION_MAP_TILE_1 (j : Nat) : Fld := ⟨0x330000 + 4 * j, 13, 8⟩
abbrev HRW_POSITION_MAP_TILE_0 (j : Nat) : Fld := ⟨0x330000 + 4 * j, 5, 0⟩
abbrev HRW_POSITION_MAP (j : Nat) : Fld := ⟨0x330000 + 4 * j, 31, 0⟩

abbrev HRW_AUDIT_CTRL_ENABLE : Fld := ⟨0x330020, 31, 31⟩
abbrev HRW_AUDIT_CTRL : Fld := ⟨0x330020, 31, 0⟩

abbrev HRW_AUDIT_STATUS_STATE : Fld := ⟨0x330024, 31, 29⟩
abbrev HRW_AUDIT_STATUS_POSITION : Fld := ⟨0x330024, 20, 16⟩
abbrev HRW_AUDIT_STATUS_KIND : Fld := ⟨0x330024, 15, 15⟩
abbrev HRW_AUDIT_STATUS_AUDITOR : Fld := ⟨0x330024, 13, 8⟩
abbrev HRW_AUDIT_STATUS : Fld := ⟨0x330024, 31, 0⟩

abbrev HRW_MISMATCH_0_OUTCOME : Fld := ⟨0x330028, 31, 29⟩
abbrev HRW_MISMATCH_0_KIND : Fld := ⟨0x330028, 28, 28⟩
abbrev HRW_MISMATCH_0_LIVE_TILE : Fld := ⟨0x330028, 27, 22⟩
abbrev HRW_MISMATCH_0_AUDITOR_TILE : Fld := ⟨0x330028, 21, 16⟩
abbrev HRW_MISMATCH_0_SECOND_TILE : Fld := ⟨0x330028, 15, 10⟩
abbrev HRW_MISMATCH_0_POSITION : Fld := ⟨0x330028, 4, 0⟩
abbrev HRW_MISMATCH_0 : Fld := ⟨0x330028, 31, 0⟩

abbrev HRW_MISMATCH_1_PASS : Fld := ⟨0x33002C, 17, 16⟩
abbrev HRW_MISMATCH_1_FURROW : Fld := ⟨0x33002C, 15, 0⟩
abbrev HRW_MISMATCH_1 : Fld := ⟨0x33002C, 31, 0⟩

abbrev HRW_MISMATCH_2_SEGMENT : Fld := ⟨0x330030, 18, 0⟩
abbrev HRW_MISMATCH_2 : Fld := ⟨0x330030, 31, 0⟩

abbrev HRW_RETIRE_CTRL_GO : Fld := ⟨0x330034, 31, 31⟩
abbrev HRW_RETIRE_CTRL_RESULT : Fld := ⟨0x330034, 29, 28⟩
abbrev HRW_RETIRE_CTRL_TILE : Fld := ⟨0x330034, 5, 0⟩
abbrev HRW_RETIRE_CTRL : Fld := ⟨0x330034, 31, 0⟩

abbrev HRW_LAST_FURROW_PASS : Fld := ⟨0x330040, 17, 16⟩
abbrev HRW_LAST_FURROW_FURROW : Fld := ⟨0x330040, 15, 0⟩
abbrev HRW_LAST_FURROW : Fld := ⟨0x330040, 31, 0⟩

abbrev HRW_LAST_OVERLAP_PIXELS_COUNT : Fld := ⟨0x330044, 31, 0⟩
abbrev HRW_LAST_OVERLAP_PIXELS : Fld := ⟨0x330044, 31, 0⟩

abbrev HRW_LAST_SATURATED_PIXELS_COUNT : Fld := ⟨0x330048, 31, 0⟩
abbrev HRW_LAST_SATURATED_PIXELS : Fld := ⟨0x330048, 31, 0⟩

abbrev HRW_LAST_SWEEPS_EXTRA_SWEEPS : Fld := ⟨0x33004C, 31, 0⟩
abbrev HRW_LAST_SWEEPS : Fld := ⟨0x33004C, 31, 0⟩

abbrev HRW_LAST_LEAD_STARVED_HOLDS : Fld := ⟨0x330050, 31, 16⟩
abbrev HRW_LAST_LEAD_MIN_LEAD : Fld := ⟨0x330050, 10, 0⟩
abbrev HRW_LAST_LEAD : Fld := ⟨0x330050, 31, 0⟩

abbrev MDR_MAP_BASE_LO_ADDR_LO : Fld := ⟨0x400000, 31, 0⟩
abbrev MDR_MAP_BASE_LO : Fld := ⟨0x400000, 31, 0⟩

abbrev MDR_MAP_BASE_HI_ADDR_HI : Fld := ⟨0x400004, 3, 0⟩
abbrev MDR_MAP_BASE_HI : Fld := ⟨0x400004, 31, 0⟩

abbrev MDR_STATUS_STATE : Fld := ⟨0x400008, 31, 29⟩
abbrev MDR_STATUS_BASE_REFUSED : Fld := ⟨0x400008, 28, 28⟩
abbrev MDR_STATUS_PREV_VALID : Fld := ⟨0x400008, 27, 27⟩
abbrev MDR_STATUS_CUR_VALID : Fld := ⟨0x400008, 26, 26⟩
abbrev MDR_STATUS_NEXT_VALID : Fld := ⟨0x400008, 25, 25⟩
abbrev MDR_STATUS_NEXT_ROWS : Fld := ⟨0x400008, 18, 0⟩
abbrev MDR_STATUS : Fld := ⟨0x400008, 31, 0⟩

abbrev MDR_LAST_MULT_MAX : Fld := ⟨0x400010, 31, 16⟩
abbrev MDR_LAST_MULT_MIN : Fld := ⟨0x400010, 15, 0⟩
abbrev MDR_LAST_MULT : Fld := ⟨0x400010, 31, 0⟩

abbrev MDR_LAST_CLAMPS_MULT_CLAMPED : Fld := ⟨0x400014, 31, 0⟩
abbrev MDR_LAST_CLAMPS : Fld := ⟨0x400014, 31, 0⟩

abbrev MDR_LAST_TARGET_CLAMPED_COUNT : Fld := ⟨0x400018, 31, 0⟩
abbrev MDR_LAST_TARGET_CLAMPED : Fld := ⟨0x400018, 31, 0⟩

abbrev MDR_LAST_STARVED_STARVED_HOLDS : Fld := ⟨0x40001C, 31, 16⟩
abbrev MDR_LAST_STARVED_MIN_LOOKAHEAD : Fld := ⟨0x40001C, 15, 0⟩
abbrev MDR_LAST_STARVED : Fld := ⟨0x40001C, 31, 0⟩

abbrev MDT_LAST_PEAK_PEAK_HEAT : Fld := ⟨0x440000, 23, 0⟩
abbrev MDT_LAST_PEAK : Fld := ⟨0x440000, 31, 0⟩

abbrev MDT_LAST_TRAIL_PEAK_PEAK_HEAT : Fld := ⟨0x440004, 23, 0⟩
abbrev MDT_LAST_TRAIL_PEAK : Fld := ⟨0x440004, 31, 0⟩

abbrev MDT_LAST_SCALED_COUNT : Fld := ⟨0x440008, 31, 0⟩
abbrev MDT_LAST_SCALED : Fld := ⟨0x440008, 31, 0⟩

abbrev MDT_LAST_PAUSE_RESET : Fld := ⟨0x44000C, 31, 31⟩
abbrev MDT_LAST_PAUSE_N : Fld := ⟨0x44000C, 15, 0⟩
abbrev MDT_LAST_PAUSE : Fld := ⟨0x44000C, 31, 0⟩

abbrev SOW_Snn_STATUS_ROLE (i : Nat) : Fld := ⟨0x500000 + 0x1000 * i, 31, 29⟩
abbrev SOW_Snn_STATUS_AUDIT_GROUP (i : Nat) : Fld := ⟨0x500000 + 0x1000 * i, 20, 16⟩
abbrev SOW_Snn_STATUS_GROUP (i : Nat) : Fld := ⟨0x500000 + 0x1000 * i, 4, 0⟩
abbrev SOW_Snn_STATUS (i : Nat) : Fld := ⟨0x500000 + 0x1000 * i, 31, 0⟩

abbrev SOW_Snn_ECC_CORRECTED (i : Nat) : Fld := ⟨0x500004 + 0x1000 * i, 31, 16⟩
abbrev SOW_Snn_ECC_UNCORRECTABLE (i : Nat) : Fld := ⟨0x500004 + 0x1000 * i, 15, 0⟩
abbrev SOW_Snn_ECC (i : Nat) : Fld := ⟨0x500004 + 0x1000 * i, 31, 0⟩

abbrev SOW_Snn_AUDITS_PASSED (i : Nat) : Fld := ⟨0x500008 + 0x1000 * i, 31, 0⟩
abbrev SOW_Snn_AUDITS (i : Nat) : Fld := ⟨0x500008 + 0x1000 * i, 31, 0⟩

abbrev SOW_GROUP_MAP_SLICE_3 (j : Nat) : Fld := ⟨0x520000 + 4 * j, 28, 24⟩
abbrev SOW_GROUP_MAP_SLICE_2 (j : Nat) : Fld := ⟨0x520000 + 4 * j, 20, 16⟩
abbrev SOW_GROUP_MAP_SLICE_1 (j : Nat) : Fld := ⟨0x520000 + 4 * j, 12, 8⟩
abbrev SOW_GROUP_MAP_SLICE_0 (j : Nat) : Fld := ⟨0x520000 + 4 * j, 4, 0⟩
abbrev SOW_GROUP_MAP (j : Nat) : Fld := ⟨0x520000 + 4 * j, 31, 0⟩

abbrev SOW_AUDIT_CTRL_ENABLE : Fld := ⟨0x520020, 31, 31⟩
abbrev SOW_AUDIT_CTRL : Fld := ⟨0x520020, 31, 0⟩

abbrev SOW_AUDIT_STATUS_STATE : Fld := ⟨0x520024, 31, 29⟩
abbrev SOW_AUDIT_STATUS_GROUP : Fld := ⟨0x520024, 20, 16⟩
abbrev SOW_AUDIT_STATUS_AUDITOR : Fld := ⟨0x520024, 12, 8⟩
abbrev SOW_AUDIT_STATUS : Fld := ⟨0x520024, 31, 0⟩

abbrev SOW_MISMATCH_0_OUTCOME : Fld := ⟨0x520028, 31, 29⟩
abbrev SOW_MISMATCH_0_LIVE_SLICE : Fld := ⟨0x520028, 20, 16⟩
abbrev SOW_MISMATCH_0_AUDITOR_SLICE : Fld := ⟨0x520028, 12, 8⟩
abbrev SOW_MISMATCH_0_GROUP : Fld := ⟨0x520028, 4, 0⟩
abbrev SOW_MISMATCH_0 : Fld := ⟨0x520028, 31, 0⟩

abbrev SOW_MISMATCH_1_PASS : Fld := ⟨0x52002C, 17, 16⟩
abbrev SOW_MISMATCH_1_FURROW : Fld := ⟨0x52002C, 15, 0⟩
abbrev SOW_MISMATCH_1 : Fld := ⟨0x52002C, 31, 0⟩

abbrev SOW_MISMATCH_2_FIRST_SHOT : Fld := ⟨0x520030, 25, 0⟩
abbrev SOW_MISMATCH_2 : Fld := ⟨0x520030, 31, 0⟩

abbrev SOW_RETIRE_CTRL_GO : Fld := ⟨0x520034, 31, 31⟩
abbrev SOW_RETIRE_CTRL_RESULT : Fld := ⟨0x520034, 29, 28⟩
abbrev SOW_RETIRE_CTRL_SLICE : Fld := ⟨0x520034, 4, 0⟩
abbrev SOW_RETIRE_CTRL : Fld := ⟨0x520034, 31, 0⟩

abbrev SOW_CEILING_IN_FORCE_MAX_QUANTA : Fld := ⟨0x520038, 25, 16⟩
abbrev SOW_CEILING_IN_FORCE_PER_FURROW : Fld := ⟨0x520038, 13, 4⟩
abbrev SOW_CEILING_IN_FORCE_MAX_CODE : Fld := ⟨0x520038, 3, 0⟩
abbrev SOW_CEILING_IN_FORCE : Fld := ⟨0x520038, 31, 0⟩

abbrev SOW_LAST_CEILING_CLAMPED_PIXELS : Fld := ⟨0x520040, 31, 0⟩
abbrev SOW_LAST_CEILING_CLAMPED : Fld := ⟨0x520040, 31, 0⟩

abbrev SOW_LAST_STUCK_EXCESS_PIXELS : Fld := ⟨0x520044, 31, 0⟩
abbrev SOW_LAST_STUCK_EXCESS : Fld := ⟨0x520044, 31, 0⟩

abbrev SOW_LAST_NO_EXPOSURE_PIXELS : Fld := ⟨0x520048, 31, 0⟩
abbrev SOW_LAST_NO_EXPOSURE : Fld := ⟨0x520048, 31, 0⟩

abbrev SOW_LAST_EXCESS_QUANTA_QUANTA : Fld := ⟨0x52004C, 31, 0⟩
abbrev SOW_LAST_EXCESS_QUANTA : Fld := ⟨0x52004C, 31, 0⟩

abbrev SOW_LAST_DISPLACED_OUT_EXPOSURES : Fld := ⟨0x520050, 31, 0⟩
abbrev SOW_LAST_DISPLACED_OUT : Fld := ⟨0x520050, 31, 0⟩

abbrev SOW_GUARD_TRIPS_COUNT : Fld := ⟨0x520054, 31, 0⟩
abbrev SOW_GUARD_TRIPS : Fld := ⟨0x520054, 31, 0⟩

abbrev DRL_Gnn_STATUS_STATE (i : Nat) : Fld := ⟨0x600000 + 0x10000 * i, 31, 29⟩
abbrev DRL_Gnn_STATUS_BK_ALIGNED (i : Nat) : Fld := ⟨0x600000 + 0x10000 * i, 28, 28⟩
abbrev DRL_Gnn_STATUS_CK_OK (i : Nat) : Fld := ⟨0x600000 + 0x10000 * i, 27, 27⟩
abbrev DRL_Gnn_STATUS_LOCKED (i : Nat) : Fld := ⟨0x600000 + 0x10000 * i, 26, 18⟩
abbrev DRL_Gnn_STATUS_OUT (i : Nat) : Fld := ⟨0x600000 + 0x10000 * i, 17, 9⟩
abbrev DRL_Gnn_STATUS_L8_CARRIES (i : Nat) : Fld := ⟨0x600000 + 0x10000 * i, 3, 0⟩
abbrev DRL_Gnn_STATUS (i : Nat) : Fld := ⟨0x600000 + 0x10000 * i, 31, 0⟩

abbrev DRL_Gnn_CTRL_TRAIN (i : Nat) : Fld := ⟨0x600004 + 0x10000 * i, 31, 31⟩
abbrev DRL_Gnn_CTRL_BK_SLIP (i : Nat) : Fld := ⟨0x600004 + 0x10000 * i, 30, 30⟩
abbrev DRL_Gnn_CTRL_SPARE_GO (i : Nat) : Fld := ⟨0x600004 + 0x10000 * i, 29, 29⟩
abbrev DRL_Gnn_CTRL_SPARE_LANE (i : Nat) : Fld := ⟨0x600004 + 0x10000 * i, 19, 16⟩
abbrev DRL_Gnn_CTRL_AUTO_ALIGN (i : Nat) : Fld := ⟨0x600004 + 0x10000 * i, 0, 0⟩
abbrev DRL_Gnn_CTRL (i : Nat) : Fld := ⟨0x600004 + 0x10000 * i, 31, 0⟩

abbrev DRL_Gnn_TAPS_OVERRIDE (i : Nat) (j : Nat) : Fld := ⟨0x600010 + 0x10000 * i + 4 * j, 31, 31⟩
abbrev DRL_Gnn_TAPS_SWING (i : Nat) (j : Nat) : Fld := ⟨0x600010 + 0x10000 * i + 4 * j, 27, 24⟩
abbrev DRL_Gnn_TAPS_PRE (i : Nat) (j : Nat) : Fld := ⟨0x600010 + 0x10000 * i + 4 * j, 11, 8⟩
abbrev DRL_Gnn_TAPS_POST (i : Nat) (j : Nat) : Fld := ⟨0x600010 + 0x10000 * i + 4 * j, 4, 0⟩
abbrev DRL_Gnn_TAPS (i : Nat) (j : Nat) : Fld := ⟨0x600010 + 0x10000 * i + 4 * j, 31, 0⟩

abbrev DRL_Gnn_FOM_TAG (i : Nat) (j : Nat) : Fld := ⟨0x600040 + 0x10000 * i + 4 * j, 31, 24⟩
abbrev DRL_Gnn_FOM_H_OPEN (i : Nat) (j : Nat) : Fld := ⟨0x600040 + 0x10000 * i + 4 * j, 15, 8⟩
abbrev DRL_Gnn_FOM_V_OPEN (i : Nat) (j : Nat) : Fld := ⟨0x600040 + 0x10000 * i + 4 * j, 7, 0⟩
abbrev DRL_Gnn_FOM (i : Nat) (j : Nat) : Fld := ⟨0x600040 + 0x10000 * i + 4 * j, 31, 0⟩

abbrev DRL_Gnn_NAKS_NAKS (i : Nat) : Fld := ⟨0x600080 + 0x10000 * i, 31, 16⟩
abbrev DRL_Gnn_NAKS_TIMEOUTS (i : Nat) : Fld := ⟨0x600080 + 0x10000 * i, 15, 0⟩
abbrev DRL_Gnn_NAKS (i : Nat) : Fld := ⟨0x600080 + 0x10000 * i, 31, 0⟩

abbrev DRL_Gnn_RETRANSMITS_RETRANSMITS (i : Nat) : Fld := ⟨0x600084 + 0x10000 * i, 31, 16⟩
abbrev DRL_Gnn_RETRANSMITS_BK_WORD_ERRORS (i : Nat) : Fld := ⟨0x600084 + 0x10000 * i, 15, 0⟩
abbrev DRL_Gnn_RETRANSMITS (i : Nat) : Fld := ⟨0x600084 + 0x10000 * i, 31, 0⟩

abbrev DRL_Gnn_MISSES_DEADLINE (i : Nat) : Fld := ⟨0x600088 + 0x10000 * i, 31, 16⟩
abbrev DRL_Gnn_MISSES_VOIDED (i : Nat) : Fld := ⟨0x600088 + 0x10000 * i, 15, 8⟩
abbrev DRL_Gnn_MISSES_HEAD_REPORTED (i : Nat) : Fld := ⟨0x600088 + 0x10000 * i, 7, 0⟩
abbrev DRL_Gnn_MISSES (i : Nat) : Fld := ⟨0x600088 + 0x10000 * i, 31, 0⟩

abbrev DRL_Gnn_LEAD_REPORT_GAPS (i : Nat) : Fld := ⟨0x60008C + 0x10000 * i, 31, 16⟩
abbrev DRL_Gnn_LEAD_MIN_LEAD (i : Nat) : Fld := ⟨0x60008C + 0x10000 * i, 6, 0⟩
abbrev DRL_Gnn_LEAD (i : Nat) : Fld := ⟨0x60008C + 0x10000 * i, 31, 0⟩

abbrev DRL_HEAD_ID_MODEL : Fld := ⟨0x780000, 31, 16⟩
abbrev DRL_HEAD_ID_MAKER : Fld := ⟨0x780000, 15, 0⟩
abbrev DRL_HEAD_ID : Fld := ⟨0x780000, 31, 0⟩

abbrev DRL_HEAD_SERIAL_LO_SERIAL : Fld := ⟨0x780004, 31, 0⟩
abbrev DRL_HEAD_SERIAL_LO : Fld := ⟨0x780004, 31, 0⟩

abbrev DRL_HEAD_SERIAL_HI_SERIAL : Fld := ⟨0x780008, 31, 0⟩
abbrev DRL_HEAD_SERIAL_HI : Fld := ⟨0x780008, 31, 0⟩

abbrev DRL_HEAD_RANK_MAX_SHOT_KHZ : Fld := ⟨0x78000C, 31, 16⟩
abbrev DRL_HEAD_RANK_LANE_RATES : Fld := ⟨0x78000C, 11, 10⟩
abbrev DRL_HEAD_RANK_N_ROW : Fld := ⟨0x78000C, 9, 0⟩
abbrev DRL_HEAD_RANK : Fld := ⟨0x78000C, 31, 0⟩

abbrev DRL_HEAD_TIMING_BLANK_GUARD : Fld := ⟨0x780010, 31, 16⟩
abbrev DRL_HEAD_TIMING_FIRE_DELAY : Fld := ⟨0x780010, 15, 0⟩
abbrev DRL_HEAD_TIMING : Fld := ⟨0x780010, 31, 0⟩

abbrev DRL_HEAD_TQ_TQ_MAX : Fld := ⟨0x780014, 31, 16⟩
abbrev DRL_HEAD_TQ_TQ_MIN : Fld := ⟨0x780014, 15, 0⟩
abbrev DRL_HEAD_TQ : Fld := ⟨0x780014, 31, 0⟩

abbrev DRL_HEAD_TEMP_TEMP_CRIT : Fld := ⟨0x780018, 31, 24⟩
abbrev DRL_HEAD_TEMP_TEMP_WARN : Fld := ⟨0x780018, 23, 16⟩
abbrev DRL_HEAD_TEMP_TEMP_NOW : Fld := ⟨0x780018, 15, 8⟩
abbrev DRL_HEAD_TEMP_ALARMS : Fld := ⟨0x780018, 7, 0⟩
abbrev DRL_HEAD_TEMP : Fld := ⟨0x780018, 31, 0⟩

abbrev DRL_HEAD_MEMORY_RESULT : Fld := ⟨0x78001C, 31, 29⟩
abbrev DRL_HEAD_MEMORY_DEFECT_COUNT : Fld := ⟨0x78001C, 28, 14⟩
abbrev DRL_HEAD_MEMORY_IGNORED : Fld := ⟨0x78001C, 13, 8⟩
abbrev DRL_HEAD_MEMORY_GENERATION : Fld := ⟨0x78001C, 7, 0⟩
abbrev DRL_HEAD_MEMORY : Fld := ⟨0x78001C, 31, 0⟩

abbrev DRL_ADAPT_CTRL_DWELL : Fld := ⟨0x780020, 31, 16⟩
abbrev DRL_ADAPT_CTRL_HYST : Fld := ⟨0x780020, 15, 0⟩
abbrev DRL_ADAPT_CTRL : Fld := ⟨0x780020, 31, 0⟩

abbrev ENC_Cnn_STATUS_STATE (i : Nat) : Fld := ⟨0x800000 + 0x100 * i, 31, 30⟩
abbrev ENC_Cnn_STATUS_DIR_KNOWN (i : Nat) : Fld := ⟨0x800000 + 0x100 * i, 29, 29⟩
abbrev ENC_Cnn_STATUS_DIR (i : Nat) : Fld := ⟨0x800000 + 0x100 * i, 28, 28⟩
abbrev ENC_Cnn_STATUS_SPEED_VALID (i : Nat) : Fld := ⟨0x800000 + 0x100 * i, 27, 27⟩
abbrev ENC_Cnn_STATUS_SPEED (i : Nat) : Fld := ⟨0x800000 + 0x100 * i, 19, 0⟩
abbrev ENC_Cnn_STATUS (i : Nat) : Fld := ⟨0x800000 + 0x100 * i, 31, 0⟩

abbrev ENC_Cnn_CTRL_REREF (i : Nat) : Fld := ⟨0x800004 + 0x100 * i, 31, 31⟩
abbrev ENC_Cnn_CTRL_INVERT (i : Nat) : Fld := ⟨0x800004 + 0x100 * i, 0, 0⟩
abbrev ENC_Cnn_CTRL (i : Nat) : Fld := ⟨0x800004 + 0x100 * i, 31, 0⟩

abbrev ENC_Cnn_TRIM_SIN_OFFSET (i : Nat) : Fld := ⟨0x800008 + 0x100 * i, 31, 22⟩
abbrev ENC_Cnn_TRIM_COS_OFFSET (i : Nat) : Fld := ⟨0x800008 + 0x100 * i, 21, 12⟩
abbrev ENC_Cnn_TRIM_COS_GAIN (i : Nat) : Fld := ⟨0x800008 + 0x100 * i, 11, 0⟩
abbrev ENC_Cnn_TRIM (i : Nat) : Fld := ⟨0x800008 + 0x100 * i, 31, 0⟩

abbrev ENC_Cnn_AMPLITUDE_MIN (i : Nat) : Fld := ⟨0x80000C + 0x100 * i, 31, 16⟩
abbrev ENC_Cnn_AMPLITUDE_NOW (i : Nat) : Fld := ⟨0x80000C + 0x100 * i, 15, 0⟩
abbrev ENC_Cnn_AMPLITUDE (i : Nat) : Fld := ⟨0x80000C + 0x100 * i, 31, 0⟩

abbrev ENC_Cnn_INDEX_PERIOD_PERIOD (i : Nat) : Fld := ⟨0x800010 + 0x100 * i, 23, 0⟩
abbrev ENC_Cnn_INDEX_PERIOD (i : Nat) : Fld := ⟨0x800010 + 0x100 * i, 31, 0⟩

abbrev ENC_Cnn_INDEX_LAST_VALID (i : Nat) : Fld := ⟨0x800014 + 0x100 * i, 31, 31⟩
abbrev ENC_Cnn_INDEX_LAST_DIFF (i : Nat) : Fld := ⟨0x800014 + 0x100 * i, 23, 0⟩
abbrev ENC_Cnn_INDEX_LAST (i : Nat) : Fld := ⟨0x800014 + 0x100 * i, 31, 0⟩

abbrev ENC_Cnn_INDEX_STATS_SEEN (i : Nat) : Fld := ⟨0x800018 + 0x100 * i, 31, 16⟩
abbrev ENC_Cnn_INDEX_STATS_DRIFT (i : Nat) : Fld := ⟨0x800018 + 0x100 * i, 15, 8⟩
abbrev ENC_Cnn_INDEX_STATS_DISCARDED (i : Nat) : Fld := ⟨0x800018 + 0x100 * i, 7, 0⟩
abbrev ENC_Cnn_INDEX_STATS (i : Nat) : Fld := ⟨0x800018 + 0x100 * i, 31, 0⟩

abbrev ENC_Cnn_EVENTS_AMP_EVENTS (i : Nat) : Fld := ⟨0x80001C + 0x100 * i, 31, 16⟩
abbrev ENC_Cnn_EVENTS_REVERSALS (i : Nat) : Fld := ⟨0x80001C + 0x100 * i, 15, 0⟩
abbrev ENC_Cnn_EVENTS (i : Nat) : Fld := ⟨0x80001C + 0x100 * i, 31, 0⟩

abbrev ENC_CONFIG_YAW_SAMPLES : Fld := ⟨0x800800, 27, 20⟩
abbrev ENC_CONFIG_INDEX_TOL : Fld := ⟨0x800800, 19, 16⟩
abbrev ENC_CONFIG_AMP_SAMPLES : Fld := ⟨0x800800, 15, 8⟩
abbrev ENC_CONFIG_HYST : Fld := ⟨0x800800, 7, 0⟩
abbrev ENC_CONFIG : Fld := ⟨0x800800, 31, 0⟩

abbrev ENC_AMP_WINDOW_AMP2_HI : Fld := ⟨0x800804, 31, 16⟩
abbrev ENC_AMP_WINDOW_AMP2_LO : Fld := ⟨0x800804, 15, 0⟩
abbrev ENC_AMP_WINDOW : Fld := ⟨0x800804, 31, 0⟩

abbrev ENC_YAW_WINDOW_X_YAW_HI : Fld := ⟨0x800808, 31, 16⟩
abbrev ENC_YAW_WINDOW_X_YAW_LO : Fld := ⟨0x800808, 15, 0⟩
abbrev ENC_YAW_WINDOW_X : Fld := ⟨0x800808, 31, 0⟩

abbrev ENC_YAW_WINDOW_Y_YAW_HI : Fld := ⟨0x80080C, 31, 16⟩
abbrev ENC_YAW_WINDOW_Y_YAW_LO : Fld := ⟨0x80080C, 15, 0⟩
abbrev ENC_YAW_WINDOW_Y : Fld := ⟨0x80080C, 31, 0⟩

abbrev ENC_YAW_X_PEAK : Fld := ⟨0x800810, 31, 16⟩
abbrev ENC_YAW_X_NOW : Fld := ⟨0x800810, 15, 0⟩
abbrev ENC_YAW_X : Fld := ⟨0x800810, 31, 0⟩

abbrev ENC_YAW_Y_PEAK : Fld := ⟨0x800814, 31, 16⟩
abbrev ENC_YAW_Y_NOW : Fld := ⟨0x800814, 15, 0⟩
abbrev ENC_YAW_Y : Fld := ⟨0x800814, 31, 0⟩

abbrev ENC_YAW_CTRL_ZERO_X : Fld := ⟨0x800818, 31, 31⟩
abbrev ENC_YAW_CTRL_ZERO_Y : Fld := ⟨0x800818, 30, 30⟩
abbrev ENC_YAW_CTRL : Fld := ⟨0x800818, 31, 0⟩

abbrev ENC_FAULT_STATUS_AMPLITUDE : Fld := ⟨0x80081C, 19, 16⟩
abbrev ENC_FAULT_STATUS_OVERSPEED : Fld := ⟨0x80081C, 15, 12⟩
abbrev ENC_FAULT_STATUS_INDEX : Fld := ⟨0x80081C, 11, 8⟩
abbrev ENC_FAULT_STATUS_YAW_Y : Fld := ⟨0x80081C, 1, 1⟩
abbrev ENC_FAULT_STATUS_YAW_X : Fld := ⟨0x80081C, 0, 0⟩
abbrev ENC_FAULT_STATUS : Fld := ⟨0x80081C, 31, 0⟩

abbrev ENC_INT_STATUS_FAULT : Fld := ⟨0x800820, 20, 20⟩
abbrev ENC_INT_STATUS_DIR_CHANGE : Fld := ⟨0x800820, 19, 16⟩
abbrev ENC_INT_STATUS_INDEX_SEEN : Fld := ⟨0x800820, 15, 12⟩
abbrev ENC_INT_STATUS_INDEX_DRIFT : Fld := ⟨0x800820, 11, 8⟩
abbrev ENC_INT_STATUS_REFERENCED : Fld := ⟨0x800820, 7, 4⟩
abbrev ENC_INT_STATUS : Fld := ⟨0x800820, 31, 0⟩

abbrev ENC_INT_ENABLE_ENABLE : Fld := ⟨0x800824, 31, 0⟩
abbrev ENC_INT_ENABLE : Fld := ⟨0x800824, 31, 0⟩

abbrev SHT_DOSE_QUANTUM_TQ : Fld := ⟨0x801000, 11, 0⟩
abbrev SHT_DOSE_QUANTUM : Fld := ⟨0x801000, 31, 0⟩

abbrev SHT_SHOT_RATE_RATE_KHZ : Fld := ⟨0x801004, 31, 16⟩
abbrev SHT_SHOT_RATE_T_SHOT : Fld := ⟨0x801004, 15, 0⟩
abbrev SHT_SHOT_RATE : Fld := ⟨0x801004, 31, 0⟩

abbrev SHT_TRIGGER_CFG_SKEW : Fld := ⟨0x801008, 31, 16⟩
abbrev SHT_TRIGGER_CFG_WIDTH : Fld := ⟨0x801008, 6, 0⟩
abbrev SHT_TRIGGER_CFG : Fld := ⟨0x801008, 31, 0⟩

abbrev SHT_MODE_CFG_CONT_ENTER : Fld := ⟨0x80100C, 31, 16⟩
abbrev SHT_MODE_CFG_CONT_HYST : Fld := ⟨0x80100C, 15, 0⟩
abbrev SHT_MODE_CFG : Fld := ⟨0x80100C, 31, 0⟩

abbrev SHT_DIBBLE_CFG_DIBBLE_WIN : Fld := ⟨0x801010, 31, 16⟩
abbrev SHT_DIBBLE_CFG_DWELL : Fld := ⟨0x801010, 15, 0⟩
abbrev SHT_DIBBLE_CFG : Fld := ⟨0x801010, 31, 0⟩

abbrev SHT_PATH_CFG_BACK_TOL : Fld := ⟨0x801014, 31, 16⟩
abbrev SHT_PATH_CFG_LATE_LIMIT : Fld := ⟨0x801014, 15, 0⟩
abbrev SHT_PATH_CFG : Fld := ⟨0x801014, 31, 0⟩

abbrev SHT_PATH_HOLD_PATH_HOLD : Fld := ⟨0x801018, 31, 16⟩
abbrev SHT_PATH_HOLD_XWIN : Fld := ⟨0x801018, 15, 0⟩
abbrev SHT_PATH_HOLD : Fld := ⟨0x801018, 31, 0⟩

abbrev SHT_DEFL_CFG_ENABLE : Fld := ⟨0x80101C, 31, 31⟩
abbrev SHT_DEFL_CFG_LATENCY : Fld := ⟨0x80101C, 10, 0⟩
abbrev SHT_DEFL_CFG : Fld := ⟨0x80101C, 31, 0⟩

abbrev SHT_ORIGIN_X_LO_ORIGIN_LO : Fld := ⟨0x801020, 31, 0⟩
abbrev SHT_ORIGIN_X_LO : Fld := ⟨0x801020, 31, 0⟩

abbrev SHT_ORIGIN_X_HI_ORIGIN_HI : Fld := ⟨0x801024, 7, 0⟩
abbrev SHT_ORIGIN_X_HI : Fld := ⟨0x801024, 31, 0⟩

abbrev SHT_ORIGIN_Y_LO_ORIGIN_LO : Fld := ⟨0x801028, 31, 0⟩
abbrev SHT_ORIGIN_Y_LO : Fld := ⟨0x801028, 31, 0⟩

abbrev SHT_ORIGIN_Y_HI_ORIGIN_HI : Fld := ⟨0x80102C, 7, 0⟩
abbrev SHT_ORIGIN_Y_HI : Fld := ⟨0x80102C, 31, 0⟩

abbrev SHT_STATUS_STATE : Fld := ⟨0x801030, 31, 29⟩
abbrev SHT_STATUS_CFG_REFUSED : Fld := ⟨0x801030, 28, 28⟩
abbrev SHT_STATUS_NEXT_SHOT : Fld := ⟨0x801030, 25, 0⟩
abbrev SHT_STATUS : Fld := ⟨0x801030, 31, 0⟩

abbrev SHT_LAST_FALLOW_CAUSE : Fld := ⟨0x801034, 31, 30⟩
abbrev SHT_LAST_FALLOW_SHOT : Fld := ⟨0x801034, 25, 0⟩
abbrev SHT_LAST_FALLOW : Fld := ⟨0x801034, 31, 0⟩

abbrev SHT_STATS_PATH_HOLDS : Fld := ⟨0x801038, 31, 16⟩
abbrev SHT_STATS_MAX_ERR : Fld := ⟨0x801038, 15, 0⟩
abbrev SHT_STATS : Fld := ⟨0x801038, 31, 0⟩

abbrev SHT_SPEED_VALID : Fld := ⟨0x80103C, 31, 31⟩
abbrev SHT_SPEED_SPEED : Fld := ⟨0x80103C, 19, 0⟩
abbrev SHT_SPEED : Fld := ⟨0x80103C, 31, 0⟩

abbrev PLN_PROFILE_ACCEL : Fld := ⟨0x802000, 31, 24⟩
abbrev PLN_PROFILE_JERK : Fld := ⟨0x802000, 23, 16⟩
abbrev PLN_PROFILE_TRAVERSE : Fld := ⟨0x802000, 15, 0⟩
abbrev PLN_PROFILE : Fld := ⟨0x802000, 31, 0⟩

abbrev PLN_LEAD_IN_SETTLE_ROWS : Fld := ⟨0x802004, 31, 16⟩
abbrev PLN_LEAD_IN_LEAD_IN_64 : Fld := ⟨0x802004, 15, 0⟩
abbrev PLN_LEAD_IN : Fld := ⟨0x802004, 31, 0⟩

abbrev PLN_TURN_TURN_DWELL : Fld := ⟨0x802008, 9, 0⟩
abbrev PLN_TURN : Fld := ⟨0x802008, 31, 0⟩

abbrev PLN_HOME_CFG_X_DIR : Fld := ⟨0x80200C, 31, 31⟩
abbrev PLN_HOME_CFG_Y_DIR : Fld := ⟨0x80200C, 30, 30⟩
abbrev PLN_HOME_CFG_HOME_SPEED : Fld := ⟨0x80200C, 15, 8⟩
abbrev PLN_HOME_CFG_CRAWL : Fld := ⟨0x80200C, 7, 0⟩
abbrev PLN_HOME_CFG : Fld := ⟨0x80200C, 31, 0⟩

abbrev PLN_CMD_GO : Fld := ⟨0x802010, 31, 31⟩
abbrev PLN_CMD_CMD : Fld := ⟨0x802010, 27, 24⟩
abbrev PLN_CMD : Fld := ⟨0x802010, 31, 0⟩

abbrev PLN_TARGET_X_TARGET : Fld := ⟨0x802014, 31, 0⟩
abbrev PLN_TARGET_X : Fld := ⟨0x802014, 31, 0⟩

abbrev PLN_TARGET_Y_TARGET : Fld := ⟨0x802018, 31, 0⟩
abbrev PLN_TARGET_Y : Fld := ⟨0x802018, 31, 0⟩

abbrev PLN_STATUS_STATE : Fld := ⟨0x80201C, 31, 29⟩
abbrev PLN_STATUS_HOMED_Y : Fld := ⟨0x80201C, 28, 28⟩
abbrev PLN_STATUS_HOMED_X : Fld := ⟨0x80201C, 27, 27⟩
abbrev PLN_STATUS_CFG_REFUSED : Fld := ⟨0x80201C, 26, 26⟩
abbrev PLN_STATUS_STOPPED : Fld := ⟨0x80201C, 25, 25⟩
abbrev PLN_STATUS_RESULT : Fld := ⟨0x80201C, 23, 20⟩
abbrev PLN_STATUS : Fld := ⟨0x80201C, 31, 0⟩

abbrev PLN_CMD_POS_X_POSITION : Fld := ⟨0x802020, 31, 0⟩
abbrev PLN_CMD_POS_X : Fld := ⟨0x802020, 31, 0⟩

abbrev PLN_CMD_POS_Y_POSITION : Fld := ⟨0x802024, 31, 0⟩
abbrev PLN_CMD_POS_Y : Fld := ⟨0x802024, 31, 0⟩

abbrev PLN_SWITCH_CFG_POLARITY (j : Nat) : Fld := ⟨0x802030 + 4 * j, 31, 31⟩
abbrev PLN_SWITCH_CFG_ACTION (j : Nat) : Fld := ⟨0x802030 + 4 * j, 25, 24⟩
abbrev PLN_SWITCH_CFG_FILTER (j : Nat) : Fld := ⟨0x802030 + 4 * j, 9, 0⟩
abbrev PLN_SWITCH_CFG (j : Nat) : Fld := ⟨0x802030 + 4 * j, 31, 0⟩

abbrev PLN_SWITCH_STATUS_LATCHED : Fld := ⟨0x802048, 29, 24⟩
abbrev PLN_SWITCH_STATUS_FILTERED : Fld := ⟨0x802048, 21, 16⟩
abbrev PLN_SWITCH_STATUS_RAW : Fld := ⟨0x802048, 13, 8⟩
abbrev PLN_SWITCH_STATUS_TRIPPED : Fld := ⟨0x802048, 5, 0⟩
abbrev PLN_SWITCH_STATUS : Fld := ⟨0x802048, 31, 0⟩

abbrev PLN_LATCH_POSITION (j : Nat) : Fld := ⟨0x802050 + 4 * j, 31, 0⟩
abbrev PLN_LATCH (j : Nat) : Fld := ⟨0x802050 + 4 * j, 31, 0⟩

abbrev PLN_CHATTER_COUNT : Fld := ⟨0x802068, 29, 0⟩
abbrev PLN_CHATTER : Fld := ⟨0x802068, 31, 0⟩

end F

end Sys2Proof.Machine
end

