-- ==== Sys2Proof/Machine/State.lean ====
section
/-! DEFINITION. The state of the block as plain data: one structure for each part the manual describes, and the
machine right after its power is applied to nothing yet (State.reset). -/

namespace Sys2Proof.Machine

/-- What stops the machine with a fault. The manual gives every command an effect, so no meaning raises one. -/
inductive Fault where
  /-- Raised by no meaning; safe. -/
  | none
deriving DecidableEq, Repr

/-- Why the model gives a command no meaning. -/
inductive Refusal where
  /-- Raised by exec alone, for a command not modelled yet; safe: the machine stops. -/
  | notModelled (mnemonic : String)
deriving DecidableEq, Repr

/-! ### The part (R1–R5, R413, R414, R470) -/

/-- The beam class of a variant (R2). -/
inductive BeamClass where
  | F | H | Q
deriving DecidableEq, Repr

/-- What the fuses fix: the variant (R1, R4), the serial number (R470), the two keys (R413) and the factory record
(R414). A key's state is 0 blank, 1 programmed, 2 revoked. -/
structure Fuses where
  cls : BeamClass
  grade20 : Bool
  gradeC : Bool
  serial : Nat
  key0 : List Byte
  key0State : Nat
  key1 : List Byte
  key1State : Nat
  factory : List (Nat × Nat)
deriving DecidableEq, Repr

/-! ### Pins, clocks and the start (chapters 18 and 20) -/

/-- Power, clocks and straps as they stand at the balls (R428, R453, R465–R467). -/
structure Pins where
  vddAon : Bool
  corePwrgd : Bool
  sysclk : Bool
  ref10m : Bool
  xtal32 : Bool
  svcSense : Bool
  straps : Nat
  holdReqL : Bool
  doorOk : Bool
  blankAllL : Bool
  thermtripL : Bool
  /-- Levels of the switch inputs by bit: LIM_XP, LIM_XN, LIM_YP, LIM_YN, HOME_X, HOME_Y (R261). -/
  switches : Nat
  /-- The TAP holds an instruction other than BYPASS or IDCODE (R363). -/
  jtagBusy : Bool
  /-- Why the start stopped or the device is held, 0 none. -/
  startStalled : Bool
  /-- FNC loading runs (R346). -/
  loading : Bool
  /-- The status LEDs are driven: step 6 of a start has been reached since power-up (R435). -/
  leds : Bool
deriving DecidableEq, Repr

/-- The resume record of R38. -/
structure ResumeRec where
  job : Nat
  pass : Nat
  furrow : Nat
  shot : Nat
  powerLost : Bool
deriving DecidableEq, Repr

/-- A record of the event ledger (R385, R389). -/
structure LedgerRec where
  typ : Nat
  sev : Nat
  seconds : Nat
  cycles : Nat
  sub : Nat
  rep : Nat
  payload : List Byte
deriving DecidableEq, Repr

/-- The retention RAM of AON (R38, R388, R390, R392). -/
structure Retention where
  valid : Bool
  seconds : Nat
  sub : Nat
  cycles : Nat
  /-- SUB_SECOND as the last read of GLB_OPERATING_SECONDS latched it. -/
  latchedSub : Nat
  resume : Option ResumeRec
  shutdown : Option LedgerRec
  openRec : Option LedgerRec
  /-- Seconds the open record has been open. -/
  openAge : Nat
  queue : List LedgerRec
  /-- The loader's flash write queued here: the 64-byte store record that confirms this slot (R423). -/
  loaderConfirm : Option Nat
deriving DecidableEq, Repr

/-! ### Gates (chapter 01) -/

/-- The three states of a gate (R28). -/
inductive GateSt where
  | opened | closing | closed
deriving DecidableEq, Repr

/-- A register access presented to a gate (R28, R32). `direct` marks an access that completes with its acceptance; the
reply of any other comes with GATE_REPLY. -/
structure Req where
  requester : Nat
  seq : Nat
  nonIdem : Bool
  write : Bool
  off : Nat
  value : Word
  direct : Bool
deriving DecidableEq, Repr

/-- The reply a gate keeps for a requester (R33): its sequence number, status and data. -/
structure Kept where
  seq : Nat
  status : Nat
  data : Nat
deriving DecidableEq, Repr

/-- One island's gate. `accepted` are requests into the island awaiting a reply, with the number of reissues of
each (R34); `nums` holds the last sequence number each requester gave a non-idempotent request to the island (R32). -/
structure Gate where
  st : GateSt
  outOfService : Bool
  accepted : List (Req × Nat)
  nums : List (Nat × Nat)
  kept : List (Nat × Kept)
  discarded : Nat
deriving DecidableEq, Repr

/-- The gate command running (R37): its command, its island and whether the drain was forced. -/
structure GateCmd where
  cmd : Nat
  island : Nat
  forced : Bool
deriving DecidableEq, Repr

/-- A request of the USB function (R296): OPCODE 1 READ or 2 WRITE, SPACE, SEQ, LENGTH, ADDRESS and the data written,
with the words done, the bytes read and the status so far. -/
structure UsbReq where
  op : Nat
  space : Nat
  seq : Nat
  length : Nat
  addr : Nat
  data : List Byte
  done : Nat
  got : List Byte
  st : Nat
deriving DecidableEq, Repr

/-! ### Context windows and jobs (chapter 11) -/

/-- The context window of party 1, 2 or 4 (R269). The rings and the MSI-X table are byte cells, unlisted zero. -/
structure Ctx where
  jobTail : Nat
  jobHead : Nat
  cplHead : Nat
  cplTail : Nat
  streamJob : Nat
  ringError : Bool
  jobRing : List Host.Cell
  cplRing : List Host.Cell
  msix : List Host.Cell
deriving DecidableEq, Repr

/-- The state of a descriptor's stream in the store (R85, R86). -/
inductive StreamSt where
  | none | posted | admitting | admitted
deriving DecidableEq, Repr

/-- A descriptor of the furrow queue (R275). -/
structure Desc where
  party : Nat
  ringSeq : Nat
  density : Bool
  job : Nat
  pass : Nat
  furrow : Nat
  rows : Nat
  feeder : Nat
  lastInPass : Bool
  addr : Nat
  size : Nat
  tableSet : Nat
  hostTag : Nat
  stream : StreamSt
  /-- A furrow descriptor of its ring has been taken after it (R277). -/
  followed : Bool
  /-- The number of its job among those that have entered the queue. -/
  jobNo : Nat
deriving DecidableEq, Repr

/-- The last furrow descriptor that entered the queue (R277). -/
structure LastDesc where
  job : Nat
  pass : Nat
  furrow : Nat
  last : Bool
  rows : Nat
deriving DecidableEq, Repr

/-- A resume of the furrow (R330, R155). -/
structure ResumeRow where
  shot : Nat
  reset : Bool
  n : Nat
  mc : Nat
  cp : Nat
deriving DecidableEq, Repr

/-- An entry of the repair list (R206). -/
structure RepairEntry where
  void : Bool
  cause : Nat
  group : Nat
  first : Nat
  count : Nat
  lanes : Nat
deriving DecidableEq, Repr

/-- What a Tilth context record holds of a region whose last tile row is done (R102, R108): REGION_ID, the tile rows,
the slot size code, the raw tiles read, and its bottom pixel row. -/
structure CtxLine where
  rid : Nat
  nty : Nat
  slot : Nat
  raws : Nat
  line : List Byte
deriving DecidableEq, Repr

/-- A checkpoint (R323–R325): its shot, its slot of 2 MiB, whether it is pinned, and what it holds of Tilth (the restart
segment and the context records), Madder (each map's role, 3 for none, and its validity), Mordant and sowing. -/
structure Checkpoint where
  shot : Nat
  slot : Nat
  pinned : Bool
  unfired : Nat
  mc : Nat
  cp : Nat
  groupMap : List Nat
  tableSet : Nat
  heat : List (Nat × Nat)
  decSeg : Nat
  lines : List CtxLine
  mult : List (Nat × List Nat)
  maps : List (Nat × Bool)
  nextRows : Nat
deriving DecidableEq, Repr

/-- What the furrow being run is doing. -/
inductive RunPhase where
  | armed | writing | held | traverse
deriving DecidableEq, Repr

/-- A repair run of the traverse (R332). -/
structure RepairRun where
  first : Nat
  last : Nat
deriving DecidableEq, Repr

/-- The furrow at the head of the queue once it has armed. -/
structure Run where
  phase : RunPhase
  /-- Number of shots. -/
  nShot : Nat
  tq : Nat
  /-- The next shot to fire. -/
  sf : Nat
  /-- First and last shot of the writing segment being run. -/
  segFirst : Nat
  segLast : Nat
  /-- A trigger of the run was issued. -/
  fired : Bool
  /-- The writing segment has begun. -/
  begun : Bool
  /-- Next shot the slices compute, of each group. -/
  computed : List Nat
  /-- The ceilings of the expansion, latched under R167. -/
  mc : Nat
  cp : Nat
  maxQuanta : Nat
  flags : Nat
  resumes : Nat
  entries : Nat
  /-- Causes raised in the present hold, as a bit mask, and those raised since the last ACK. -/
  causes : Nat
  unacked : Nat
  /-- Causes whose fallow is due at the next shot boundary. -/
  dueCauses : Nat
  /-- Cancelled at the next shot boundary (R279). -/
  cancelled : Bool
  /-- The present hold began with this command, so its causes share the shot boundary (R328). -/
  holdFresh : Bool
  /-- STAGE timestamp of the last trigger, which begins the pause of R155. -/
  pauseFrom : Nat
  resumeTable : List ResumeRow
  /-- The ceilings latched when it armed, MAX_CODE as latched last, and whether the resume under way has still to be
  accounted at `sf`. -/
  mc0 : Nat
  cp0 : Nat
  mcIn : Nat
  resumeDue : Bool
  /-- CEILING_LOWERED was raised since the ceilings were last latched (R167). -/
  lowered : Bool
  /-- Shots from `firstSend` on leave as dose frames in the present expansion. -/
  firstSend : Nat
  /-- Checkpoints of the furrow captured so far, by shot. -/
  captured : Nat
  /-- Running CRC-32C of each group's signature and the shots it covers. -/
  sig : List (Nat × Nat)
  groupsFallow : Nat
  /-- The run is in a repair traverse, or in a mid-furrow repair. -/
  trav : Bool
  mid : Bool
  /-- The furrow's own first unfired shot during a mid-furrow repair; a round is being run. -/
  mainSf : Nat
  roundOpen : Bool
  round : Nat
  runs : List RepairRun
  nextRound : List RepairEntry
  repaired : Nat
  unrepaired : Nat
  lost : Nat
  /-- The HEAD_TEMP allowance lets the run finish (R367). -/
  finishing : Bool
  /-- FURROW_END is on its way to the groups, and the furrow is disarmed once each has sent it (R215). -/
  ending : Bool
deriving DecidableEq, Repr

/-- The job sequencer (chapters 11 and 13). -/
structure Jobs where
  queue : List Desc
  /-- Jobs that have entered the queue. -/
  jobNo : Nat
  last : Option LastDesc
  /-- A descriptor of this job failed its checks: later ones of the job complete CANCELLED (R276). -/
  cancelJob : Option Nat
  run : Option Run
  /-- Posts waiting for admission, oldest first, as (port, ring party, ring sequence) (R86). -/
  posts : List (Nat × Nat × Nat)
  admitting : Option (Nat × Nat × Nat)
  repair : List RepairEntry
  overflow : List RepairEntry
  ckpts : List Checkpoint
  writing : Option Checkpoint
  swapPending : Bool
  /-- The head's rank and defect map have been read since the link last completed training (R16). -/
  headRead : Bool
deriving DecidableEq, Repr

/-! ### DMA channels (R286–R293) -/

/-- A DMA descriptor as fetched (R287). -/
structure DmaDesc where
  op : Nat
  last : Bool
  int : Bool
  pace : Nat
  paceCh : Nat
  length : Nat
  src : Nat
  dst : Nat
  next : Nat
deriving DecidableEq, Repr

/-- The hidden state of a DMA channel: the descriptor in hand and whether it has consumed its pacing event, the bytes
its whole bursts have read and written, converted bytes' remainder of a unit, the retries of the access being retried,
and the pacing events (R289). A dropped channel's owner has left: KEEP_PARTIAL is taken as 0 (R293). -/
structure DmaChan where
  desc : Option DmaDesc
  paced : Bool
  read : Nat
  written : Nat
  carry : List Byte
  retries : Nat
  retryWait : Bool
  timerEvents : Nat
  cplEvents : List (Nat × Nat)
  abort : Bool
  release : Bool
  dropped : Bool
deriving DecidableEq, Repr

/-! ### Memory (chapter 12) -/

/-- A retirement under way (R319): the retiring and the spare slot, whether the copy has ended, and the words the copy
holds corrected, with the errors they had. -/
structure RetireJob where
  phys : Nat
  slot : Nat
  copied : Bool
  poisoned : Nat
  fixed : List (Nat × Nat)
deriving DecidableEq, Repr

/-- DRAM and what surrounds it. `cells` holds the bytes as written, `errs` the XOR between each word's 72 stored bits
and what was written (bits 0–63 data, 64–71 check), `valid` the blocks of 4 KiB with a set valid bit. `sramErrs` does
for the words of the SECDED SRAM what `errs` does for DRAM, by 2^32 × island + word (R303); the words of island 12 are
the field window's. -/
structure Mem where
  cells : List Host.Cell
  valid : List Nat
  errs : List (Nat × Nat)
  sramErrs : List (Nat × Nat)
  ueCount : List (Nat × Nat)
  openPatch : List Nat
  retire : Option RetireJob
  freqChange : Option Nat
  freqWaiting : Bool
  scrub : Option (Nat × Nat)
  invalidating : Bool
  notice : Bool
  ckptWaiting : Bool
  burst : List Nat
  /-- Stacks whose burst came due under a checkpoint notice and waits (R310). -/
  burstDue : List Nat
  /-- Retraining bursts' next pseudo-channel of each stack. -/
  nextPc : List (Nat × Nat)
deriving DecidableEq, Repr

/-! ### The data path (chapters 03 to 07) -/

/-- What admission has read of a stream's header and dose-class table (R69, R70), with the descriptor it serves. -/
structure StreamInfo where
  party : Nat
  ringSeq : Nat
  job : Nat
  pass : Nat
  furrow : Nat
  addr : Nat
  size : Nat
  rows : Nat
  restart : Nat
  slot : Nat
  ovfOff : Nat
  ovfTiles : Nat
  tag : Nat
  doses : List Nat
deriving DecidableEq, Repr

/-- A stream being expanded: as the furrow's own (pre false, segments from `first` up) or as a prepass or pre-run
(R90). `segs` holds parsed segment payloads as words, `tiles` decoded Tilth tiles by segment, region and tile number,
`lines` the context of each region of a segment that ends at tile row 7, by segment. Every segment before number `decAt`
of the order is decoded; `posDone` counts the segments of the order each position has finished. -/
structure Work where
  info : StreamInfo
  pre : Bool
  first : Nat
  segs : List (Nat × List Nat)
  tiles : List (Nat × Nat × Nat × List Byte)
  lines : List (Nat × CtxLine)
  /-- Cell sums of a position for a segment, by position + 32 × segment (R118). -/
  sums : List (Nat × List (Nat × Nat))
  decAt : Nat
  posDone : List Nat
deriving DecidableEq, Repr

/-- A density map's identity (job, pass, stripe) and the job-frame cell rows written (R138). -/
structure DensMap where
  ident : Option (Nat × Nat × Nat)
  rows : List Nat
deriving DecidableEq, Repr

/-- The counts a furrow reports when it completes (R119, R158, R169, R181). -/
structure Counts where
  overlap : Nat
  saturated : Nat
  sweeps : Nat
  starved : Nat
  minLead : Nat
  multMin : Nat
  multMax : Nat
  multClamped : Nat
  targetClamped : Nat
  madStarved : Nat
  minLook : Nat
  peak : Nat
  trailPeak : Nat
  scaled : Nat
  pauseReset : Bool
  pauseN : Nat
  ceiling : Nat
  stuck : Nat
  noExposure : Nat
  excess : Nat
  displaced : Nat
deriving DecidableEq, Repr

/-- A Harrow audit: the unit's position, kind and segment once taken, the live tile's and the auditor's CRC, and the
second-opinion tile (R127–R129). `recs` and `pf` keep the unit's pixel records, and its stream's pass and furrow, once
the live tile has finished it. -/
structure HarrowAudit where
  pos : Nat
  pre : Bool
  unit : Option Nat
  live : Option Nat
  aud : Option Nat
  liveTile : Nat
  auditor : Nat
  second : Option Nat
  recs : List Nat
  pf : Nat
deriving DecidableEq, Repr

/-- A sowing audit: the unit's group and first shot once taken, the running CRCs of both slices (R176) and the shots
each has covered. -/
structure SowAudit where
  group : Nat
  unit : Option Nat
  notBefore : Nat
  live : Nat
  aud : Nat
  testing : Bool
deriving DecidableEq, Repr

/-- A tile or slice to be replaced at a checkpoint (R130, R178): the unit, its cause, what takes over, and the first
row or shot it is suspect from. -/
structure PendingSwap where
  unit : Nat
  place : Nat
  cause : Nat
  by' : Nat
  atShot : Nat
  since : Nat
deriving DecidableEq, Repr

/-- A Tilth job (R105–R109): its shape, what stopped it, the line above the next tile row, the left column, the
corner, and the item counts at the last RESUME. -/
structure TilthJob where
  decode : Bool
  slot : Nat
  ntx : Nat
  nty : Nat
  line : List Byte
  left : List Byte
  corner : Byte
  dst : Nat
  dstLimit : Nat
  ovf : Nat
  ovfLimit : Nat
  dstBase : Nat
  ovfBase : Nat
  abort : Bool
  heldLine : Bool
deriving DecidableEq, Repr

/-- A dose-map capture of a furrow's stream, with the pixel rows written (R103, R104). -/
structure Capture where
  info : StreamInfo
  plane : Nat
  firstRow : Nat
  tileRows : Nat
  base : Nat
  done : Nat
deriving DecidableEq, Repr

/-- The data path. `recs` holds Harrow's pixel records of the furrow by position and segment, `mult` the m2 rows,
`field` the field window with the trail buffer, `heat` the heat map by 672 × row + column after the last shot all
groups computed and `heatAdd` the quanta of the shot being computed. The `Max` fields mark how far the furrow has
been produced for the first time. -/
structure Path where
  streams : List StreamInfo
  cur : Option Work
  preWork : Option Work
  preMap : Nat
  maps : List DensMap
  /-- The number of the job that the maps serve (R138). -/
  mapJob : Nat
  recs : List (Nat × List Nat)
  segMax : List Nat
  mult : List (Nat × List Nat)
  multNext : Nat
  multMax : Nat
  field : List (Nat × List Nat)
  fieldNext : Nat
  fieldMax : Nat
  heat : List (Nat × Nat)
  heatAdd : List (Nat × Nat)
  heatMax : Nat
  /-- Payload bytes of the eight logical lanes by group + 32 × shot, until the shot's trigger. -/
  pay : List (Nat × List (List Byte))
  /-- Density rows read, by map + 4 × job-frame row. -/
  dcache : List (Nat × List Nat)
  counts : Counts
  harrowAudit : Option HarrowAudit
  harrowNext : Nat × Bool
  sowAudit : Option SowAudit
  sowNext : Nat
  tileSwaps : List PendingSwap
  sliceSwaps : List PendingSwap
  tilePass : List (Nat × Nat)
  job : Option TilthJob
  capture : Option Capture
  /-- The tile row each decoder instance decodes: of the prepass or not, its segment, region and row (R101). -/
  tilth : List (Nat × (Bool × Nat × Nat × Nat))
deriving DecidableEq, Repr

/-! ### The Drill Link (chapter 08) -/

/-- A frame a physical lane sent: its ALIVE and what it carried. Kind 0 is idle or training, 1 a dose or hold frame
(its shot, logical lane and attempt), 2 a command (its sequence number and attempt). -/
structure SentFrame where
  alive : Nat
  kind : Nat
  key : Nat
  logical : Nat
  attempt : Nat
deriving DecidableEq, Repr

/-- A physical data lane: its alive counter, its last 128 frames, its last 1,024 attempts in the order they were sent,
newest first, each with its ALIVE and its outcome (true failed, none while it is awaited), and the training frames it
has carried in the present training (R192, R201, R211). -/
structure Lane where
  alive : Nat
  sent : List SentFrame
  fails : List (Nat × Option Bool)
  trained : Nat
deriving DecidableEq, Repr

/-- A frame in a logical lane's retransmission ring (R200–R203). -/
structure RingFrame where
  shot : Nat
  hold : Bool
  attempts : Nat
  due : Bool
  acked : Bool
  /-- Physical lane and ALIVE of the latest attempt. -/
  last : Option (Nat × Nat)
deriving DecidableEq, Repr

/-- A command of a group's queue (R193). `map` is set for a SPARE_MAP to be sent on L8: the seed's lane of its frames
there, which is what L8 carried before it (R187). -/
structure LinkCmd where
  seq : Nat
  map : Option Nat
  bytes : List Byte
  attempts : Nat
  due : Bool
  last : Option (Nat × Nat)
deriving DecidableEq, Repr

/-- Pre-emphasis adaptation of a lane (R210): the standing setting and its merit, the best neighbour, the iteration,
the neighbours still to measure, the setting being measured with its tag and resends, and the training frames left to
send before the request and within it. -/
structure Adapt where
  pre : Nat
  post : Nat
  m : Nat
  bm : Nat
  bp : Nat
  bq : Nat
  it : Nat
  todo : List (Nat × Nat)
  cand : Nat × Nat
  first : Bool
  tag : Nat
  resends : Nat
  settle : Nat
  asked : Bool
deriving DecidableEq, Repr

/-- A lane group's link. `phase` is the step of R207 it is in, 0 outside training; `tries` the restarts of the training,
2 once a group is lost until another run begins; `sentTo` the next new shot of each
logical lane; `runCmd` the FURROW_START or RESUME_AT still to be acknowledged; `start` s_start; `resolved` the shots
whose report is awaited, as (shot, acknowledged, the eight payloads); `status` the body of the latest STATUS word. -/
structure Group where
  phase : Nat
  tries : Nat
  slips : Nat
  lanes : List Lane
  rings : List (List RingFrame)
  sentTo : List Nat
  cmds : List LinkCmd
  cmdSeq : Nat
  runCmd : Option Nat
  start : Nat
  adapt : List (Nat × Adapt)
  tag : Nat
  resolved : List (Nat × Bool × List (List Byte))
  status : Option Nat
  /-- Physical lanes carrying training frames for rolling calibration or spares. -/
  training : List Nat
  bkLost : Bool
  /-- DRL_Gnn_LEAD as the last completed furrow left it (R218). -/
  lastLead : Nat
deriving DecidableEq, Repr

/-- A read of the head's memory (R215): whether the defect list is being read, the next
address, half-words awaited of the present MEM_READ, the bytes so far and the failed attempts. -/
structure HeadRead where
  defects : Bool
  addr : Nat
  awaited : Nat
  bytes : List Byte
  tries : Nat
deriving DecidableEq, Repr

/-- The head as the device knows it: identity blocks by group, the reads under way by group, a
reread waiting for the furrow to complete, and the content last read: an identity block and the defect list. -/
structure Head where
  blocks : List (Nat × List Byte)
  reads : List (Nat × HeadRead)
  rereadDue : Bool
  defects : List Byte
  /-- Groups whose identity block failed its CRC three times in the present reading, 32 for the defect list (R215). -/
  failed : List Nat
deriving DecidableEq, Repr

/-! ### Calibration (chapter 15) -/

/-- A calibration instance (R372, R373, R379, R384). -/
structure CalInst where
  valid : Bool
  /-- Due by the start or by RUN with no furrow armed, the only times item 0 runs (R371). -/
  asked : Bool
  due : Bool
  overdue : Bool
  age : Nat
  /-- Reading at completion; none while its sensor has not been read since. -/
  temp : Option Int
  preempts : Nat
  preSince : Nat
  waiting : Bool
  choice : Nat
  /-- The tap a tile's or slice's local clock runs at (R375). -/
  tap : Nat
deriving DecidableEq, Repr

/-- The calibration engine: its instances by 256 × item + instance, and the one running with the spare it borrows.
`step` is the step of R377 a rolled lane has reached, 5 once its parts are all calibrated. -/
structure Cal where
  insts : List (Nat × CalInst)
  running : Option Nat
  spare : Option Nat
  step : Nat
  /-- Size of the test stream being composed (R380). -/
  testBytes : Nat
deriving DecidableEq, Repr

/-! ### Ledger, check units, telemetry (chapter 16) -/

/-- The ledger writer in HK: events held back while HK cannot take them, the clear under way and the read
pointers. -/
structure Ledger where
  waiting : List LedgerRec
  /-- 0 recording, 1 freezing, 2 frozen, 3 clearing, beside a log that is full or corrupt (R393, R394). -/
  mode : Nat
  full : Bool
  corrupt : Bool
  /-- Queued records still to commit before FROZEN (R394). -/
  freezeLeft : Nat
  /-- Records, LOST and first operating seconds as a clear found them (R397). -/
  clearBefore : Nat × Nat × Nat
  eraseNext : Nat
  readPtr : List (Nat × Nat)
  usageClearing : Bool
  usageLate : List (Nat × Nat)
  /-- Telemetry accumulators of the period: rounds due, missed, first round, peaks and counts. -/
  tSeq : Nat
  tRounds : Nat
  tMissed : Nat
  tFirst : Nat
  tDie : Int
  tStack : Int
  tHead : Int
  tAlarms : Nat
  tEccC : Nat
  tEccU : Nat
  tRetx : Nat
  tEntries : Nat
deriving DecidableEq, Repr

/-! ### Configuration loader (chapter 17) -/

/-- What step an update has reached (R421); `verify` is a VERIFY of its target (R423). -/
inductive UpdPhase where
  | storeEmpty | erase | program | readback | header | storeTrial | verify
deriving DecidableEq, Repr

/-- An update under way: its target slot, the next sector or page, the bytes, the header and each section's CRC as the
check of step 1 found them, its starter and the SEQ it gives. -/
structure Update where
  target : Nat
  phase : UpdPhase
  pos : Nat
  bytes : Nat
  header : List Byte
  crcs : List Nat
  starter : Nat
  seq : Nat
  abort : Bool
deriving DecidableEq, Repr

/-- The latest store record (R416). -/
structure StoreRec where
  rseq : Nat
  stateA : Nat
  stateB : Nat
  attA : Nat
  attB : Nat
  seqA : Nat
  seqB : Nat
  erases : List Nat
deriving DecidableEq, Repr

/-- The loader and the flash. -/
structure Nvl where
  flash : List Host.Cell
  densityMbit : Nat
  store : StoreRec
  storeValid : Bool
  /-- The next free 64-byte slot of the store region. -/
  storeNext : Nat
  update : Option Update
  /-- A flash operation of an update or a clear is in progress: 1 a page program, 2 an erase, 3 a read. -/
  flashBusy : Nat
  /-- An erase in progress is suspended (R397, R422). -/
  suspended : Bool
  /-- The next page is the ledger's when commits and update pages alternate (R424). -/
  ledgerTurn : Bool
deriving DecidableEq, Repr

/-! ### STAGE (chapters 09 and 10) -/

/-- An index pulse between its edges (R231, R232). -/
structure Pulse where
  rise : Int
  dir : Nat
  tainted : Bool
deriving DecidableEq, Repr

/-- An encoder channel's hidden state: position, last phase, the run outside the amplitude window and its lowest
amplitude, the samples inside the window, the direction's extreme and qualification position, the last two speed
edges and the index reference (R221–R233). -/
structure EncChan where
  p : Int
  pPrev : Int
  ph : Nat
  invert : Bool
  tracked : Bool
  run : Nat
  runMin : Nat
  inside : Nat
  qual : Int
  extreme : Int
  lastB : Option Int
  tLast : Option Nat
  tPrev : Option Nat
  ref : Option Int
  pulse : Option Pulse
deriving DecidableEq, Repr

/-- What shot timing keeps: the pair means of the last 50 samples (newest first), the committed trigger in 1/16 ns and
whether it is a dibble shot's, the previous trigger of the run, dibble counting, the furthest position of the run, and
the deflection sequence. -/
structure ShotTiming where
  histY : List Int
  histX : List Int
  committed : Option Int
  committedDibble : Bool
  lastTrigger : Option Int
  dibble : Bool
  inWindow : Nat
  furthest : Option Int
  pathHold : Bool
  /-- Q of triggers whose error is still to be measured, with the trigger instant (R243). -/
  toMeasure : List (Int × Int)
  /-- Fired shots of the run whose blankers may not have opened, newest first, with the trigger instant (R253). -/
  fired : List (Nat × Int)
  seq : Nat
deriving DecidableEq, Repr

/-- What the planner is doing (R254–R266). -/
inductive Motion where
  | rest
  | move
  | homeSearch (axis : Nat)
  | homeStop (axis : Nat)
  | homeBack (axis : Nat)
  | homeRest (axis : Nat)
  | segment
  | runOut
  | toStart
  | dwell
  | waiting
  | stopping
deriving DecidableEq, Repr

/-- An axis of the planner (R254, R255): what its planned position has beyond the command position in 4 × 10^-16 nm, its
speed in 2 × 10^-8 nm/s and its acceleration in nm/s². Over 20 ns these units pass into one another by addition. -/
structure Kin where
  frac : Int
  vel : Int
  acc : Int
deriving DecidableEq, Repr

/-- An axis at rest on its command position. -/
def Kin.rest : Kin := ⟨0, 0, 0⟩

/-- The planner's motion and its target in nm, the axes as they move and the moves still to make, one axis at a time,
as (axis, target in nm), the axes whose command position awaits standstill after a hard stop, the latches' timestamps
and the time of each switch's last raw edge whose filter has not elapsed (R254–R263). -/
structure Planner where
  motion : Motion
  tx : Int
  ty : Int
  kx : Kin
  ky : Kin
  legs : List (Nat × Int)
  hard : Bool
  settleX : Bool
  settleY : Bool
  /-- Switches that raised LIMIT in the present hold (R263, R328). -/
  limitSw : Nat
  latchTime : List (Nat × Nat)
  edgeTime : List (Nat × Nat)
deriving DecidableEq, Repr

/-! ### Fence and housekeeping (chapter 14) -/

/-- The Fence: its next response, the blanking drivers of inputs and of a lowered ceiling, the groups still to show
ALARMS bit 19, and a thermal trip sequence (R348, R350, R353, R364). -/
structure Fence where
  response : List Byte
  holdDriver : Bool
  doorDriver : Bool
  ceilingDriver : Bool
  unseen : List Nat
  /-- The head's level under R367: 0 normal, 1 warning, 2 critical. -/
  headLevel : Nat
  /-- TEMP_WARN and TEMP_CRIT of the last identity block read good. -/
  headTemps : Option (Nat × Nat)
  /-- 0 none, 1 service mode, 2 hardware mode. -/
  trip : Nat
  tripCause : Nat
  tripChannel : Nat
  tripReading : Int
  tripSeconds : Nat
  stopDone : Bool
  /-- AON comparators' last readings of TS_00–TS_03. -/
  comparators : List Int
  /-- Rounds in a row each supply channel has been out of range (R452). -/
  supplyBad : List (Nat × Nat)
deriving DecidableEq, Repr

/-! ### What leaves the block -/

/-- What the last command made the block send: replies, interrupt messages, pulses and words. -/
inductive Out where
  /-- A register or memory read's data to a party, with the status of its path. -/
  | reply (party status : Nat) (data : List Nat)
  /-- A response of the USB function: OPCODE with bit 7 set, STATUS, the request's SEQ, LENGTH and ADDRESS, and the read
  data (R296). -/
  | usb (opcode status seq length addr : Nat) (data : List Byte)
  /-- An MSI-X message of port 1 (A) or 2 (B). -/
  | msix (port vector : Nat)
  /-- A write to host memory through a port. -/
  | hostWrite (port addr : Nat) (data : List Byte)
  /-- SHOT_P/N, which idles low, is high for `width` ns from the trigger of a shot on (R246). -/
  | shot (s width : Nat)
  /-- Bits on a data or command lane: group, lane, line bits in order. -/
  | lane (group lane : Nat) (bits : List Bool)
  /-- A deflection word and its twelve bit times in order: the levels of DEFL_D3 to DEFL_D0 as a number and that of
  DEFL_FRM. DEFL_CLK changes state in the middle of each (R252). -/
  | deflection (w : Nat) (line : List (Nat × Bool))
  /-- A Fence SPI response. -/
  | fence (bytes : List Byte)
  /-- `n` rising edges on an axis's STEP output, with its DIR output at this level (R254). -/
  | steps (axis n : Nat) (dir : Bool)
  /-- The ball BLANK_ALL_L changed to this level. -/
  | blankAll (level : Bool)
deriving DecidableEq, Repr

/-! ### The state -/

/-- Everything the manual gives the block. `regs` lists the registers that do not hold their reset value; an
unlisted register reads its reset value. `pending` is the queue of commands, `freeCount` the counter of free values,
`out` what the last command sent. -/
structure State where
  fuses : Fuses
  pins : Pins
  ret : Retention
  regs : List (Nat × Word)
  gates : List (Nat × Gate)
  gateCmd : Option GateCmd
  /-- Requests that received RETRY, with the island each waits for, in the order they came (R31, R35). -/
  retrying : List (Nat × Req)
  leaseCmd : List (Nat × Nat)
  leaseResult : List (Nat × Nat)
  evPending : List (Nat × Word)
  evEnable : List (Nat × Word)
  ctx : List (Nat × Ctx)
  smbusAddr : Nat
  smbusStatus : Nat
  /-- Requests of the USB function not answered yet, oldest first (R296). -/
  usb : List UsbReq
  jobs : Jobs
  path : Path
  link : List (Nat × Group)
  head : Head
  cal : Cal
  dma : List (Nat × DmaChan)
  mem : Mem
  ledger : Ledger
  /-- Running value of each check unit (R403). -/
  chk : List (Nat × Nat)
  nvl : Nvl
  usage : List (Nat × Nat)
  /-- Table banks A and B by write-view offset, and the head plane by word (R438). -/
  bankA : List (Nat × Nat)
  bankB : List (Nat × Nat)
  headPlane : List (Nat × Nat)
  /-- The STAGE timestamp in ns: that of the latest sample. -/
  now : Nat
  enc : List (Nat × EncChan)
  /-- Z of the X and Y pairs, and the runs of samples outside the yaw windows (R235). -/
  zX : Int
  zY : Int
  yawX : Nat
  yawY : Nat
  shot : ShotTiming
  pln : Planner
  fence : Fence
  out : List Out
  pending : List Instr
  freeCount : Nat
deriving DecidableEq, Repr

/-! ### Reset -/

/-- No jobs (R274, R278): the state the job sequencer starts with. -/
def Jobs.empty : Jobs :=
  { queue := [], jobNo := 0, last := none, cancelJob := none, run := none, posts := [], admitting := none, repair := []
    overflow := [], ckpts := [], writing := none, swapPending := false, headRead := false }

/-- DRAM with every valid bit clear (R306), and no memory work under way. -/
def Mem.empty : Mem :=
  { cells := [], valid := [], errs := [], sramErrs := [], ueCount := [], openPatch := [], retire := none
    freqChange := none, freqWaiting := false, scrub := none, invalidating := false, notice := false
    ckptWaiting := false, burst := [], burstDue := [], nextPc := [] }

/-- The counts of no furrow. -/
def Counts.none : Counts :=
  { overlap := 0, saturated := 0, sweeps := 0, starved := 0, minLead := 1024, multMin := 65535, multMax := 0
    multClamped := 0, targetClamped := 0, madStarved := 0, minLook := 65535, peak := 0, trailPeak := 0, scaled := 0
    pauseReset := false, pauseN := 0, ceiling := 0, stuck := 0, noExposure := 0, excess := 0, displaced := 0 }

/-- A data path with nothing in it. -/
def Path.empty : Path :=
  { streams := [], cur := none, preWork := none, preMap := 0, maps := [], mapJob := 0, recs := [], segMax := [], mult := []
    multNext := 0, multMax := 0, field := [], fieldNext := 0, fieldMax := 0, heat := [], heatAdd := [], heatMax := 0
    pay := [], dcache := [], counts := Counts.none, harrowAudit := none, harrowNext := (0, false), sowAudit := none
    sowNext := 0, tileSwaps := [], sliceSwaps := [], tilePass := [], job := none, capture := none, tilth := [] }

/-- Nothing is known of the head. -/
def Head.empty : Head := { blocks := [], reads := [], rereadDue := false, defects := [], failed := [] }

/-- Every calibration instance is as power-up leaves it (R372). -/
def Cal.empty : Cal := { insts := [], running := none, spare := none, step := 0, testBytes := 0 }

/-- A ledger writer that has done nothing. -/
def Ledger.empty : Ledger :=
  { waiting := [], mode := 0, full := false, corrupt := false, freezeLeft := 0, clearBefore := (0, 0, 0), eraseNext := 0
    readPtr := [], usageClearing := false, usageLate := [], tSeq := 0, tRounds := 0, tMissed := 0, tFirst := 0
    tDie := -32768, tStack := -32768, tHead := -128, tAlarms := 0, tEccC := 0, tEccU := 0, tRetx := 0, tEntries := 0 }

/-- A store without records (R416). -/
def StoreRec.empty : StoreRec :=
  { rseq := 0, stateA := 0, stateB := 0, attA := 0, attB := 0, seqA := 0, seqB := 0, erases := [0, 0, 0, 0] }

/-- An erased flash of 512 Mbit. -/
def Nvl.empty : Nvl :=
  { flash := [], densityMbit := 512, store := StoreRec.empty, storeValid := false, storeNext := 0, update := none
    flashBusy := 0, suspended := false, ledgerTurn := false }

/-- Retention RAM whose signature has failed (R40). -/
def Retention.empty : Retention :=
  { valid := false, seconds := 0, sub := 0, cycles := 0, latchedSub := 0, resume := none, shutdown := none
    openRec := none, openAge := 0, queue := [], loaderConfirm := none }

/-- Shot timing outside a run. -/
def ShotTiming.empty : ShotTiming :=
  { histY := [], histX := [], committed := none, committedDibble := false, lastTrigger := none, dibble := false
    inWindow := 0, furthest := none, pathHold := false, toMeasure := [], fired := [], seq := 0 }

/-- The stage at rest. -/
def Planner.empty : Planner :=
  { motion := .rest, tx := 0, ty := 0, kx := Kin.rest, ky := Kin.rest, legs := [], hard := false, settleX := false
    settleY := false, limitSw := 0, latchTime := [], edgeTime := [] }

/-- A Fence that nothing has tripped; its first response carries NONE (R348): 06, seven zero bytes and their CRC-8. -/
def Fence.empty : Fence :=
  { response := [0x06, 0, 0, 0, 0, 0, 0, 0, 0x56], holdDriver := false, doorDriver := false, ceilingDriver := false
    unseen := [], headLevel := 0, headTemps := none, trip := 0, tripCause := 0, tripChannel := 0, tripReading := 0, tripSeconds := 0
    stopDone := false, comparators := [], supplyBad := [] }

/-- Fuses of an EVZ-4F28W with blank keys and no factory record: the manual gives twelve variants and no serial number
and says only that the serial number is not 0 (log entry 3). -/
def Fuses.default : Fuses :=
  { cls := .F, grade20 := false, gradeC := false, serial := 1, key0 := [], key0State := 0, key1 := [], key1State := 0
    factory := [] }

/-- The balls before the first power-up: nothing powered, the board's clocks running, no pod, the interlock inputs
inactive (log entry 16). -/
def Pins.default : Pins :=
  { vddAon := false, corePwrgd := false, sysclk := true, ref10m := true, xtal32 := true, svcSense := false, straps := 0
    holdReqL := true, doorOk := true, blankAllL := false, thermtripL := true, switches := 0x3F
    jtagBusy := false, startStalled := false, loading := false, leds := false }

/-- The block before its first power-up: every register at its reset value, every gate closed, memory with nothing
listed, nothing pending. A start follows AON_POWER_UP and CORE_PWRGD_RISE. -/
def State.reset : State :=
  { fuses := Fuses.default, pins := Pins.default, ret := Retention.empty, regs := [], gates := [], gateCmd := none
    retrying := [], leaseCmd := [], leaseResult := [], evPending := [], evEnable := [], ctx := [], smbusAddr := 0
    smbusStatus := 0, usb := [], jobs := Jobs.empty, path := Path.empty, link := [], head := Head.empty, cal := Cal.empty, dma := []
    mem := Mem.empty, ledger := Ledger.empty, chk := [], nvl := Nvl.empty, usage := [], bankA := [], bankB := []
    headPlane := [], now := 0, enc := [], zX := 0, zY := 0, yawX := 0, yawY := 0, shot := ShotTiming.empty
    pln := Planner.empty, fence := Fence.empty, out := [], pending := [], freeCount := 0 }

end Sys2Proof.Machine
end

