-- ==== Sys2Proof/Machine/Ops.lean ====
section
/-! DEFINITION. The named operations every meaning is built from: the part's variant, register fields, what the block
sends, interrupts, the recording of ledger events, and gates' states. -/

namespace Sys2Proof.Machine

/-! ### The variant (R1, R2, R4) -/

/-- Lane groups bonded (R2). -/
def BeamClass.groups : BeamClass → Nat
  | .F => 24
  | .H => 12
  | .Q => 6

/-- DRAM stacks bonded (R2). -/
def BeamClass.stacks : BeamClass → Nat
  | .F => 4
  | .H => 2
  | .Q => 2

/-- Beam rows along the scan, N_row (R2). -/
def BeamClass.nRow : BeamClass → Nat
  | .F => 384
  | .H => 192
  | .Q => 96

/-- Passes per stripe (R1). -/
def BeamClass.passes : BeamClass → Nat
  | .F => 1
  | .H => 2
  | .Q => 4

/-- Exposures of a pixel in a pass (R2). -/
def BeamClass.exposures : BeamClass → Nat
  | .F => 48
  | .H => 24
  | .Q => 12

/-- CLASS of GLB_VARIANT (R441). -/
def BeamClass.code : BeamClass → Nat
  | .F => 0
  | .H => 1
  | .Q => 2

/-- GLB_VARIANT as the fuses hold it (R4, "GLB_VARIANT per part number"). -/
def variantWord (f : Fuses) : Nat :=
  f.cls.stacks <<< 24 + f.cls.groups <<< 16 + 0x4000 + f.cls.code <<< 8 + bitOf f.grade20 <<< 4 + bitOf f.gradeC

/-- The beam class of the device. -/
abbrev State.cls (s : State) : BeamClass := s.fuses.cls

/-- The bonded lane groups, ascending. -/
def State.groups (s : State) : List Nat := List.range s.cls.groups

/-! ### Islands (R24, R437) -/

/-- The island that holds the register at an offset (R437); 255 where no block lies. -/
def islandOf (off : Nat) : Nat :=
  if off < 0x20000 then 0
  else if off < 0x70000 then 1
  else if off < 0x80000 then 5
  else if off < 0x90000 then 6
  else if off < 0x90100 then 2
  else if off < 0xA0000 then 3
  else if off < 0x100000 then 255
  else if off < 0x140000 then 7 + (off - 0x100000) / 0x10000
  else if off < 0x200000 then 5
  else if off < 0x300000 then 11
  else if off < 0x330000 then 16 + (off - 0x300000) / 0x1000
  else if off < 0x400000 then 5
  else if off < 0x440000 then 12
  else if off < 0x480000 then 13
  else if off < 0x500000 then 255
  else if off < 0x520000 then 64 + (off - 0x500000) / 0x1000
  else if off < 0x600000 then 5
  else if off < 0x780000 then 96 + (off - 0x600000) / 0x10000
  else if off < 0x800000 then 5
  else if off < 0x810000 then 14
  else if off < 0x1000000 then 255
  else if off < 0x1310000 then 5
  else if off < 0x1320000 then 12
  else if off < 0x1330000 then 13
  else if off < 0x1500000 then 5
  else 255

/-- The island numbers of the Islands table (R24). -/
def islandAssigned (i : Nat) : Bool :=
  decide (i ≤ 14) || decide (16 ≤ i ∧ i ≤ 49) || decide (64 ≤ i ∧ i ≤ 88) || decide (96 ≤ i ∧ i ≤ 119)

/-- The islands a variant does not bond out (R24). -/
def islandFused (c : BeamClass) (i : Nat) : Bool :=
  decide (7 + c.stacks ≤ i ∧ i ≤ 10) || decide (64 + c.groups ≤ i ∧ i ≤ 87) || decide (96 + c.groups ≤ i ∧ i ≤ 119)

/-- The gate of an island: an unlisted one is closed with nothing outstanding. -/
def State.gate (s : State) (i : Nat) : Gate :=
  (alGet s.gates i).getD ⟨.closed, false, [], [], [], 0⟩

/-- The gate of an island replaced. -/
def State.setGate (s : State) (i : Nat) (g : Gate) : State := { s with gates := alSet s.gates i g }

/-- The island's gate is open; AON has no gate (R24). -/
def State.islandOpen (s : State) (i : Nat) : Bool := i == 0 || (s.gate i).st == .opened

/-- The island of an internal requester (R24, R27). The manual names the island of no engine that has no register
block of its own: the job sequencer's helpers 9 and 10 and the patrol scrubber 32 are put in JOB, and engines of AON
have no gate (log entry 66). -/
def engineIsland (q : Nat) : Nat :=
  if q = 1 then 2 else if q = 2 then 3 else if q = 4 then 4
  else if 8 ≤ q ∧ q ≤ 10 then 5 else if 11 ≤ q ∧ q ≤ 14 then 1
  else if 16 ≤ q ∧ q ≤ 31 then 6 else if q = 32 then 5 else if q = 34 then 11
  else if 36 ≤ q ∧ q ≤ 39 then 7 + (q - 36) else 0

/-- Requests an island has issued whose replies are awaited (R28). -/
def State.issued (s : State) (i : Nat) : Nat :=
  (s.gates.map fun (e : Nat × Gate) =>
    (e.2.accepted.filter fun (x : Req × Nat) => engineIsland x.1.requester == i && i != 0).length).sum

/-! ### Registers -/

/-- Element `lam` of reset_map (R299): 32 × (lam mod S) + lam div S. -/
def resetMap (c : BeamClass) (lam : Nat) : Nat := 32 * (lam % c.stacks) + lam / c.stacks

/-- Four bytes at 4i of the identity map (R133, R181). -/
def identBytes (i : Nat) : Nat := 4 * i + (4 * i + 1) <<< 8 + (4 * i + 2) <<< 16 + (4 * i + 3) <<< 24

/-- The reset value of the registers whose tables give more than one number. -/
def specialReset (f : Fuses) (off : Nat) : Option Nat :=
  let cIs := fun (a b : Nat) => some (if f.gradeC then a else b)
  if off = 0x4 then some (variantWord f)
  else if off = 0x8 then some (f.serial % 2 ^ 32)
  else if off = 0xC then some (f.serial / 2 ^ 32 % 2 ^ 32)
  else if off = 0x10010 then cIs 0x0190DC5F 0x01F5046E
  else if off = 0x10014 then cIs 0x017CD25A 0x0190DC5F
  else if off = 0x60000 then some 0x00080001
  else if off = 0x60100 then some 0x000C0001
  else if off = 0x60200 then some 0x000D0002
  else if off = 0x140004 then some (if f.cls = .F then 0x10000 else 0x8000)
  else if 0x140100 ≤ off ∧ off < 0x140180 then
    let i := (off - 0x140100) / 4
    some (if 4 * i < 32 * f.cls.stacks then
      resetMap f.cls (4 * i) + resetMap f.cls (4 * i + 1) <<< 8 + resetMap f.cls (4 * i + 2) <<< 16 +
        resetMap f.cls (4 * i + 3) <<< 24 else 0)
  else if 0x300000 ≤ off ∧ off < 0x322000 ∧ off % 0x1000 = 0 then
    let t := (off - 0x300000) / 0x1000
    some (if t < 32 then t else 0x20000000)
  else if 0x330000 ≤ off ∧ off < 0x330020 then some (identBytes ((off - 0x330000) / 4))
  else if 0x500000 ≤ off ∧ off < 0x519000 ∧ off % 0x1000 = 0 then
    let t := (off - 0x500000) / 0x1000
    some (if t < 24 then t else 0x20000000)
  else if 0x520000 ≤ off ∧ off < 0x520018 then some (identBytes ((off - 0x520000) / 4))
  else if off = 0x801004 then some (if f.grade20 then 0x07D07D00 else 0x0AF05949)
  else if 0x802030 ≤ off ∧ off < 0x802040 then some 0x02000064
  else if 0x802040 ≤ off ∧ off < 0x802048 then some 0x00000064
  else none

/-- The value a register holds after reset. -/
def regReset (f : Fuses) (off : Nat) : Nat :=
  match specialReset f off with
  | some v => v
  | none =>
    match regRow off with
    | some r => r.reset
    | none => 0

/-- The stored value of the register at an offset. -/
def State.rd (s : State) (off : Nat) : Nat :=
  match alGet s.regs off with
  | some w => w.toNat
  | none => regReset s.fuses off

/-- A register stored whole. -/
def State.wr (s : State) (off v : Nat) : State := { s with regs := alSet s.regs off (BitVec.ofNat 32 v) }

/-- A field of a register. -/
def State.f (s : State) (x : Fld) : Nat := bits (s.rd x.off) x.hi x.lo

/-- A one-bit field is 1. -/
def State.on (s : State) (x : Fld) : Bool := s.f x == 1

/-- A field stored; the rest of its register stands. -/
def State.set (s : State) (x : Fld) (v : Nat) : State := s.wr x.off (withBits (s.rd x.off) x.hi x.lo v)

/-- A field counted up, saturating at its width. -/
def State.inc (s : State) (x : Fld) (n : Nat) : State := s.set x (satN (x.hi + 1 - x.lo) (s.f x + n))

/-- A two-register address [35:0] from its LO and HI words. -/
def State.addr (s : State) (lo hi : Nat) : Nat := s.rd lo + (s.rd hi % 16) <<< 32

/-! ### What the block sends -/

/-- One more output of this command. -/
def State.emit (s : State) (o : Out) : State := { s with out := s.out ++ [o] }

/-- The block as a command finds it: the outputs of the last command are gone, and the sub-second is a free value. -/
def State.begin (s : State) : State :=
  { s with
    out := []
    ret := { s.ret with sub := (Config.subSecond s.freeCount).toNat }
    freeCount := s.freeCount + 1
    jobs := { s.jobs with run := s.jobs.run.map fun r => { r with holdFresh := false } } }

/-- Base of a port's HST registers (R297). -/
def hstBase (port : Nat) : Nat := if port = 1 then 0x90000 else 0x90100

/-- Vector `v` offered to a port: pending and a message, only while its enable bit is set (R294). -/
def raisePort (port v : Nat) (s : State) : State :=
  let b := hstBase port
  if (s.rd (b + 4)).testBit v then
    (s.wr (b + 8) (s.rd (b + 8) ||| 1 <<< v)).emit (.msix port v)
  else s

/-- Vector `v` offered to party 3's or 4's copy of GLB_EVENT_PENDING (R443). -/
def raiseCopy (party v : Nat) (s : State) : State :=
  if ((alGet s.evEnable party).getD 0).getLsbD v then
    { s with evPending := alSet s.evPending party ((alGet s.evPending party).getD 0 ||| BitVec.ofNat 32 (1 <<< v)) }
  else s

/-- A shared source fires: both ports and both copies (R294, R443). -/
def raise (v : Nat) (s : State) : State :=
  raiseCopy 4 v (raiseCopy 3 v (raisePort 2 v (raisePort 1 v s)))

/-- A source that reaches one party only. -/
def raiseTo (party v : Nat) (s : State) : State :=
  if party = 1 ∨ party = 2 then raisePort party v s
  else if party = 3 ∨ party = 4 then raiseCopy party v s
  else s

/-! ### Ledger events (R385–R393) -/

/-- SEVERITY and Key length of an event type (R389, R426); Key 240 is the whole payload. -/
def eventSpec (typ : Nat) : Nat × Nat :=
  match typ with
  | 0x001 => (0, 240) | 0x002 => (3, 240) | 0x003 => (1, 240) | 0x004 => (2, 240) | 0x005 => (3, 2)
  | 0x006 => (0, 240) | 0x100 => (2, 240) | 0x101 => (1, 240) | 0x102 => (3, 240) | 0x103 => (2, 8)
  | 0x104 => (3, 240) | 0x200 => (2, 8) | 0x201 => (1, 8) | 0x202 => (3, 240) | 0x203 => (3, 240)
  | 0x204 => (1, 8) | 0x205 => (3, 240) | 0x206 => (3, 240) | 0x207 => (4, 240) | 0x300 => (2, 240)
  | 0x301 => (3, 240) | 0x302 => (0, 240) | 0x400 => (4, 1) | 0x401 => (4, 1) | 0x402 => (3, 1)
  | 0x403 => (1, 1) | 0x404 => (3, 1) | 0x405 => (2, 1) | 0x406 => (2, 1) | 0x500 => (3, 2)
  | 0x501 => (2, 1) | 0x502 => (2, 240) | 0x503 => (2, 240) | 0x600 => (2, 1) | 0x601 => (2, 1)
  | 0x602 => (4, 240) | 0x603 => (3, 1) | 0x604 => (2, 1) | 0x605 => (3, 1) | 0x700 => (1, 2) | 0x701 => (1, 2)
  | 0x800 => (3, 240) | 0x801 => (1, 240) | 0x802 => (2, 1) | _ => (0, 240)

/-- Bytes a record takes in the log, padded to a multiple of 4 (R385). -/
def LedgerRec.bytes (r : LedgerRec) : Nat := (16 + r.payload.length + 3) / 4 * 4

/-- Bytes of the ledger's queue in retention RAM. -/
def queueBytes (l : List LedgerRec) : Nat := (l.map LedgerRec.bytes).sum

/-- The log is full or corrupt (R393). -/
def State.ledgerStopped (s : State) : Bool := s.ledger.full || s.ledger.corrupt

/-- LDG_STATUS as the ledger writer stands (R393, R394, R397). -/
def showLedger (s : State) : State :=
  let m := s.ledger.mode
  let st := if m ≠ 0 then m else if s.ledger.corrupt then 5 else if s.ledger.full then 4 else 0
  let s := s.set F.LDG_STATUS_STATE st
  let s := s.set F.LDG_STATUS_QUEUED_BYTES (queueBytes s.ret.queue)
  s.set F.LDG_STATUS_WINDOW_WAIT (bitOf (!s.ret.queue.isEmpty && !s.on F.HK_FLAGS_FLASH_WINDOW))

/-- A record that cannot be kept is counted (R392). -/
def loseRec (sev : Nat) (s : State) : State :=
  let s := s.inc F.LDG_LOST_LOST 1
  if 3 ≤ sev then s.inc F.LDG_LOST_LOST_SEVERE 1 else s

/-- A closed record joins the retention-RAM queue of 48 KiB it shares with the loader (R366, R392), or is lost: when
the log is full or corrupt (R393), when the flash is absent (R407) or when the queue is full. -/
def enqueueRec (r : LedgerRec) (s : State) : State :=
  if s.ledgerStopped then loseRec r.sev s
  else if s.f F.NVL_STATUS_FLASH = 0 ∧ s.f F.NVL_STATUS_STATE ≠ 0 then loseRec r.sev s
  else if 49152 < queueBytes s.ret.queue + 64 * bitOf s.ret.loaderConfirm.isSome + r.bytes then loseRec r.sev s
  else
    showLedger { s with ret := { s.ret with queue := s.ret.queue ++ [r] } }

/-- The open record closes (R390, R391). -/
def closeOpenRec (s : State) : State :=
  match s.ret.openRec with
  | none => s
  | some r => enqueueRec r { s with ret := { s.ret with openRec := none, openAge := 0 } }

/-- The event is a repeat of the open record (R390). -/
def isRepeat (r : LedgerRec) (typ : Nat) (payload : List Byte) : Bool :=
  let (sev, key) := eventSpec typ
  r.typ == typ && r.sev == sev && r.payload.take key == payload.take key

/-- A record becomes the open record; one of INT_LEVEL or above raises the LEDGER vector (LDG_CFG). -/
def openRec (r : LedgerRec) (s : State) : State :=
  let s := closeOpenRec s
  let s := { s with ret := { s.ret with openRec := some r, openAge := 0 } }
  if s.f F.LDG_CFG_INT_LEVEL ≤ r.sev then raise 11 s else s

/-- A record of the present instant (R388, R389). -/
def State.stamp (s : State) (typ : Nat) (payload : List Byte) : LedgerRec :=
  ⟨typ, (eventSpec typ).1, s.ret.seconds, s.ret.cycles, s.ret.sub, 0, payload⟩

/-- An event reaches the ledger writer (R390). -/
def recordEvent (fresh : LedgerRec) (s : State) : State :=
  match s.ret.openRec with
  | some r =>
    if isRepeat r fresh.typ fresh.payload then
      let r' := { r with rep := r.rep + 1, payload := fresh.payload }
      let s := { s with ret := { s.ret with openRec := some r' } }
      if r'.rep = 0xFFFF then closeOpenRec s else s
    else openRec fresh s
  | none => openRec fresh s

/-- An event is raised. HK's writer records it at once while its gate is open; while HK is closed the event waits at
the gate, and one answered OUT_OF_SERVICE is lost (R36). -/
def event (typ : Nat) (payload : List Byte) (s : State) : State :=
  if s.islandOpen 1 then recordEvent (s.stamp typ payload) s
  else if (s.gate 1).outOfService then s
  else { s with ledger := { s.ledger with waiting := s.ledger.waiting ++ [s.stamp typ payload] } }

/-- Waiting events reach the writer when HK opens. -/
def drainEvents (s : State) : State :=
  s.ledger.waiting.foldl (fun s r => recordEvent r s)
    { s with ledger := { s.ledger with waiting := [] } }

/-- Words corrected and uncorrectable in the telemetry period (R400). -/
def tallyEcc (corr unc : Nat) (s : State) : State :=
  { s with ledger := { s.ledger with tEccC := s.ledger.tEccC + corr, tEccU := s.ledger.tEccU + unc } }

/-- Retransmissions in the telemetry period (R400). -/
def tallyRetx (s : State) : State := { s with ledger := { s.ledger with tRetx := s.ledger.tRetx + 1 } }

/-- Repair entries not marked VOID in the telemetry period (R400): one appended, or one marked. -/
def tallyEntry (void : Bool) (s : State) : State :=
  { s with ledger := { s.ledger with tEntries := if void then s.ledger.tEntries - 1 else s.ledger.tEntries + 1 } }

/-- The head's temperature and ALARMS enter the telemetry period (R400). -/
def tallyHead (s : State) : State :=
  { s with ledger := { s.ledger with
    tHead := max s.ledger.tHead (signed 8 (s.f F.DRL_HEAD_TEMP_TEMP_NOW))
    tAlarms := s.ledger.tAlarms ||| s.f F.DRL_HEAD_TEMP_ALARMS } }

/-! ### The lease and jobs, read -/

/-- The lease holder, 0 when none (R8). -/
def State.holder (s : State) : Nat := s.f F.GLB_LEASE_HOLDER

/-- The furrow at the head of the furrow queue; a density-only descriptor only serves the furrow behind it (R277). -/
def State.head? (s : State) : Option Desc := s.jobs.queue.find? fun d => !d.density

/-- The JPF block of an event: JOB_ID, FURROW, PASS and zero (R389). -/
def State.jpf (s : State) : List Byte :=
  match s.head? with
  | some d => leBytes 4 d.job ++ leBytes 2 d.furrow ++ leBytes 1 d.pass ++ [0]
  | none => List.replicate 8 0

/-- A furrow is armed, being written, held or in its traverse. -/
def State.furrowArmed (s : State) : Bool := s.jobs.run.isSome

/-- A stream of the queue is locked (R85). -/
def Desc.locked (d : Desc) : Bool := d.stream != .none

/-- The locked stream areas, with their descriptors. -/
def State.lockedStreams (s : State) : List Desc := s.jobs.queue.filter Desc.locked

/-- Two half-open ranges meet (R11). -/
def rangesMeet (a an b bn : Nat) : Bool := decide (a < b + bn) && decide (b < a + an) && decide (0 < an) && decide (0 < bn)

/-- A byte range meets a locked stream area. -/
def State.meetsLocked (s : State) (a n : Nat) : Bool := s.lockedStreams.any fun d => rangesMeet a n d.addr d.size

/-- The number of a free value, and the state that has used it. -/
def State.fresh (s : State) : Nat × State := (s.freeCount, { s with freeCount := s.freeCount + 1 })

end Sys2Proof.Machine
end

