-- ==== Sys2Proof/Machine/Memory.lean ====
section
/-! DEFINITION. DRAM and flash as every engine reads and writes them: the address map, SECDED words, valid bits, the
flip mask, and the account of uncorrectable reads (chapter 12). -/

namespace Sys2Proof.Machine

/-- What a byte of DRAM that nothing has written reads as (R306). -/
def dramDefault : Byte := 0

/-- What an erased byte of flash reads as (R387, R406). -/
def flashDefault : Byte := 0xFF

/-- The canonical form of a byte memory: addresses strictly rising, no entry equal to what an unlisted address
reads as. -/
def Memory.wf (dflt : Byte) (m : List Host.Cell) : Bool := alSorted m && m.all fun c => c.2 != dflt

/-- The raw byte of DRAM at an address, without the ECC. -/
def State.dramByte (s : State) (a : Nat) : Byte := cellGet dramDefault s.mem.cells a

/-- The flash byte at an offset. -/
def State.flashByte (s : State) (a : Nat) : Byte := cellGet flashDefault s.nvl.flash a

/-- `n` flash bytes from an offset. -/
def State.flashBytes (s : State) (a n : Nat) : List Byte := (List.range n).map fun i => s.flashByte (a + i)

/-- Bytes stored in a byte memory from an address up. -/
def cellsPut (dflt : Byte) (m : List Host.Cell) : Nat → List Byte → List Host.Cell
  | _, [] => m
  | a, b :: t => cellsPut dflt (cellSet dflt m a b) (a + 1) t

/-- Bytes [a, a + n) return to the default. -/
def cellsClear (m : List Host.Cell) (a n : Nat) : List Host.Cell :=
  m.filter fun c => !(decide (a ≤ c.1) && decide (c.1 < a + n))

/-- A flash program: bits only fall from the erased 1s (R406); bytes are stored as programmed ANDed with what
stands. -/
def flashProgram (a : Nat) (l : List Byte) (s : State) : State :=
  let old := s.flashBytes a l.length
  { s with nvl := { s.nvl with flash := cellsPut flashDefault s.nvl.flash a (List.zipWith (· &&& ·) old l) } }

/-- A flash erase of [a, a + n). -/
def flashErase (a n : Nat) (s : State) : State :=
  { s with nvl := { s.nvl with flash := cellsClear s.nvl.flash a n } }

/-! ### The address map (R298, R299) -/

/-- RESERVE, values above 8 acting as 8. -/
def State.reserve (s : State) : Nat := min 8 (s.f F.MEM_MAP_CFG_RESERVE)

/-- N, the pseudo-channels that carry the address space (R298). -/
def State.nPc (s : State) : Nat := 32 * s.cls.stacks - s.reserve

/-- The size of bonded DRAM in bytes (R298). -/
def State.capacity (s : State) : Nat := 0x20000000 * s.nPc

/-- A byte range lies wholly in bonded DRAM. -/
def State.inDram (s : State) (a n : Nat) : Bool := decide (a + n ≤ s.capacity)

/-- map[i]: the physical number of a slot (MEM_PC_MAP). -/
def State.pcMap (s : State) (i : Nat) : Nat := bits (s.rd (0x140100 + i / 4 * 4)) (8 * (i % 4) + 6) (8 * (i % 4))

/-- The RETIRED bit of a slot. -/
def State.pcRetired (s : State) (i : Nat) : Bool := (s.rd (0x140100 + i / 4 * 4)).testBit (8 * (i % 4) + 7)

/-- A slot of MEM_PC_MAP stored. -/
def setPcMap (i phys : Nat) (retired : Bool) (s : State) : State :=
  let off := 0x140100 + i / 4 * 4
  s.wr off (withBits (s.rd off) (8 * (i % 4) + 7) (8 * (i % 4)) (phys + 128 * bitOf retired))

/-- GRAIN, values below 8 acting as 8 and above 16 as 16. -/
def State.grain (s : State) : Nat := max 8 (min 16 (s.f F.MEM_MAP_CFG_GRAIN))

/-- The physical pseudo-channel of an address (R299). -/
def State.physOf (s : State) (a : Nat) : Nat := s.pcMap ((a >>> s.grain) % s.nPc)

/-! ### Events of the memory (R301, R304) -/

/-- An access at or beyond the capacity (R301). -/
def outOfRange (requester a : Nat) (s : State) : State :=
  event 0x501 ([BitVec.ofNat 8 requester, 0, 0, 0] ++ leBytes 8 a) (s.inc F.MEM_ERRORS_OUT_OF_RANGE 1)

/-- A nomination for retirement, refused or accepted (R318–R320). -/
def nominate (phys : Nat) (s : State) : State :=
  let nb := 32 * s.cls.stacks
  let slots := List.range nb
  let refuse := fun (code : Nat) (s : State) =>
    event 0x503 [BitVec.ofNat 8 phys, BitVec.ofNat 8 code, 0, 0] (s.set F.MEM_RETIRE_CTRL_RESULT code)
  if s.mem.retire.isSome then event 0x503 [BitVec.ofNat 8 phys, 6, 0, 0] (s.set F.MEM_RETIRE_CTRL_RESULT 6)
  else match slots.find? fun i => s.pcMap i == phys && decide (i < s.nPc) with
    | none => refuse 5 s
    | some _ =>
      if nb ≤ phys then refuse 5 s
      else match slots.find? fun i => decide (s.nPc ≤ i) && !s.pcRetired i with
        | none => refuse 4 s
        | some spare =>
          let s := { s with mem := { s.mem with retire := some ⟨phys, spare, false, 0, []⟩ } }
          ((s.set F.MEM_RETIRE_CTRL_PHYS phys).set F.MEM_RETIRE_CTRL_RESULT 1).set F.MEM_RETIRE_CTRL_COPIED_MIB 0

/-- One more uncorrectable word of a pseudo-channel, which may nominate it (R318). -/
def countUe (phys : Nat) (s : State) : State :=
  let n := (alGet s.mem.ueCount phys).getD 0 + 1
  let s := { s with mem := { s.mem with ueCount := alSet s.mem.ueCount phys n } }
  let s := s.inc (F.MEM_Snn_PC_ECC_UNCORRECTABLE (phys / 32) (phys % 32)) 1
  if s.on F.MEM_RETIRE_CFG_AUTO && n == max 1 (s.f F.MEM_RETIRE_CFG_UE_LIMIT) then nominate phys s else s

/-- The account of an uncorrectable read (R304): counted, recorded, MEM_UE_LAST and the MEMORY vector. -/
def uncorrectable (requester a : Nat) (s : State) : State :=
  let phys := s.physOf a
  let s := countUe phys s
  let s := (((s.set F.MEM_UE_LAST_LO_ADDR_LO (a % 2 ^ 32)).set F.MEM_UE_LAST_HI_ADDR_HI (a / 2 ^ 32)).set
    F.MEM_UE_LAST_HI_SOURCE requester).set F.MEM_UE_LAST_HI_VALID 1
  let s := tallyEcc 0 1 s
  raise 9 (event 0x500 ([BitVec.ofNat 8 phys, BitVec.ofNat 8 requester, 0, 0] ++ leBytes 8 a) s)

/-- A corrected word is counted (R302). -/
def corrected (a : Nat) (s : State) : State :=
  let phys := s.physOf a
  let s := tallyEcc 1 0 s
  s.inc (F.MEM_Snn_PC_ECC_CORRECTED (phys / 32) (phys % 32)) 1

/-- A request reaches a stack in self-refresh, which leaves it (R311). -/
def wakeStack (a : Nat) (s : State) : State :=
  let n := s.physOf a / 32
  if s.f (F.MEM_Snn_STATUS_STATE n) = 2 then s.set (F.MEM_Snn_STATUS_STATE n) 1 else s

/-! ### The gates of the stacks (R28, R36) -/

/-- The stacks that hold [a, a + n) of DRAM, grain by grain. -/
def State.stacksOf (s : State) (a n : Nat) : List Nat :=
  let g := 2 ^ s.grain
  (List.range ((a % g + n + g - 1) / g)).map fun i => s.physOf (a + i * g) / 32

/-- The stacks whose gates are not open. -/
def State.shutStacks (s : State) : List Nat := (List.range s.cls.stacks).filter fun n => !s.islandOpen (7 + n)

/-- A request for [a, a + n) of DRAM receives RETRY: a stack's gate is shut, and none is out of service (R28). -/
def State.memWaits (s : State) (a n : Nat) : Bool :=
  let l := s.shutStacks
  !l.isEmpty && (let t := (s.stacksOf a n).filter l.contains
    !t.isEmpty && t.all fun k => !(s.gate (7 + k)).outOfService)

/-- The island out of service that a request for [a, a + n) of DRAM finds, if any (R28, R36). -/
def State.memGone (s : State) (a n : Nat) : Option Nat :=
  let l := s.shutStacks.filter fun k => (s.gate (7 + k)).outOfService
  if l.isEmpty then none else ((s.stacksOf a n).find? l.contains).map (7 + ·)

/-- A request of an engine for DRAM is answered OUT_OF_SERVICE, and recorded (R36). -/
def goneEvent (requester i : Nat) (s : State) : State :=
  if requester < 8 then s else event 0x005 [BitVec.ofNat 8 requester, BitVec.ofNat 8 i, 1, 0] s

/-! ### Words (R302, R306, R321) -/

/-- The block of an address is valid. -/
def State.blockValid (s : State) (a : Nat) : Bool := s.mem.valid.contains (a / 4096)

/-- The 8 bytes of the word at address 8 w as they were written. -/
def State.wordBytes (s : State) (w : Nat) : List Byte := (List.range 8).map fun i => s.dramByte (8 * w + i)

/-- One 64-bit word read: its bytes, and false where it is uncorrectable. Three or more wrong bits have no guaranteed
outcome (R302), so both are free values. -/
def readWord (requester w : Nat) (s : State) : (List Byte × Bool) × State :=
  let a := 8 * w
  if s.capacity ≤ a then ((List.replicate 8 0, false), outOfRange requester a s)
  else if !s.blockValid a then ((List.replicate 8 0, true), s)
  else
    let s := wakeStack a s
    let m := (alGet s.mem.errs w).getD 0
    let n := popCount m 72
    if n = 0 then ((s.wordBytes w, true), s)
    else if n = 1 then ((s.wordBytes w, true), corrected a s)
    else if n = 2 then ((List.replicate 8 0, false), uncorrectable requester a s)
    else
      let (k, s) := s.fresh
      if Config.freeEccDetected k then ((List.replicate 8 0, false), uncorrectable requester a s)
      else ((leBytes 8 (Config.freeEccWord k).toNat, true), corrected a s)

/-- Words from `w` on read in ascending order; false where any was uncorrectable. -/
def readWords (requester : Nat) : Nat → Nat → State → (List Byte × Bool) × State
  | 0, _, s => (([], true), s)
  | n + 1, w, s =>
    let ((b, ok), s) := readWord requester w s
    let ((r, ok'), s) := readWords requester n (w + 1) s
    ((b ++ r, ok && ok'), s)

/-- `n` bytes of DRAM read from an address by a requester; false where a word is uncorrectable or its stack is out of
service. -/
def memRead (requester a n : Nat) (s : State) : (List Byte × Bool) × State :=
  if n = 0 then (([], true), s)
  else match s.memGone a n with
  | some i => ((List.replicate n 0xFF, false), goneEvent requester i s)
  | none =>
    let w0 := a / 8
    let w1 := (a + n + 7) / 8
    let ((b, ok), s) := readWords requester (w1 - w0) w0 s
    (((b.drop (a - 8 * w0)).take n, ok), s)

/-- A little-endian number of `n` bytes read, 0 where a word is uncorrectable. -/
def memNat (requester a n : Nat) (s : State) : Nat × State :=
  let ((b, _), s) := memRead requester a n s
  (ofLe b, s)

/-- Bytes stored in one word at offset `o`; a write of less than the word merges with the word read, and is discarded
when that read is uncorrectable (R302); false says so. An armed flip mask corrupts the stored word (R321). -/
def writeWord (requester w o : Nat) (l : List Byte) (s : State) : Bool × State :=
  let a := 8 * w
  if s.capacity ≤ a then (true, outOfRange requester a s)
  else
    let blk := a / 4096
    let fresh := !s.mem.valid.contains blk
    let s := if fresh then
        { s with mem := { s.mem with
            valid := setInsert s.mem.valid blk,
            cells := cellsClear s.mem.cells (4096 * blk) 4096,
            errs := s.mem.errs.filter fun e => e.1 / 512 != blk } }
      else s
    let s := wakeStack a s
    let whole := l.length == 8
    -- A partial write stores the whole word, merged with the word as it reads (R302).
    let ((old, ok), s) := if whole || fresh then (((s.wordBytes w, true) : List Byte × Bool), s) else readWord requester w s
    let l := if whole then l else old.take o ++ l ++ old.drop (o + l.length)
    if !ok then (false, s)
    else
      let hit := s.on F.MEM_FLIP_CTRL_ARMED && !s.on F.MEM_FLIP_ADDR_HI_SPACE &&
        s.rd F.MEM_FLIP_ADDR_LO.off / 8 * 8 + s.f F.MEM_FLIP_ADDR_HI_ADDR_HI <<< 32 == a
      let mask := if hit then s.rd F.MEM_FLIP_DATA_LO.off + s.rd F.MEM_FLIP_DATA_HI.off <<< 32 +
        s.f F.MEM_FLIP_CTRL_CHECK <<< 64 else 0
      let s := { s with mem := { s.mem with
        cells := cellsPut dramDefault s.mem.cells a l,
        errs := if mask = 0 then alErase s.mem.errs w else alSet s.mem.errs w mask } }
      (true, if hit then s.set F.MEM_FLIP_CTRL_ARMED 0 else s)

/-- Bytes stored from an address up, word by word; `fuel` bounds the words. False where a word was discarded. -/
def writeBytes (requester : Nat) : Nat → Nat → List Byte → State → Bool × State
  | 0, _, _, s => (true, s)
  | fuel + 1, a, l, s =>
    if l.isEmpty then (true, s)
    else
      let o := a % 8
      let k := 8 - o
      let (ok, s) := writeWord requester (a / 8) o (l.take k) s
      let (ok', s) := writeBytes requester fuel (a + k) (l.drop k) s
      (ok && ok', s)

/-- Bytes written to DRAM by a requester; false where a word was discarded or its stack is out of service. -/
def memWrite (requester a : Nat) (l : List Byte) (s : State) : Bool × State :=
  match s.memGone a l.length with
  | some i => (false, goneEvent requester i s)
  | none => writeBytes requester (l.length / 8 + 2) a l s

/-- Bytes stored by an engine: what falls into a locked stream is discarded (R85). -/
def engineBytes (requester : Nat) : Nat → Nat → List Byte → State → State
  | 0, _, _, s => s
  | fuel + 1, a, l, s =>
    if l.isEmpty then s
    else
      let k := 8 - a % 8
      let w := l.take k
      engineBytes requester fuel (a + k) (l.drop k)
        (if s.meetsLocked a w.length then s else (writeWord requester (a / 8) (a % 8) w s).2)

/-- Bytes written to DRAM by an internal engine. -/
def engineWrite (requester a : Nat) (l : List Byte) (s : State) : State :=
  match s.memGone a l.length with
  | some i => goneEvent requester i s
  | none => engineBytes requester (l.length / 8 + 2) a l s

/-- All DRAM content is lost (R39, R300): every valid bit clear. -/
def dramLost (s : State) : State :=
  { s with mem := { s.mem with cells := [], valid := [], errs := [], openPatch := [] } }

end Sys2Proof.Machine
end

