-- ==== Sys2Proof/Machine/Flash.lean ====
section
/-! DEFINITION. The flash beneath the loader and the ledger writer: the write window, the store records and their
wear counts (R366, R408, R416, R425). -/

namespace Sys2Proof.Machine

/-- Start of the ledger region (R408). -/
def ledgerBase : Nat := 0x2000000

/-- Bytes of the ledger region (R385). -/
def ledgerSize : Nat := 0x400000

/-- Start of the store region (R408). -/
def storeBase : Nat := 0x2400000

/-- The flash answers (R407). -/
def State.flashPresent (s : State) : Bool := s.f F.NVL_STATUS_FLASH != 0

/-- The flash write window holds (R366). -/
def State.windowHolds (s : State) : Bool := s.on F.HK_FLAGS_FLASH_WINDOW

/-- The 64 bytes of a store record (R416). -/
def storeBytes (r : StoreRec) : List Byte :=
  let b := leBytes 4 0x4E565331 ++ leBytes 4 r.rseq ++ leBytes 1 r.stateA ++ leBytes 1 r.stateB ++
    leBytes 1 r.attA ++ leBytes 1 r.attB ++ leBytes 4 r.seqA ++ leBytes 4 r.seqB ++
    (List.range 4).flatMap (fun i => leBytes 4 (nth r.erases i)) ++ List.replicate 24 0
  b ++ leBytes 4 (crc32c b)

/-- A store record read from 64 bytes; none where its MAGIC or CRC fails. -/
def parseStore (b : List Byte) : Option StoreRec :=
  if leAt b 0 4 = 0x4E565331 ∧ leAt b 60 4 = crc32c (b.take 60) then
    some ⟨leAt b 4 4, leAt b 8 1, leAt b 9 1, leAt b 10 1, leAt b 11 1, leAt b 12 4, leAt b 16 4,
      [leAt b 20 4, leAt b 24 4, leAt b 28 4, leAt b 32 4]⟩
  else none

/-- A NVL_WEAR register shows its count; at 90,000 WARN sets and FLASH_WEAR is recorded (R425). -/
def showWear (region count : Nat) (s : State) : State :=
  let off := F.NVL_WEAR_A.off + 4 * region
  let warned := (s.rd off).testBit 30
  let s := s.wr off (withBits (s.rd off) 16 0 (satN 17 count))
  if 90000 ≤ count then
    let s := s.wr off (withBits (s.rd off) 30 30 1)
    if warned then s else event 0x802 ([BitVec.ofNat 8 region, 0, 0, 0] ++ leBytes 4 count) s
  else s

/-- The slots of the loader as the store stands (NVL_SLOT_x, NVL_WEAR_n). -/
def showStore (s : State) : State :=
  let r := s.nvl.store
  let s := ((s.set F.NVL_SLOT_A_STATE r.stateA).set F.NVL_SLOT_A_ATTEMPTS r.attA).set F.NVL_SLOT_A_SEQ_LOW r.seqA
  let s := ((s.set F.NVL_SLOT_B_STATE r.stateB).set F.NVL_SLOT_B_ATTEMPTS r.attB).set F.NVL_SLOT_B_SEQ_LOW r.seqB
  [0, 1, 2, 3].foldl (fun s i => showWear i (nth r.erases i) s) s

/-- A store record programmed into the next slot of the log; a sector is erased just before its first record, and
each lap of the region counts (R416, R425). -/
def storeProgram (r : StoreRec) (s : State) : State :=
  let i := s.nvl.storeNext % 65536
  let lap := bitOf (i == 0)
  let r := { r with
    rseq := s.nvl.store.rseq + 1
    erases := (List.range 4).map fun k => nth r.erases k + (if k = 3 then lap else 0) }
  let a := storeBase + 64 * i
  let s := if i % 1024 = 0 then flashErase a 0x10000 s else s
  let s := flashProgram a (storeBytes r) s
  showStore { s with nvl := { s.nvl with store := r, storeValid := true, storeNext := (i + 1) % 65536 } }

/-- The count of a region raised by one (R425). -/
def StoreRec.erased (r : StoreRec) (region : Nat) : StoreRec :=
  { r with erases := (List.range 4).map fun k => nth r.erases k + (if k = region then 1 else 0) }

end Sys2Proof.Machine
end

