-- ==== Sys2Proof/Machine/Ledger.lean ====
section
/-! DEFINITION. The ledger writer: committing, freezing, reading and clearing the log, and the check-value units
(R385–R398, R402–R404). -/

namespace Sys2Proof.Machine

/-- The bytes of a record as programmed, padded with 0xFF (R385, R386). -/
def recordBytes (r : LedgerRec) : List Byte :=
  let len := 16 + r.payload.length
  let h := leBytes 2 len ++ leBytes 2 (r.typ * 16 + r.sev) ++ leBytes 4 r.seconds ++
    leBytes 4 (r.cycles * 256 + r.sub) ++ leBytes 2 r.rep
  h ++ leBytes 2 (crc16 (h ++ r.payload)) ++ r.payload ++ List.replicate (r.bytes - len) 0xFF

/-- A record programmed at the end of the log. -/
def programRec (r : LedgerRec) (s : State) : State :=
  let used := s.f F.LDG_USED_BYTES
  let s := flashProgram (ledgerBase + used) (recordBytes r) s
  (s.set F.LDG_USED_BYTES (used + r.bytes)).inc F.LDG_RECORDS_COUNT 1

/-- The oldest closed record is committed where it fits in the region less its reserve; the first that does not fit
is lost, LOG_FULL goes into the reserve, and every later record is lost (R393). -/
def commitOne (s : State) : State :=
  match s.ret.queue with
  | [] => s
  | r :: rest =>
    let s := { s with ret := { s.ret with queue := rest } }
    if s.ledgerStopped then showLedger (loseRec r.sev s)
    else if s.f F.LDG_USED_BYTES + r.bytes ≤ ledgerSize - 32 then showLedger (programRec r s)
    else
      let s := loseRec r.sev s
      let full := s.stamp 0x004 (leBytes 4 (s.f F.LDG_RECORDS_COUNT) ++ leBytes 2 r.typ ++ [0, 0])
      let s := programRec full s
      showLedger { s with ledger := { s.ledger with full := true } }

/-- Every queued record, at most `n` of them, committed. -/
def commitAll : Nat → State → State
  | 0, s => s
  | n + 1, s => commitAll n (commitOne s)

/-- A closed record may go to the flash: the window holds, no freeze or clear is in force, and the flash is not busy
with the loader's writes (R392), which take turns page by page with commits (R424). -/
def State.mayCommit (s : State) : Bool :=
  s.islandOpen 1 && s.flashPresent && s.windowHolds && s.fence.trip == 0 && (s.ledger.mode == 0 || s.ledger.mode == 1) &&
    (s.nvl.flashBusy == 0 || s.nvl.ledgerTurn)

/-- A closed record is committed (R392). -/
def ledgerCommit (s : State) : State :=
  if !s.mayCommit || s.ret.queue.isEmpty then showLedger s
  else
    let s := commitOne s
    let s := { s with nvl := { s.nvl with ledgerTurn := false } }
    if s.ledger.mode = 1 then
      let left := s.ledger.freezeLeft - 1
      let mode := if left = 0 then 2 else 1
      showLedger { s with ledger := { s.ledger with freezeLeft := left, mode := mode } }
    else s

/-- The open record has been open HOLD_S seconds (R391). -/
def ledgerHoldExpiry (s : State) : State := closeOpenRec s

/-- FREEZE by a party (R394). A FREEZE while a clear runs changes nothing. -/
def ledgerFreeze (party : Nat) (s : State) : State :=
  if s.ledger.mode ≠ 0 then s
  else
    let s := closeOpenRec s
    let n := s.ret.queue.length
    let s := s.set F.LDG_STATUS_FREEZER party
    showLedger { s with ledger := { s.ledger with mode := if n = 0 then 2 else 1, freezeLeft := n } }

/-- A freeze ends: queued records commit again (R394). -/
def endFreeze (s : State) : State :=
  if s.ledger.mode = 1 ∨ s.ledger.mode = 2 then
    showLedger { (s.set F.LDG_STATUS_FREEZER 0) with ledger := { s.ledger with mode := 0, freezeLeft := 0 } }
  else s

/-- UNFREEZE by the party that froze or by the lease holder (R394). -/
def ledgerUnfreeze (party : Nat) (s : State) : State :=
  if party = s.f F.LDG_STATUS_FREEZER ∨ (party = s.holder ∧ party ≠ 0) then endFreeze s else s

/-- The rights of a party end, and with them its freeze (R394). -/
def endFreezeOf (party : Nat) (s : State) : State :=
  if s.f F.LDG_STATUS_FREEZER = party then endFreeze s else s

/-- The read pointer of a party (R395). -/
def State.ledgerPtr (s : State) (party : Nat) : Nat := (alGet s.ledger.readPtr party).getD 0

/-- The word at a party's read pointer: all ones beyond the end of the log (R395). -/
def ledgerWord (party : Nat) (s : State) : Nat :=
  let p := s.ledgerPtr party
  if s.f F.LDG_USED_BYTES ≤ p then 0xFFFFFFFF else ofLe (s.flashBytes (ledgerBase + p) 4)

/-- A read of LDG_READ_DATA moves the party's pointer by 4 (R395). -/
def ledgerAdvance (party : Nat) (s : State) : State :=
  let p := (s.ledgerPtr party + 4) % 0x400000
  { s with ledger := { s.ledger with readPtr := alSet s.ledger.readPtr party p } }

/-! ### Clearing (R396, R397) -/

/-- CLEAR_REQUEST by a party (R396). A refused request leaves a clear or another's request as it stands and shows
REASON BUSY. -/
def clearRequest (party : Nat) (s : State) : State :=
  let st := s.f F.LDG_CLEAR_STATE
  let fr := s.f F.LDG_STATUS_FREEZER
  if st = 3 ∨ st = 4 ∨ (st = 1 ∧ s.f F.LDG_CLEAR_REQUESTER ≠ party) then s.set F.LDG_CLEAR_REASON 1
  else if fr ≠ 0 ∧ fr ≠ party then (s.set F.LDG_CLEAR_STATE 6).set F.LDG_CLEAR_REASON 1
  else
    let (k, s) := s.fresh
    (((s.set F.LDG_CLEAR_STATE 1).set F.LDG_CLEAR_REQUESTER party).set F.LDG_CLEAR_REASON 0).set
      F.LDG_CLEAR_NONCE (Config.freeNonce k).toNat

/-- FNC_LEDGER_KEY written with AUTHORISE (R396). -/
def ledgerAuthorise (key : Nat) (s : State) : State :=
  if s.f F.LDG_CLEAR_STATE = 1 then
    if key = s.f F.LDG_CLEAR_NONCE then s.set F.LDG_CLEAR_STATE 2
    else (s.set F.LDG_CLEAR_STATE 6).set F.LDG_CLEAR_REASON 2
  else s

/-- Ten seconds after the authorisation without a confirmation (R396). -/
def authorisationExpiry (s : State) : State :=
  if s.f F.LDG_CLEAR_STATE = 2 then s.set F.LDG_CLEAR_STATE 7 else s

/-- A confirmed clear goes on once the window holds: it commits the open record and the queue, then starts erasing
(R397). -/
def clearProceed (s : State) : State :=
  if s.f F.LDG_CLEAR_STATE = 3 ∧ s.windowHolds ∧ s.nvl.flashBusy = 0 ∧ s.nvl.update.isNone ∧ s.fence.trip = 0 then
    let s := commitAll s.ret.queue.length s
    let first := ofLe (s.flashBytes (ledgerBase + 4) 4)
    let s := { s with ledger := { s.ledger with
      clearBefore := (s.f F.LDG_RECORDS_COUNT, s.f F.LDG_LOST_LOST, first), eraseNext := 0 } }
    let s := storeProgram (s.nvl.store.erased 2) s
    showLedger { (s.set F.LDG_CLEAR_STATE 4) with nvl := { s.nvl with flashBusy := 2 } }
  else s

/-- CLEAR_CONFIRM by a party (R396, R397). -/
def clearConfirm (party : Nat) (s : State) : State :=
  if s.f F.LDG_CLEAR_STATE = 2 ∧ s.f F.LDG_CLEAR_REQUESTER = party then
    let s := closeOpenRec (endFreeze s)
    let s := { (s.set F.LDG_CLEAR_STATE 3) with ledger := { s.ledger with mode := 3 } }
    clearProceed (showLedger s)
  else s.set F.LDG_CLEAR_REASON 3

/-- A sector of the ledger region is erased; after the last one LEDGER_CLEARED is the first record and the counts
return to zero (R397). -/
def clearSectorDone (s : State) : State :=
  let n := s.ledger.eraseNext
  let s := flashErase (ledgerBase + 0x10000 * n) 0x10000 s
  if n + 1 < 64 then { s with ledger := { s.ledger with eraseNext := n + 1 } }
  else
    let (recs, lost, first) := s.ledger.clearBefore
    let s := (s.set F.LDG_USED_BYTES 0).set F.LDG_RECORDS_COUNT 0
    let p := leBytes 2 (s.f F.LDG_CLEAR_REQUESTER) ++ leBytes 2 (s.f F.LDG_CLEAR_NONCE) ++ leBytes 4 recs ++
      leBytes 4 lost ++ leBytes 4 first
    let s := programRec (s.stamp 0x003 p) s
    let s := s.wr F.LDG_LOST.off 0
    let s := s.set F.LDG_CLEAR_STATE 5
    showLedger { s with
      ledger := { s.ledger with mode := 0, full := false, corrupt := false, eraseNext := 0 }
      nvl := { s.nvl with flashBusy := 0, suspended := false } }

/-! ### Check-value units (R402–R404) -/

/-- POLY of a unit. -/
def State.chkPoly (s : State) (u : Nat) : Nat := s.f (F.CHK_Unn_CTRL_POLY u)

/-- Owner of a unit. -/
def State.chkOwner (s : State) (u : Nat) : Nat := s.f (F.CHK_Unn_CTRL_OWNER u)

/-- The running value of a unit. -/
def State.chkCrc (s : State) (u : Nat) : Nat := (alGet s.chk u).getD (chkInit (s.chkPoly u))

/-- CLAIM of U03, an exclusive grant (R402). -/
def chkClaim (party : Nat) (s : State) : State :=
  if s.chkOwner 3 = 0 then s.set (F.CHK_Unn_CTRL_OWNER 3) party else s

/-- RELEASE of U03 by its owner, or the end of its owner's rights (R402). -/
def chkRelease (party : Nat) (s : State) : State :=
  if s.chkOwner 3 = party ∧ party ≠ 0 then s.set (F.CHK_Unn_CTRL_OWNER 3) 0 else s

/-- A unit's RESULT shows the final value of what has been fed (R403). -/
def showChk (u : Nat) (s : State) : State := s.wr (F.CHK_Unn_RESULT u).off (chkFinal (s.chkPoly u) (s.chkCrc u))

/-- Bytes fed to a unit, lowest first (R403). -/
def chkFeed (u : Nat) (l : List Byte) (s : State) : State :=
  let c := l.foldl (chkByte (s.chkPoly u)) (s.chkCrc u)
  showChk u ({ s with chk := alSet s.chk u c }.inc (F.CHK_Unn_COUNT_BYTES u) l.length)

/-- INIT of a unit; with ALIVE_EN the alive byte is the message's first byte and then advances (R403, R404). -/
def chkDoInit (u : Nat) (s : State) : State :=
  let s := { s with chk := alSet s.chk u (chkInit (s.chkPoly u)) }
  let s := s.set (F.CHK_Unn_COUNT_BYTES u) 0
  if s.on (F.CHK_Unn_CTRL_ALIVE_EN u) then
    let a := s.f (F.CHK_Unn_ALIVE_ALIVE u)
    (chkFeed u (leBytes 1 a) s).set (F.CHK_Unn_ALIVE_ALIVE u) (a + 1)
  else showChk u s

end Sys2Proof.Machine
end

