-- ==== Sys2Proof/Machine/Hosts.lean ====
section
/-! DEFINITION. The lease, the context windows, the job rings and the furrow queue (R268–R285). -/

namespace Sys2Proof.Machine

/-! ### The lease (R270–R272, R442) -/

/-- The holder changes: GLB_LEASE, JOB_QUEUE.SOURCE, a LEASE_CHANGE event and the LEASE vector (R271, R389). -/
def leaseChange (new reason : Nat) (s : State) : State :=
  let old := s.holder
  let code := fun (p : Nat) => BitVec.ofNat 8 (if p = 0 then 0xFF else p)
  let s := (s.set F.GLB_LEASE_HOLDER new).set F.JOB_QUEUE_SOURCE new
  raise 3 (event 0x006 [code old, code new, BitVec.ofNat 8 reason, 0] s)

/-- A lease ends: the rights that depend on it end with it (R271, R394). -/
def leaseEnd (reason : Nat) (s : State) : State :=
  if s.holder = 0 then s else endFreezeOf s.holder (leaseChange 0 reason s)

/-- RESULT of a party's last lease command (R442). -/
def leaseResult (party r : Nat) (s : State) : State := { s with leaseResult := alSet s.leaseResult party r }

/-- ACQUIRE by a party (R270, R356). -/
def leaseAcquire (party : Nat) (s : State) : State :=
  if !(party == 1 || party == 2 || party == 4) || s.on F.FNC_CTRL_LEASE_LOCK then leaseResult party 3 s
  else if s.holder = party then leaseResult party 4 s
  else if s.holder ≠ 0 then leaseResult party 2 s
  else leaseResult party 1 (leaseChange party 0 s)

/-- RELEASE by a party (R270). -/
def leaseRelease (party : Nat) (s : State) : State :=
  if s.holder = party ∧ party ≠ 0 then leaseResult party 1 (leaseEnd 1 s) else leaseResult party 4 s

/-- KEEPALIVE by a party: from the holder it restarts the watchdog, which runs outside the model (R270, R442). -/
def leaseKeepalive (party : Nat) (s : State) : State :=
  leaseResult party (if s.holder = party ∧ party ≠ 0 then 1 else 4) s

/-! ### Context windows (R269) -/

/-- An empty context window. -/
def Ctx.empty : Ctx := ⟨0, 0, 0, 0, 0, false, [], [], []⟩

/-- The context window of a party. -/
def State.ctxOf (s : State) (party : Nat) : Ctx := (alGet s.ctx party).getD Ctx.empty

/-- A context window replaced. -/
def State.setCtx (s : State) (party : Nat) (c : Ctx) : State := { s with ctx := alSet s.ctx party c }

/-- A word of a byte-cell buffer. -/
def cellWord (m : List Host.Cell) (a : Nat) : Nat := ofLe ((List.range 4).map fun i => cellGet 0 m (a + i))

/-- A read of a context window (R269). STREAM_JOB and the MSI-X table are not in the service window, and the PBA
reads zero. -/
def ctxRead (party off : Nat) (s : State) : Nat :=
  let c := s.ctxOf party
  if off = 0x0 then c.jobTail
  else if off = 0x4 then c.jobHead
  else if off = 0x8 then c.cplHead
  else if off = 0xC then c.cplTail
  else if off = 0x10 then (if party = 4 then 0 else c.streamJob)
  else if off = 0x18 then bitOf c.ringError
  else if 0x2000 ≤ off ∧ off < 0x4000 then cellWord c.jobRing (off - 0x2000)
  else if 0x4000 ≤ off ∧ off < 0x6000 then cellWord c.cplRing (off - 0x4000)
  else if 0xE000 ≤ off ∧ off < 0xE400 ∧ party ≠ 4 then cellWord c.msix (off - 0xE000)
  else 0

/-- A JOB_TAIL write (R273). -/
def jobTailWrite (party value : Nat) (s : State) : State :=
  let c := s.ctxOf party
  let v := value % 65536
  if 64 < (v + 65536 - c.jobHead) % 65536 then s.setCtx party { c with ringError := true }
  else s.setCtx party { c with jobTail := v }

/-! ### Completions (R283, R285) -/

/-- A completion record goes into the ring its descriptor came from, and JOB_COMPLETION is raised on that port. -/
def complete (d : Desc) (status flags resumes entries : Nat) (sigs : List Nat) (s : State) : State :=
  let c := s.ctxOf d.party
  let phase := 1 - c.cplTail / 64 % 2
  let done := status == 0
  let ws := [phase <<< 31 + status <<< 16 + d.ringSeq, d.job, d.pass <<< 16 + d.furrow, d.hostTag,
    if done then flags else 0, satN 16 resumes <<< 16 + satN 16 entries, s.ret.seconds, 0] ++
    (List.range 24).map fun g => if done then nth sigs g else 0
  let a := 128 * (c.cplTail % 64)
  let c := { c with cplRing := cellsPut 0 c.cplRing a (wordsLe ws), cplTail := (c.cplTail + 1) % 65536 }
  raisePort' d.party (s.setCtx d.party c)
where
  raisePort' (p : Nat) (s : State) : State := if p = 1 ∨ p = 2 then raisePort p 0 s else s

/-- A descriptor that never armed completes with a status (R276, R279). -/
def completeUnarmed (d : Desc) (status : Nat) (s : State) : State := complete d status 0 0 0 [] s

/-! ### Taking descriptors (R274–R277) -/

/-- The descriptor JOB_STATUS and a cancel take for the head: the furrow at the head of the queue, or the first
density-only descriptor where no furrow is queued (R279). -/
def State.shownHead (s : State) : Option Desc :=
  match s.head? with
  | some d => some d
  | none => s.jobs.queue.head?

/-- JOB_QUEUE and JOB_HEAD_JOB, JOB_STATUS.PASS and FURROW follow the queue (R297); an empty queue has no blocking code
(R278, R279). -/
def showQueue (s : State) : State :=
  let s := (s.set F.JOB_QUEUE_ENTRIES s.jobs.queue.length).set F.JOB_QUEUE_SOURCE s.holder
  match s.shownHead with
  | some d => ((s.wr F.JOB_HEAD_JOB.off d.job).set F.JOB_STATUS_PASS d.pass).set F.JOB_STATUS_FURROW d.furrow
  | none =>
    let s := if s.f F.JOB_STATUS_CODE = 0 then s else raise 1 s
    ((((s.wr F.JOB_HEAD_JOB.off 0).set F.JOB_STATUS_PASS 0).set F.JOB_STATUS_FURROW 0).set F.JOB_STATUS_STATE 0).set
      F.JOB_STATUS_CODE 0

/-- The furrow queue replaced. -/
def setQueue (q : List Desc) (s : State) : State := showQueue { s with jobs := { s.jobs with queue := q } }

/-- A descriptor as its 32 words spell it (R275). -/
def parseDesc (party ringSeq : Nat) (b : List Byte) : Desc :=
  let w := fun i => leAt b (4 * i) 4
  { party, ringSeq
    density := bits (w 0) 7 0 == 1
    job := w 1
    pass := bits (w 2) 17 16
    furrow := bits (w 2) 15 0
    rows := bits (w 3) 24 0
    feeder := bits (w 4) 15 8
    lastInPass := (w 4).testBit 0
    addr := w 5 + bits (w 6) 3 0 <<< 32
    size := w 7 + bits (w 8) 3 0 <<< 32
    tableSet := w 9
    hostTag := w 10
    stream := .none
    followed := false
    jobNo := 0 }

/-- The reserved bits of a descriptor are zero, its fixed fields are right and its stream area lies in bonded DRAM
(R276, item 2). -/
def descFieldsOk (b : List Byte) (d : Desc) (s : State) : Bool :=
  let w := fun i => leAt b (4 * i) 4
  bits (w 0) 31 16 == 0x4A44 && bits (w 0) 15 8 == 1 && decide (bits (w 0) 7 0 ≤ 1) &&
  (d.feeder == 1 || d.feeder == 2) &&
  bits (w 2) 31 18 == 0 && bits (w 3) 31 25 == 0 && bits (w 4) 31 16 == 0 && bits (w 4) 7 1 == 0 &&
  bits (w 5) 11 0 == 0 && bits (w 6) 31 4 == 0 && bits (w 8) 31 4 == 0 &&
  ((List.range 20).all fun i => w (11 + i) == 0) &&
  decide (0 < d.size) && d.size % 64 == 0 && s.inDram d.addr d.size

/-- The status of the first check a descriptor fails (R276, R277, R51); none where it passes. -/
def descStatus (b : List Byte) (d : Desc) (s : State) : Option Nat :=
  if leAt b 124 4 ≠ crc32c (b.take 124) then some 0x02
  else if !descFieldsOk b d s then some 0x03
  else if d.rows % 64 ≠ 0 ∨ d.rows < 64 ∨ 2 ^ 25 ≤ d.rows then some 0x05
  else if (match s.jobs.last with | some l => l.job == d.job && l.rows != d.rows | none => false) then some 0x06
  else if s.cls.passes ≤ d.pass then some 0x07
  else if d.density then none
  else match s.jobs.last with
    | some l =>
      if l.job ≠ d.job then none
      else if l.last then (if d.pass = l.pass + 1 ∧ d.furrow = 0 then none else some 0x04)
      else if d.pass = l.pass ∧ d.furrow = l.furrow + 1 then none else some 0x04
    | none => none

/-- The density-only descriptors of a ring that no furrow descriptor of it has followed yet. -/
def unfollowed (q : List Desc) (party : Nat) : List Desc :=
  q.filter fun d => d.party == party && d.density && !d.followed

/-- When a furrow descriptor of a ring is taken, the density-only descriptors it is the first to follow are checked:
those that do not name its predecessor complete with ORDER (R277). -/
def checkDensity (d : Desc) (s : State) : State :=
  let bad := (unfollowed s.jobs.queue d.party).filter fun e =>
    !(e.job == d.job && e.pass == d.pass && e.furrow + 1 == d.furrow)
  let s := bad.foldl (fun s e => completeUnarmed e 0x04 (setQueue (s.jobs.queue.filter (· != e)) s)) s
  { s with jobs := { s.jobs with queue := s.jobs.queue.map fun e =>
      if e.party == d.party then { e with followed := true } else e } }

/-- A descriptor of a ring may be taken: the queue has room and the completion ring has a slot for it (R274). -/
def State.mayTake (s : State) (party : Nat) : Bool :=
  let c := s.ctxOf party
  let taken := (s.jobs.queue.filter fun d => d.party == party).length
  c.jobTail != c.jobHead && decide (s.jobs.queue.length < 32) &&
    decide (taken + (c.cplTail + 65536 - c.cplHead) % 65536 < 64)

/-- The sequencer takes the next descriptor of the holder's ring, or retires it at once (R274, R276). -/
def takeDescriptor (s : State) : State :=
  let p := s.holder
  if !s.mayTake p || !(p == 1 || p == 2 || p == 4) || !s.islandOpen 5 then s
  else
    let c := s.ctxOf p
    let b := (List.range 128).map fun i => cellGet 0 c.jobRing (128 * (c.jobHead % 64) + i)
    let d := parseDesc p c.jobHead b
    let s := s.setCtx p { c with jobHead := (c.jobHead + 1) % 65536 }
    let s := if s.jobs.cancelJob = some d.job then s else { s with jobs := { s.jobs with cancelJob := none } }
    let s := if d.density then s else checkDensity d s
    if s.jobs.cancelJob = some d.job then completeUnarmed d 0x01 s
    else match descStatus b d s with
      | some st => completeUnarmed d st { s with jobs := { s.jobs with cancelJob := some d.job } }
      | none =>
        let first := match s.jobs.last with | some l => l.job != d.job | none => true
        let n := if first && !d.density then s.jobs.jobNo + 1 else s.jobs.jobNo
        let s := setQueue (s.jobs.queue ++ [{ d with jobNo := n }]) { s with jobs := { s.jobs with jobNo := n } }
        let s := if s.f F.JOB_STATUS_STATE = 0 then s.set F.JOB_STATUS_STATE 1 else s
        if d.density then s
        else
          { s with jobs := { s.jobs with last := some ⟨d.job, d.pass, d.furrow, d.lastInPass, d.rows⟩ } }

/-! ### Feeding streams (R280, R85, R86, R89) -/

/-- Base of a port's admission report (R89). -/
def admitBase (port : Nat) : Nat := if port = 1 then 0x70200 else 0x70220

/-- The admission report of a port written in one cycle (R89). -/
def admitReport (port state pass result furrow job seg : Nat) (inSeg : Bool) (offset : Nat) (s : State) : State :=
  let b := admitBase port
  let s := s.wr b (state <<< 30 + pass <<< 24 + result <<< 16 + furrow)
  let s := s.wr (b + 4) job
  let s := s.wr (b + 8) (bitOf inSeg <<< 31 + seg)
  (s.wr (b + 12) (offset % 2 ^ 32)).wr (b + 16) (offset / 2 ^ 32)

/-- A descriptor is the same entry of the queue. -/
def Desc.same (a b : Desc) : Bool := a.party == b.party && a.ringSeq == b.ringSeq

/-- A descriptor of the queue changed in place. -/
def mapDesc (d : Desc) (g : Desc → Desc) (s : State) : State :=
  { s with jobs := { s.jobs with queue := s.jobs.queue.map fun e => if e.same d then g e else e } }

/-- The descriptor a doorbell names: a furrow descriptor before a density-only one, and the older first (R280). -/
def doorbellDesc (job pass furrow : Nat) (s : State) : Option Desc :=
  let m := s.jobs.queue.filter fun d => d.job == job && d.pass == pass && d.furrow == furrow
  match m.find? fun d => !d.density with
  | some d => some d
  | none => m.head?

/-- The stream-ready doorbell (R280). The service window has none (R269). -/
def streamReady (port value : Nat) (s : State) : State :=
  if !(port == 1 || port == 2) then s
  else
    let job := (s.ctxOf port).streamJob
    let pass := bits value 17 16
    let furrow := bits value 15 0
    let refuse := fun code => raisePort port 2 (admitReport port 3 pass code furrow job 0 false 0 s)
    match doorbellDesc job pass furrow s with
    | none => refuse 0x14
    | some d =>
      if d.feeder ≠ port then refuse 0x11
      else if d.locked then refuse 0x13
      else if 16 ≤ (s.jobs.posts.filter fun p => p.1 == port).length then refuse 0x12
      else
        let s := mapDesc d (fun e => { e with stream := .posted }) s
        let s := { s with jobs := { s.jobs with posts := s.jobs.posts ++ [(port, d.party, d.ringSeq)] } }
        admitReport port 1 pass 0 furrow job 0 false 0 s

/-- The sequencer begins to take the oldest waiting post (R86). -/
def admissionStart (s : State) : State :=
  match s.jobs.admitting, s.jobs.posts with
  | none, p :: rest =>
    if !s.islandOpen 5 then s
    else
      let s := { s with jobs := { s.jobs with admitting := some p, posts := rest } }
      { s with jobs := { s.jobs with queue := s.jobs.queue.map fun e =>
          if e.party == p.2.1 && e.ringSeq == p.2.2 then { e with stream := .admitting } else e } }
  | _, _ => s

end Sys2Proof.Machine
end

