-- ==== Sys2Proof/Machine/Tables.lean ====
section
/-! DEFINITION. The table windows and their banks (R17, R341, R342, R438). A banked entry is named by its BAR0 offset
in the write view. -/

namespace Sys2Proof.Machine

/-- The writable bits and the reset value of the banked entry at a write-view offset; none beyond a table's entries
(R50, R58, R140, R154, R162, R163, R438). -/
def tableEntry (off : Nat) : Option (Nat × Nat) :=
  if off % 4 ≠ 0 then none
  else if 0x1000000 ≤ off ∧ off < 0x10FC000 then some (0xFFFF, 0x80)
  else if 0x1210000 ≤ off ∧ off < 0x121FC00 then some (0xFFFFFFFF, 0)
  else if 0x1300000 ≤ off ∧ off < 0x1300100 then some (0xFFFF, 0xFFFF)
  else if 0x1301000 ≤ off ∧ off < 0x1301010 then some (0x1FFF, 0)
  else if 0x1310000 ≤ off ∧ off < 0x1310600 then
    (if (off - 0x1310000) % 512 < 336 then some (0xFFFF, 0) else none)
  else if off = 0x1310600 then some (0x80000003, 0x80000000)
  else if off = 0x1310604 then some (0xFFFFFFFF, 0)
  else if off = 0x1310608 then some (0xFFFF, 0)
  else if off = 0x131060C then some (0xFFFFFFFF, 0x7F800000)
  else if off = 0x1310610 then some (0xFFFFFFFF, 0xFFFF1000)
  else if 0x1320000 ≤ off ∧ off < 0x1320100 then some (0xFF, 0x80)
  else if off = 0x1320100 then some (0x801FFFFF, 0)
  else none

/-- The write-view offset of an offset in an active view (R438). -/
def activeView (off : Nat) : Option Nat :=
  if 0x1100000 ≤ off ∧ off < 0x11FC000 then some (off - 0x100000)
  else if 0x1220000 ≤ off ∧ off < 0x122FC00 then some (off - 0x10000)
  else if 0x1300100 ≤ off ∧ off < 0x1300200 then some (off - 0x100)
  else if 0x1301010 ≤ off ∧ off < 0x1301020 then some (off - 0x10)
  else if 0x1310800 ≤ off ∧ off < 0x1310E14 then some (off - 0x800)
  else if 0x1320200 ≤ off ∧ off < 0x1320304 then some (off - 0x200)
  else none

/-- The active table bank is B (JOB_BANK_CTRL). -/
def State.activeB (s : State) : Bool := s.on F.JOB_BANK_CTRL_TABLE_BANK

/-- An entry of a bank's contents. -/
def bankGet (l : List (Nat × Nat)) (off : Nat) : Nat :=
  match tableEntry off with
  | some (_, dflt) => (alGet l off).getD dflt
  | none => 0

/-- An entry of a bank. -/
def State.bankEntry (s : State) (b : Bool) (off : Nat) : Nat := bankGet (if b then s.bankB else s.bankA) off

/-- The contents of the active bank. -/
def State.activeBank (s : State) : List (Nat × Nat) := if s.activeB then s.bankB else s.bankA

/-- An entry of the active bank. -/
def State.act (s : State) (off : Nat) : Nat := bankGet s.activeBank off

/-- A field of an entry of the active bank. -/
def State.actF (s : State) (off hi lo : Nat) : Nat := bits (s.act off) hi lo

/-- An entry of a bank stored. -/
def setBank (b : Bool) (off v : Nat) (s : State) : State :=
  match tableEntry off with
  | some (mask, _) =>
    if b then { s with bankB := alSet s.bankB off (v &&& mask) } else { s with bankA := alSet s.bankA off (v &&& mask) }
  | none => s

/-- A word read in the table windows (R438). -/
def tableRead (off : Nat) (s : State) : Nat :=
  if (tableEntry off).isSome then s.bankEntry (!s.activeB) off
  else match activeView off with
    | some o => s.act o
    | none =>
      if 0x1200000 ≤ off ∧ off < 0x120FC00 then (alGet s.headPlane ((off - 0x1200000) / 4)).getD 0
      else if 0x1400000 ≤ off ∧ off < 0x14FC000 then (alGet s.usage ((off - 0x1400000) / 4)).getD 0
      else 0

/-- A word written in the write view reaches the inactive bank; while a swap is pending it is discarded and sets
FROZEN_WRITE (R342, R438). -/
def tableWrite (off v : Nat) (s : State) : State :=
  if (tableEntry off).isNone then s
  else if s.jobs.swapPending then s.set F.JOB_BANK_CTRL_FROZEN_WRITE 1
  else setBank (!s.activeB) off v s

/-- Words written from an offset up. -/
def tableWriteWords : Nat → List Nat → State → State
  | _, [], s => s
  | off, w :: t, s => tableWriteWords (off + 4) t (tableWrite off w s)

/-- The check of R59 on a bank: some position of the 16 by 16 pattern is clear in all four bands (F). -/
def maskEmpty (b : Bool) (s : State) : Bool :=
  s.cls == .F && (List.range 16).any fun m =>
    let any := (List.range 4).foldl (fun acc k => acc ||| s.bankEntry b (0x1300000 + 64 * k + 4 * m)) 0
    any % 65536 != 0xFFFF

/-- BYPASS of Madder in the active bank (R148). -/
def State.madBypass (s : State) : Bool := s.actF 0x1310600 31 31 == 1

/-- STATE of HRW_AUDIT_STATUS or SOW_AUDIT_STATUS. -/
def auditState (sow : Bool) (st : Nat) (s : State) : State :=
  if sow then s.set F.SOW_AUDIT_STATUS_STATE st else s.set F.HRW_AUDIT_STATUS_STATE st

/-- A Harrow audit unit whose live tile has not finished it, of a stream whose expansion starts over or ends, ends
without a result (R128). -/
def cutTileUnit (pre : Bool) (s : State) : State :=
  match s.path.harrowAudit with
  | some h =>
    if h.pre = pre ∧ h.live.isNone then
      auditState false 0 { s with path := { s.path with harrowAudit := some { h with unit := none, aud := none } } }
    else s
  | none => s

/-- The prepass or pre-run is dropped, and the decoder instances leave it. -/
def dropPre (s : State) : State :=
  cutTileUnit true { s with path := { s.path with
    preWork := none, tilth := s.path.tilth.filter fun (e : Nat × (Bool × Nat × Nat × Nat)) => !e.2.1 } }

/-- The banks exchange (R341); a microcode bank that fails its CRC keeps everything as it stands (R342). -/
def bankSwap (microcodeOk : Bool) (s : State) : State :=
  let s := { s with jobs := { s.jobs with swapPending := false } }
  if !microcodeOk then s.set F.JOB_BANK_CTRL_RESULT 4
  else
    let s := s.set F.JOB_BANK_CTRL_TABLE_BANK (1 - s.f F.JOB_BANK_CTRL_TABLE_BANK)
    let s := s.set F.JOB_BANK_CTRL_MICROCODE_BANK (1 - s.f F.JOB_BANK_CTRL_MICROCODE_BANK)
    let s := s.wr F.JOB_TABLE_SET_ACTIVE.off (s.rd F.JOB_TABLE_SET_NEXT.off)
    -- With BYPASS in the new bank no pre-run or prepass runs (R148).
    let s := if s.madBypass then dropPre s else s
    s.set F.JOB_BANK_CTRL_RESULT 2

/-- A DMA channel with a TABLE-space destination is running (R342). -/
def State.tableDma (s : State) : Bool :=
  s.dma.any fun c => (match c.2.desc with | some d => d.dst >>> 62 == 2 | none => false) &&
    (let st := s.f (F.DMA_CH_nn_STATUS_STATE c.1); st == 2 || st == 3)

/-- SWAP (R341, R342): at once while no furrow is armed or held, else at the furrow boundary. -/
def bankSwapRequest (microcodeOk : Bool) (s : State) : State :=
  if s.jobs.swapPending || s.tableDma then s.set F.JOB_BANK_CTRL_RESULT 3
  else if s.furrowArmed then
    { s with jobs := { s.jobs with swapPending := true } }.set F.JOB_BANK_CTRL_RESULT 1
  else bankSwap microcodeOk s

/-! ### Payloads (R174, R288) -/

/-- Eight bits to a byte, the lowest first. -/
def packBits : List Bool → List Byte
  | a :: b :: c :: d :: e :: f :: g :: h :: t =>
    BitVec.ofNat 8 (bitOf a + 2 * bitOf b + 4 * bitOf c + 8 * bitOf d + 16 * bitOf e + 32 * bitOf f + 64 * bitOf g +
      128 * bitOf h) :: packBits t
  | _ => []

/-- The bits of bytes, the lowest of each first. -/
def unpackBits (l : List Byte) : List Bool := l.flatMap fun b => (List.range 8).map b.toNat.testBit

/-- The 672 payload bytes of 1,344 codes, in four bit-planes from the most significant (R174). -/
def planes (codes : List Nat) : List Byte :=
  [3, 2, 1, 0].flatMap fun k => packBits (codes.map fun c => c.testBit k)

/-- The codes of a beam-major unit (R288). -/
def beamCodes (l : List Byte) : List Nat := l.flatMap fun b => [b.toNat % 16, b.toNat / 16]

/-- A beam-major unit of codes. -/
def packCodes : List Nat → List Byte
  | a :: b :: t => BitVec.ofNat 8 (a % 16 + 16 * (b % 16)) :: packCodes t
  | _ => []

/-- The codes of a bit-plane unit. -/
def planeCodes (l : List Byte) : List Nat :=
  let p := fun k => unpackBits ((l.drop (168 * k)).take 168)
  (((p 0).zip (p 1)).zip ((p 2).zip (p 3))).map fun q =>
    8 * bitOf q.1.1 + 4 * bitOf q.1.2 + 2 * bitOf q.2.1 + bitOf q.2.2

/-- One 672-byte unit converted by a DMA operation (R288). -/
def convertUnit (op : Nat) (l : List Byte) : List Byte :=
  if op = 1 then planes (beamCodes l) else if op = 2 then packCodes (planeCodes l) else l

/-- Whole units of a buffer converted; the rest is carried. -/
def convertUnits (op : Nat) : Nat → List Byte → List Byte × List Byte
  | 0, l => ([], l)
  | n + 1, l =>
    if l.length < 672 then ([], l)
    else
      let (o, r) := convertUnits op n (l.drop 672)
      (convertUnit op (l.take 672) ++ o, r)

end Sys2Proof.Machine
end

