-- ==== Sys2Proof/Machine/Stream.lean ====
section
/-! DEFINITION. Stripe streams: their packets, the primitives and Tilth regions they carry, and admission
(R67–R89). -/

namespace Sys2Proof.Machine

/-! ### Packets (R76–R83) -/

/-- The 32-bit words of bytes. -/
def leWords : List Byte → List Nat
  | a :: b :: c :: d :: t => (a.toNat + 256 * b.toNat + 65536 * c.toNat + 16777216 * d.toNat) :: leWords t
  | _ => []

/-- A packet: its header fields, its fixed words and its slot array. -/
structure Packet where
  typ : Nat
  cls : Nat
  yoff : Nat
  words : List Nat
  slots : List Nat
deriving DecidableEq, Repr

/-- Words of a slot for TILTH_SLOT (R81). -/
def slotWords (slot : Nat) : Nat := 2 * (slot + 1)

/-- The slots a TILTH_REGION packet's fixed words ask for, in words (R81). -/
def slotArray (slot typ : Nat) (fw : List Nat) : Nat :=
  if typ = 8 then bits (nth fw 0) 26 23 * bits (nth fw 0) 19 10 * slotWords slot else 0

/-- The packet at the start of a list of words, and the words after it. -/
def takePacket (slot : Nat) : List Nat → Option (Packet × List Nat)
  | [] => none
  | h :: t =>
    let len := bits h 21 10
    let fw := t.take len
    let n := slotArray slot (bits h 31 28) fw
    some (⟨bits h 31 28, bits h 27 22, bits h 9 0, fw, (t.drop len).take n⟩, (t.drop len).drop n)

/-- Every packet of a payload; `fuel` bounds their number. -/
def packets (slot : Nat) : Nat → List Nat → List Packet
  | 0, _ => []
  | fuel + 1, ws =>
    match takePacket slot ws with
    | none => []
    | some (p, rest) => p :: packets slot fuel rest

/-- A primitive: its class, its closed edge list in sixteenths (R113) and its extent in y (R75). -/
structure Prim where
  cls : Nat
  verts : List (Nat × Nat)
  yLo : Nat
  yHi : Nat
deriving DecidableEq, Repr

/-- The corners of a packet of segment `k` in the order of R113; empty for PAD and TILTH_REGION. -/
def Packet.verts (p : Packet) (k : Nat) : List (Nat × Nat) :=
  let y0 := 1024 * k + p.yoff
  let w := nth p.words
  if p.typ = 1 then
    let h := bits (w 0) 31 17
    [(bits (w 0) 16 0, y0), (bits (w 1) 16 0, y0), (bits (w 1) 16 0, y0 + h), (bits (w 0) 16 0, y0 + h)]
  else if p.typ = 2 then
    let h := bits (w 0) 31 17
    [(bits (w 0) 16 0, y0), (bits (w 1) 16 0, y0), (bits (w 3) 16 0, y0 + h), (bits (w 2) 16 0, y0 + h)]
  else if p.typ = 3 then p.words.map fun v => (bits v 31 15, y0 + bits v 14 0)
  else []

/-- The primitive of a packet. -/
def Packet.prim? (p : Packet) (k : Nat) : Option Prim :=
  match p.verts k with
  | [] => none
  | v :: vs =>
    let ys := (v :: vs).map Prod.snd
    some ⟨p.cls, v :: vs, ys.foldl min v.2, ys.foldl max v.2⟩

/-- A Tilth region (R81). -/
structure Region where
  cls : Nat
  tx0 : Nat
  ntx : Nat
  ty0 : Nat
  nty : Nat
  rid : Nat
  cont : Bool
  slots : List Nat
deriving DecidableEq, Repr

/-- The region of a packet. -/
def Packet.region? (p : Packet) : Option Region :=
  if p.typ = 8 then
    let a := nth p.words 0
    let b := nth p.words 1
    some ⟨p.cls, bits a 9 0, bits a 19 10, bits a 22 20, bits a 26 23, bits b 15 0, b.testBit 16, p.slots⟩
  else none

/-! ### Admission (R87, R88) -/

/-- A failed check: its result code, the segment it lies in and the byte offset reported. -/
structure AdmitFail where
  code : Nat
  seg : Option Nat
  off : Nat
deriving DecidableEq, Repr

/-- The first failing check of a list of (failed, code, offset). -/
def firstFail (seg : Option Nat) (l : List (Bool × Nat × Nat)) : Option AdmitFail :=
  (l.find? fun c => c.1).map fun c => ⟨c.2.1, seg, c.2.2⟩

/-- The checks of the header, word by word (R69, R88). -/
def headerChecks (d : Desc) (b : List Byte) : List (Bool × Nat × Nat) :=
  let w := fun i => leAt b (4 * i) 4
  let size := w 7 + bits (w 8) 3 0 <<< 32
  [(w 0 != 0x5A4F5253, 1, 0),
   (bits (w 1) 31 24 != 1, 1, 4), (bits (w 1) 15 8 != d.feeder, 2, 4),
   (bits (w 1) 23 16 != 0 || bits (w 1) 7 0 != 0, 3, 4),
   (w 2 != d.job, 2, 8),
   (bits (w 3) 17 16 != d.pass || bits (w 3) 15 0 != d.furrow, 2, 12), (bits (w 3) 31 18 != 0, 3, 12),
   (bits (w 4) 24 0 != d.rows, 2, 16), (bits (w 4) 31 25 != 0, 3, 16),
   (64 * bits (w 5) 18 0 != bits (w 4) 24 0 || bits (w 5) 31 19 != 0, 3, 20),
   (bits (w 6) 6 4 == 7 || bits (w 6) 31 7 != 0 || bits (w 6) 3 2 != 0, 3, 24),
   (size % 64 != 0 || decide (d.size < size), 3, 28),
   (bits (w 8) 31 4 != 0, 3, 32), (bits (w 9) 31 30 != 0, 3, 36), (bits (w 10) 31 30 != 0, 3, 40),
   (w 12 != 0, 3, 48), (w 13 != 0, 3, 52), (w 14 != 0, 3, 56)]

/-- What the header and table tell later readers. -/
def streamInfo (d : Desc) (h tbl : List Byte) : StreamInfo :=
  let w := fun i => leAt h (4 * i) 4
  ⟨d.party, d.ringSeq, d.job, d.pass, d.furrow, d.addr, d.size, d.rows, bits (w 6) 6 4, bits (w 6) 1 0, bits (w 9) 29 0,
    bits (w 10) 29 0, w 11, leWords tbl⟩

/-- The checks of the dose-class table (R70). -/
def tableChecks (ws : List Nat) : List (Bool × Nat × Nat) :=
  (List.range 64).map fun i => (decide (46080 < bits (nth ws i) 15 0) || bits (nth ws i) 31 17 != 0, 4, 64 + 4 * i)

/-- The checks of the directory: `prev` is the end of what lies before the segment (R73). -/
def dirChecks (limit : Nat) : Nat → Nat → List Nat → List (Bool × Nat × Nat)
  | k, prev, a :: b :: t =>
    let start := 16 * a
    let stop := start + 16 * bits b 23 0
    (bits b 31 24 != 0 || bits b 23 0 == 0 || decide (start < prev) || decide (limit < stop), 5, 320 + 8 * k) ::
      dirChecks limit (k + 1) (max prev stop) t
  | _, _, _ => []

/-- The running smallest and largest of a list. -/
def extent (l : List Nat) : Nat × Nat := (l.foldl min (l.headD 0), l.foldl max 0)

/-- The checks of one packet at byte offset `off`, word by word, each word's in the order of the Admission results
table (R87, R88). `rest` are the words after its header word, `prev` and `cur` the regions (REGION_ID, TX0, NTX, last
tile row) of segment k − 1 and of this segment so far. -/
def packetChecks (i : StreamInfo) (k off h : Nat) (rest : List Nat) (prev cur : List (Nat × Nat × Nat × Nat)) :
    List (Bool × Nat × Nat) :=
  let typ := bits h 31 28
  let len := bits h 21 10
  let fw := rest.take len
  let w := nth fw
  let y0 := 1024 * k + bits h 9 0
  let yEnd := 16 * i.rows
  let outX := fun x => decide (86016 < x)
  let outY := fun y => decide (yEnd < y)
  let tall := fun n => decide (n < 1) || decide (16384 < n)
  let okLen := (typ == 1 && len == 2) || (typ == 2 && len == 4) || (typ == 3 && decide (3 ≤ len)) ||
    (typ == 8 && len == 3) || typ == 15
  let known := typ == 1 || typ == 2 || typ == 3 || typ == 8 || typ == 15
  let hd := [(!known, 0x9, off), (!okLen || decide (rest.length < len), 0xA, off),
    (((typ == 8 || typ == 15) && bits h 9 0 != 0) || (typ == 15 && bits h 27 22 != 0), 0xB, off)]
  if typ = 1 then
    let y1 := y0 + bits (w 0) 31 17
    hd ++ [(tall (bits (w 0) 31 17), 0xC, off), (outX (bits (w 0) 16 0) || outY y1, 0xD, off),
      (bits (w 1) 31 17 != 0, 0xB, off), (decide (bits (w 1) 16 0 ≤ bits (w 0) 16 0), 0xC, off),
      (outX (bits (w 1) 16 0), 0xD, off)]
  else if typ = 2 then
    let y1 := y0 + bits (w 0) 31 17
    let x := fun j => bits (w j) 16 0
    hd ++ [(tall (bits (w 0) 31 17), 0xC, off), (outX (x 0) || outY y1, 0xD, off),
      (bits (w 1) 31 17 != 0, 0xB, off), (decide (x 1 < x 0), 0xC, off), (outX (x 1), 0xD, off),
      (bits (w 2) 31 17 != 0, 0xB, off), (outX (x 2), 0xD, off), (bits (w 3) 31 17 != 0, 0xB, off),
      (decide (x 3 < x 2) || (x 0 == x 1 && x 2 == x 3), 0xC, off), (outX (x 3), 0xD, off)]
  else if typ = 3 then
    let dys := fw.map fun v => bits v 14 0
    let (lo, hi) := extent dys
    hd ++ (List.range len).flatMap fun j =>
      [(decide (16384 < nth dys j) || (j + 1 == len && (lo != 0 || hi == 0)), 0xC, off),
       (outX (bits (w j) 31 15) || outY (y0 + nth dys j), 0xD, off)]
  else if typ = 8 then
    let n := slotArray i.slot 8 fw
    let ntx := bits (w 0) 19 10
    let nty := bits (w 0) 26 23
    let ty0 := bits (w 0) 22 20
    let tx0 := bits (w 0) 9 0
    let rid := bits (w 1) 15 0
    let cont := (w 1).testBit 16
    let follows := prev.any fun r => r.1 == rid && r.2.1 == tx0 && r.2.2.1 == ntx && r.2.2.2 == 8
    let sw := slotWords i.slot
    let slots := (rest.drop len).take n
    hd ++ [(decide (rest.length < len + n), 0xA, off), (bits (w 0) 31 27 != 0, 0xB, off),
      (nty == 0 || decide (8 < nty) || ntx == 0 || decide (672 < ntx) || decide (672 < tx0 + ntx) ||
        decide (8 < ty0 + nty), 0xE, off),
      (bits (w 1) 31 17 != 0, 0xB, off), (cur.any fun r => r.1 == rid, 0xE, off),
      (cont && !(follows && ty0 == 0 && decide (0 < k) && k >>> i.restart == (k - 1) >>> i.restart), 0xE, off),
      (w 2 != 0, 0xB, off)] ++
      (List.range (ntx * nty)).map fun j =>
        let s0 := nth slots (sw * j)
        (s0.testBit 0 && decide (i.ovfTiles ≤ bits s0 30 1), 0xF, off + 4 * (4 + sw * j))
  else hd

/-- The packets of a segment's payload checked to its end; the answer is the first failure, or the number of packets
and the regions found. -/
def packetsCheck (i : StreamInfo) (k base : Nat) (prev : List (Nat × Nat × Nat × Nat)) :
    Nat → List Nat → Nat → Nat → List (Nat × Nat × Nat × Nat) → AdmitFail ⊕ (Nat × List (Nat × Nat × Nat × Nat))
  | 0, _, _, n, cur => .inr (n, cur)
  | _ + 1, [], _, n, cur => .inr (n, cur)
  | fuel + 1, h :: rest, pos, n, cur =>
    match firstFail (some k) (packetChecks i k (base + 4 * pos) h rest prev cur) with
    | some f => .inl f
    | none =>
      let len := bits h 21 10
      let m := len + slotArray i.slot (bits h 31 28) (rest.take len)
      let cur := match takePacket i.slot (h :: rest) with
        | some (p, _) => match p.region? with
          | some r => (r.rid, r.tx0, r.ntx, r.ty0 + r.nty) :: cur
          | none => cur
        | none => cur
      packetsCheck i k base prev fuel (rest.drop m) (pos + 1 + m) (n + 1) cur

/-- The requester that reads streams: the job sequencer (R27). Log entry 12. -/
def streamReader : Nat := 8

/-- Segments checked in ascending k (R87, item 5). -/
def segmentsCheck (i : StreamInfo) : Nat → List Nat → List (Nat × Nat × Nat × Nat) → State → Option AdmitFail × State
  | k, a :: b :: t, prev, s =>
    let start := 16 * a
    let n := 16 * bits b 23 0
    let ((bytes, ok), s) := memRead streamReader (i.addr + start) n s
    let w := fun j => leAt bytes (4 * j) 4
    let bad := bits (w 0) 31 24 != 0xD5 || bits (w 0) 23 19 != 0 || bits (w 0) 18 0 != k || bits (w 1) 31 24 != 0 ||
      w 2 % 16 != 0 || w 2 + 16 != n
    let pay := bytes.drop 16
    let ws := leWords pay
    if !ok then (some ⟨0x8, some k, start⟩, s)
    else if bad then (some ⟨0x7, some k, start⟩, s)
    else if w 3 ≠ crc32c pay then (some ⟨0x8, some k, start⟩, s)
    else match packetsCheck i k (start + 16) prev (ws.length + 1) ws 0 0 [] with
      | .inl f => (some f, s)
      | .inr (cnt, cur) =>
        if cnt ≠ bits (w 1) 23 0 then (some ⟨0xA, some k, start⟩, s) else segmentsCheck i (k + 1) t cur s
  | _, _, _, s => (none, s)

/-- End of the last segment of a directory. -/
def lastEnd : List Nat → Nat
  | [a, b] => 16 * a + 16 * bits b 23 0
  | _ :: _ :: t => lastEnd t
  | _ => 0

/-- Admission of a stream (R87): the failure, or what was read of its header. Two points are the model's choice (log
entry 67): OVERFLOW_OFFSET_64 not 0 with OVERFLOW_TILES = 0 is found with the overflow area, in step 6, and reported
at 64 × OVERFLOW_OFFSET_64; a read of the header, table or directory that is uncorrectable comes before the checks of
the words it covers and is reported at HEADER_CRC, one of a segment or the overflow area at its first byte. -/
def admitDesc (d : Desc) (s : State) : (AdmitFail ⊕ StreamInfo) × State :=
  let ((h, ok0), s) := memRead streamReader d.addr 64 s
  let w := fun i => leAt h (4 * i) 4
  if !ok0 then (.inl ⟨6, none, 60⟩, s)
  else match firstFail none (headerChecks d h) with
  | some f => (.inl f, s)
  | none =>
    let ((tbl, ok1), s) := memRead streamReader (d.addr + 64) 256 s
    if !ok1 then (.inl ⟨6, none, 60⟩, s)
    else match firstFail none (tableChecks (leWords tbl)) with
    | some f => (.inl f, s)
    | none =>
      let i := streamInfo d h tbl
      let n := bits (w 5) 18 0
      let size := w 7 + bits (w 8) 3 0 <<< 32
      let ((dir, ok2), s) := memRead streamReader (d.addr + 320) (8 * n) s
      let limit := if i.ovfTiles = 0 then size else 64 * i.ovfOff
      if !ok2 then (.inl ⟨6, none, 60⟩, s)
      else match firstFail none (dirChecks limit 0 (320 + 8 * n) (leWords dir)) with
      | some f => (.inl f, s)
      | none =>
        if w 15 ≠ crc32c (h.take 60 ++ tbl ++ dir) then (.inl ⟨6, none, 60⟩, s)
        else match segmentsCheck i 0 (leWords dir) [] s with
        | (some f, s) => (.inl f, s)
        | (none, s) =>
          let o := 64 * i.ovfOff
          if (i.ovfTiles = 0 ∧ i.ovfOff ≠ 0) ∨
              (i.ovfTiles ≠ 0 ∧ (o < lastEnd (leWords dir) ∨ size < o + 64 * i.ovfTiles)) then (.inl ⟨0x10, none, o⟩, s)
          else
            let ((_, ok3), s) := memRead streamReader (d.addr + o) (64 * i.ovfTiles) s
            if !ok3 then (.inl ⟨0xF, none, o⟩, s) else (.inr i, s)

/-- The kept header of a descriptor's stream. -/
def State.streamOf (s : State) (d : Desc) : Option StreamInfo :=
  s.path.streams.find? fun i => i.party == d.party && i.ringSeq == d.ringSeq

/-- A work expands a descriptor's stream. -/
def Work.of (w : Work) (d : Desc) : Bool := w.info.party == d.party && w.info.ringSeq == d.ringSeq

/-- A stream is unlocked (R85): it is not read any further (R471). -/
def unlockStream (d : Desc) (s : State) : State :=
  let s := mapDesc d (fun e => { e with stream := .none }) s
  let s := match s.path.preWork with
    | some w => if w.of d then dropPre s else s
    | none => s
  { s with path := { s.path with
    streams := s.path.streams.filter fun i => !(i.party == d.party && i.ringSeq == d.ringSeq) } }

/-- The admission in progress ends: its report is written and the feeder port's interrupt is raised (R88, R89). While a
stack of the stream's area does not accept reads it goes on (R28). -/
def admissionEnd (s : State) : State :=
  match s.jobs.admitting with
  | none => s
  | some (port, party, seq) =>
    match s.jobs.queue.find? fun d => d.party == party && d.ringSeq == seq with
    | none => { s with jobs := { s.jobs with admitting := none } }
    | some d =>
      if s.memWaits d.addr d.size then s
      else
      let s := { s with jobs := { s.jobs with admitting := none } }
      let s := match admitDesc d s with
        | (.inl f, s) =>
          admitReport port 3 d.pass f.code d.furrow d.job (f.seg.getD 0) f.seg.isSome f.off (unlockStream d s)
        | (.inr i, s) =>
          let s := mapDesc d (fun e => { e with stream := .admitted }) s
          let s := { s with path := { s.path with streams := i :: s.path.streams } }
          admitReport port 2 d.pass 0 d.furrow d.job 0 false 0 s
      raisePort port 2 s

end Sys2Proof.Machine
end

