-- ==== Sys2Proof/Machine/Raster.lean ====
section
/-! DEFINITION. Exact coverage of primitives and the combination of contributions (R111–R117, R121, R122). All
arithmetic is exact, on rational numbers of pixels. -/

namespace Sys2Proof.Machine

/-- An edge between two points, in pixels (R113). -/
structure Edge where
  xa : Rat
  ya : Rat
  xb : Rat
  yb : Rat

/-- The edges of non-zero y extent of a closed vertex list in sixteenths of a pixel (R113). -/
def edgesOf (vs : List (Nat × Nat)) : List Edge :=
  match vs with
  | [] => []
  | v :: t =>
    let ps := (v :: t).zip (t ++ [v])
    (ps.filter fun p => p.1.2 != p.2.2).map fun p =>
      ⟨(p.1.1 : Rat) / 16, (p.1.2 : Rat) / 16, (p.2.1 : Rat) / 16, (p.2.2 : Rat) / 16⟩

/-- The edges of a primitive; its RECT and TRAP sides run upward or downward, with the x-parallel ones gone. -/
def Prim.edges (p : Prim) : List Edge := edgesOf p.verts

/-- x of an edge at a height. -/
def Edge.at (e : Edge) (v : Rat) : Rat := e.xa + (e.xb - e.xa) * (v - e.ya) / (e.yb - e.ya)

/-- The edge spans a height of a slab. -/
def Edge.spans (e : Edge) (v : Rat) : Bool := decide (min e.ya e.yb ≤ v) && decide (v < max e.ya e.yb)

/-- +1 where the edge runs toward larger y. -/
def Edge.dir (e : Edge) : Int := if e.ya < e.yb then 1 else -1

/-- A height added to a rising list without repeats. -/
def ratInsert : List Rat → Rat → List Rat
  | [], a => [a]
  | k :: t, a => if a = k then k :: t else if a < k then a :: k :: t else k :: ratInsert t a

/-- Where an edge meets a vertical line. -/
def Edge.meets (e : Edge) (x : Rat) : List Rat :=
  if e.xa = e.xb then []
  else
    let v := e.ya + (x - e.xa) * (e.yb - e.ya) / (e.xb - e.xa)
    if min e.ya e.yb ≤ v ∧ v ≤ max e.ya e.yb then [v] else []

/-- The height where two edges cross. -/
def Edge.cross (e f : Edge) : List Rat :=
  let me := (e.xb - e.xa) / (e.yb - e.ya)
  let mf := (f.xb - f.xa) / (f.yb - f.ya)
  if me = mf then []
  else
    let v := (f.xa - mf * f.ya - (e.xa - me * e.ya)) / (me - mf)
    if min e.ya e.yb ≤ v ∧ v ≤ max e.ya e.yb ∧ min f.ya f.yb ≤ v ∧ v ≤ max f.ya f.yb then [v] else []

/-- An edge put in order of its x at a height. -/
def edgeInsert (v : Rat) : List Edge → Edge → List Edge
  | [], e => [e]
  | f :: t, e => if e.at v ≤ f.at v then e :: f :: t else f :: edgeInsert v t e

/-- The covered width of a slab at its mid-height: the spans between neighbouring edges with a non-zero winding
number, clipped to [x0, x1). -/
def slabWidth (v x0 x1 : Rat) : Int → List Edge → Rat
  | w, e :: f :: t =>
    let w' := w + e.dir
    let lo := max (e.at v) x0
    let hi := min (f.at v) x1
    (if w' ≠ 0 ∧ lo < hi then hi - lo else 0) + slabWidth v x0 x1 w' (f :: t)
  | _, _ => 0

/-- The area of the slabs between rising heights. -/
def slabArea (es : List Edge) (x0 x1 : Rat) : List Rat → Rat
  | a :: b :: t =>
    let v := (a + b) / 2
    let l := (es.filter fun e => e.spans v).foldl (edgeInsert v) []
    (b - a) * slabWidth v x0 x1 0 l + slabArea es x0 x1 (b :: t)
  | _ => 0

/-- The area of a region within the box [x0, x1) × [y0, y1) (R111, R113). -/
def areaIn (es : List Edge) (x0 x1 y0 y1 : Rat) : Rat :=
  let inside := fun v => decide (y0 < v) && decide (v < y1)
  let es := es.filter fun e => decide (min e.ya e.yb < y1) && decide (y0 < max e.ya e.yb)
  let hs := es.flatMap fun e =>
    [e.ya, e.yb] ++ e.meets x0 ++ e.meets x1 ++ es.flatMap fun f => e.cross f
  slabArea es x0 x1 ((hs.filter inside).foldl ratInsert [y0, y1])

/-- The rounded coverage of a pixel by a primitive (R112). -/
def coverage (es : List Edge) (x y : Nat) : Nat :=
  let a := areaIn es x (x + 1) y (y + 1)
  (510 * a.num.toNat + a.den) / (2 * a.den)

/-! ### Combining contributions (R71, R115, R116) -/

/-- Contributions (coverage, class) of one pixel combined: the record of R127 and whether the pixel is saturated. -/
def combine (l : List (Nat × Nat)) : Nat × Bool :=
  let l := l.filter fun c => c.1 != 0
  let sum := min 4095 (l.map Prod.fst).sum
  let n := min 255 l.length
  let cls := (l.map Prod.snd).foldl max 0
  if sum = 0 then (0, false)
  else (min 255 sum * 256 + bitOf (255 + n / 2 < sum) * 128 + cls, decide (255 < sum))

/-- Coverage, OVERLAP and class of a record. -/
def recCov (r : Nat) : Nat := r / 256
def recOverlap (r : Nat) : Bool := r.testBit 7
def recClass (r : Nat) : Nat := r % 64

/-- A primitive with its edges, ready to be rasterised. -/
structure RastPrim where
  cls : Nat
  yLo : Nat
  yHi : Nat
  edges : List Edge

/-- A primitive made ready. -/
def Prim.ready (p : Prim) : RastPrim := ⟨p.cls, p.yLo, p.yHi, p.edges⟩

/-- Contributions of primitives to a pixel. -/
def primContribs (ps : List RastPrim) (x y : Nat) : List (Nat × Nat) :=
  (ps.filter fun p => decide (p.yLo < 16 * (y + 1)) && decide (16 * y < p.yHi)).map fun p => (coverage p.edges x y, p.cls)

/-- The sweeps of a position's segment beyond the first: whole primitives in order, up to 8,192 active edges each
(R122). -/
def extraSweeps : Nat → Nat → List Nat → Nat
  | n, _, [] => n
  | n, used, e :: t => if used + e ≤ 8192 ∨ used = 0 then extraSweeps n (used + e) t else extraSweeps (n + 1) e t

/-- Active edges in a segment of a primitive given to position `a`: those with y extent in its rows (R121, R122). -/
def activeEdges (a k : Nat) (p : RastPrim) : Nat :=
  if 0 < areaIn p.edges (168 * a) (168 * a + 168) ((p.yLo : Rat) / 16) ((p.yHi : Rat) / 16) then
    (p.edges.filter fun e => decide (min e.ya e.yb < ((64 * k + 64 : Nat) : Rat)) &&
      decide (((64 * k : Nat) : Rat) < max e.ya e.yb)).length
  else 0

end Sys2Proof.Machine
end

