-- ==== Sys2Proof/Machine/Dma.lean ====
section
/-! DEFINITION. The 16 DMA channels: claims, chains, bursts, retries, pacing and aborts (R281, R286–R293). -/

namespace Sys2Proof.Machine

/-- A channel as it stands when claimed. -/
def DmaChan.idle : DmaChan := ⟨none, false, 0, 0, [], 0, false, 0, [], false, false, false⟩

/-- The hidden state of a channel. -/
def State.chan (s : State) (ch : Nat) : DmaChan := (alGet s.dma ch).getD DmaChan.idle

/-- The hidden state of a channel replaced. -/
def setChan (ch : Nat) (c : DmaChan) (s : State) : State := { s with dma := alSet s.dma ch c }

/-- STATE of a channel. -/
def State.dmaState (s : State) (ch : Nat) : Nat := s.f (F.DMA_CH_nn_STATUS_STATE ch)

/-- Owner of a channel. -/
def State.dmaOwner (s : State) (ch : Nat) : Nat := s.f (F.DMA_CH_nn_STATUS_OWNER ch)

/-- A channel halts with an error; a halt raises its vector at the owner (R291, R294). -/
def dmaHalt (ch err : Nat) (s : State) : State :=
  raiseTo (s.dmaOwner ch) (16 + ch) ((s.set (F.DMA_CH_nn_STATUS_STATE ch) 4).set (F.DMA_CH_nn_STATUS_ERROR ch) err)

/-- A channel is freed (R286). -/
def dmaFree (ch : Nat) (s : State) : State :=
  let s := s.wr (F.DMA_CH_nn_STATUS ch).off 0
  setChan ch DmaChan.idle s

/-- CLAIM of a free channel by party 1, 2 or 4 (R286). -/
def dmaClaim (party ch : Nat) (s : State) : State :=
  if s.dmaState ch = 0 ∧ (party = 1 ∨ party = 2 ∨ party = 4) then
    setChan ch DmaChan.idle ((s.wr (F.DMA_CH_nn_STATUS ch).off 0).set (F.DMA_CH_nn_STATUS_OWNER ch) party |>.set
      (F.DMA_CH_nn_STATUS_STATE ch) 1)
  else s

/-- A channel is doing a burst or waiting to retry one. -/
def State.dmaBusy (s : State) (ch : Nat) : Bool := s.dmaState ch == 2

/-- ABORT: a running channel stops at its next burst boundary, one waiting for pace stops at once (R292). -/
def dmaAbort (ch : Nat) (s : State) : State :=
  if s.dmaState ch = 2 then setChan ch { s.chan ch with abort := true } s
  else if s.dmaState ch = 3 then dmaHalt ch 6 s
  else s

/-- RELEASE acts first as ABORT, then frees the channel, at once or at the burst boundary (R286, R292). -/
def dmaRelease (ch : Nat) (s : State) : State :=
  if s.dmaState ch = 2 then setChan ch { s.chan ch with abort := true, release := true } s
  else dmaFree ch (dmaAbort ch s)

/-- The owner's rights to the channel end: abort with KEEP_PARTIAL taken as 0, and free (R293). A burst under way
completes and is counted first. -/
def dmaDrop (ch : Nat) (s : State) : State :=
  let s := if s.dmaState ch = 2 then setChan ch { s.chan ch with dropped := true } s else s
  dmaRelease ch s

/-- Every channel of a party is aborted and freed (R293). -/
def dmaDropAll (party : Nat) (s : State) : State :=
  (List.range 16).foldl (fun s ch => if s.dmaState ch != 0 && s.dmaOwner ch == party then dmaDrop ch s else s) s

/-- The address in DESC. -/
def State.dmaDescAddr (s : State) (ch : Nat) : Nat :=
  s.rd (F.DMA_CH_nn_DESC_LO ch).off + s.rd (F.DMA_CH_nn_DESC_HI ch).off <<< 32

/-- The address in CUR. -/
def State.dmaCur (s : State) (ch : Nat) : Nat := s.rd (F.DMA_CH_nn_CUR_LO ch).off + s.rd (F.DMA_CH_nn_CUR_HI ch).off <<< 32

/-- CUR stored. -/
def setCur (ch a : Nat) (s : State) : State :=
  (s.wr (F.DMA_CH_nn_CUR_LO ch).off (a % 2 ^ 32)).wr (F.DMA_CH_nn_CUR_HI ch).off (a / 2 ^ 32)

/-- Pacing events of the kind a descriptor waits for. -/
def paceCount (c : DmaChan) (d : DmaDesc) : Nat :=
  if d.pace = 1 then c.timerEvents else if d.pace = 2 then (alGet c.cplEvents d.paceCh).getD 0 else 1

/-- One pacing event consumed. -/
def paceTake (c : DmaChan) (d : DmaDesc) : DmaChan :=
  if d.pace = 1 then { c with timerEvents := c.timerEvents - 1, paced := true }
  else if d.pace = 2 then
    { c with cplEvents := alSet c.cplEvents d.paceCh ((alGet c.cplEvents d.paceCh).getD 0 - 1), paced := true }
  else { c with paced := true }

/-- A paced descriptor starts once it has consumed an event, and waits while there is none (R289). -/
def dmaPace (ch : Nat) (s : State) : State :=
  let c := s.chan ch
  match c.desc with
  | none => s
  | some d =>
    if 0 < paceCount c d then (setChan ch (paceTake c d) s).set (F.DMA_CH_nn_STATUS_STATE ch) 2
    else s.set (F.DMA_CH_nn_STATUS_STATE ch) 3

/-- START: a new chain from done or idle, or the halted descriptor resumed (R291). -/
def dmaStart (ch : Nat) (s : State) : State :=
  let st := s.dmaState ch
  if st = 1 ∨ st = 5 then
    let s := setCur ch (s.dmaDescAddr ch) s
    let c := s.chan ch
    let s := setChan ch { c with
      desc := none, paced := false, read := 0, written := 0, carry := [], retries := 0, retryWait := false, timerEvents := 0,
      abort := false } s
    ((s.set (F.DMA_CH_nn_STATUS_STATE ch) 2).set (F.DMA_CH_nn_STATUS_ERROR ch) 0).set (F.DMA_CH_nn_STATUS_DESCRIPTORS ch) 0
  else if st = 4 then
    let c := s.chan ch
    let s := setChan ch { c with read := c.written, carry := [], retries := 0, retryWait := false, abort := false } s
    let s := (s.set (F.DMA_CH_nn_STATUS_STATE ch) 2).set (F.DMA_CH_nn_STATUS_ERROR ch) 0
    if c.desc.isSome && !c.paced then dmaPace ch s else s
  else s

/-- The space of an address (R287). -/
def space (a : Nat) : Nat := a >>> 62 % 4

/-- The address bits of a space are in use alone: DRAM 36, TABLE 26 (R287). -/
def addrOk (a : Nat) : Bool :=
  let n := a % 2 ^ 62
  match space a with
  | 0 => true
  | 1 => decide (n < 2 ^ 36)
  | 2 => decide (n < 2 ^ 26)
  | _ => false

/-- A descriptor as its 8 words spell it. -/
def parseDma (b : List Byte) : DmaDesc :=
  let w0 := leAt b 0 4
  ⟨bits w0 31 28, w0.testBit 23, w0.testBit 22, bits w0 21 20, bits w0 19 16, leAt b 4 4, leAt b 8 8, leAt b 16 8,
    leAt b 24 8⟩

/-- The error a fetched descriptor halts its channel with (R287, R290); 0 for none. -/
def dmaCheck (ch : Nat) (b : List Byte) (d : DmaDesc) (s : State) : Nat :=
  let w0 := leAt b 0 4
  let unit := if d.op = 0 then 4 else 672
  let n := fun a => a % 2 ^ 62
  if bits w0 27 24 ≠ 0 ∨ bits w0 15 0 ≠ 0 ∨ 2 < d.op ∨ 2 < d.pace ∨ d.length = 0 ∨ d.length % unit ≠ 0 ∨
      d.length % 4 ≠ 0 then 3
  else if !addrOk d.src || !addrOk d.dst then 3
  else if space d.src = 0 ∧ space d.dst = 0 then 3
  else if d.pace = 1 ∧ s.f (F.DMA_CH_nn_TIMER_PERIOD_US ch) = 0 then 3
  else if d.pace = 2 ∧ d.paceCh = ch then 3
  else if space d.dst = 2 ∧ s.dmaOwner ch ≠ s.holder then 5
  else if s.dmaOwner ch = 4 ∧ (space d.src = 0 ∨ space d.dst = 0) then 5
  else if d.op ≠ 0 ∧ space d.src = space d.dst ∧ rangesMeet (n d.src) d.length (n d.dst) d.length then 2
  else 0

/-- A burst ends in the channel's halt, and frees it where it was released. -/
def dmaStop (ch err : Nat) (s : State) : State :=
  let c := s.chan ch
  let s := dmaHalt ch err (setChan ch { c with abort := false, retries := 0, retryWait := false } s)
  if c.release then dmaFree ch s else s

/-- A failing access is retried up to RETRY_COUNT times, then halts the channel (R291). -/
def dmaFail (ch : Nat) (s : State) : State :=
  let c := s.chan ch
  if c.abort then dmaStop ch 6 s
  else if c.retries < s.f (F.DMA_CH_nn_CTRL_RETRY_COUNT ch) then
    setChan ch { c with retries := c.retries + 1, retryWait := true } s
  else dmaHalt ch 1 (setChan ch { c with retries := 0, retryWait := false } s)

/-- An access of a channel in a space receives RETRY and waits: the gate of its stack, or of its table's island, is shut
(R28). -/
def State.dmaWaits (s : State) (a n : Nat) : Bool :=
  if space a = 1 then s.memWaits (a % 2 ^ 62) n
  else if space a = 2 then
    let i := islandOf (a % 2 ^ 62)
    i != 255 && !s.islandOpen i && !(s.gate i).outOfService
  else false

/-- The island out of service that a TABLE access finds (R36). -/
def State.tableGone (s : State) (a : Nat) : Bool :=
  let i := islandOf (a % 2 ^ 62)
  space a == 2 && i != 255 && !s.islandOpen i && (s.gate i).outOfService

/-- A channel fetches and checks its next descriptor; `ok` and `host` are host memory's answer (R287). -/
def dmaFetch (ch : Nat) (ok : Bool) (host : List Byte) (s : State) : State :=
  let c := s.chan ch
  if s.dmaState ch ≠ 2 ∨ c.desc.isSome then s
  else
    let a := s.dmaCur ch
    if c.abort then dmaStop ch 6 s
    else if a % 32 ≠ 0 ∨ 2 ≤ space a ∨ !addrOk a then dmaHalt ch 3 s
    else if space a = 0 ∧ s.dmaOwner ch = 4 then dmaHalt ch 5 s
    else if s.dmaWaits a 32 then s
    else
      let ((b, good), s) := if space a = 0 then ((sliceBytes host 0 32, ok), s) else memRead (16 + ch) (a % 2 ^ 62) 32 s
      if !good then dmaFail ch s
      else
        let d := parseDma b
        let e := dmaCheck ch b d s
        if e ≠ 0 then dmaHalt ch e s
        else
          let s := setChan ch { c with
          desc := some d, paced := d.pace == 0, read := 0, written := 0, carry := [], retries := 0, retryWait := false } s
          let s := (s.wr (F.DMA_CH_nn_BYTES_READ ch).off 0).wr (F.DMA_CH_nn_BYTES_WRITTEN ch).off 0
          if d.pace = 0 then s else dmaPace ch s

/-- A COPY that must run in descending address order (R290). -/
def DmaDesc.descending (d : DmaDesc) : Bool :=
  d.op == 0 && space d.src == space d.dst && decide (d.src < d.dst) &&
    rangesMeet (d.src % 2 ^ 62) d.length (d.dst % 2 ^ 62) d.length

/-- Source offset and length of the burst that follows `done` bytes: up to 4,096 bytes that do not cross a 4 KiB
boundary of the source (R291). -/
def burstOf (d : DmaDesc) (done : Nat) : Nat × Nat :=
  let left := d.length - done
  if d.descending then
    let endA := d.src % 2 ^ 62 + left
    let back := if endA % 4096 = 0 then 4096 else endA % 4096
    let n := min left back
    (left - n, n)
  else (done, min left (4096 - (d.src % 2 ^ 62 + done) % 4096))

/-- The furrow is held with cause MEM_UNCORRECTABLE (R305). -/
def State.heldForPatch (s : State) : Bool :=
  match s.jobs.run with
  | some r => r.phase == .held && r.causes.testBit 0x0B
  | none => false

/-- A write into a locked stream that the patch rule does not allow (R85, R305). -/
def State.writeLocked (s : State) (party a n : Nat) : Bool :=
  s.meetsLocked a n && !(
    decide (n = 4096 ∧ a % 4096 = 0) && s.heldForPatch && s.mem.openPatch.contains (a / 4096) &&
      (s.lockedStreams.any fun d => d.feeder == party && rangesMeet a n d.addr d.size))

/-- A block open for patch has been written whole (R305). -/
def patched (a n : Nat) (s : State) : State :=
  if n = 4096 ∧ a % 4096 = 0 then
    { s with mem := { s.mem with openPatch := s.mem.openPatch.filter (· != a / 4096) } }
  else s

/-- Data of a burst written to its destination (R281, R287, R342); false where the access fails: a merge's read is
uncorrectable (R302, R304), or the stack or the table's island is out of service (R36). -/
def dmaPut (ch dst : Nat) (l : List Byte) (s : State) : Bool × State :=
  let a := dst % 2 ^ 62
  if space dst = 0 then (true, s.emit (.hostWrite (s.dmaOwner ch) a l))
  else if space dst = 1 then
    let (ok, s) := memWrite (16 + ch) a l s
    (ok, if ok then patched a l.length s else s)
  else if s.tableGone dst then (false, goneEvent (16 + ch) (islandOf a) s)
  else (true, tableWriteWords a ((List.range (l.length / 4)).map fun i => leAt l (4 * i) 4) s)

/-- A descriptor of a channel completes: pacing events of other channels, its vector, and the chain's next link
(R287, R289, R294). -/
def dmaDescDone (ch : Nat) (d : DmaDesc) (s : State) : State :=
  let s := s.inc (F.DMA_CH_nn_STATUS_DESCRIPTORS ch) 1
  let s := if d.int then raiseTo (s.dmaOwner ch) (16 + ch) s else s
  let s := setChan ch { s.chan ch with desc := none, paced := false, retries := 0 } s
  let s := if d.last then s.set (F.DMA_CH_nn_STATUS_STATE ch) 5 else setCur ch d.next s
  (List.range 16).foldl (fun s k =>
    if s.dmaState k = 0 then s
    else
      let c := s.chan k
      let n := min 255 ((alGet c.cplEvents ch).getD 0 + 1)
      let s := setChan k { c with cplEvents := alSet c.cplEvents ch n } s
      match c.desc with
      | some e => if s.dmaState k = 3 ∧ e.pace = 2 ∧ e.paceCh = ch then dmaPace k s else s
      | none => s) s

/-- The data a burst reads from its source: its bytes, and false where the access fails. -/
def dmaGet (ch src n : Nat) (ok : Bool) (host : List Byte) (s : State) : (List Byte × Bool) × State :=
  let a := src % 2 ^ 62
  if space src = 0 then ((sliceBytes host 0 n, ok), s)
  else if space src = 1 then memRead (16 + ch) a n s
  else if s.tableGone src then (([], false), goneEvent (16 + ch) (islandOf a) s)
  else ((wordsLe ((List.range (n / 4)).map fun i => tableRead (a + 4 * i) s), true), s)

/-- A burst of the descriptor in hand completes or fails (R291, R292). `ok` and `host` are host memory's answer. A TABLE
write whose owner no longer holds the lease halts the channel as its fetch would (R287). -/
def dmaBurst (ch : Nat) (ok : Bool) (host : List Byte) (s : State) : State :=
  let c := s.chan ch
  match c.desc with
  | none => s
  | some d =>
    let (o, n) := burstOf d c.read
    let dst := d.dst + (if d.descending then o else c.written)
    if s.dmaState ch ≠ 2 ∨ s.dmaWaits (d.src + o) n ∨ s.dmaWaits dst n then s
    else
      let ((b, good), s) := dmaGet ch (d.src + o) n ok host s
      if !good then dmaFail ch s
      else
        let (out, carry) := if d.op = 0 then (b, []) else convertUnits d.op 8 (c.carry ++ b)
        if c.abort ∧ (c.dropped ∨ !s.on (F.DMA_CH_nn_CTRL_KEEP_PARTIAL ch)) then
          dmaStop ch 6 (s.wr (F.DMA_CH_nn_BYTES_READ ch).off (c.read + n))
        else if space d.dst = 1 ∧ s.writeLocked (s.dmaOwner ch) (dst % 2 ^ 62) out.length then
          let p := s.dmaOwner ch
          dmaStop ch 4 (if p = 1 ∨ p = 2 then s.inc ⟨hstBase p + 12, 31, 0⟩ 1 else s)
        else if space d.dst = 2 ∧ s.dmaOwner ch ≠ s.holder then dmaStop ch 5 s
        else
          let (put, s) := dmaPut ch dst out s
          if !put then dmaFail ch s
          else
            let c' := { c with
              read := c.read + n, written := c.written + out.length, carry := carry, retries := 0, retryWait := false }
            let s := setChan ch c' s
            let s := (s.wr (F.DMA_CH_nn_BYTES_READ ch).off c'.read).wr (F.DMA_CH_nn_BYTES_WRITTEN ch).off c'.written
            if c.abort then dmaStop ch 6 s
            else if d.length ≤ c'.read then dmaDescDone ch d s
            else s

/-- A failed access is tried again 1 µs later (R291). -/
def dmaRetry (ch : Nat) (ok : Bool) (host : List Byte) (s : State) : State :=
  let c := s.chan ch
  if !c.retryWait then s
  else
    let s := setChan ch { c with retryWait := false } s
    if c.desc.isNone then dmaFetch ch ok host s else dmaBurst ch ok host s

/-- A tick of the channel's timer (R289). -/
def dmaTick (ch : Nat) (s : State) : State :=
  if s.f (F.DMA_CH_nn_TIMER_PERIOD_US ch) = 0 ∨ s.dmaState ch = 0 ∨ s.dmaState ch = 1 then s
  else
    let c := s.chan ch
    let s := setChan ch { c with timerEvents := min 255 (c.timerEvents + 1) } s
    match c.desc with
    | some d => if s.dmaState ch = 3 ∧ d.pace = 1 then dmaPace ch s else s
    | none => s

end Sys2Proof.Machine
end

