-- ==== Sys2Proof/Machine/Planner.lean ====
section
/-! DEFINITION. Pair means, stage coordinates and the headland planner's motions (R234, R238–R240, R254–R266). -/

namespace Sys2Proof.Machine

/-- An encoder channel as reset leaves it (R225). -/
def EncChan.idle : EncChan := ⟨0, 0, 0, false, false, 0, 0, 0, 0, 0, none, none, none, none, none⟩

/-- A channel's hidden state. -/
def State.encCh (s : State) (k : Nat) : EncChan := (alGet s.enc k).getD EncChan.idle

/-- A channel's hidden state replaced. -/
def setEnc (k : Nat) (c : EncChan) (s : State) : State := { s with enc := alSet s.enc k c }

/-- STATE of a channel (R225). -/
def State.encState (s : State) (k : Nat) : Nat := s.f (F.ENC_Cnn_STATUS_STATE k)

/-- The pair mean of an axis, 0 for X and 1 for Y, in half fine counts; defined while both channels are referenced
(R234). -/
def State.pairMean (s : State) (axis : Nat) : Option Int :=
  let a := s.encCh (2 * axis)
  let b := s.encCh (2 * axis + 1)
  if s.encState (2 * axis) = 2 ∧ s.encState (2 * axis + 1) = 2 then
    match a.ref, b.ref with
    | some r1, some r2 => some ((a.p - r1) + (b.p - r2))
    | _, _ => none
  else none

/-- SHT_ORIGIN_X or _Y (R238). -/
def State.origin (s : State) (axis : Nat) : Int :=
  let b := 0x801020 + 8 * axis
  signed 40 (s.rd b + bits (s.rd (b + 4)) 7 0 <<< 32)

/-- feed_p of the pass (R50); 0 in F variants. -/
def State.feed (s : State) (p : Nat) : Nat := if s.cls = .F then 0 else s.actF (0x1301000 + 4 * p) 12 0

/-- A furrow is written in reverse where its number is odd (R48). -/
def Desc.reverse (d : Desc) : Bool := d.furrow % 2 == 1

/-- The writing direction's sign (R239). -/
def Desc.dirsign (d : Desc) : Int := if d.reverse then -1 else 1

/-- N_shot of a furrow (R52). -/
def State.nShot (s : State) (d : Desc) : Nat := d.rows + 8 * (s.cls.nRow - 1)

/-- Q_s of a furrow (R239). -/
def State.shotPos (s : State) (d : Desc) (sh : Int) : Int :=
  if d.reverse then s.origin 1 + 96 * ((d.rows : Int) - 1 - sh + 8 * ((s.cls.nRow : Int) - 1))
  else s.origin 1 + 96 * sh

/-- The X target of a furrow (R239). -/
def State.xTarget (s : State) (d : Desc) : Int := s.origin 0 + 96 * (5376 * (d.furrow : Int) - (s.feed d.pass : Int))

/-- LEAD_IN in rows (PLN_LEAD_IN). -/
def State.leadIn (s : State) : Nat := 64 * s.f F.PLN_LEAD_IN_LEAD_IN_64

/-- v_w in nm/s (R240). -/
def State.writeSpeed (s : State) : Nat := 6000 * s.f F.SHT_SHOT_RATE_RATE_KHZ

/-- ACCEL in nm/s² (R255). -/
def State.planAccel (s : State) : Nat := 10000000 * max 1 (min 200 (s.f F.PLN_PROFILE_ACCEL))

/-- JERK in nm/s³ (R255). -/
def State.planJerk (s : State) : Nat := 1000000000 * max 1 (min 200 (s.f F.PLN_PROFILE_JERK))

/-- TRAVERSE in nm/s (R255). -/
def State.traverseSpeed (s : State) : Nat := 10000 * max 1 (min 15000 (s.f F.PLN_PROFILE_TRAVERSE))

/-- The command position of the start point of a writing segment for a shot, in nm (R256, R259). -/
def State.startPoint (s : State) (d : Desc) (sh : Nat) : Int × Int :=
  (rnd (s.xTarget d) 4, rnd (s.shotPos d ((sh : Int) - s.leadIn)) 4)

/-- A command position stored (R254). -/
def setCmdPos (axis : Nat) (v : Int) (s : State) : State := s.wr (F.PLN_CMD_POS_X.off + 4 * axis) (unsigned 32 v)

/-- A command position in nm. -/
def State.cmdPos (s : State) (axis : Nat) : Int := signed 32 (s.rd (F.PLN_CMD_POS_X.off + 4 * axis))

/-- PLN_STATUS.STATE of a motion. -/
def Motion.code : Motion → Nat
  | .rest => 0
  | .move => 1
  | .homeSearch _ => 2
  | .homeStop _ => 2
  | .homeBack _ => 2
  | .homeRest _ => 2
  | .segment => 3
  | .runOut => 3
  | .toStart => 4
  | .dwell => 4
  | .waiting => 6
  | .stopping => 5

/-- The axis being homed. -/
def Motion.homing : Motion → Option Nat
  | .homeSearch a => some a
  | .homeStop a => some a
  | .homeBack a => some a
  | .homeRest a => some a
  | _ => none

/-- The planner's motion; a change of PLN_STATUS raises the STAGE vector (R294). -/
def setMotion (m : Motion) (s : State) : State :=
  let s := { s with pln := { s.pln with motion := m } }
  if s.f F.PLN_STATUS_STATE = m.code then s else raise 6 (s.set F.PLN_STATUS_STATE m.code)

/-- RESULT of the planner. -/
def plnResult (r : Nat) (s : State) : State :=
  if s.f F.PLN_STATUS_RESULT = r then s else raise 6 (s.set F.PLN_STATUS_RESULT r)

/-! ### The profile (R254, R255, R258)

The spec bounds speed, acceleration and jerk and calls the paths seven-phase profiles. The model plans in steps of 20 ns of
constant jerk: it raises the acceleration, holds it or lowers it, whichever comes first of those after which the axis can
still stop on its target within the limits. A move from rest to rest so takes the seven phases (log entry 81). -/

/-- Position units of 4 × 10^-16 nm in 1 nm. -/
def nmUnits : Int := 2500000000000000

/-- An axis with speed `v ≥ 0` toward its target and acceleration `a` can stop within a distance `d`, where the
acceleration is at most `lim` and changes by `j` in a step: it lowers its acceleration, holds it at -`lim` where it
comes so far, and brings it back to 0. In the units of Kin. -/
def stopsWithin (lim j v a d : Int) : Bool :=
  let w := 2 * j * v + a * a
  let e := 3 * j * j * d - 3 * j * v * a - a * a * a
  decide (0 ≤ e) && (if 2 * lim * lim ≤ w then decide (3 * w * (w + 2 * lim * lim) ≤ 8 * lim * e)
    else decide (9 * w * w * w ≤ 8 * e * e))

/-- The speed stays within `vmax` when the acceleration is brought to 0 from now on. -/
def speedFits (j vmax v a : Int) : Bool := if a ≤ 0 then decide (v ≤ vmax) else decide (2 * j * v + a * a ≤ 2 * j * vmax)

/-- The change of acceleration of a ramped stop from speed `v ≥ 0` and acceleration `a`. -/
def brakeStep (lim j v a : Int) : Int :=
  if 0 < a then -j else if 2 * j * v ≤ a * a then j else if a - j < -lim then 0 else -j

/-- The change of acceleration toward a target at distance `d`. -/
def moveStep (lim j vmax v a d : Int) : Int :=
  let ok := fun (k : Int) =>
    let a' := a + k
    let v' := v + a'
    decide (-lim ≤ a') && decide (a' ≤ lim) && decide (0 ≤ v') && speedFits j vmax v' a' && stopsWithin lim j v' a' (d - v')
  if ok j then j else if ok 0 then 0 else brakeStep lim j v a

/-- An axis of the planner. -/
def State.kin (s : State) (axis : Nat) : Kin := if axis = 0 then s.pln.kx else s.pln.ky

/-- An axis replaced. -/
def setKin (axis : Nat) (k : Kin) (s : State) : State :=
  if axis = 0 then { s with pln := { s.pln with kx := k } } else { s with pln := { s.pln with ky := k } }

/-- An axis is at rest. -/
def Kin.still (k : Kin) : Bool := k.vel == 0 && k.acc == 0

/-- The speed limit of the motion under way in nm/s: v_w in a writing segment, HOME_SPEED and CRAWL in homing, TRAVERSE
elsewhere (R255, R265). -/
def State.speedLimit (s : State) : Nat :=
  match s.pln.motion with
  | .segment => s.writeSpeed
  | .runOut => s.writeSpeed
  | .homeSearch _ => min s.traverseSpeed (1000000 * max 1 (s.f F.PLN_HOME_CFG_HOME_SPEED))
  | .homeBack _ => min s.traverseSpeed (10000 * max 1 (s.f F.PLN_HOME_CFG_CRAWL))
  | _ => s.traverseSpeed

/-- An axis stands at a position beyond its command position's nm, which each rising edge of STEP follows (R254). -/
def placeAxis (axis : Nat) (p : Int) (k : Kin) (s : State) : State :=
  let old := s.cmdPos axis
  let new := p / nmUnits
  let s := setKin axis { k with frac := p % nmUnits } s
  if new = old then s
  else (setCmdPos axis new s).emit (.steps axis (new - old).natAbs (decide (old < new)))

/-- An axis at position `p` goes on for 20 ns in the direction `sg` with a change `k` of its acceleration in it; it
does not turn back. -/
def axisGo (axis : Nat) (p sg k : Int) (s : State) : State :=
  let x := s.kin axis
  let a := sg * x.acc + k
  let v := sg * x.vel + a
  if v ≤ 0 then setKin axis { x with vel := 0, acc := 0 } s
  else placeAxis axis (p + sg * v) { x with vel := sg * v, acc := sg * a } s

/-- An axis over 20 ns of a ramped stop. -/
def axisBrake (axis : Nat) (p : Int) (s : State) : State :=
  let x := s.kin axis
  if x.still then s
  else
    let sg := if x.vel = 0 then x.acc.sign else x.vel.sign
    axisGo axis p sg (brakeStep s.planAccel (s.planJerk / 50000000 : Nat) (sg * x.vel) (sg * x.acc)) s

/-- An axis over 20 ns: toward the target of the first move left, once the other axis is at rest, and otherwise in a
ramped stop. Where its target lies behind it comes to rest first (R257, R258). -/
def axisTick (axis : Nat) (s : State) : State :=
  let x := s.kin axis
  let p := nmUnits * s.cmdPos axis + x.frac
  match s.pln.legs with
  | (a, t) :: rest =>
    let d := nmUnits * t - p
    if a ≠ axis ∨ !(s.kin (1 - axis)).still ∨ x.vel * d < 0 then axisBrake axis p s
    else
      let sg := d.sign
      let j : Int := (s.planJerk / 50000000 : Nat)
      let k := moveStep s.planAccel j (50000000 * s.speedLimit) (sg * x.vel) (sg * x.acc) (sg * d)
      let v := sg * x.vel + sg * x.acc + k
      let left := sg * d - v
      if v ≤ s.planAccel ∧ left ≤ 0 ∨ v ≤ 0 ∧ left < nmUnits then
        placeAxis axis (p + d) Kin.rest { s with pln := { s.pln with legs := rest } }
      else axisGo axis p sg k s
  | [] => axisBrake axis p s

/-- Both axes over 20 ns. -/
def planTick (s : State) : State := axisTick 1 (axisTick 0 s)

/-- The planner's axes are at rest with no move left. -/
def State.planAtRest (s : State) : Bool := s.pln.legs.isEmpty && s.pln.kx.still && s.pln.ky.still

/-- Moves of both axes, one at a time and X first, of those that are not at their targets (R257). That a MOVE and a
traverse take X first too is the model's choice (log entry 82). -/
def State.legsTo (s : State) (x y : Int) : List (Nat × Int) :=
  [(0, x), (1, y)].filter fun g => s.cmdPos g.1 != g.2 || s.kin g.1 != Kin.rest

/-- The planner starts a motion to a target within the limits of R255, from its present speed (R258). -/
def planTo (m : Motion) (x y : Int) (s : State) : State :=
  setMotion m { s with pln := { s.pln with tx := x, ty := y, legs := s.legsTo x y, hard := false } }

/-- An axis alone is moved. -/
def planAxis (m : Motion) (axis : Nat) (t : Int) (s : State) : State :=
  setMotion m { s with pln := { s.pln with legs := [(axis, t)], hard := false } }

/-- A ramped stop: no move is left (R255, R258). -/
def planHalt (m : Motion) (s : State) : State := setMotion m { s with pln := { s.pln with legs := [] } }

/-- The stage goes to the start point of a writing segment; where it is already on the way or there, nothing new is
planned (R257). -/
def planStart (x y : Int) (s : State) : State :=
  let there := decide (s.pln.tx = x) && decide (s.pln.ty = y) && !s.pln.settleX && !s.pln.settleY
  if there && (s.pln.motion == .toStart || s.pln.motion == .dwell || s.pln.motion == .waiting) then s
  else if s.pln.motion = .rest ∧ s.cmdPos 0 = x ∧ s.cmdPos 1 = y then
    setMotion .waiting { s with pln := { s.pln with tx := x, ty := y } }
  else planTo .toStart x y s

/-- A ramped stop of any motion; a hard stop already made stands (R258, R263). Homing ends with STOPPED. -/
def plannerStop (s : State) : State :=
  match s.pln.motion with
  | .rest => s
  | .stopping => s
  | .dwell => setMotion .rest s
  | .waiting => setMotion .rest s
  | m =>
    planHalt .stopping (if m.homing.isSome || m == .move then plnResult 8 s else s)

/-- A hard stop: step output of both axes ends at once; the command positions follow at standstill (R263). -/
def plannerHardStop (s : State) : State :=
  let s := if s.pln.motion.homing.isSome || s.pln.motion == .move then plnResult 8 s else s
  setMotion .rest { s with pln := { s.pln with
    kx := Kin.rest, ky := Kin.rest, legs := [], hard := true, settleX := true, settleY := true } }

/-- The door keeps the stage from moving (R354). -/
def State.doorStops (s : State) : Bool := s.on F.FNC_STATUS_DOOR_OPEN && s.on F.FNC_INTERLOCK_CFG_DOOR_STOPS_STAGE

/-- The filtered level of a switch is active (R261). -/
def State.switchActive (s : State) (i : Nat) : Bool := (s.f F.PLN_SWITCH_STATUS_FILTERED).testBit i

/-- A move of an axis by a distance goes toward a limit switch whose filtered level is active (R260). -/
def State.towardLimit (s : State) (axis : Nat) (dist : Int) : Bool :=
  (decide (0 < dist) && s.switchActive (2 * axis)) || (decide (dist < 0) && s.switchActive (2 * axis + 1))

/-- MOVE (R260). -/
def plnMove (s : State) : State :=
  if s.furrowArmed || s.doorStops then plnResult 2 s
  else
    let x := signed 32 (s.rd F.PLN_TARGET_X.off)
    let y := signed 32 (s.rd F.PLN_TARGET_Y.off)
    if s.towardLimit 0 (x - s.cmdPos 0) || s.towardLimit 1 (y - s.cmdPos 1) then plnResult 3 s
    else planTo .move x y (s.set F.PLN_STATUS_RESULT 0)

/-- HOMED of an axis. -/
def homedFld (axis : Nat) : Fld := if axis = 0 then F.PLN_STATUS_HOMED_X else F.PLN_STATUS_HOMED_Y

/-- The register of an axis's yaw, and the run of its yaw fault, once a channel has lost its reference: NOW reads 0
(R235, R237). -/
def yawLost (axis : Nat) (s : State) : State :=
  let off := F.ENC_YAW_X.off + 4 * axis
  let s := s.wr off (bits (s.rd off) 31 16 <<< 16)
  if axis = 0 then { s with yawX := 0 } else { s with yawY := 0 }

/-- REREF: the reference is cleared and the next valid pulse sets it; a channel that loses its reference clears HOMED
(R232, R265). -/
def rerefCh (k : Nat) (s : State) : State :=
  let s := setEnc k { s.encCh k with ref := none } s
  let s := s.set (F.ENC_Cnn_INDEX_LAST_VALID k) 0
  if s.encState k = 2 then yawLost (k / 2) ((s.set (F.ENC_Cnn_STATUS_STATE k) 1).set (homedFld (k / 2)) 0) else s

/-- HOME_DIR of an axis: the sign of its search (PLN_HOME_CFG). -/
def State.homeDir (s : State) (axis : Nat) : Int :=
  if (if axis = 0 then s.on F.PLN_HOME_CFG_X_DIR else s.on F.PLN_HOME_CFG_Y_DIR) then 1 else -1

/-- HOME of an axis: the search goes at most 400 mm (R260, R265, R266). -/
def plnHome (axis : Nat) (s : State) : State :=
  let usable := fun (k : Nat) => let st := s.encState k; st == 1 || st == 2
  if s.furrowArmed || s.doorStops then plnResult 2 s
  else if !(usable (2 * axis) && usable (2 * axis + 1)) then plnResult 7 s
  else
    let s := rerefCh (2 * axis + 1) (rerefCh (2 * axis) s)
    let s := (s.set (homedFld axis) 0).set F.PLN_STATUS_RESULT 0
    planAxis (.homeSearch axis) axis (s.cmdPos axis + s.homeDir axis * 400000000) s

end Sys2Proof.Machine
end

