-- ==== Sys2Proof/Machine/Hold.lean ====
section
/-! DEFINITION. Fallow and its causes, what a held furrow waits for, and the blanking of the head (R327, R328,
R350, R353). -/

namespace Sys2Proof.Machine

/-! ### Blanking (R350) -/

/-- A Fence trip holds (R349): FALLOW, or a trip bit other than BLANK_UNSEEN. -/
def State.fenceTrip (s : State) : Bool :=
  s.on F.FNC_CTRL_FALLOW || s.on F.FNC_TRIP_STATUS_DIE_TRIP || s.on F.FNC_TRIP_STATUS_STACK_TRIP ||
    s.on F.FNC_TRIP_STATUS_WATCHDOG

/-- Some blanking driver holds (R350). -/
def State.blanking (s : State) : Bool :=
  !s.on F.FNC_STATUS_SEALED_LOADED || s.fence.holdDriver || s.fence.doorDriver || s.fenceTrip || s.fence.ceilingDriver

/-- A lane group's STATE (DRL_Gnn_STATUS): 0 down, 1 training, 2 ready, 3 writing, 4 fallow, 5 lost. -/
def State.groupState (s : State) (g : Nat) : Nat := s.f (F.DRL_Gnn_STATUS_STATE g)

/-- BLANK_ALL_L follows its drivers; when it falls every group in state ready, writing or fallow has to show it
(R350, R353). -/
def updateBlank (s : State) : State :=
  let low := s.blanking
  let was := s.on F.FNC_STATUS_BLANK_ALL
  if low = was then s
  else
    let s := { s.set F.FNC_STATUS_BLANK_ALL (bitOf low) with pins := { s.pins with blankAllL := !low } }
    let s := s.emit (.blankAll (!low))
    if low then
      { s with fence := { s.fence with
          unseen := s.groups.filter fun g => let st := s.groupState g; st == 2 || st == 3 || st == 4 } }
    else s

/-- The blanking driver of a lowered ceiling ends (R350). -/
def ceilingOff (s : State) : State :=
  if s.fence.ceilingDriver then updateBlank { s with fence := { s.fence with ceilingDriver := false } } else s

/-! ### Conditions to resume (R328) -/

/-- Harrow rows [0, D) delivered by every position (R123). -/
def State.harrowRows (s : State) : Nat :=
  match s.path.cur with
  | some w => 64 * (w.first + w.posDone.foldl min (w.posDone.headD 0))
  | none => 0

/-- STATUS registers of the Harrow tiles. -/
def tileBase : Nat := 0x300000

/-- STATUS registers of the sowing slices. -/
def sliceBase : Nat := 0x500000

/-- ROLE of a tile or slice: 34 tiles or 25 slices have their STATUS registers 0x1000 apart from `base` (R126, R175). -/
def State.role (s : State) (base t : Nat) : Nat := bits (s.rd (base + 0x1000 * t)) 31 29

/-- The position or group a unit serves. -/
def State.place (s : State) (base t : Nat) : Nat := bits (s.rd (base + 0x1000 * t)) 4 0

/-- The tile serving a position (HRW_POSITION_MAP). -/
def State.tileOf (s : State) (a : Nat) : Nat := bits (s.rd (0x330000 + a / 4 * 4)) (8 * (a % 4) + 5) (8 * (a % 4))

/-- The slice serving a group (SOW_GROUP_MAP). -/
def State.sliceOf (s : State) (g : Nat) : Nat := bits (s.rd (0x520000 + g / 4 * 4)) (8 * (g % 4) + 4) (8 * (g % 4))

/-- A unit is the replacement that a checkpoint's switch is waiting for (R130, R178). -/
def State.promised (s : State) (base t : Nat) : Bool :=
  (if base = tileBase then s.path.tileSwaps else s.path.sliceSwaps).any fun w => w.by' == t

/-- The units in standby that no switch waits for. -/
def State.idleUnits (s : State) (base : Nat) : List Nat :=
  (List.range (if base = tileBase then 34 else 25)).filter fun t => s.role base t == 1 && !s.promised base t

/-- The auditor. -/
def State.auditor? (s : State) (base : Nat) : Option Nat :=
  (List.range (if base = tileBase then 34 else 25)).find? fun t => s.role base t == 2

/-- Units that can take over: those in standby, then one that only left standby to audit. -/
def State.spares (s : State) (base : Nat) : List Nat := s.idleUnits base ++ (s.auditor? base).toList

/-- The positions that no tile serves. -/
def State.barePositions (s : State) : List Nat :=
  (List.range 32).filter fun a => let t := s.tileOf a; !(s.role tileBase t == 0 && s.place tileBase t == a)

/-- The groups that no slice serves. -/
def State.bareGroups (s : State) : List Nat :=
  s.groups.filter fun g => let t := s.sliceOf g; !(s.role sliceBase t == 0 && s.place sliceBase t == g)

/-- The head's row count of the furrow being run. -/
def State.runRows (s : State) : Nat := match s.head? with | some d => d.rows | none => 0

/-- The map that holds a stripe of the head's pass has every row (R138). -/
def DensMap.valid (m : DensMap) (ident : Nat × Nat × Nat) (rows : Nat) : Bool :=
  m.ident == some ident && m.rows.length == rows / 64

/-- Some map is valid for a stripe. -/
def State.mapValid (s : State) (ident : Nat × Nat × Nat) (rows : Nat) : Bool :=
  s.path.maps.any fun m => m.valid ident rows

/-- The identity a role needs: 0 previous, 1 current, 2 next. -/
def Desc.mapIdent (d : Desc) (role : Nat) : Nat × Nat × Nat := (d.job, d.pass, d.furrow + role - 1)

/-- The previous map of furrow 0 and the next map of the last furrow are all zero (R137). -/
def Desc.mapZero (d : Desc) (role : Nat) : Bool :=
  (role == 0 && d.furrow == 0) || (role == 2 && d.lastInPass)

/-- The map that holds an identity. -/
def State.mapIndex (s : State) (ident : Nat × Nat × Nat) : Option Nat :=
  (List.range 3).find? fun i => (s.path.maps.getD i ⟨none, []⟩).ident == some ident

/-- A map is written of cell row `j` for a role, or is all zero. -/
def State.mapHas (s : State) (d : Desc) (role j : Nat) : Bool :=
  d.mapZero role || (match s.mapIndex (d.mapIdent role) with
    | some i => (s.path.maps.getD i ⟨none, []⟩).rows.contains j
    | none => false)

/-- The job-frame cell row of a stripe cell row (R136). -/
def jobRow (furrow segs m : Nat) : Nat := if furrow % 2 = 1 then segs - 1 - m else m

/-- The furrow behind the head: the next one of its pass (R47). -/
def State.successor (s : State) (d : Desc) : Option Desc :=
  s.jobs.queue.find? fun e => !e.density && e.job == d.job && e.pass == d.pass && e.furrow == d.furrow + 1

/-- Rows of the next map complete in the writing direction from cell row `m` of the furrow on. -/
def State.mapRun (s : State) (d : Desc) (m : Nat) : Nat :=
  let n := d.rows / 64
  ((List.range (n - m)).takeWhile fun i => s.mapHas d 2 (jobRow d.furrow n (m + i))).length

/-- The next map's rows complete in the writing direction (NEXT_ROWS). -/
def State.nextRows (s : State) (d : Desc) : Nat := s.mapRun d 0

/-- The Madder lookahead: rows of the next map complete in the writing direction from the row beside the furrow's
current cell row, which the model takes to be the one the first unfired shot falls in (R147; log entry 72). -/
def State.lookahead (s : State) (d : Desc) : Nat :=
  let sf := match s.jobs.run with | some r => r.sf | none => 0
  s.mapRun d (min (d.rows / 64 - 1) (sf / 64))

/-- The lookahead suffices: 168 rows, or every row to the stripe's end, or an all-zero map (R144, R147). Log entry
14. -/
def State.lookaheadOk (s : State) (d : Desc) : Bool :=
  d.mapZero 2 || decide (min 168 (d.rows / 64) ≤ s.lookahead d)

/-- What a furrow lacks of its maps: 0 nothing, 1 its own map, 2 the previous, 3 the lookahead (R138). -/
def State.mapNeed (s : State) (d : Desc) : Nat :=
  if s.madBypass then 0
  else if !s.mapValid (d.mapIdent 1) d.rows then 1
  else if !d.mapZero 0 && !s.mapValid (d.mapIdent 0) d.rows then 2
  else if !s.lookaheadOk d then 3
  else 0

/-- The resume condition of a cause is met (R328). -/
def State.condMet (s : State) (code : Nat) : Bool :=
  let sf := match s.jobs.run with | some r => r.sf | none => 0
  match code with
  | 0x01 => !s.fence.holdDriver
  | 0x02 => !s.fence.doorDriver
  | 0x03 => !s.fenceTrip
  | 0x05 => s.fence.headLevel == 0
  | 0x06 => (onesOf s.pln.limitSw 6).all fun i =>
      !(s.f F.PLN_SWITCH_STATUS_TRIPPED).testBit i && !s.switchActive i
  | 0x07 => !s.on F.PLN_STATUS_STOPPED
  | 0x08 => s.rd F.ENC_FAULT_STATUS.off == 0
  | 0x09 => decide (s.barePositions.length ≤ (s.spares tileBase).length)
  | 0x0A => decide (s.bareGroups.length ≤ (s.spares sliceBase).length)
  | 0x0C => s.pins.ref10m
  | 0x10 => decide (min s.runRows (sf + 1024) ≤ s.harrowRows)
  | 0x11 => decide (min s.runRows (sf + 1024) ≤ s.path.fieldNext)
  | 0x15 => match s.head? with | some d => s.mapNeed d == 0 | none => true
  | 0x16 => s.path.sliceSwaps.isEmpty
  | 0x18 => s.jobs.repair.isEmpty && s.jobs.overflow.isEmpty
  | _ => true

/-- Bit `i` for each cause raised whose condition is unmet (JOB_HOLD_PENDING). -/
def State.holdPending (s : State) : Nat :=
  match s.jobs.run with
  | some r => maskOf ((onesOf r.causes 32).filter fun c => !s.condMet c)
  | none => 0

/-- The run changed. -/
def setRun (r : Run) (s : State) : State := { s with jobs := { s.jobs with run := some r } }

/-- The resume record rewritten with the first unfired shot (R38, R324, R327). -/
def writeResume (sf : Nat) (s : State) : State :=
  match s.head? with
  | some d => { s with ret := { s.ret with resume := some ⟨d.job, d.pass, d.furrow, sf, false⟩ } }
  | none => s

/-- JOB_STATUS shows a furrow state; each change raises the JOB_BLOCKED vector with the code (R278, R279). -/
def jobState (st code : Nat) (s : State) : State :=
  let changed := s.f F.JOB_STATUS_CODE ≠ code ∨ (st = 5 ∧ s.f F.JOB_STATUS_STATE ≠ 5)
  let s := (s.set F.JOB_STATUS_STATE st).set F.JOB_STATUS_CODE code
  if changed then raise 1 s else s

/-- A committed trigger is withdrawn (R245). -/
def withdraw (s : State) : State := { s with shot := { s.shot with committed := none, dibble := false, inWindow := 0 } }

/-- A sowing audit unit cut by a fallow or by the end of its furrow is abandoned without a result (R176). -/
def cutSliceUnit (s : State) : State :=
  match s.path.sowAudit with
  | some u =>
    if u.testing then s
    else auditState true 0 { s with path := { s.path with sowAudit := some { u with unit := none, notBefore := 0 } } }
  | none => s

/-- One cause of fallow takes effect (R327, R328). It begins a hold, or joins the present one. -/
def raiseOne (code : Nat) (s : State) : State :=
  match s.jobs.run with
  | none => s
  | some r =>
    let bit := 1 <<< code
    let payload := s.jpf ++ leBytes 4 code ++ leBytes 4 r.sf
    let un := if code < 0x10 then r.unacked ||| bit else r.unacked
    let low := r.lowered || code == 4
    if r.phase = .held then
      let s := setRun { r with causes := r.causes ||| bit, unacked := un, lowered := low } s
      let s := if r.holdFresh ∧ code < s.f F.JOB_LAST_HOLD_CAUSE then s.set F.JOB_LAST_HOLD_CAUSE code else s
      let s := if un ≠ 0 then s.set F.JOB_STATUS_NEEDS_ACK 1 else s
      event 0x100 payload s
    else
      let s := setRun { r with
        phase := .held, causes := bit, unacked := if code < 0x10 then bit else 0, holdFresh := true
        lowered := low } s
      let s := withdraw (writeResume r.sf s)
      let s := (s.set F.JOB_LAST_HOLD_CAUSE code).set F.JOB_LAST_HOLD_SHOT r.sf
      let s := s.set F.JOB_STATUS_NEEDS_ACK (bitOf (code < 0x10))
      let s := raise 6 ((s.set F.SHT_STATUS_STATE 5).set F.SHT_STATUS_NEXT_SHOT r.sf)
      let s := plannerStop (jobState 5 0 s)
      event 0x100 payload s

/-- A cause takes effect, and with it those that were due at this shot boundary. A sowing audit unit that the fallow
cuts is abandoned (R176). -/
def raiseCause (code : Nat) (s : State) : State :=
  match s.jobs.run with
  | none => s
  | some r =>
    let s := cutSliceUnit (setRun { r with dueCauses := 0 } s)
    ((onesOf r.dueCauses 32).filter (· != code)).foldl (fun s c => raiseOne c s) (raiseOne code s)

/-- A cause whose fallow comes at the next shot boundary: a trigger already committed is still issued. -/
def dueCause (code : Nat) (s : State) : State :=
  match s.jobs.run with
  | none => s
  | some r =>
    if r.phase = .held ∨ s.shot.committed.isNone then raiseCause code s
    else setRun { r with dueCauses := r.dueCauses ||| 1 <<< code } s

/-- The causes due at a shot boundary take effect. -/
def boundaryCauses (s : State) : State :=
  match s.jobs.run with
  | none => s
  | some r => match onesOf r.dueCauses 32 with
    | c :: _ => raiseCause c s
    | [] => s

/-- The held furrow may resume: every condition is met and nothing waits for an ACK (R328). -/
def State.mayResume (s : State) : Bool :=
  match s.jobs.run with
  | some r => r.phase == .held && r.unacked == 0 && s.holdPending == 0
  | none => false

/-- ACK by the lease holder (R279, R328): it covers every cause raised before it. -/
def jobAck (s : State) : State :=
  match s.jobs.run with
  | none => s
  | some r =>
    if r.phase = .held then (setRun { r with unacked := 0 } s).set F.JOB_STATUS_NEEDS_ACK 0 else s

end Sys2Proof.Machine
end

