-- ==== Sys2Proof/Machine/Roles.lean ====
section
/-! DEFINITION. Roles of Harrow tiles and sowing slices: who serves what, standbys and auditors, units lent to
calibration, and retirement (R20, R126, R129–R133, R175–R180, R379). -/

namespace Sys2Proof.Machine

/-- A unit takes a role, with the position or group it serves (R126, R175). -/
def setRole (base t role place : Nat) (s : State) : State := s.wr (base + 0x1000 * t) (role <<< 29 + place)

/-- A tile serves a position from now on. -/
def serveTile (t a : Nat) (s : State) : State :=
  let off := 0x330000 + a / 4 * 4
  setRole tileBase t 0 a (s.wr off (withBits (s.rd off) (8 * (a % 4) + 5) (8 * (a % 4)) t))

/-- A slice serves a group from now on. -/
def serveSlice (t g : Nat) (s : State) : State :=
  let off := 0x520000 + g / 4 * 4
  setRole sliceBase t 0 g (s.wr off (withBits (s.rd off) (8 * (g % 4) + 4) (8 * (g % 4)) t))

/-! ### Calibration instances (R372, R379) -/

/-- A calibration instance as power-up leaves it (R372). -/
def CalInst.fresh : CalInst := ⟨false, true, true, false, 0, none, 0, 0, false, 0, 0⟩

/-- An instance's record. -/
def State.calInst (s : State) (key : Nat) : CalInst := (alGet s.cal.insts key).getD CalInst.fresh

/-- An instance's record replaced. -/
def setCal (key : Nat) (c : CalInst) (s : State) : State :=
  { s with cal := { s.cal with insts := alSet s.cal.insts key c } }

/-- The number of instances of an item that the variant bonds out (R371). -/
def State.calExists (s : State) (item inst : Nat) : Bool :=
  match item with
  | 0 => inst == 0
  | 1 => decide (inst < 24)
  | 2 => decide (inst < 12)
  | 3 => decide (inst < 4)
  | 4 => decide (inst < 10 * s.cls.groups)
  | 5 => inst == 0
  | 6 => inst == 0
  | 7 => decide (inst < 34)
  | 8 => decide (inst < s.cls.groups) || inst == 24
  | _ => false

/-- Instances of an item are numbered below this. -/
def calCount (item : Nat) : Nat := nth [1, 24, 12, 4, 240, 1, 1, 34, 25] item

/-- The existing instances of an item, ascending. -/
def State.calItem (s : State) (item : Nat) : List Nat := (List.range (calCount item)).filter (s.calExists item)

/-- The latest reading of an instance's nearest sensor: its VALID and value in 1/8 °C. -/
def State.calTemp (s : State) (key : Nat) : Bool × Int :=
  let n := (Config.nearestSensor key).val
  (s.on (F.HK_CHANNEL_VALID n), signed 16 (s.f (F.HK_CHANNEL_VALUE n)))

/-- The element an item chooses out of those it has (R371): of an encoder's two banks and of the two trigger delay
lines, the one not in use is calibrated and then takes over (R376). -/
def choiceOf (item : Nat) (old : Option Nat) (c : Nat) : Nat :=
  match item with
  | 0 => c % 4
  | 1 => c % 4
  | 2 => c % 4
  | 3 => match old with | some o => 1 - o | none => c % 2
  | 4 => max 12 (min 20 c)
  | 5 => match old with | some o => 64 * (1 - o / 64) + c % 64 | none => c % 128
  | 6 => c % 16
  | _ => c % 32

/-- An instance completes with a choice (R372): its reading at completion is its sensor's latest, or else the first
that HK takes. -/
def calComplete (key choice : Nat) (s : State) : State :=
  let c := s.calInst key
  let new := choiceOf (key / 256) (if c.valid then some c.choice else none) choice
  setCal key { c with
    valid := true, due := false, asked := false, overdue := false, age := 0, preSince := 0
    temp := if (s.calTemp key).1 then some (s.calTemp key).2 else none
    choice := new, tap := new } s

/-- An instance completes that the start ran (R371, R430) or its group's training (R378). Its choice is a free value
(log entry 19). -/
def calBoot (key : Nat) (s : State) : State :=
  let (k, s) := s.fresh
  calComplete key (Config.startChoice key k).toNat s

/-- The local clock of an active tile or slice at a furrow boundary: its chosen tap, and one longer for every full 8
°C its sensor has risen since (R375). -/
def clockTap (key : Nat) (s : State) : State :=
  let c := s.calInst key
  let (v, t) := s.calTemp key
  match c.temp with
  | some t0 => if c.valid && v then setCal key { c with tap := min 31 (c.choice + ((t - t0) / 64).toNat) } s else s
  | none => s

/-- The local clocks of the active tiles and slices follow their sensors (R375). -/
def clockTaps (s : State) : State :=
  let s := ((s.calItem 7).filter fun k => s.role tileBase k == 0).foldl (fun s k => clockTap (256 * 7 + k) s) s
  ((s.calItem 8).filter fun k => s.role sliceBase k == 0).foldl (fun s k => clockTap (256 * 8 + k) s) s

/-- Every instance of an item completed. -/
def calBootItem (item : Nat) (s : State) : State :=
  (s.calItem item).foldl (fun s k => calBoot (256 * item + k) s) s

/-- The running instance of calibration gives up its spare to failure replacement (R20, R379). -/
def calPreempt (s : State) : State :=
  match s.cal.running with
  | none => s
  | some key =>
    let c := s.calInst key
    let s := setCal key { c with preempts := min 255 (c.preempts + 1), preSince := c.preSince + 1, waiting := true } s
    let step := max 1 s.cal.step
    let s := { s with cal := { s.cal with running := none, spare := none, step := 0 } }
    let s := (s.inc F.CAL_PREEMPT_PREEMPTED 1).set F.CAL_STATUS_STATE 0
    event 0x701 [BitVec.ofNat 8 (key / 256), BitVec.ofNat 8 key, BitVec.ofNat 8 step, 0] s

/-! ### Auditors (R126, R128, R175, R176) -/

/-- The auditor shows the position or group of its unit (AUDIT_POSITION, AUDIT_GROUP). -/
def auditPlace (base t a : Nat) (s : State) : State := s.wr (base + 0x1000 * t) (2 <<< 29 + a <<< 16)

/-- Whenever auditing is enabled and a tile is in standby, the lowest becomes the auditor (R126). -/
def fillTileAuditor (s : State) : State :=
  if !s.on F.HRW_AUDIT_CTRL_ENABLE then auditState false 3 s
  else if s.path.harrowAudit.isSome then s
  else match s.idleUnits tileBase with
    | [] => auditState false 2 s
    | t :: _ =>
      let (a, pre) := s.path.harrowNext
      let s := auditPlace tileBase t a s
      let s := { s with path := { s.path with harrowAudit := some ⟨a, pre, none, none, none, s.tileOf a, t, none, [], 0⟩ } }
      auditState false 0 (s.set F.HRW_AUDIT_STATUS_AUDITOR t)

/-- Shots that begin within 32 µs (R176). -/
def State.auditWait (s : State) : Nat :=
  let t := max 1 (s.f F.SHT_SHOT_RATE_T_SHOT)
  (32000 * 64 + t - 1) / t

/-- Whenever auditing is enabled and a slice is in standby, it becomes the auditor (R175); it takes no unit that begins
within 32 µs (R176). -/
def fillSliceAuditor (s : State) : State :=
  if !s.on F.SOW_AUDIT_CTRL_ENABLE then auditState true 3 s
  else if s.path.sowAudit.isSome then s
  else match s.idleUnits sliceBase with
    | [] => auditState true 2 s
    | t :: _ =>
      let g := s.path.sowNext
      let free := match s.jobs.run with | some r => r.computed.getD g 0 + s.auditWait | none => 0
      let s := auditPlace sliceBase t g s
      let s := { s with path := { s.path with sowAudit := some ⟨g, none, free, 0xFFFFFFFF, 0xFFFFFFFF, false⟩ } }
      auditState true 0 (s.set F.SOW_AUDIT_STATUS_AUDITOR t)

/-- The tile audit ends without a result (R126). -/
def dropTileAudit (s : State) : State := { s with path := { s.path with harrowAudit := none } }

/-- The slice audit ends without a result (R175). -/
def dropSliceAudit (s : State) : State := { s with path := { s.path with sowAudit := none } }

/-- HRW_AUDIT_CTRL.ENABLE written (R126). -/
def harrowAuditEnable (on : Bool) (s : State) : State :=
  let s := s.set F.HRW_AUDIT_CTRL_ENABLE (bitOf on)
  if on then fillTileAuditor s
  else
    let s := match s.auditor? tileBase with | some t => setRole tileBase t 1 0 s | none => s
    auditState false 3 (dropTileAudit s)

/-- SOW_AUDIT_CTRL.ENABLE written (R175). -/
def sowAuditEnable (on : Bool) (s : State) : State :=
  let s := s.set F.SOW_AUDIT_CTRL_ENABLE (bitOf on)
  if on then fillSliceAuditor s
  else
    let s := match s.auditor? sliceBase with | some t => setRole sliceBase t 1 0 s | none => s
    auditState true 3 (dropSliceAudit s)

/-! ### Taking a spare (R129, R132, R179) -/

/-- The lowest unit not retired, not active and not promised, of those a test picks by its role. -/
def State.lowUnit (s : State) (base : Nat) (ok : Nat → Bool) : Option Nat :=
  (List.range (if base = tileBase then 34 else 25)).find? fun t => ok (s.role base t) && !s.promised base t

/-- A unit in standby, in audit or lent to calibration is taken: what it was doing ends without a result (R20, R126,
R175). -/
def takeUnit (base t : Nat) (s : State) : State :=
  let role := s.role base t
  if role = 2 then (if base = tileBase then dropTileAudit s else dropSliceAudit s)
  else if role = 3 then calPreempt s
  else s

/-- A unit to take over: the lowest in standby or audit, else one lent to calibration, which is taken back (R132,
R179). -/
def takeSpare (base : Nat) (s : State) : Option Nat × State :=
  match s.lowUnit base (fun r => r == 1 || r == 2) with
  | some t => (some t, takeUnit base t s)
  | none =>
    match s.lowUnit base (· == 3) with
    | some t => (some t, takeUnit base t s)
    | none => (none, s)

/-- The tile to take over after an unresolved mismatch: the lowest not retired and not active (R129). -/
def takeLowest (s : State) : Option Nat × State :=
  match s.lowUnit tileBase (fun r => r == 1 || r == 2 || r == 3) with
  | some t => (some t, takeUnit tileBase t s)
  | none => (none, s)

/-- A furrow is being written or held. -/
def State.writing (s : State) : Bool :=
  match s.jobs.run with
  | some r => r.begun
  | none => false

/-- A signature flag of the furrow set (R283). -/
def flagRun (bit : Nat) (s : State) : State :=
  match s.jobs.run with
  | some r => setRun { r with flags := r.flags ||| 1 <<< bit } s
  | none => s

/-- The next checkpoint at or after shot `n`. -/
def nextCheckpoint (n : Nat) : Nat := max 4096 ((n + 4095) / 4096 * 4096)

/-- The first shot no group has begun to compute. -/
def State.firstUncomputed (s : State) : Nat :=
  match s.jobs.run with
  | some r => r.computed.foldl max 0
  | none => 0

/-- The first shot a group has not begun to compute. -/
def State.nextComputed (s : State) (g : Nat) : Nat :=
  match s.jobs.run with
  | some r => r.computed.getD g 0
  | none => 0

/-- Pixel rows of the furrow that a position has produced. -/
def State.rowsOf (s : State) (a : Nat) : Nat :=
  match s.path.cur with
  | some w => 64 * (w.first + w.posDone.getD a 0)
  | none => 0

/-- How the replacement of a retired tile is chosen: the auditor by name, or in the order of R132 or of R129. -/
inductive Successor where
  | named (t : Nat)
  | spare
  | lowest
deriving DecidableEq, Repr

/-- A tile is retired for a cause: 0 audit, 1 ECC, 2 timeout, 3 command. The answer is RESULT of HRW_RETIRE_CTRL
(R129–R132). Where HARROW_RETIRED's rows are not given, for a tile that is not active, they are 0 (log entry 68). -/
def retireTile (t cause : Nat) (by' : Successor) (s : State) : Nat × State :=
  let role := s.role tileBase t
  if 34 ≤ t ∨ role = 4 ∨ (s.path.tileSwaps.any fun w => w.unit == t) then (3, s)
  else
    let active := role == 0
    let a := s.place tileBase t
    let first := if active then (alGet s.path.tilePass a).getD 0 else 0
    let last := if active then s.rowsOf a - 1 else 0
    let payload := [BitVec.ofNat 8 t, if active then BitVec.ofNat 8 a else 0xFF, BitVec.ofNat 8 cause, 0] ++ s.jpf ++
      leBytes 4 first ++ leBytes 4 last
    let s := raise 8 (event 0x203 payload s)
    if !active then (1, fillTileAuditor (setRole tileBase t 4 0 (takeUnit tileBase t s)))
    else
      let (sub, s) := match by' with
        | .named b => (some b, takeUnit tileBase b s)
        | .spare => takeSpare tileBase s
        | .lowest => takeLowest s
      let running := s.writing
      let s := if running then flagRun 3 s else s
      match sub with
      | some b =>
        if running then
          let s := setRole tileBase b 1 0 s
          let sw : PendingSwap := ⟨t, a, cause, b, nextCheckpoint s.firstUncomputed, 0⟩
          (1, fillTileAuditor { s with path := { s.path with tileSwaps := s.path.tileSwaps ++ [sw] } })
        else (1, fillTileAuditor (serveTile b a (setRole tileBase t 4 0 s)))
      | none =>
        let s := setRole tileBase t 4 0 s
        (2, if s.furrowArmed then dueCause 0x09 s else s)

/-- A slice is retired for a cause: 0 audit, 1 ECC, 2 timeout, 3 guard, 4 command (R177–R179). The payload of
SOW_RETIRED where R178 and R389 are silent is the model's choice (log entry 68): group 0xFF for a slice that is not
active; first shot 0 for a cause other than audit, or the start of the unit being audited where there is one; switch
shot 0 for a slice that does not wait for a checkpoint. -/
def retireSlice (t cause : Nat) (by' : Successor) (s : State) : Nat × State :=
  let role := s.role sliceBase t
  let fused := islandFused s.cls (64 + t)
  if 25 ≤ t ∨ fused ∨ role = 4 ∨ (s.path.sliceSwaps.any fun w => w.unit == t) then (3, s)
  else
    let active := role == 0
    let g := s.place sliceBase t
    let running := s.writing
    let c := nextCheckpoint (s.nextComputed g)
    let first := match s.path.sowAudit with
      | some u => if u.group = g then u.unit.getD 0 else 0
      | none => 0
    let payload := [BitVec.ofNat 8 t, if active then BitVec.ofNat 8 g else 0xFF, BitVec.ofNat 8 cause, 0] ++ s.jpf ++
      leBytes 4 first ++ leBytes 4 (if running && active then c else 0)
    let s := raise 8 (event 0x206 payload s)
    if !active then (1, fillSliceAuditor (setRole sliceBase t 4 0 (takeUnit sliceBase t s)))
    else
      let (sub, s) := match by' with
        | .named b => (some b, takeUnit sliceBase b s)
        | _ => takeSpare sliceBase s
      let s := if running then flagRun 4 s else s
      match sub with
      | some b =>
        if running then
          let s := setRole sliceBase b 1 0 s
          let sw : PendingSwap := ⟨t, g, cause, b, c, first⟩
          (1, fillSliceAuditor { s with path := { s.path with sliceSwaps := s.path.sliceSwaps ++ [sw] } })
        else (1, fillSliceAuditor (serveSlice b g (setRole sliceBase t 4 0 s)))
      | none =>
        let s := setRole sliceBase t 4 0 s
        (2, if s.furrowArmed then dueCause 0x0A s else s)

/-- An instance becomes due (R372). -/
def calDue (key : Nat) (s : State) : State := setCal key { s.calInst key with due := true } s

/-- Positions without a tile take the spares there are (R132). -/
def fillPositions (s : State) : State :=
  fillTileAuditor (s.barePositions.foldl (fun s a =>
    match takeSpare tileBase s with
    | (some b, s) => serveTile b a s
    | (none, s) => s) s)

/-- Groups without a slice take the spares there are (R179). -/
def fillGroups (s : State) : State :=
  fillSliceAuditor (s.bareGroups.foldl (fun s g =>
    match takeSpare sliceBase s with
    | (some b, s) => serveSlice b g s
    | (none, s) => s) s)

/-- A tile becomes a standby; with no furrow being written it serves a position left without a tile, and else that
position waits for the resume (R132). -/
def standbyTile (t : Nat) (s : State) : State :=
  let s := setRole tileBase t 1 0 s
  if s.writing then fillTileAuditor s else fillPositions s

/-- A slice becomes a standby; with no furrow being written it serves a group left without a slice, and else that group
waits for the resume (R179). -/
def standbySlice (t : Nat) (s : State) : State :=
  let s := setRole sliceBase t 1 0 s
  if s.writing then fillSliceAuditor s else fillGroups s

/-- A tile comes back to standby after its self-test (R133), due for calibration item 7 (R375). -/
def returnTile (t : Nat) (pass : Bool) (s : State) : State :=
  if !pass then setRole tileBase t 4 0 s
  else standbyTile t (calDue (256 * 7 + t) (s.wr (F.HRW_Tnn_AUDITS t).off 0))

/-- A slice comes back to standby after its self-test (R180), due for calibration item 8 (R375). -/
def returnSlice (t : Nat) (pass : Bool) (s : State) : State :=
  if !pass then setRole sliceBase t 4 0 s
  else standbySlice t (calDue (256 * 8 + t) (s.wr (F.SOW_Snn_AUDITS t).off 0))

/-- One switch takes effect: the retired unit leaves its place to the one promised, or to another where that has been
retired, reset or lost meanwhile (R131, R133, R180); where none is left the furrow is held. -/
def applySwap (base : Nat) (w : PendingSwap) (s : State) : State :=
  let s := setRole base w.unit 4 0 { s with path := { s.path with
    tileSwaps := if base = tileBase then s.path.tileSwaps.filter (· != w) else s.path.tileSwaps
    sliceSwaps := if base = tileBase then s.path.sliceSwaps else s.path.sliceSwaps.filter (· != w) } }
  let (sub, s) := if s.role base w.by' = 1 ∧ !s.promised base w.by' then (some w.by', s) else takeSpare base s
  match sub with
  | some b => if base = tileBase then serveTile b w.place s else serveSlice b w.place s
  | none => if s.furrowArmed then dueCause (if base = tileBase then 0x09 else 0x0A) s else s

/-- The tile swaps that a test picks take effect: the position map changes (R130, R339). -/
def applyTileSwaps (due : PendingSwap → Bool) (s : State) : State :=
  let l := s.path.tileSwaps.filter due
  if l.isEmpty then s else fillTileAuditor (l.foldl (fun s w => applySwap tileBase w s) s)

/-- The slice switches that a test picks take effect (R178). -/
def applySliceSwaps (due : PendingSwap → Bool) (s : State) : State :=
  let l := s.path.sliceSwaps.filter due
  if l.isEmpty then s else fillSliceAuditor (l.foldl (fun s w => applySwap sliceBase w s) s)

/-- Every switch. -/
def anySwap (_ : PendingSwap) : Bool := true

end Sys2Proof.Machine
end

