-- ==== Sys2Proof/Machine/TilthCode.lean ====
section
/-! DEFINITION. The Tilth code: prediction, slots, codebooks, decoding and encoding of one tile (R92–R100). -/

namespace Sys2Proof.Machine

/-- The context of a tile (R92): the right column of the tile to its left, the pixel row above it, and the pixel
diagonally above its corner. -/
structure TileCtx where
  left : List Nat
  above : List Nat
  corner : Nat
deriving DecidableEq, Repr

/-- The prediction of a pixel from its left, upper and upper-left neighbours (R93). -/
def predict (a b c : Nat) : Nat :=
  if max a b ≤ c then min a b else if c ≤ min a b then max a b else a + b - c

/-- The residual of a pixel (R93). -/
def residual (d p : Nat) : Int := ((d : Int) - p + 128) % 256 - 128

/-- The pixel of a residual (R93). -/
def decodedPixel (p : Nat) (e : Int) : Nat := (((p : Int) + e) % 256).toNat

/-! ### Rows of a tile -/

/-- A pixel row decoded: `a` and `c` are the left and upper-left neighbours, `ups` the row above. -/
def decodeRow : Nat → Nat → List Nat → List Int → List Nat
  | a, c, b :: ups, e :: es =>
    let d := decodedPixel (predict a b c) e
    d :: decodeRow d b ups es
  | _, _, _, _ => []

/-- The residuals of a pixel row. -/
def encodeRow : Nat → Nat → List Nat → List Nat → List Int
  | a, c, b :: ups, d :: ds => residual d (predict a b c) :: encodeRow d b ups ds
  | _, _, _, _ => []

/-- The rows of a tile decoded from its residual rows; `lefts` is the column to its left. -/
def decodeRows : Nat → List Nat → List Nat → List (List Int) → List (List Nat)
  | c, l :: lefts, above, es :: rows =>
    let r := decodeRow l c above es
    r :: decodeRows l lefts r rows
  | _, _, _, _ => []

/-- The residual rows of a tile. -/
def encodeRows : Nat → List Nat → List Nat → List (List Nat) → List (List Int)
  | c, l :: lefts, above, ds :: rows => encodeRow l c above ds :: encodeRows l lefts ds rows
  | _, _, _, _ => []

/-- The eight rows of 64 bytes. -/
def tileRows (l : List Byte) : List (List Nat) :=
  (List.range 8).map fun v => (sliceBytes l (8 * v) 8).map BitVec.toNat

/-- A tile from its residual rows. -/
def decodeTile (ctx : TileCtx) (rows : List (List Int)) : List Byte :=
  (decodeRows ctx.corner ctx.left ctx.above rows).flatMap fun r => r.map (BitVec.ofNat 8)

/-! ### Codebooks (R97) -/

/-- Length and value of the prefix of category `k` in a codebook. -/
def bookCode (book k : Nat) : Nat × Nat :=
  let ones := fun n => 2 ^ (n + 1) - 2
  match book with
  | 0 => if k < 8 then (k + 1, ones k) else (8, 255)
  | 1 => if k < 3 then (2, k) else if k < 8 then (k, ones (k - 1)) else (7, 127)
  | 2 => if k = 0 then (2, 0) else if k < 6 then (3, k + 1) else if k < 8 then (k - 2, ones (k - 3)) else (5, 31)
  | _ => if k < 7 then (3, k) else (4, 14 + (k - 7))

/-- The `n` bits of a number, most significant first. -/
def bitsMsb : Nat → Nat → List Bool
  | 0, _ => []
  | n + 1, v => v.testBit n :: bitsMsb n v

/-- The number of bits given most significant first. -/
def ofMsb (l : List Bool) : Nat := l.foldl (fun a b => 2 * a + bitOf b) 0

/-- The category whose prefix opens a list of bits, with what follows; none where the bits end within it. -/
def takeCategory (book : Nat) (l : List Bool) : Option (Nat × List Bool) :=
  (List.range 9).findSome? fun k =>
    let (n, v) := bookCode book k
    if n ≤ l.length ∧ l.take n = bitsMsb n v then some (k, l.drop n) else none

/-- A pixel code (R96); none where a bit is missing (R99). -/
def takeResidual (book : Nat) (l : List Bool) : Option (Int × List Bool) :=
  match takeCategory book l with
  | none => none
  | some (0, r) => some (0, r)
  | some (k + 1, r) =>
    match r with
    | [] => none
    | sgn :: t =>
      if t.length < k then none
      else
        let m : Int := 2 ^ k + ofMsb (t.take k)
        some (if sgn then -m else m, t.drop k)

/-- Pixel codes of the rest of a row; none for the bits left once the slot has overrun. -/
def takeRow (book : Nat) : Nat → List Bool → List Int × Option (List Bool)
  | 0, l => ([], some l)
  | n + 1, l =>
    match takeResidual book l with
    | none => (List.replicate (n + 1) 0, none)
    | some (e, r) =>
      let (es, o) := takeRow book n r
      (e :: es, o)

/-- The residual rows of a coded slot after its BOOK field, and whether the slot overran (R95, R99). -/
def takeRows (book : Nat) : Nat → Option (List Bool) → List (List Int) × Bool
  | 0, o => ([], o.isNone)
  | n + 1, none =>
    let (rows, _) := takeRows book n none
    (List.replicate 8 0 :: rows, true)
  | n + 1, some [] =>
    let (rows, _) := takeRows book n none
    (List.replicate 8 0 :: rows, true)
  | n + 1, some (false :: t) =>
    let (rows, x) := takeRows book n (some t)
    (List.replicate 8 0 :: rows, x)
  | n + 1, some (true :: t) =>
    let (es, o) := takeRow book 8 t
    let (rows, x) := takeRows book n o
    (es :: rows, x)

/-! ### Slots (R94, R95, R98) -/

/-- The bits of slot words in ascending position. -/
def slotBits (ws : List Nat) : List Bool := ws.flatMap fun w => (List.range 32).map w.testBit

/-- The raw tile a slot names, or none for a coded slot. -/
def slotRaw (ws : List Nat) : Option Nat :=
  if (nth ws 0).testBit 0 then some (bits (nth ws 0) 30 1) else none

/-- The residual rows of a coded slot, and whether it overran. -/
def slotResiduals (ws : List Nat) : List (List Int) × Bool :=
  let l := slotBits ws
  takeRows (ofMsb ((l.drop 1).take 2)) 8 (some (l.drop 3))

/-! ### Encoding (R100) -/

/-- Bit length of a number below 256. -/
def bitLength (n : Nat) : Nat := ((List.range 9).find? fun k => decide (n < 2 ^ k)).getD 8

/-- The bits of a residual's code. -/
def residualBits (book : Nat) (e : Int) : List Bool :=
  let m := e.natAbs
  let k := bitLength m
  let (n, v) := bookCode book k
  bitsMsb n v ++ (if k = 0 then [] else decide (e < 0) :: bitsMsb (k - 1) (m - 2 ^ (k - 1)))

/-- The bits of a coded slot before its padding. -/
def codedBits (book : Nat) (rows : List (List Int)) : List Bool :=
  false :: bitsMsb 2 book ++ rows.flatMap fun r =>
    if r.all (· == 0) then [false] else true :: r.flatMap (residualBits book)

/-- The book with the fewest bits, the lower on a tie (R100). -/
def bestBook (rows : List (List Int)) : Nat :=
  let n := fun b => (codedBits b rows).length
  [1, 2, 3].foldl (fun best b => if n b < n best then b else best) 0

/-- The words of bits in ascending position, `n` words. -/
def packWords (n : Nat) (l : List Bool) : List Nat :=
  (List.range n).map fun i => (List.range 32).foldl (fun a j => a + bitOf (l.getD (32 * i + j) false) <<< j) 0

/-- The slot of a tile with `n` words: its words, or none where the tile goes raw (R100). -/
def encodeSlot (n : Nat) (ctx : TileCtx) (tile : List Byte) : Option (List Nat) :=
  let rows := encodeRows ctx.corner ctx.left ctx.above (tileRows tile)
  let b := codedBits (bestBook rows) rows
  if b.length ≤ 32 * n then some (packWords n b) else none

/-- A raw slot (R98). -/
def rawSlot (n index : Nat) : List Nat := (1 + 2 * (index % 2 ^ 30)) :: List.replicate (n - 1) 0

end Sys2Proof.Machine
end

