-- ==== Sys2Proof/Machine/Harrow.lean ====
section
/-! DEFINITION. Tilth decoders and Harrow tiles at work on the furrow's stream and on a prepass or pre-run: segments
read, tiles decoded, rows and cell sums delivered, audits (R90, R91, R101, R118–R130). -/

namespace Sys2Proof.Machine

/-! ### A stream being expanded -/

/-- The furrow's own expansion, or the prepass or pre-run. -/
def State.work (s : State) (pre : Bool) : Option Work := if pre then s.path.preWork else s.path.cur

/-- The same replaced. -/
def setWork (pre : Bool) (w : Work) (s : State) : State :=
  if pre then { s with path := { s.path with preWork := some w } } else { s with path := { s.path with cur := some w } }

/-- Segments of a stream. -/
def StreamInfo.segments (i : StreamInfo) : Nat := i.rows / 64

/-- The segment at place `i` of the order of a prepass: restart intervals in descending order, segments ascending
within (R90). -/
def preSeg (n restart i : Nat) : Nat :=
  let r := 2 ^ restart
  let q := (n - 1) / r
  let n0 := n - q * r
  if i < n0 then q * r + i else (q - 1 - (i - n0) / r) * r + (i - n0) % r

/-- The place of a segment in that order. -/
def preIndex (n restart k : Nat) : Nat :=
  let r := 2 ^ restart
  let q := (n - 1) / r
  let n0 := n - q * r
  if q * r ≤ k then k - q * r else n0 + (q - 1 - k / r) * r + k % r

/-- The segment at place `i` of a work's order. -/
def Work.seg (w : Work) (i : Nat) : Nat := if w.pre then preSeg w.info.segments w.info.restart i else w.first + i

/-- The length of a work's order. -/
def Work.len (w : Work) : Nat := if w.pre then w.info.segments else w.info.segments - w.first

/-- A work at its beginning. -/
def Work.start (i : StreamInfo) (pre : Bool) (first : Nat) (lines : List (Nat × CtxLine)) : Work :=
  ⟨i, pre, first, [], [], lines, [], 0, List.replicate 32 0⟩

/-- A stream read fails: the furrow is held with cause MEM_UNCORRECTABLE, and the failing block is open for patch
(R304, R305). -/
def streamFault (s : State) : State :=
  let a := s.rd F.MEM_UE_LAST_LO_ADDR_LO.off + s.f F.MEM_UE_LAST_HI_ADDR_HI <<< 32
  if s.jobs.run.isSome then
    dueCause 0x0B { s with mem := { s.mem with openPatch := setInsert s.mem.openPatch (a / 4096) } }
  else s

/-- The stream reader has segment `k`: it reads the directory entry and the payload once (R121). While a stack of the
stream's area does not accept reads it waits (R28). -/
def loadSeg (pre : Bool) (k : Nat) (s : State) : Bool × State :=
  match s.work pre with
  | none => (false, s)
  | some w =>
    if (alGet w.segs k).isSome then (true, s)
    else if s.memWaits w.info.addr w.info.size then (false, s)
    else
      let ((e, ok), s) := memRead streamReader (w.info.addr + 320 + 8 * k) 8 s
      if !ok then (false, streamFault s)
      else
        let ((b, ok), s) := memRead streamReader (w.info.addr + 16 * leAt e 0 4) (16 * (leAt e 4 4 % 2 ^ 24)) s
        if !ok then (false, streamFault s)
        else (true, setWork pre { w with segs := alSet w.segs k (leWords (b.drop 16)) } s)

/-- Segments [a, a + n) are read. -/
def loadSegs (pre : Bool) : Nat → Nat → State → Bool × State
  | 0, _, s => (true, s)
  | n + 1, a, s =>
    match loadSeg pre a s with
    | (true, s) => loadSegs pre n (a + 1) s
    | (false, s) => (false, s)

/-- The packets of a segment that has been read. -/
def Work.packets (w : Work) (k : Nat) : List Packet :=
  let ws := (alGet w.segs k).getD []
  Sys2Proof.Machine.packets w.info.slot (ws.length + 1) ws

/-- The Tilth regions of a segment. -/
def Work.regions (w : Work) (k : Nat) : List Region := (w.packets k).filterMap Packet.region?

/-- The primitives of a segment. -/
def Work.prims (w : Work) (k : Nat) : List RastPrim := ((w.packets k).filterMap fun p => p.prim? k).map Prim.ready

/-- A decoded tile of region `r` of segment `k`. -/
def Work.tile (w : Work) (k r i : Nat) : Option (List Byte) :=
  (w.tiles.find? fun t => t.1 == k && t.2.1 == r && t.2.2.1 == i).map fun t => t.2.2.2

/-! ### Tilth decoders (R92, R99, R101) -/

/-- Byte `x` of the last pixel row of region `rid` of the segment before `k`, once that is decoded (R92). -/
def Work.prevRow (w : Work) (k rid x : Nat) : Option Nat :=
  match w.lines.find? fun l => l.1 + 1 == k && l.2.rid == rid with
  | some l => some (l.2.line.getD x 0).toNat
  | none =>
    match ((w.regions (k - 1)).zipIdx).find? fun g => g.1.rid == rid with
    | some (g, r) => (w.tile (k - 1) r (g.ntx * (g.nty - 1) + x / 8)).map fun b => (b.getD (56 + x % 8) 0).toNat
    | none => none

/-- The context of tile (tx, ty) of a region (R92). -/
def Work.context (w : Work) (k r : Nat) (g : Region) (tx ty : Nat) : TileCtx :=
  let byte := fun (i : Nat) (o : Nat) => match w.tile k r i with | some b => (b.getD o 0).toNat | none => 0
  let line := fun (x : Nat) => if g.cont then (w.prevRow k g.rid x).getD 0 else 0
  let above := (List.range 8).map fun u =>
    if ty = 0 then line (8 * tx + u) else byte (g.ntx * (ty - 1) + tx) (56 + u)
  let left := (List.range 8).map fun v => if tx = 0 then 0 else byte (g.ntx * ty + tx - 1) (8 * v + 7)
  let corner := if tx = 0 then 0 else if ty = 0 then line (8 * tx - 1) else byte (g.ntx * (ty - 1) + tx - 1) 63
  ⟨left, above, corner⟩

/-- The bottom pixel row of a region all of whose tiles are decoded. -/
def Work.bottom (w : Work) (k r : Nat) (g : Region) : List Byte :=
  (List.range g.ntx).flatMap fun tx => sliceBytes ((w.tile k r (g.ntx * (g.nty - 1) + tx)).getD []) 56 8

/-- The tiles done of a tile row, which are the first ones. -/
def Work.rowTiles (w : Work) (k r : Nat) (g : Region) (ty : Nat) : Nat :=
  ((List.range g.ntx).find? fun tx => (w.tile k r (g.ntx * ty + tx)).isNone).getD g.ntx

/-- The tile above a tile is done: of the row above, or of the region that this one continues (R92, R101). -/
def Work.above (w : Work) (k r : Nat) (g : Region) (tx ty : Nat) : Bool :=
  if ty = 0 then !g.cont || (w.prevRow k g.rid (8 * tx)).isSome else (w.tile k r (g.ntx * (ty - 1) + tx)).isSome

/-- Every tile of a segment has been decoded. -/
def Work.decoded (w : Work) (k : Nat) : Bool :=
  ((w.regions k).zipIdx).all fun g => (List.range (g.1.ntx * g.1.nty)).all fun i => (w.tile k g.2 i).isSome

/-- The first tile row of a segment that is not done and that no instance decodes. -/
def Work.openRow (w : Work) (busy : List (Nat × (Bool × Nat × Nat × Nat))) (k : Nat) : Option (Bool × Nat × Nat × Nat) :=
  ((w.regions k).zipIdx).findSome? fun g => (List.range g.1.nty).findSome? fun ty =>
    let row := (w.pre, k, g.2, ty)
    if w.rowTiles k g.2 g.1 ty < g.1.ntx && !(busy.any fun e => e.2 == row) then some row else none

/-- The first such row of the segments from number `i` of the order on, those of the furrow up to `limit` pixel rows;
segments decoded whole are passed for good. -/
def seekRow (pre : Bool) (limit : Nat) : Nat → Nat → State → Option (Bool × Nat × Nat × Nat) × State
  | 0, _, s => (none, s)
  | fuel + 1, i, s =>
    match s.work pre with
    | none => (none, s)
    | some w =>
      let k := w.seg i
      if w.len ≤ i ∨ (!w.pre ∧ limit ≤ 64 * k) then (none, s)
      else match loadSeg pre k s with
        | (false, s) => (none, s)
        | (true, s) =>
          match s.work pre with
          | none => (none, s)
          | some w =>
            match w.openRow s.path.tilth k with
            | some row => (some row, s)
            | none =>
              let w := if i = w.decAt ∧ w.decoded k then { w with decAt := i + 1 } else w
              seekRow pre limit fuel (i + 1) (setWork pre w s)

/-- JPF of the stream a work expands. -/
def StreamInfo.jpf (i : StreamInfo) : List Byte := leBytes 4 i.job ++ leBytes 2 i.furrow ++ leBytes 1 i.pass ++ [0]

/-- A region all of whose tiles are decoded leaves the context of one that continues it. -/
def Work.regionDone (w : Work) (k r : Nat) (g : Region) : Work :=
  if g.ty0 + g.nty = 8 ∧ (List.range g.nty).all (fun ty => w.rowTiles k r g ty == g.ntx) then
    let n := slotWords w.info.slot
    let raws := ((List.range (g.ntx * g.nty)).filter fun i => (slotRaw ((g.slots.drop (n * i)).take n)).isSome).length
    { w with lines := (k, ⟨g.rid, g.nty, w.info.slot, raws, w.bottom k r g⟩) :: w.lines }
  else w

/-- Instance `inst` decodes the next tile of the tile row it has, once the tile above is done, and leaves the row with
its last tile (R92, R99, R101). -/
def decodeNext (inst : Nat) (row : Bool × Nat × Nat × Nat) (s : State) : State :=
  let (pre, k, r, ty) := row
  match s.work pre with
  | none => s
  | some w =>
    match (w.regions k)[r]? with
    | none => s
    | some g =>
      let tx := w.rowTiles k r g ty
      if g.ntx ≤ tx ∨ !w.above k r g tx ty ∨ s.memWaits w.info.addr w.info.size then s
      else
        let i := g.ntx * ty + tx
        let n := slotWords w.info.slot
        let slot := (g.slots.drop (n * i)).take n
        let ((tile, ok, ovr), s) := match slotRaw slot with
          | some idx =>
            let ((b, ok), s) := memRead streamReader (w.info.addr + 64 * (w.info.ovfOff + idx)) 64 s
            ((b, ok, false), s)
          | none =>
            let (rs, ovr) := slotResiduals slot
            ((decodeTile (w.context k r g tx ty) rs, true, ovr), s)
        if !ok then streamFault s
        else
          let s := if ovr then
              event 0x200 (w.info.jpf ++ leBytes 4 k ++ leBytes 2 (g.tx0 + tx) ++ leBytes 1 (g.ty0 + ty) ++ [0])
                (s.inc F.TLT_SLOT_OVERRUNS_COUNT 1)
            else s
          let w := { w with tiles := (k, r, i, tile) :: w.tiles }
          let s := setWork pre (w.regionDone k r g) s
          { s with path := { s.path with
            tilth := if tx + 1 = g.ntx then alErase s.path.tilth inst else alSet s.path.tilth inst row } }

/-- A decoder instance completes one tile of the row it has, or of the first row open: the furrow's, else the prepass or
pre-run's (R101). -/
def tilthTile (inst : Nat) (s : State) : State :=
  match alGet s.path.tilth inst with
  | some row => decodeNext inst row s
  | none =>
    let sf := match s.jobs.run with | some r => r.sf | none => 0
    let seek := fun (pre : Bool) (s : State) =>
      match s.work pre with
      | some w => seekRow pre (sf + 1024) (w.len + 1) w.decAt s
      | none => (none, s)
    match seek false s with
    | (some row, s) => decodeNext inst row s
    | (none, s) =>
      match seek true s with
      | (some row, s) => decodeNext inst row s
      | (none, s) => s

/-! ### Harrow tiles (R118, R123, R125) -/

/-- Tilth contributions to a pixel of segment `k`. -/
def Work.tileContribs (w : Work) (k x y : Nat) : List (Nat × Nat) :=
  ((w.regions k).zipIdx).filterMap fun g =>
    let tx := x / 8
    let ty := y % 64 / 8
    if g.1.tx0 ≤ tx ∧ tx < g.1.tx0 + g.1.ntx ∧ g.1.ty0 ≤ ty ∧ ty < g.1.ty0 + g.1.nty then
      let b := (w.tile k g.2 (g.1.ntx * (ty - g.1.ty0) + (tx - g.1.tx0))).getD []
      some ((b.getD (8 * (y % 8) + x % 8) 0).toNat, g.1.cls)
    else none

/-- The primitives that can reach segment `k` (R75). -/
def Work.reaching (w : Work) (k : Nat) : List RastPrim :=
  (List.range (min k 16 + 1)).flatMap fun j => w.prims (k - min k 16 + j)

/-- The pixel records of position `a` in segment `k`, in ascending y and then x, and whether each is saturated. -/
def Work.records (w : Work) (a k : Nat) : List (Nat × Bool) :=
  let ps := w.reaching k
  (List.range 64).flatMap fun dy => (List.range 168).map fun dx =>
    let x := 168 * a + dx
    let y := 64 * k + dy
    combine (primContribs ps x y ++ w.tileContribs k x y)

/-- Records in which a failing tile got some wrong (R127, R129). -/
def spoil (bad : List (Nat × Nat)) (l : List Nat) : List Nat := bad.foldl (fun l b => l.set b.1 b.2) l

/-- The CRC of an audit unit over its records (R127). -/
def recordsCrc (l : List Nat) : Nat := crc32c (l.flatMap (leBytes 2))

/-- The cell sums of a position's records: classes with NO_DENSITY are left out (R70, R90, R118). -/
def cellSums (i : StreamInfo) (a : Nat) (recs : List Nat) : List (Nat × Nat) :=
  (List.range 84).filterMap fun c =>
    if 64 * c < 168 * a + 168 ∧ 168 * a < 64 * c + 64 then
      let vs := recs.zipIdx.filterMap fun r =>
        let x := 168 * a + r.2 % 168
        if x / 64 = c ∧ !(nth i.doses (recClass r.1)).testBit 16 then some (recCov r.1) else none
      some (c, vs.sum)
    else none

/-- The counts of the furrow changed. -/
def withCounts (g : Counts → Counts) (s : State) : State :=
  { s with path := { s.path with counts := g s.path.counts } }

/-- Sweeps beyond the first of a position's segment. -/
def Work.sweeps (w : Work) (a k : Nat) : Nat := extraSweeps 0 0 ((w.reaching k).map (activeEdges a k))

/-! ### Audits (R127–R129) -/

/-- The unit after (a, kind) of the rotation (R128). -/
def nextUnit (u : Nat × Bool) : Nat × Bool := if u.2 then ((u.1 + 1) % 32, false) else (u.1, true)

/-- The auditor takes the segment `k` that its unit's position starts: the current unit of HRW_AUDIT_STATUS (R128). -/
def takeTileUnit (h : HarrowAudit) (k : Nat) (s : State) : State :=
  let s := { s with path := { s.path with
    harrowAudit := some { h with unit := some k, live := none, aud := none, liveTile := s.tileOf h.pos } } }
  auditState false 1 ((s.set F.HRW_AUDIT_STATUS_POSITION h.pos).set F.HRW_AUDIT_STATUS_KIND (bitOf h.pre))

/-- A stream's expansion begins: a unit of the one before ends without a result, and a free auditor takes the first
segment its position starts (R128). -/
def startTileUnit (pre : Bool) (s : State) : State :=
  let s := cutTileUnit pre s
  match s.path.harrowAudit, s.work pre with
  | some h, some w =>
    if h.pre = pre ∧ h.unit.isNone ∧ 0 < w.len then takeTileUnit h (w.seg 0) s else s
  | _, _ => s

/-- The auditor goes on to the next unit of the rotation. Where R128 leaves open what becomes of a unit of a kind that
does not run while the other does, a prepass unit is passed over and a unit of the current furrow waits (log entry
69). -/
def nextTileUnit (s : State) : State :=
  match s.path.harrowAudit with
  | none => s
  | some h =>
    let n := nextUnit s.path.harrowNext
    let n := if n.2 && s.path.preWork.isNone then nextUnit n else n
    let s := { s with path := { s.path with
      harrowNext := n, harrowAudit := some ⟨n.1, n.2, none, none, none, s.tileOf n.1, h.auditor, none, [], 0⟩ } }
    auditState false 0 (auditPlace tileBase h.auditor n.1 s)

/-- An audit's outcome in HRW_MISMATCH_0 and the retirement that follows (R129). -/
def harrowOutcome (h : HarrowAudit) (second : Option Nat) (outcome : Nat) (s : State) : State :=
  let s := (s.set F.HRW_MISMATCH_0_OUTCOME outcome).set F.HRW_MISMATCH_0_SECOND_TILE (second.getD 0x3F)
  let s := { s with path := { s.path with harrowNext := nextUnit s.path.harrowNext, harrowAudit := none } }
  let s := auditState false 0 s
  if outcome = 1 then fillTileAuditor (retireTile h.auditor 0 .spare s).2
  else if outcome = 2 then fillTileAuditor (retireTile h.liveTile 0 (.named h.auditor) s).2
  else
    let s := setRole tileBase h.auditor 1 0 s
    fillTileAuditor (retireTile h.liveTile 0 .lowest s).2

/-- The CRCs of a unit are compared once both tiles have finished it. -/
def harrowCompare (s : State) : State :=
  match s.path.harrowAudit with
  | none => s
  | some h =>
    match h.unit, h.live, h.aud with
    | some k, some l, some a =>
      if l = a then
        let s := s.inc (F.HRW_Tnn_AUDITS_PASSED h.liveTile) 1
        let s := if h.pre then s
          else { s with path := { s.path with tilePass := alSet s.path.tilePass h.pos (64 * (k + 1)) } }
        nextTileUnit s
      else
        let s := s.wr F.HRW_MISMATCH_0.off
          (bitOf h.pre <<< 28 + h.liveTile <<< 22 + h.auditor <<< 16 + 0x3F <<< 10 + h.pos)
        let s := s.wr F.HRW_MISMATCH_1.off h.pf
        let s := s.wr F.HRW_MISMATCH_2.off k
        let ev := fun (s : State) => raise 8 (event 0x202
          (wordsLe [s.rd F.HRW_MISMATCH_0.off, s.rd F.HRW_MISMATCH_1.off, s.rd F.HRW_MISMATCH_2.off]) s)
        match s.idleUnits tileBase with
        | t :: _ =>
          let s := ev (s.set F.HRW_MISMATCH_0_SECOND_TILE t)
          auditState false 4 { s with path := { s.path with harrowAudit := some { h with second := some t } } }
        | [] => ev (harrowOutcome h none 3 s)
    | _, _, _ => s

/-- The second opinion is complete (R129). -/
def harrowSecond (bad : List (Nat × Nat)) (s : State) : State :=
  match s.path.harrowAudit with
  | none => s
  | some h =>
    match h.second with
    | some t =>
      let c := some (recordsCrc (spoil bad h.recs))
      harrowOutcome h (some t) (if c = h.live then 1 else if c = h.aud then 2 else 3) s
    | none => s

/-- The live tile of a position finishes a segment of a stream and starts the next: the audit's live CRC over its
records `recs`, and the unit taken (R127, R128). `clean` are the segment's records. -/
def auditLive (pre : Bool) (i : StreamInfo) (a k next : Nat) (hasNext : Bool) (clean recs : List Nat) (s : State) : State :=
  match s.path.harrowAudit with
  | none => s
  | some h =>
    if h.pos ≠ a ∨ h.pre ≠ pre then s
    else if h.unit = some k ∧ h.live.isNone then
      harrowCompare { s with path := { s.path with harrowAudit := some { h with
        live := some (recordsCrc recs), recs := clean, pf := i.pass <<< 16 + i.furrow } } }
    else if h.unit.isNone ∧ hasNext then takeTileUnit h next s
    else s

/-- The auditor finishes its unit: from the stream while that is expanded, or as the live tile's records have it. -/
def auditorDone (h : HarrowAudit) (bad : List (Nat × Nat)) (s : State) : State :=
  let done := fun (l : List Nat) (s : State) =>
    harrowCompare { s with path := { s.path with harrowAudit := some { h with aud := some (recordsCrc (spoil bad l)) } } }
  match h.unit with
  | none => s
  | some k =>
    if h.aud.isSome then s
    else if h.live.isSome then done h.recs s
    else match loadSegs h.pre (min k 16 + 1) (k - min k 16) s with
      | (false, s) => s
      | (true, s) =>
        match s.work h.pre with
        | some w => if w.decoded k then done ((w.records h.pos k).map Prod.fst) s else s
        | none => s

/-! ### Density rows (R90, R91, R136) -/

/-- The map region's address. -/
def State.mapBase (s : State) : Nat := s.addr F.MDR_MAP_BASE_LO.off F.MDR_MAP_BASE_HI.off

/-- Bytes of one map (R136). -/
def mapBytes : Nat := 88080384

/-- Row `m` of a prepass is complete once every segment from max(0, m − 16) to m is processed (R91). -/
def Work.rowDone (w : Work) (n m : Nat) : Bool :=
  (List.range (min m 16 + 1)).all fun j => decide (preIndex w.info.segments w.info.restart (m - j) < n)

/-- The density values of a row: the positions' sums added before rounding. -/
def Work.densityRow (w : Work) (m : Nat) : List Nat :=
  let all := (List.range 32).flatMap fun a => (alGet w.sums (a + 32 * m)).getD []
  (List.range 84).map fun c => (rnd ((all.filter fun p => p.1 == c).map Prod.snd).sum 4).toNat

/-- One density row written into its map (R136). -/
def writeDensity (w : Work) (m : Nat) (s : State) : State :=
  let i := s.path.preMap
  let j := jobRow w.info.furrow w.info.segments m
  let s := engineWrite streamReader (s.mapBase + mapBytes * i + 168 * j) ((w.densityRow m).flatMap (leBytes 2)) s
  { s with path := { s.path with
    maps := (List.range 3).map fun k =>
      let d := s.path.maps.getD k ⟨none, []⟩
      if k = i then { d with rows := setInsert d.rows j } else d
    dcache := s.path.dcache.filter fun e => e.1 != i + 4 * j } }

/-- A density-only descriptor completes DONE once its map is complete (R471). -/
def densityDone (d : Desc) (s : State) : State :=
  completeUnarmed d 0x00 (setQueue (s.jobs.queue.filter fun e => !e.same d) (unlockStream d s))

/-- Rows the prepass has just completed are written; a whole map ends the work. -/
def densityRows (s : State) : State :=
  match s.path.preWork with
  | none => s
  | some w =>
    let n := w.posDone.foldl min (w.posDone.headD 0)
    let d := s.path.maps.getD s.path.preMap ⟨none, []⟩
    let new := (List.range w.info.segments).filter fun m =>
      w.rowDone n m && !d.rows.contains (jobRow w.info.furrow w.info.segments m)
    let s := new.foldl (fun s m => writeDensity w m s) s
    if n < w.info.segments then s
    else
      let s := dropPre s
      match s.jobs.queue.find? fun e => e.density && e.party == w.info.party && e.ringSeq == w.info.ringSeq with
      | some e => densityDone e s
      | none => s

/-! ### A tile finishes a segment -/

/-- The Harrow lead: rows delivered less the first unfired shot (R123). -/
def State.harrowLead (s : State) : Int :=
  (s.harrowRows : Int) - (match s.jobs.run with | some r => (r.sf : Int) | none => 0)

/-- An active tile finishes the segment its position is at, of the furrow or of a prepass. HRW_LAST_SWEEPS names 'the
last completed furrow and its prepass': the model counts with a furrow the sweeps of the prepass that runs while it is
written, and not those of a pre-run before it arms (log entry 70). -/
def finishSegment (pre : Bool) (a : Nat) (bad : List (Nat × Nat)) (s : State) : State :=
  match s.work pre with
  | none => s
  | some w =>
    let i := w.posDone.getD a 0
    let k := w.seg i
    if w.len ≤ i ∨ (pre ∧ s.madBypass) then s
    else match loadSegs pre (min k 16 + 1) (k - min k 16) s with
      | (false, s) => s
      | (true, s) =>
        match s.work pre with
        | none => s
        | some w =>
          if !w.decoded k then s
          else
            let r := w.records a k
            let recs := spoil bad (r.map Prod.fst)
            let w' := { w with posDone := w.posDone.set a (i + 1) }
            let more := decide (i + 1 < w.len)
            if pre then
              let s := setWork true { w' with sums := alSet w.sums (a + 32 * k) (cellSums w.info a recs) } s
              let s := (if (alGet w.sums (a + 32 * k)).isSome then s else
                withCounts (fun c => { c with sweeps := c.sweeps + w.sweeps a k }) s)
              densityRows (auditLive true w.info a k (w.seg (i + 1)) more (r.map Prod.fst) recs s)
            else
              let s := setWork false w' { s with path := { s.path with recs := alSet s.path.recs (a + 32 * k) recs } }
              let s := if s.path.segMax.getD a 0 ≤ k then
                  let s := { s with path := { s.path with segMax := s.path.segMax.set a (k + 1) } }
                  withCounts (fun c => { c with
                    overlap := c.overlap + (recs.filter recOverlap).length
                    saturated := c.saturated + (r.filter Prod.snd).length
                    sweeps := c.sweeps + w.sweeps a k }) s
                else s
              auditLive false w.info a k (k + 1) more (r.map Prod.fst) recs s

/-- A tile finishes a segment (R123, R125). An active one works on the furrow while the lead is below 1,024 rows and not
every row is delivered, and else on the prepass; the auditor works on its unit. `bad` lists the pixel records a failing
tile gets wrong. -/
def harrowSegment (t : Nat) (bad : List (Nat × Nat)) (s : State) : State :=
  let role := s.role tileBase t
  if role = 0 then
    let a := s.place tileBase t
    if s.tileOf a ≠ t then s
    else
      let furrow := match s.path.cur with
        | some w => w.posDone.any (fun n => decide (n < w.len)) && decide (s.harrowLead < 1024)
        | none => false
      finishSegment (!furrow) a bad s
  else if role = 2 then
    match s.path.harrowAudit with
    | none => s
    | some h => auditorDone h bad s
  else s

end Sys2Proof.Machine
end

