-- ==== Sys2Proof/Machine/Madder.lean ====
section
/-! DEFINITION. Madder: density maps and their roles, multipliers, target dose and the field window, and dose-map
capture (R103, R104, R134–R148, R158). -/

namespace Sys2Proof.Machine

/-! ### Parameters (R140) -/

/-- NCOMP. -/
def State.ncomp (s : State) : Nat := s.actF 0x1310600 1 0

/-- Weight of component `g`. -/
def State.weight (s : State) (g : Nat) : Nat :=
  if g = 0 then s.actF 0x1310604 15 0 else if g = 1 then s.actF 0x1310604 31 16 else s.actF 0x1310608 15 0

/-- a_g[d]. -/
def State.coef (s : State) (g d : Nat) : Nat := s.act (0x1310000 + 512 * g + 4 * d)

/-- The parameters of R141 that a furrow is refused for. -/
def State.madBad (s : State) : Bool :=
  let w := ((List.range s.ncomp).map s.weight).sum
  s.ncomp == 0 || decide (65536 < w) || decide (65280 < s.actF 0x131060C 31 16) || s.actF 0x1310610 15 0 == 0 ||
    decide (s.actF 0x1310610 31 16 < s.actF 0x1310610 15 0)

/-- The map base is refused (R141). -/
def State.mapBaseBad (s : State) : Bool := s.mapBase % 4096 != 0 || !s.inDram s.mapBase (3 * mapBytes)

/-! ### Maps and their roles (R136–R138) -/

/-- Every map becomes invalid and free (R138). -/
def mapsClear (s : State) : State :=
  dropPre { s with path := { s.path with maps := List.replicate 3 ⟨none, []⟩, dcache := [] } }

/-- A map that no role of a furrow needs (R138). -/
def State.freeMap (s : State) (d : Desc) : Option Nat :=
  (List.range 3).find? fun i =>
    match (s.path.maps.getD i ⟨none, []⟩).ident with
    | none => true
    | some id => !((List.range 3).any fun r => !d.mapZero r && id == d.mapIdent r)

/-- A prepass or pre-run of a stream begins, into a map that holds its rows already or else into a free one. -/
def preBegin (d : Desc) (i : StreamInfo) (s : State) : State :=
  let ident := (i.job, i.pass, i.furrow)
  let slot := match s.mapIndex ident with | some k => some k | none => s.freeMap d
  match slot with
  | none => s
  | some k =>
    let keep := s.path.maps.getD k ⟨none, []⟩
    let m : DensMap := if keep.ident = some ident then keep else ⟨some ident, []⟩
    let s := dropPre s
    startTileUnit true { s with path := { s.path with
      preWork := some (Work.start i true 0 []), preMap := k
      maps := (List.range 3).map fun j => if j = k then m else s.path.maps.getD j ⟨none, []⟩ } }

/-- The density-only descriptor for the head's predecessor (R138). -/
def State.densityOnly (s : State) (d : Desc) : Option Desc :=
  s.jobs.queue.find? fun e => e.density && e.job == d.job && e.pass == d.pass && e.furrow + 1 == d.furrow

/-- A job begins when its first furrow comes to the head of the queue with no furrow armed: every map becomes invalid
(R138; log entry 71). -/
def jobBegins (d : Desc) (s : State) : State :=
  if s.furrowArmed ∨ d.jobNo = s.path.mapJob then s
  else mapsClear { s with path := { s.path with mapJob := d.jobNo } }

/-- The conditions of R16 hold for the head furrow. -/
def State.readyToArm (s : State) (d : Desc) : Bool :=
  d.stream == .admitted && (s.streamOf d).isSome &&
    (d.lastInPass || (match s.successor d with | some e => e.stream == .admitted | none => false)) &&
    s.jobs.headRead && d.tableSet == s.rd F.JOB_TABLE_SET_ACTIVE.off

/-- Pre-runs may start: the head is about to arm (R138), or it is held for a map that has become invalid (R304). -/
def State.preRunDue (s : State) (d : Desc) : Bool :=
  match s.jobs.run with
  | none => s.readyToArm d && s.path.preWork.isNone
  | some r => r.phase == .held && r.causes.testBit 0x15

/-- A pre-run starts for the head furrow (R138, R304). -/
def preRunStart (s : State) : State :=
  match s.head? with
  | none => s
  | some d =>
    let s := jobBegins d s
    if !s.preRunDue d || !s.islandOpen 12 then s
    else
      let src := match s.mapNeed d with
        | 1 => some d
        | 2 => s.densityOnly d
        | 3 => s.successor d
        | _ => none
      match src with
      | none => s
      | some e =>
        match s.streamOf e with
        | some i =>
          let under := match s.path.preWork with | some w => w.of e | none => false
          if e.stream = .admitted ∧ !under then preBegin d i s else s
        | none => s

/-- The prepass of the successor, as the furrow is written (R90, R137). -/
def prepassStart (s : State) : State :=
  match s.head? with
  | none => s
  | some d =>
    if s.madBypass || d.lastInPass || s.path.preWork.isSome || s.mapValid (d.mapIdent 2) d.rows then s
    else match s.successor d with
      | none => s
      | some e => match s.streamOf e with
        | some i => if e.stream = .admitted then preBegin d i s else s
        | none => s

/-- After a resume the prepass restarts at the first segment of the restart interval its decoders stand in (R102). -/
def Work.restart (w : Work) : Work :=
  let n := w.info.segments
  let r := w.info.restart
  let at' := preIndex n r (preSeg n r (min w.decAt (n - 1)) / 2 ^ r * 2 ^ r)
  let before := fun (k : Nat) => decide (preIndex n r k < at')
  { w with
    decAt := at', posDone := w.posDone.map (min · at')
    tiles := w.tiles.filter fun t => before t.1
    lines := w.lines.filter fun l => before l.1 }

/-- The prepass at a resume (R90, R102). -/
def prepassResume (s : State) : State :=
  match s.path.preWork with
  | some w =>
    startTileUnit true { s with path := { s.path with
      preWork := some w.restart, tilth := s.path.tilth.filter fun (e : Nat × (Bool × Nat × Nat × Nat)) => !e.2.1 } }
  | none => prepassStart s

/-! ### Multipliers (R142, R144) -/

/-- Row `j` of the map of a role, read once (R144); an uncorrectable word makes the map invalid (R304). -/
def densityRow (d : Desc) (role j : Nat) (s : State) : (List Nat × Bool) × State :=
  if d.mapZero role ∨ d.rows / 64 ≤ j then ((List.replicate 84 0, true), s)
  else match s.mapIndex (d.mapIdent role) with
    | none => ((List.replicate 84 0, false), s)
    | some i =>
      match alGet s.path.dcache (i + 4 * j) with
      | some l => ((l, true), s)
      | none =>
        let ((b, ok), s) := memRead streamReader (s.mapBase + mapBytes * i + 168 * j) 168 s
        if !ok then
          let s := { s with path := { s.path with
            maps := (List.range 3).map fun k => if k = i then ⟨none, []⟩ else s.path.maps.getD k ⟨none, []⟩ } }
          let s := if s.path.preWork.isSome ∧ s.path.preMap = i then dropPre s else s
          ((List.replicate 84 0, false), dueCause 0x15 s)
        else
          let l := (List.range 84).map fun c => leAt b (2 * c) 2
          ((l, true), { s with path := { s.path with dcache := alSet s.path.dcache (i + 4 * j) l } })

/-- The window rows [a, a + n) of 252 columns. -/
def windowRows (d : Desc) : Nat → Nat → State → (List (Nat × List Nat) × Bool) × State
  | 0, _, s => (([], true), s)
  | n + 1, a, s =>
    let ((p, ok0), s) := densityRow d 0 a s
    let ((c, ok1), s) := densityRow d 1 a s
    let ((x, ok2), s) := densityRow d 2 a s
    if !(ok0 && ok1 && ok2) then (([], false), s)
    else
      let ((r, ok), s) := windowRows d n (a + 1) s
    (((a, p ++ c ++ x) :: r, ok), s)

/-- a_g[|d|] for d from -83 to 83. -/
def State.coefs (s : State) (g : Nat) : List Int :=
  let l := (List.range 84).map fun d => (s.coef g d : Int)
  l.tail.reverse ++ l

/-- Sum of the products of two lists, term by term. -/
def dot : List Int → List Int → Int
  | a :: l, b :: m => a * b + dot l m
  | _, _ => 0

/-- The weighted sums of the first `n` positions of a list, each rounded. -/
def slide (k : List Int) : Nat → List Int → List Int
  | 0, _ => []
  | n + 1, l => rnd (dot k l) 16 :: slide k n l.tail

/-- The horizontal pass of R142 over one window row; columns outside it read 0. -/
def passRow (k l : List Int) : List Int :=
  if l.all (· == 0) then l else slide k l.length (List.replicate 83 0 ++ l)

/-- The vertical pass of R142 at row `r` of the horizontally passed rows, over `n` columns; rows outside read 0. -/
def passColumns (k : List Int) (n : Nat) (h : List (List Int)) (r : Nat) : List Int :=
  let sums := h.zipIdx.foldl (fun acc x =>
    if x.2 < r + 84 ∧ r < x.2 + 84 then acc.zipWith (fun a v => a + k.getD (x.2 + 83 - r) 0 * v) x.1 else acc)
    (List.replicate n 0)
  sums.map (rnd · 16)

/-- conv of R142 at row `r` of a window: `hs` holds each component's weight, coefficients and horizontally passed
rows. -/
def convRow (hs : List (Int × List Int × List (List Int))) (n r : Nat) : List Int :=
  (hs.foldl (fun acc x => acc.zipWith (fun a v => a + x.1 * v) (passColumns x.2.1 n x.2.2 r)) (List.replicate n 0)).map
    (rnd · 16)

/-- The horizontal pass of a window's rows for every component (R142). -/
def convPasses (s : State) (rows : List (List Int)) : List (Int × List Int × List (List Int)) :=
  (List.range s.ncomp).map fun g =>
    let k := s.coefs g
    ((s.weight g : Int), k, rows.map (passRow k))

/-- A value saturated between the multiplier limits, and whether it was limited. -/
def multSat (s : State) (v : Int) : Int × Bool :=
  let lo : Int := s.actF 0x1310610 15 0
  let hi : Int := s.actF 0x1310610 31 16
  (sat v lo hi, decide (v < lo) || decide (hi < v))

/-- m2 of the 84 cells of job-frame row `j` over a window of ascending rows, each with whether it counts as clamped
(R142, R158). -/
def multipliers (s : State) (win : List (Nat × List Nat)) (j : Nat) : List (Nat × Bool) :=
  let rows := win.map fun x => x.2.map fun (v : Nat) => (v : Int)
  let r := j - (win.map Prod.fst).headD 0
  let e : Int := s.actF 0x131060C 15 0
  let u : Int := 65280
  let num := 4096 * u + e * (s.actF 0x131060C 31 16 : Int)
  let dens := convPasses s rows
  let m1 : Nat → List (Int × Bool) := fun i => (convRow dens 252 i).map fun c =>
    let den := 4096 * u + e * c
    multSat s ((num * 16384 + den / 2) / den)
  let p := rows.zipIdx.map fun x =>
    if x.2 < r + 84 ∧ r < x.2 + 84 then x.1.zipWith (fun d m => rnd (d * m.1) 14) (m1 x.2) else x.1.map fun _ => 0
  let cells := ((m1 r).zip (convRow (convPasses s p) 252 r)).drop 84 |>.take 84
  cells.map fun x =>
    let a := x.1.1
    let e1 := a * 4096 * u + e * x.2 * 16384
    let (m, lim2) := multSat s ((a * num * 16384 + e1 / 2) / e1)
    (m.toNat, x.1.2 || lim2)

/-- The density rows that multiplier row `m` needs are complete in all three maps (R144). -/
def State.multReady (s : State) (d : Desc) (m : Nat) : Bool :=
  let n := d.rows / 64
  let a := m - min m 166
  let b := min (n - 1) (m + 167)
  (List.range (b + 1 - a)).all fun i => (List.range 3).all fun r => s.mapHas d r (jobRow d.furrow n (a + i))

/-- Madder computes the m2 row of cell row `m` of the furrow, in ascending order (R144). -/
def multRow (m : Nat) (s : State) : State :=
  match s.head?, s.jobs.run with
  | some d, some _ =>
    let n := d.rows / 64
    if m == s.path.multNext && (alGet s.path.mult m).isSome then
      -- R150: a row the checkpoint holds is not computed again.
      { s with path := { s.path with multNext := m + 1 } }
    else if s.madBypass || decide (n ≤ m) || m != s.path.multNext || !s.multReady d m || !s.islandOpen 12 then s
    else
      let j := jobRow d.furrow n m
      let lo := j - min j 166
      let ((win, ok), s) := windowRows d (min n (j + 167) - lo) lo s
      if !ok then s
      else
        let l := multipliers s win j
        let vs := l.map Prod.fst
        let s := { s with path := { s.path with mult := alSet s.path.mult m vs, multNext := m + 1 } }
        if m < s.path.multMax then s
        else
          let s := { s with path := { s.path with multMax := m + 1 } }
          withCounts (fun c => { c with
            multMin := vs.foldl min c.multMin, multMax := vs.foldl max c.multMax
            multClamped := c.multClamped + (l.filter Prod.snd).length }) s
  | _, _ => s

/-- The smallest lookahead seen during the furrow, at its arming and at every shot (R147). -/
def lookSample (s : State) : State :=
  match s.head? with
  | some d => if s.madBypass then s else withCounts (fun c => { c with minLook := min c.minLook (s.lookahead d) }) s
  | none => s

/-! ### Target dose (R134, R143, R145) -/

/-- The cell rows that pixel row `y` interpolates between (R143). -/
def interpRows (rows y : Nat) : Nat × Nat :=
  let ty : Int := 2 * (y : Int) - 63
  let j0 := ty / 128
  let hi : Int := (rows : Int) / 64 - 1
  ((sat j0 0 hi).toNat, (sat (j0 + 1) 0 hi).toNat)

/-- The interpolated multiplier of pixel (x, y) from the two m2 rows (R143). -/
def interp (r0 r1 : List Nat) (x y : Nat) : Nat :=
  let tx : Int := 2 * (x : Int) - 63
  let i0 := tx / 128
  let fx := tx - 128 * i0
  let ty : Int := 2 * (y : Int) - 63
  let fy := ty - 128 * (ty / 128)
  let i1 := (sat (i0 + 1) 0 83).toNat
  let i0 := (sat i0 0 83).toNat
  (rnd ((128 - fy) * ((128 - fx) * (nth r0 i0 : Int) + fx * (nth r0 i1 : Int)) +
    fy * ((128 - fx) * (nth r1 i0 : Int) + fx * (nth r1 i1 : Int))) 14).toNat

/-- The target dose of a pixel, and CLAMPED (R134). -/
def target (dose cov mm : Nat) : Nat × Bool :=
  let t := (2 * dose * cov * mm + 255 * 16384) / (2 * 255 * 16384)
  (min t 46080, decide (46080 < t))

/-- A field-window entry (R135). -/
def fieldEntry (dose mm r : Nat) : Nat :=
  let (t, c) := target dose (recCov r) mm
  4 * t + 2 * bitOf (recOverlap r) + bitOf c

/-- Harrow's records of pixel row `y`. -/
def State.recRow (s : State) (y : Nat) : List Nat :=
  (List.range 32).flatMap fun a => (((alGet s.path.recs (a + 32 * (y / 64))).getD []).drop (168 * (y % 64))).take 168

/-! ### Capture (R103, R104) -/

/-- The byte of a pixel on a plane. -/
def planeByte (plane r e : Nat) : Byte :=
  BitVec.ofNat 8 (if plane = 0 then recCov r else if plane = 1 then recClass r else if plane = 2 then e / 1024 else e / 4)

/-- The capture header, with COMPLETE (R104). -/
def captureHeader (c : Capture) (complete : Bool) : List Byte :=
  let i := c.info
  let b := wordsLe [0x5A524243, i.job, i.pass <<< 16 + i.furrow, c.plane <<< 30 + c.firstRow, c.tileRows, i.tag,
    bitOf complete] ++ List.replicate 32 0
  b ++ leBytes 4 (crc32c b)

/-- A pixel row reaches the capture, the next it has not written; the header follows the last row (R103, R104). -/
def captureRow (y : Nat) (recs es : List Nat) (s : State) : State :=
  match s.path.capture with
  | some c =>
    if y ≠ 8 * c.firstRow + c.done then s
    else
      let row := (recs.zip es).map fun p => planeByte c.plane p.1 p.2
      let i := y / 8 - c.firstRow
      let s := (List.range 672).foldl (fun s j =>
        engineWrite 34 (c.base + 64 + 64 * (672 * i + j) + 8 * (y % 8)) (sliceBytes row (8 * j) 8) s) s
      let c := { c with done := c.done + 1 }
      if c.done < 8 * c.tileRows then { s with path := { s.path with capture := some c } }
      else
        let s := engineWrite 34 c.base (captureHeader c true) s
        raise 12 ({ s with path := { s.path with capture := none } }.set F.TLT_RB_STATUS_STATE 2)
  | none => s

/-- A furrow that is cancelled leaves its capture ABANDONED, its header with COMPLETE = 0 (R103). -/
def captureAbandon (d : Desc) (s : State) : State :=
  match s.path.capture with
  | some c =>
    if c.info.party = d.party ∧ c.info.ringSeq = d.ringSeq then
      let s := engineWrite 34 c.base (captureHeader c false) s
      raise 12 ({ s with path := { s.path with capture := none } }.set F.TLT_RB_STATUS_STATE 3)
    else s
  | none => s

/-- ENABLE is sampled as a furrow arms (R103). A furrow that arms again after a disarming goes on with the capture it
has. -/
def captureStart (d : Desc) (i : StreamInfo) (s : State) : State :=
  if !s.on F.TLT_RB_CTRL_ENABLE then s
  else
    let s := s.set F.TLT_RB_CTRL_ENABLE 0
    let s := (s.set F.TLT_RB_STATUS_PASS d.pass).set F.TLT_RB_STATUS_FURROW d.furrow
    let rows := max 1 (min 512 (s.f F.TLT_RB_CTRL_TILE_ROWS))
    let first := s.f F.TLT_RB_FIRST_FIRST_TILE_ROW
    let base := 64 * s.rd F.TLT_RB_BUF.off
    if d.rows < 8 * (first + rows) then s.set F.TLT_RB_STATUS_STATE 4
    else if s.meetsLocked base (64 + 43008 * rows) then s.set F.TLT_RB_STATUS_STATE 5
    else
      { s.set F.TLT_RB_STATUS_STATE 1 with path := { s.path with
        capture := some ⟨i, s.f F.TLT_RB_CTRL_PLANE, first, rows, base, 0⟩ } }

end Sys2Proof.Machine
end

