-- ==== Sys2Proof/Machine/Sow.lean ====
section
/-! DEFINITION. The sowing unit and Mordant: beam states, the distribution, codes of a shot, the heat map, checkpoints
captured, and pixel rows converted into the field window (R145, R151–R173, R323). -/

namespace Sys2Proof.Machine

/-! ### The sowing order (R161) -/

/-- ord[w]. -/
def sowOrder (w : Nat) : Nat :=
  12 * nth [0, 2, 1, 3] (w % 4) + nth [0, 6, 3, 9, 1, 7, 4, 10, 2, 8, 5, 11] (w / 4)

/-! ### Beams (R42, R162–R165) -/

/-- The effective state of a beam under a bank: 0 good, 1 excluded, 2 stuck-on (R162). -/
def bankBeamState (l : List (Nat × Nat)) (s : State) (b : Nat) : Nat :=
  let f := fun (w : Nat) => bits w (2 * (b % 16) + 1) (2 * (b % 16))
  let h := f ((alGet s.headPlane (b / 16)).getD 0)
  let u := f (bankGet l (0x1210000 + 4 * (b / 16)))
  if h = 2 ∨ u = 2 then 2 else if h ≠ 0 ∨ u ≠ 0 then 1 else 0

/-- The effective state of a beam (R162). -/
def State.beamState (s : State) (b : Nat) : Nat := bankBeamState s.activeBank s b

/-- The beam-calibration entry of a beam (R163). -/
def beamCal (l : List (Nat × Nat)) (b : Nat) : Nat := bankGet l (0x1000000 + 4 * b)

/-- A signed 4-bit offset, −8 acting as −7 (R163). -/
def offset4 (n : Nat) : Int := max (-7) (signed 4 n)

/-- DX of a beam. -/
def beamDx (l : List (Nat × Nat)) (b : Nat) : Int := offset4 (bits (beamCal l b) 15 12)

/-- The row offset dy of a beam in a furrow (R164). -/
def beamDy (l : List (Nat × Nat)) (rev : Bool) (b : Nat) : Int :=
  let v := offset4 (bits (beamCal l b) 11 8)
  if rev then v else -v

/-- GAIN of a beam, limited to 64–128. -/
def beamGain (l : List (Nat × Nat)) (b : Nat) : Nat := max 64 (min 128 (bits (beamCal l b) 7 0))

/-- The landing column of beam (r, c) (R164). -/
def landing (l : List (Nat × Nat)) (r c : Nat) : Int := 8 * (c : Int) + (r % 8 : Nat) + beamDx l (672 * r + c)

/-- The state of the deliverer of a pixel column in an exposure band, none where it has none (R164). -/
def deliverer (l : List (Nat × Nat)) (s : State) (i x : Nat) : Option Nat :=
  (List.range 8).findSome? fun o => (List.range 4).findSome? fun k =>
    let c := x / 8 + k - 1
    if x / 8 + k = 0 ∨ 672 ≤ c then none
    else
      let r := 8 * i + o
      if landing l r c = x then
        let st := bankBeamState l s (672 * r + c)
        if st ≠ 1 then some st else none
      else none

/-- A beam that is not excluded and has a landing column inside the stripe shares it with another of its band that is
not excluded (R165). -/
def beamConflict (l : List (Nat × Nat)) (s : State) (r c : Nat) : Bool :=
  let x := landing l r c
  bankBeamState l s (672 * r + c) != 1 && decide (0 ≤ x) && decide (x < 5376) &&
    (List.range 8).any fun o => (List.range 4).any fun k =>
      let r' := r / 8 * 8 + o
      let c' := x.toNat / 8 + k - 1
      decide (0 < x.toNat / 8 + k) && decide (c' < 672) && !(r' == r && c' == c) && landing l r' c' == x &&
        bankBeamState l s (672 * r' + c') != 1

/-- Two beams of one band that are not excluded share a landing column inside the stripe (R165). Beams with DX 0 never
meet, so one of the two has a calibration entry of its own. -/
def State.offsetConflict (s : State) : Bool :=
  let l := s.activeBank
  l.any fun e =>
    let b := (e.1 - 0x1000000) / 4
    decide (0x1000000 ≤ e.1) && decide (b < 672 * s.cls.nRow) && beamDx l b != 0 && beamConflict l s (b / 672) (b % 672)

/-! ### The distribution (R166–R169) -/

/-- E_pass of the class (R43). -/
def State.ePass (s : State) : Nat := s.cls.exposures

/-- Exposure `k` of pixel (x, y) under a bank and the feeds of the passes: 0 not usable, 1 usable, 2 stuck (R166). -/
def exposure (l : List (Nat × Nat)) (feeds : List Nat) (s : State) (p : Nat) (x y k : Nat) : Nat :=
  let pk := k / s.ePass
  let xk := (((x : Int) - nth feeds p + nth feeds pk) % 5376).toNat
  match deliverer l s (k % s.ePass) xk with
  | none => 0
  | some 2 => 2
  | some _ =>
    if s.cls = .F then bitOf ((bankGet l (0x1300000 + 64 * (k / 12) + 4 * (y % 16))).testBit (x % 16)) else 1

/-- The quanta pass `pp` would carry of `v` shared over the exposures `a` (R168). -/
def shareOf (ePass : Nat) (a : List Nat) (v pp : Nat) : Nat :=
  ((a.zipIdx.filter fun e => e.1 / ePass == pp).map fun e =>
    v / a.length + bitOf (decide (e.2 < v % a.length))).sum

/-- The largest `v` up to `n` that a test admits. -/
def largest (ok : Nat → Bool) : Nat → Nat
  | 0 => 0
  | n + 1 => if ok (n + 1) then n + 1 else largest ok n

/-- What the distribution of a pixel gives: the codes by exposure number, and its flags and excess (R168, R169). -/
structure Dist where
  codes : List Nat
  excess : Nat
  clamped : Bool
  noExposure : Bool

/-- distribute(x, y) of R168 for a target in Q10.6 quanta, under a bank and the feeds of the passes. The values that
meet every pass's ceiling run from 0 to bmax without a gap (R168), so min(tr, bmax) is the largest of them up to tr.
-/
def distribute (l : List (Nat × Nat)) (feeds : List Nat) (s : State) (p mc cp : Nat) (x y t : Nat) : Dist :=
  let es := (List.range 48).map (exposure l feeds s p x y)
  let tq := (rnd t 6).toNat
  let ns := (es.filter (· == 2)).length
  let tr := tq - 15 * ns
  let a := ((List.range 48).map sowOrder).filter fun k => nth es k == 1
  let n := a.length
  let b := largest (fun v => (List.range s.cls.passes).all fun pp => decide (shareOf s.ePass a v pp ≤ cp)) (min tr (n * mc))
  let codes := (List.range 48).map fun k =>
    match a.findIdx? (· == k) with
    | some w => b / n + bitOf (decide (w < b % n))
    | none => 0
  ⟨codes, 15 * ns - tq, decide (b < tr), n == 0 && decide (0 < tr)⟩

/-! ### Rows into the field window (R135, R145) -/

/-- The first shot not every group has computed. -/
def Run.assembled (r : Run) : Nat := r.computed.foldl min (r.computed.headD 0)

/-- A field-window entry of pixel (x, y); 0 outside what it holds. -/
def State.fieldAt (s : State) (x y : Nat) : Nat := nth ((alGet s.path.field y).getD []) x

/-- Rows no shot can read any more leave the window and the trail buffer (R135, R172). -/
def releaseRows (s : State) : State :=
  match s.jobs.run with
  | none => s
  | some r =>
    let low := r.assembled - (8 * (s.cls.nRow - 1) + 7)
    { s with path := { s.path with field := s.path.field.filter fun e => decide (low ≤ e.1) } }

/-- Pixels of a row by what the distribution marks (R169), under the ceilings in force for the expansion that produces
the row first: a resume that re-expands with older ones reads no such row before it is back at its first unfired shot.
-/
def rowFlags (d : Desc) (r : Run) (y : Nat) (es : List Nat) (s : State) : State :=
  let l := s.activeBank
  let feeds := (List.range s.cls.passes).map s.feed
  let ds := es.zipIdx.map fun e => distribute l feeds s d.pass r.mcIn (r.maxQuanta / s.cls.passes) e.2 y (e.1 / 4)
  withCounts (fun c => { c with
    ceiling := c.ceiling + (ds.filter Dist.clamped).length
    stuck := c.stuck + (ds.filter fun q => decide (0 < q.excess)).length
    noExposure := c.noExposure + (ds.filter Dist.noExposure).length
    excess := c.excess + (ds.map Dist.excess).sum
    targetClamped := c.targetClamped + (es.filter fun e => e.testBit 0).length }) s

/-- 64-bit words a ring row of the field window takes, its 5,376 entries of 18 bits packed one after another. -/
def fwRowWords : Nat := 1512

/-- Where a word of the field window stands among the words of the SRAMs (R303). -/
def fwKey (w : Nat) : Nat := 12 <<< 32 + w

/-- The words of the field window with errors. -/
def State.fwErrs (s : State) : List (Nat × Nat) :=
  s.mem.sramErrs.filterMap fun e => if e.1 >>> 32 = 12 then some (e.1 % 2 ^ 32, e.2) else none

/-- A ring row is written whole: earlier errors in it go, and an armed flip mask corrupts its word (R303, R321). -/
def fwWrite (y : Nat) (s : State) : State :=
  let ring := y % 4096
  let s := { s with mem := { s.mem with
    sramErrs := s.mem.sramErrs.filter fun e => !(e.1 >>> 32 == 12 && e.1 % 2 ^ 32 / fwRowWords == ring) } }
  let w := (s.rd F.MEM_FLIP_ADDR_LO.off + s.f F.MEM_FLIP_ADDR_HI_ADDR_HI <<< 32) / 8
  if s.on F.MEM_FLIP_CTRL_ARMED && s.on F.MEM_FLIP_ADDR_HI_SPACE && w / fwRowWords == ring then
    let mask := s.rd F.MEM_FLIP_DATA_LO.off + s.rd F.MEM_FLIP_DATA_HI.off <<< 32 + s.f F.MEM_FLIP_CTRL_CHECK <<< 64
    { s with mem := { s.mem with
        sramErrs := if mask = 0 then s.mem.sramErrs else alSet s.mem.sramErrs (fwKey w) mask } }.set F.MEM_FLIP_CTRL_ARMED 0
  else s

/-- An uncorrectable word of the field window (R304). -/
def fwBad (w : Nat) (s : State) : State :=
  let s := tallyEcc 0 1 (s.inc F.MEM_SRAM_ECC_UNCORRECTABLE 1)
  let s := (((s.set F.MEM_UE_LAST_LO_ADDR_LO (8 * w)).set F.MEM_UE_LAST_HI_ADDR_HI 0).set F.MEM_UE_LAST_HI_SOURCE 8).set
    F.MEM_UE_LAST_HI_VALID 1
  dueCause 0x14 (raise 9 (event 0x500 ([0xFF, 8, 0, 0] ++ leBytes 8 (8 * w)) s))

/-- The entries of a row with its 64-bit word `j` replaced; entry i is the row's bits 18 i to 18 i + 17. -/
def spliceWord (es : List Nat) (j v : Nat) : List Nat :=
  es.zipIdx.map fun e =>
    if 18 * e.2 < 64 * j + 64 ∧ 64 * j < 18 * e.2 + 18 then
      (List.range 18).foldl (fun a b =>
        let p := 18 * e.2 + b
        if 64 * j ≤ p ∧ p < 64 * j + 64 then withBits a b b (bitOf (v.testBit (p - 64 * j))) else a) e.1
    else e.1

/-- A word with three or more wrong bits is taken for a correctable one: what it then holds is a free value (R302). -/
def fwMiscorrect (w v : Nat) (s : State) : State :=
  { s with
    path := { s.path with field := s.path.field.map fun (e : Nat × List Nat) =>
      if e.1 % 4096 = w / fwRowWords then (e.1, spliceWord e.2 (w % fwRowWords) v) else e }
    mem := { s.mem with sramErrs := alErase s.mem.sramErrs (fwKey w) } }

/-- A corrected word of the field window is counted (R303, R400). -/
def fwFixed (s : State) : State := tallyEcc 1 0 (s.inc F.MEM_SRAM_ECC_CORRECTED 1)

/-- A word of the field window with the error `m` is read: corrected and counted, or uncorrectable (R303, R304); the
patrol also rewrites it. -/
def fwWord (patrol : Bool) (w m : Nat) (s : State) : State :=
  match popCount m 72 with
  | 0 => s
  | 1 =>
    let s := if patrol then { s with mem := { s.mem with sramErrs := alErase s.mem.sramErrs (fwKey w) } } else s
    fwFixed s
  | 2 => fwBad w s
  | _ =>
    let (k, s) := s.fresh
    if Config.freeEccDetected k then fwBad w s
    else fwFixed (fwMiscorrect w (Config.freeEccWord k).toNat s)

/-- The slices read the rows of a shot (R303, R304). -/
def fwRead (shot rows : Nat) (s : State) : State :=
  s.fwErrs.foldl (fun s e =>
    let back := (shot + 4096 - e.1 / fwRowWords) % 4096
    if back ≤ shot ∧ shot - back < rows ∧ back % 8 = 0 ∧ back < 8 * s.cls.nRow then fwWord false e.1 e.2 s else s) s

/-- Madder converts pixel row `y` into the field window, rows in ascending order (R145, R148). -/
def rowConvert (y : Nat) (s : State) : State :=
  match s.head?, s.jobs.run, s.path.cur with
  | some d, some r, some w =>
    let (j0, j1) := interpRows d.rows y
    let m0 := alGet s.path.mult j0
    let m1 := alGet s.path.mult j1
    let free := decide (y < 4096) || decide (y - 4096 + 8 * (s.cls.nRow - 1) < r.assembled)
    if y ≠ s.path.fieldNext ∨ d.rows ≤ y ∨ s.harrowRows ≤ y ∨ !free ∨ !s.islandOpen 12 ∨
        (!s.madBypass ∧ (m0.isNone ∨ m1.isNone)) then s
    else
      let recs := s.recRow y
      let es := recs.zipIdx.map fun e =>
        let mm := if s.madBypass then 16384 else interp (m0.getD []) (m1.getD []) e.2 y
        fieldEntry (nth w.info.doses (recClass e.1) % 65536) mm e.1
      let s := { s with path := { s.path with
        field := alSet s.path.field y es, fieldNext := y + 1
        recs := if y % 64 = 63 then s.path.recs.filter fun e => decide (e.1 / 32 ≠ y / 64) else s.path.recs } }
      let s := fwWrite y s
      if y < s.path.fieldMax then s
      else
        let s := { s with path := { s.path with fieldMax := y + 1 } }
        captureRow y recs es (rowFlags d r y es s)
  | _, _, _ => s

/-! ### Mordant (R151–R155) -/

/-- ENABLE, SHIFT and DECAY of the active bank (R154). -/
def State.mordantOn (s : State) : Bool := s.actF 0x1320100 31 31 == 1
def State.decay (s : State) : Nat := s.actF 0x1320100 15 0

/-- tbl[i], limited to 64–128. -/
def State.factorTbl (s : State) (i : Nat) : Nat := max 64 (min 128 (s.actF (0x1320000 + 4 * i) 7 0))

/-- The factor of the heat cell of beam column `c` and pixel row `y` at the shot being computed (R152). -/
def State.heatFactor (s : State) (c y : Nat) : Nat :=
  if !s.mordantOn then 128
  else
    let h := (rnd (((alGet s.path.heat (672 * (y / 8) + c)).getD 0 : Nat) * (s.decay : Int)) 16).toNat
    s.factorTbl (min 63 (h >>> s.actF 0x1320100 20 16))

/-- The update of every cell for a shot all groups have computed: decay, growth, and rows leaving (R151, R152). -/
def heatUpdate (shot last : Nat) (s : State) : State :=
  if !s.mordantOn then { s with path := { s.path with heatAdd := [], heatMax := max s.path.heatMax (shot + 1) } }
  else
    let keys := s.path.heatAdd.foldl (fun l a => setInsert l a.1) (s.path.heat.map Prod.fst)
    let span := 8 * (s.cls.nRow - 1)
    let new := keys.map fun k =>
      let h := (rnd (((alGet s.path.heat k).getD 0 : Nat) * (s.decay : Int)) 16).toNat
      (k, min (2 ^ 24 - 1) (h + 256 * (alGet s.path.heatAdd k).getD 0))
    let yLast := fun (k : Nat) => 8 * (k / 672) + 7
    let foot := (new.filter fun e => decide (shot ≤ yLast e.1 + span)).map Prod.snd
    let gone := (new.filter fun e => decide (yLast e.1 + span + 1024 ≤ shot) || shot == last).map Prod.snd
    let first := decide (s.path.heatMax ≤ shot)
    let s := { s with path := { s.path with
      heat := new.filter fun e => e.2 != 0 && decide (shot < yLast e.1 + span + 1024)
      heatAdd := [], heatMax := max s.path.heatMax (shot + 1) } }
    if first then withCounts (fun c => { c with peak := foot.foldl max c.peak, trailPeak := gone.foldl max c.trailPeak }) s
    else s

/-- A_N of R155. -/
def decayN (a : Nat) : Nat → Nat
  | 0 => 65536
  | 1 => a
  | n + 1 => (rnd ((decayN a n : Int) * a) 16).toNat

/-- The decay of a pause applied to every cell (R155). -/
def pauseHeat (reset : Bool) (n : Nat) (s : State) : State :=
  if reset then { s with path := { s.path with heat := [] } }
  else if n = 0 then s
  else
    let a := decayN s.decay n
    { s with path := { s.path with
      heat := (s.path.heat.map fun e => (e.1, (rnd ((e.2 : Int) * a) 16).toNat)).filter fun e => e.2 != 0 } }

/-! ### Codes of a shot (R170–R174) -/

/-- The lead order of a row (R53). -/
def State.leadOrder (s : State) (rev : Bool) (r : Nat) : Nat := if rev then s.cls.nRow - 1 - r else r

/-- A beam's code at a shot, under the active bank `l` and the feeds of the passes: the code, the intended quanta
where they are not the code placed in the frame, whether Mordant lowered it, and whether the exposure is DISPLACED_OUT
(R153, R170). -/
def State.beamCode (s : State) (l : List (Nat × Nat)) (feeds : List Nat) (d : Desc) (mc cp : Nat) (r c shot : Nat) :
    Nat × Option Nat × Bool × Bool :=
  let b := 672 * r + c
  let y : Int := (shot : Int) - 8 * (s.leadOrder d.reverse r : Int)
  let inY := decide (0 ≤ y) && decide (y < d.rows)
  match bankBeamState l s b with
  | 1 => (0, some 0, false, false)
  | 2 => (0, some (if inY then 15 else 0), false, false)
  | _ =>
    let x2 := landing l r c
    let y2 := y + beamDy l d.reverse b
    let out := !(decide (0 ≤ x2) && decide (x2 < 5376) && decide (0 ≤ y2) && decide (y2 < d.rows))
    let k := d.pass * s.ePass + r / 8
    let t := if out then 0 else s.fieldAt x2.toNat y2.toNat / 4
    -- A pixel with no target has no code.
    let c0 := if t = 0 then 0 else nth (distribute l feeds s d.pass mc cp x2.toNat y2.toNat t).codes k
    let f := if inY && c0 != 0 then s.heatFactor c y.toNat else 128
    let code2 := (c0 * f + 64) / 128
    let code3 := (code2 * beamGain l b + 64) / 128
    (code3, if inY then none else some 0, decide (code2 < c0), inY && out)

/-- The codes of the eight lanes of a group at a shot (R170, R174). -/
def State.shotCodes (s : State) (d : Desc) (mc cp g shot : Nat) : List (List (Nat × Option Nat × Bool × Bool)) :=
  let l := s.activeBank
  let feeds := (List.range s.cls.passes).map s.feed
  (List.range 8).map fun i => (List.range 1344).map fun j =>
    s.beamCode l feeds d mc cp (16 * g + 2 * i + j / 672) (j % 672) shot

/-- A code corrupted by a failing slice: its lane, its index and its value. -/
structure BadCode where
  lane : Nat
  index : Nat
  code : Nat

/-- CRC-32C running over bytes, from a running value without the final XOR. -/
def crcRun (c : Nat) (l : List Byte) : Nat := l.foldl (crcByteR 0x82F63B78) c

/-- The slot a new checkpoint is written into: an empty one, and else that of the oldest kept checkpoint that is neither
pinned nor the latest (R325; log entry 85). -/
def freeSlot (kept : List Checkpoint) : Nat :=
  match (List.range 64).find? fun n => !(kept.any fun e => e.slot == n) with
  | some n => n
  | none => ((kept.dropLast.find? fun e => !e.pinned).map Checkpoint.slot).getD 0

/-- The checkpoint of shot `c` is captured as the slices begin its frames (R102, R150, R157, R323). -/
def captureCheckpoint (c : Nat) (r : Run) (s : State) : State :=
  match s.path.cur with
  | none => s
  | some w =>
    let y0 := c - (8 * (s.cls.nRow - 1) + 7)
    let k := y0 / 64
    let ls := w.lines.filter fun l => l.1 + 1 == k
    let d? := s.head?
    let maps := (List.range 3).map fun (m : Nat) =>
      let x := s.path.maps.getD m ⟨none, []⟩
      match d? with
      | some d =>
        let role := ((List.range 3).find? fun r => !d.mapZero r && x.ident == some (d.mapIdent r)).getD 3
        (role, decide (role ≠ 3) && x.valid (d.mapIdent role) d.rows)
      | none => (3, false)
    let back := decide (16 < ls.length)
    let i := 2 ^ w.info.restart
    let slot := freeSlot s.jobs.ckpts
    let ck : Checkpoint := {
      shot := c, slot, pinned := false, unfired := r.sf, mc := r.mc, cp := r.cp
      groupMap := (List.range 24).map s.sliceOf
      tableSet := s.rd F.JOB_TABLE_SET_ACTIVE.off
      heat := s.path.heat
      decSeg := if back then k / i * i else k
      lines := if back then [] else ls.map Prod.snd
      mult := s.path.mult.filter fun e => decide (k ≤ e.1) && decide (e.1 ≤ k + 18)
      maps
      nextRows := match d? with | some d => s.nextRows d | none => 0 }
    let s := setRun { r with captured := c } s
    { s with
      jobs := { s.jobs with writing := some ck, ckpts := s.jobs.ckpts.filter fun e => e.slot != slot }
      mem := { s.mem with notice := true, ckptWaiting := !s.mem.burst.isEmpty } }

/-- The pause account of a resume as re-expansion reaches its first unfired shot (R155, R330). -/
def accountResume (shot : Nat) (r : Run) (s : State) : Run × State :=
  let pause := (s.now : Int) - r.pauseFrom
  let lost := r.flags.testBit 8 && r.resumeTable.isEmpty
  let reset := lost || !(decide (0 ≤ pause) && decide (pause < 1000000))
  let n := if reset then 0 else (64 * pause.toNat) / max 1 (s.f F.SHT_SHOT_RATE_T_SHOT)
  let r := { r with mc := r.mcIn, cp := r.maxQuanta / s.cls.passes }
  let row : ResumeRow := ⟨shot, reset, n, r.mc, r.cp⟩
  let r := { r with
    resumeTable := r.resumeTable ++ [row], resumeDue := false, resumes := r.resumes + 1, flags := r.flags ||| 1 }
  let base := s.addr F.JOB_REPAIR_BASE_LO.off F.JOB_REPAIR_BASE_HI.off
  let words := [shot, bitOf reset <<< 31 + n, r.cp <<< 16 + r.mc, 0]
  let s := engineWrite 10 (base + 16 * (r.resumeTable.length - 1)) (wordsLe words) s
  let s := event 0x101 (s.jpf ++ leBytes 4 shot ++ [BitVec.ofNat 8 (bitOf reset), BitVec.ofNat 8 r.mc] ++
    leBytes 2 n ++ leBytes 2 r.cp ++ [0, 0]) s
  (r, withCounts (fun c => { c with pauseReset := reset, pauseN := n }) (pauseHeat reset n s))

/-- What happens once as the expansion reaches a shot: the switches and the capture of a checkpoint, which holds the
state before any pause decay, and then this resume's account, or what the latest earlier resume at this shot applied
(R155, R157, R178, R323, R330). -/
def reachShot (shot : Nat) (s : State) : State :=
  match s.jobs.run with
  | none => s
  | some r =>
    let s := if 0 < shot ∧ shot % 4096 = 0 then
        let s := applySliceSwaps (fun w => decide (w.atShot ≤ shot)) s
        if r.captured < shot then captureCheckpoint shot r s else s
      else s
    match s.jobs.run with
    | none => s
    | some r =>
      let (r, s) := if r.resumeDue ∧ shot = r.sf ∧ !r.trav then accountResume shot r s
        else match (r.resumeTable.filter fun e => e.shot == shot).getLast? with
          | some e => ({ r with mc := e.mc, cp := e.cp }, pauseHeat e.reset e.n s)
          | none => (r, s)
      setRun r s

/-- The audit of a group's shot: the live slice's payloads and the auditor's own (R176, R177). -/
def sowAuditShot (g shot nShot : Nat) (live aud : List Byte) (s : State) : State :=
  match s.path.sowAudit with
  | none => s
  | some u =>
    if u.group ≠ g ∨ u.testing then s
    else
      let u := if u.unit.isNone ∧ shot % 4096 = 0 ∧ u.notBefore ≤ shot then
          { u with unit := some shot, live := 0xFFFFFFFF, aud := 0xFFFFFFFF } else u
      match u.unit with
      | none => s
      | some first =>
        let u := { u with live := crcRun u.live live, aud := crcRun u.aud aud }
        let s := auditState true 1 ({ s with path := { s.path with sowAudit := some u } }.set F.SOW_AUDIT_STATUS_GROUP g)
        if shot + 1 < min (first + 4096) nShot then s
        else if u.live = u.aud then
          let s := s.inc (F.SOW_Snn_AUDITS_PASSED (s.sliceOf g)) 1
          let n := (g + 1) % s.cls.groups
          let s := match s.auditor? sliceBase with | some t => auditPlace sliceBase t n s | none => s
          auditState true 0 { s with path := { s.path with
            sowNext := n, sowAudit := some ⟨n, none, shot + 1 + s.auditWait, 0, 0, false⟩ } }
        else
          let live := s.sliceOf g
          let aud := (s.auditor? sliceBase).getD 0
          let (p, n) := match s.head? with | some d => (d.pass, d.furrow) | none => (0, 0)
          let s := s.wr F.SOW_MISMATCH_0.off (live <<< 16 + aud <<< 8 + g)
          let s := s.wr F.SOW_MISMATCH_1.off (p <<< 16 + n)
          let s := s.wr F.SOW_MISMATCH_2.off first
          let s := raise 8 (event 0x205
            (wordsLe [s.rd F.SOW_MISMATCH_0.off, s.rd F.SOW_MISMATCH_1.off, s.rd F.SOW_MISMATCH_2.off]) s)
          auditState true 4 { s with path := { s.path with sowAudit := some { u with testing := true } } }

/-- The auditor's self-test after a mismatch ends (R177). -/
def sowSelfTest (pass : Bool) (s : State) : State :=
  match s.path.sowAudit with
  | none => s
  | some u =>
    if !u.testing then s
    else
      let aud := (s.auditor? sliceBase).getD 25
      let live := s.sliceOf u.group
      let s := { s with path := { s.path with sowNext := (u.group + 1) % s.cls.groups } }
      let s := auditState true 0 (s.set F.SOW_MISMATCH_0_OUTCOME (if pass then 2 else 1))
      if pass then fillSliceAuditor (retireSlice live 0 (.named aud) s).2
      else fillSliceAuditor (retireSlice aud 0 .spare s).2

/-- A held furrow makes its pending slice switches at once: no frame is being assembled (R179, R339). -/
def settleSwaps (s : State) : State :=
  match s.jobs.run with
  | some r => if r.phase = .held then applySliceSwaps anySwap s else s
  | none => s

/-- Codes above the ceiling leave slice `t` of a group: each is counted and recorded, and the slice is retired (R173,
R179). -/
def guardTrip (g t shot : Nat) (codes : List Nat) (s : State) : State :=
  if codes.isEmpty then s
  else
    let s := codes.foldl (fun s c =>
      event 0x207 ([BitVec.ofNat 8 t, BitVec.ofNat 8 g, BitVec.ofNat 8 c, 0] ++ leBytes 4 shot)
        (s.inc F.SOW_GUARD_TRIPS_COUNT 1)) s
    settleSwaps (dueCause 0x16 (retireSlice t 3 .spare s).2)

/-- The payloads of shots already triggered join a group's signature in order (R282). -/
def sigShots (g : Nat) : Nat → State → State
  | 0, s => s
  | n + 1, s =>
    match s.jobs.run with
    | none => s
    | some r =>
      let (c, f) := r.sig.getD g (0, 0)
      match alGet s.path.pay (g + 32 * f) with
      | some p =>
        if f < r.sf ∧ !r.trav then
          sigShots g n { setRun { r with sig := r.sig.set g (crcRun c p.flatten, f + 1) } s with
            path := { s.path with pay := alErase s.path.pay (g + 32 * f) } }
        else s
      | none => s

/-- The signature of a group takes what it can. -/
def sigAdvance (g : Nat) (s : State) : State := sigShots g 70 s

/-- A slice may compute a shot: every group has computed those before it, the field window holds what it reads, and it
is not more than 64 shots ahead of the firing (R54, R146, R152, R160, R172). -/
def State.mayCompute (s : State) (d : Desc) (r : Run) (shot : Nat) : Bool :=
  decide (shot ≤ r.assembled) && decide (shot ≤ r.segLast) && decide (shot ≤ r.sf + 64) &&
    decide (min d.rows (shot + 8) ≤ s.path.fieldNext) &&
    (r.phase == .armed || r.phase == .writing || r.phase == .traverse)

/-- The slice of group `g` computes and hands over the payloads of its next shot (R160, R170, R174). `bad` lists the
codes a failing slice gets wrong. -/
def sowShot (g : Nat) (bad : List BadCode) (s : State) : State :=
  match s.head?, s.jobs.run with
  | some d, some r =>
    let shot := r.computed.getD g 0
    if s.cls.groups ≤ g ∨ !s.mayCompute d r shot ∨ !s.islandOpen (64 + s.sliceOf g) ∨ !s.islandOpen 13 then s
    else
      let s := if r.computed.all fun n => decide (n = shot) then fwRead shot d.rows (reachShot shot s) else s
      let s := applySliceSwaps (fun w => w.place == g && decide (w.atShot ≤ shot)) s
      match s.jobs.run with
      | none => s
      | some r =>
        let first := decide (s.path.heatMax ≤ shot)
        let all := s.shotCodes d r.mc r.cp g shot
        let clean := all.map fun l => l.map fun q => q.1
        let sent := bad.foldl (fun ls b => ls.set b.lane ((ls.getD b.lane []).set b.index b.code)) clean
        let trips := (sent.flatten).filter fun c => decide (r.mc < c)
        let sent := sent.map fun l => l.map fun c => if r.mc < c then 0 else c
        let pay := sent.map planes
        let adds := (all.zipIdx).flatMap fun l => (l.1.zipIdx).filterMap fun q =>
          let row := 16 * g + 2 * l.2 + q.2 / 672
          let y := shot - 8 * s.leadOrder d.reverse row
          let quanta := q.1.2.1.getD (nth (sent.getD l.2 []) q.2)
          if quanta = 0 then none else some (672 * (y / 8) + q.2 % 672, quanta)
        let s := { s with path := { s.path with
          heatAdd := adds.foldl (fun m a => alSet m a.1 a.2) s.path.heatAdd } }
        let s := if first then
            withCounts (fun c => { c with
              scaled := c.scaled + (all.flatten.filter fun q => q.2.2.1).length
              displaced := c.displaced + (all.flatten.filter fun q => q.2.2.2).length }) s
          else s
        let behind := decide (shot < r.firstSend) && !r.trav
        let sig := if behind && (r.sig.getD g (0, 0)).2 == shot then
            r.sig.set g (crcRun (r.sig.getD g (0, 0)).1 pay.flatten, shot + 1) else r.sig
        let r := { r with computed := r.computed.set g (shot + 1), sig := sig }
        let s := setRun r s
        let s := if r.firstSend ≤ shot then
            { s with path := { s.path with pay := alSet s.path.pay (g + 32 * shot) pay } } else s
        let s := if first && !r.trav then
            sowAuditShot g shot r.nShot pay.flatten (clean.map planes).flatten s else s
        let s := sigAdvance g s
        let s := guardTrip g (s.sliceOf g) shot trips s
        if r.computed.all fun n => decide (shot < n) then releaseRows (heatUpdate shot (r.nShot - 1) s) else s
  | _, _ => s

end Sys2Proof.Machine
end

