-- ==== Sys2Proof/Machine/Repair.lean ====
section
/-! DEFINITION. The repair list: missed-exposure entries, the overflow buffer, pinned checkpoints and repair runs
(R206, R325, R331, R332, R335). -/

namespace Sys2Proof.Machine

/-- The four words of an entry (R206). -/
def entryWords (pass furrow : Nat) (e : RepairEntry) : List Nat :=
  [pass <<< 16 + furrow, e.first, e.count, e.cause <<< 29 + e.group <<< 24 + e.lanes <<< 8 + bitOf e.void]

/-- An entry as its words spell it. -/
def parseEntry (b : List Byte) : RepairEntry :=
  let w3 := leAt b 12 4
  ⟨w3.testBit 0, bits w3 31 29, bits w3 28 24, bits (leAt b 4 4) 25 0, bits (leAt b 8 4) 25 0, bits w3 15 8⟩

/-- The list's capacity in entries (JOB_REPAIR_CFG). -/
def State.repairCap (s : State) : Nat := 1024 * max 1 (s.f F.JOB_REPAIR_CFG_CAPACITY)

/-- The address of an entry of the list, which follows the resume table (R331). -/
def State.entryAddr (s : State) (i : Nat) : Nat :=
  s.addr F.JOB_REPAIR_BASE_LO.off F.JOB_REPAIR_BASE_HI.off + 65536 + 16 * i

/-- Pass and furrow of the head. -/
def State.headPf (s : State) : Nat × Nat := match s.head? with | some d => (d.pass, d.furrow) | none => (0, 0)

/-- JOB_REPAIR_STATUS and JOB_CKPT_STATUS follow the list and the checkpoints. -/
def showRepair (s : State) : State :=
  let s := s.set F.JOB_REPAIR_STATUS_ENTRIES s.jobs.repair.length
  let s := s.set F.JOB_CKPT_STATUS_PINNED (s.jobs.ckpts.filter Checkpoint.pinned).length
  s.set F.JOB_CKPT_STATUS_LAST_SHOT (match s.jobs.ckpts.getLast? with | some c => c.shot | none => 0)

/-- An entry is lost (R331). -/
def entryLost (e : RepairEntry) (s : State) : State :=
  let (p, n) := s.headPf
  let s := event 0x103 (s.jpf ++ wordsLe (entryWords p n e)) s
  match s.jobs.run with
  | some r => setRun { r with lost := r.lost + 1 } s
  | none => s

/-- The latest kept checkpoint at or before an entry's first shot is pinned, up to 62 (R325). -/
def pinFor (shot : Nat) (s : State) : State :=
  let low := s.jobs.ckpts.filter fun c => decide (c.shot ≤ shot)
  match low.getLast? with
  | none => s
  | some c =>
    if c.pinned ∨ 62 ≤ (s.jobs.ckpts.filter Checkpoint.pinned).length then s
    else { s with jobs := { s.jobs with ckpts := s.jobs.ckpts.map fun e =>
      if e.shot = c.shot then { e with pinned := true } else e } }

/-- An entry is appended in the order it is resolved (R331); within a traverse it waits for the next round (R335). -/
def addEntry (e : RepairEntry) (s : State) : State :=
  match s.jobs.run with
  | none => s
  | some r =>
    let s := tallyEntry false (if r.trav then s else setRun { r with entries := r.entries + 1 } s)
    let (p, n) := s.headPf
    if r.trav then
      match s.jobs.run with
      | some r => setRun { r with nextRound := r.nextRound ++ [e] } s
      | none => s
    else
      let i := s.jobs.repair.length
      let s := pinFor e.first s
      if i < s.repairCap ∧ s.jobs.overflow.isEmpty then
        let s := engineWrite 10 (s.entryAddr i) (wordsLe (entryWords p n e)) s
        showRepair { s with jobs := { s.jobs with repair := s.jobs.repair ++ [e] } }
      else
        let s := if s.jobs.overflow.length < 4096 then
            { s with jobs := { s.jobs with overflow := s.jobs.overflow ++ [e] } }
          else entryLost e s
        dueCause 0x18 (showRepair s)

/-- An entry for one shot of a group. -/
def shotEntry (cause g shot lanes : Nat) : RepairEntry := ⟨false, cause, g, shot, 1, lanes⟩

/-- The DEADLINE entry of a shot the head reports fired is marked VOID (R205). -/
def voidEntry (g shot : Nat) (s : State) : State :=
  let hit := fun (e : RepairEntry) => e.group == g && e.first == shot && e.cause == 0 && !e.void
  let v := fun (l : List RepairEntry) => l.map fun e => if hit e then { e with void := true } else e
  if (s.jobs.repair ++ s.jobs.overflow).any hit || (match s.jobs.run with | some r => r.nextRound.any hit | none => false) then
    let s := tallyEntry true (s.inc (F.DRL_Gnn_MISSES_VOIDED g) 1)
    let (p, n) := s.headPf
    let s := (s.jobs.repair.zipIdx.filter fun e => hit e.1).foldl (fun s e =>
      engineWrite 10 (s.entryAddr e.2) (wordsLe (entryWords p n { e.1 with void := true })) s) s
    let s := { s with jobs := { s.jobs with repair := v s.jobs.repair, overflow := v s.jobs.overflow } }
    match s.jobs.run with
    | some r => setRun { r with nextRound := v r.nextRound, entries := if r.trav then r.entries else r.entries - 1 } s
    | none => s
  else s

/-- The list read back for a traverse: entries that read uncorrectable are lost (R304, R331). -/
def readEntries : Nat → Nat → List RepairEntry → State → List RepairEntry × State
  | 0, _, _, s => ([], s)
  | _ + 1, _, [], s => ([], s)
  | n + 1, i, e :: t, s =>
    let ((b, ok), s) := memRead 10 (s.entryAddr i) 16 s
    if ok then
      let (r, s) := readEntries n (i + 1) t s
      (parseEntry b :: r, s)
    else readEntries n (i + 1) t (entryLost e s)

/-- Entries in order of their first shot. -/
def entryInsert : List RepairEntry → RepairEntry → List RepairEntry
  | [], e => [e]
  | f :: t, e => if e.first < f.first then e :: f :: t else f :: entryInsert t e

/-- Repair runs of sorted entries, with the merge gap in shots (R332). -/
def repairRuns (gap : Nat) : List RepairRun → List RepairEntry → List RepairRun
  | runs, [] => runs.reverse
  | [], e :: t => repairRuns gap [⟨e.first, e.first + e.count - 1⟩] t
  | r :: rs, e :: t =>
    if e.first ≤ r.last + gap then repairRuns gap (⟨r.first, max r.last (e.first + e.count - 1)⟩ :: rs) t
    else repairRuns gap (⟨e.first, e.first + e.count - 1⟩ :: r :: rs) t

/-- The runs of a round. -/
def State.runsOf (s : State) (l : List RepairEntry) : List RepairRun :=
  repairRuns (4096 * s.f F.JOB_REPAIR_CFG_MERGE) [] ((l.filter fun e => !e.void).foldl entryInsert [])

/-- An entry not marked VOID covers (g, shot) in the present round. -/
def State.covered (s : State) (g shot : Nat) : Bool :=
  s.jobs.repair.any fun e => !e.void && e.group == g && decide (e.first ≤ shot) && decide (shot < e.first + e.count)

/-- ROUNDS, 0 acting as 1 and values above 4 as 4. -/
def State.maxRounds (s : State) : Nat := max 1 (min 4 (s.f F.JOB_REPAIR_CFG_ROUNDS))

end Sys2Proof.Machine
end

