-- ==== Sys2Proof/Machine/Link.lean ====
section
/-! DEFINITION. The Drill Link's sending side: frames as bits, lanes and their order of sending, commands, lost lanes,
sparing, fallow groups, training and adaptation, and the reads of the head's memory as they are sent (R182–R217). -/

namespace Sys2Proof.Machine

/-! ### Frames as bits (R185–R189) -/

/-- `w` bits of a number, the most significant first. -/
def msbBits (w n : Nat) : List Bool := (List.range w).map fun i => n.testBit (w - 1 - i)

/-- The scrambler's seed (R187). -/
def linkSeed (g l alive : Nat) : Nat := 2 ^ 22 + g * 2 ^ 17 + l * 2 ^ 13 + 0x15 * 2 ^ 8 + alive

/-- Bits scrambled from scrambler state `x` (R187). -/
def scramble : Nat → List Bool → List Bool
  | _, [] => []
  | x, d :: t =>
    let o := x.testBit 22 != x.testBit 17
    (d != o) :: scramble ((2 * x + bitOf o) % 2 ^ 23) t

/-- Bits with a complement after every run of 24 identical ones (R186). -/
def stuff : Nat → Bool → List Bool → List Bool
  | _, _, [] => []
  | run, prev, d :: t =>
    let r := if 0 < run ∧ d = prev then run + 1 else 1
    if r = 24 then d :: (!d) :: stuff 0 d t else d :: stuff r d t

/-- A frame header (R189). -/
def frameHeader (typ alive low : Nat) (retry final repair spare : Bool) : Nat :=
  typ <<< 28 + alive <<< 20 + (low % 65536) <<< 4 + bitOf retry <<< 3 + bitOf final <<< 2 + bitOf repair <<< 1 + bitOf spare

/-- A frame's CRC (R188). -/
def frameCrc (h : Nat) (pay : List Byte) : Nat := crc32c (leBytes 4 h ++ pay)

/-- The 5,440 frame bits in send order, scrambled for lane `l` of group `g` (R185, R187). -/
def frameBits (g l alive h : Nat) (pay : List Byte) : List Bool :=
  msbBits 32 h ++ scramble (linkSeed g l alive) (unpackBits pay ++ msbBits 32 (frameCrc h pay))

/-- `n` idle bits: 1, 0, 1, 0 and so on (R185). -/
def idleBits (n : Nat) : List Bool := (List.range n).map fun i => i % 2 == 0

/-- The idle bits shown at a time: the fewest that separate a frame from the next marker (R185). How many more a lane
sends before its next frame is timing (log entry 74). -/
def minGap : Nat := 8

/-- What a lane sends for a frame: marker, stuff bit, stuffed frame (R185, R186). -/
def lineBits (g l alive h : Nat) (pay : List Byte) : List Bool :=
  msbBits 32 0xAA000000 ++ true :: stuff 0 false (frameBits g l alive h pay)

/-! ### Groups and lanes -/

/-- A lane that has sent nothing. -/
def Lane.idle : Lane := ⟨0, [], [], 0⟩

/-- A group's link as step 1 of its training leaves it. -/
def Group.idle : Group :=
  { phase := 0, tries := 0, slips := 0, lanes := List.replicate 9 Lane.idle, rings := List.replicate 8 []
    sentTo := List.replicate 8 0, cmds := [], cmdSeq := 0, runCmd := none, start := 0, adapt := [], tag := 0
    resolved := [], status := none, training := [], bkLost := false, lastLead := 0 }

/-- A group's link as its next training begins with it: the alive counters go on (R192), and what the group resolved and
reported stays. -/
def Group.afresh (x : Group) : Group :=
  { Group.idle with lanes := x.lanes.map fun l => { Lane.idle with alive := l.alive }
                    status := x.status, resolved := x.resolved, lastLead := x.lastLead }

/-- A group's link. -/
def State.grp (s : State) (g : Nat) : Group := (alGet s.link g).getD Group.idle

/-- A group's link replaced. -/
def setGrp (g : Nat) (x : Group) (s : State) : State := { s with link := alSet s.link g x }

/-- A physical lane. -/
def Group.lane (x : Group) (p : Nat) : Lane := x.lanes.getD p Lane.idle

/-- A physical lane replaced. -/
def Group.setLane (x : Group) (p : Nat) (l : Lane) : Group := { x with lanes := x.lanes.set p l }

/-- A logical lane's ring. -/
def Group.ring (x : Group) (l : Nat) : List RingFrame := x.rings.getD l []

/-- Lane `p` is locked. -/
def State.laneLocked (s : State) (g p : Nat) : Bool := (s.f (F.DRL_Gnn_STATUS_LOCKED g)).testBit p

/-- Lane `p` is out of service (R211). -/
def State.laneOut (s : State) (g p : Nat) : Bool := (s.f (F.DRL_Gnn_STATUS_OUT g)).testBit p

/-- The logical lane L8 carries, 15 for none. -/
def State.l8 (s : State) (g : Nat) : Nat := s.f (F.DRL_Gnn_STATUS_L8_CARRIES g)

/-- The logical lane a physical lane carries, 15 for none (R61). -/
def State.logical (s : State) (g p : Nat) : Nat :=
  if p = 8 then s.l8 g else if s.l8 g = p then 15 else p

/-- The physical lane that carries a logical lane. -/
def State.carrier (s : State) (g l : Nat) : Nat := if s.l8 g = l then 8 else l

/-- The command lane (R193). -/
def State.commandLane (s : State) (g : Nat) : Nat :=
  if s.l8 g = 15 ∧ s.laneLocked g 8 ∧ !s.laneOut g 8 then 8 else s.carrier g 0

/-- FNC_TX_ENABLE lets the group drive its lanes (R358). -/
def State.txEnabled (s : State) (g : Nat) : Bool := (s.rd F.FNC_TX_ENABLE.off).testBit g

/-- The group's link can act: bonded, its island open and its lanes enabled. -/
def State.linkUp (s : State) (g : Nat) : Bool := decide (g < s.cls.groups) && s.islandOpen (96 + g) && s.txEnabled g

/-! ### The end of a start (R430, R432) -/

/-- FNC_STATUS.HW_MODE: service mode holds from READY on a user image while the TAP is quiet (R363). -/
def showMode' (s : State) : State :=
  s.set F.FNC_STATUS_HW_MODE (bitOf (s.f F.GLB_BOOT_STATUS_STATE != 2 || s.pins.jtagBusy))

/-- STATE and STEP of GLB_BOOT_STATUS. -/
def bootAt (state step : Nat) (s : State) : State :=
  (s.set F.GLB_BOOT_STATUS_STATE state).set F.GLB_BOOT_STATUS_STEP step

/-- Step 10: the last items complete, and the start ends at READY or FACTORY (R430, R432, R433, R436). The block keeps
no clock of a start: GLB_BOOT_TIME is a free value (log entry 83). -/
def bootStep10 (s : State) : State :=
  let s := calBootItem 6 (calBootItem 5 (calBootItem 3 (calBootItem 2 s)))
  let (k, s) := s.fresh
  let s := (bootAt (if s.f F.NVL_STATUS_ACTIVE = 2 then 3 else 2) 10 s).wr F.GLB_BOOT_TIME.off (Config.bootTime k).toNat
  showMode' s

/-- Step 9 of a start ends once no released group trains any more (R430). -/
def bootLinks (s : State) : State :=
  if s.f F.GLB_BOOT_STATUS_STATE = 1 ∧ s.f F.GLB_BOOT_STATUS_STEP = 9 ∧ s.groups.all (fun g => s.groupState g != 1) then
    bootStep10 s
  else s

/-- STATE of a group; each change raises the LINK vector (R294). -/
def linkState (g st : Nat) (s : State) : State :=
  if s.groupState g = st then s else bootLinks (raise 7 (s.set (F.DRL_Gnn_STATUS_STATE g) st))

/-- The last shot triggered in the present run, none before its first trigger (R200). -/
def Run.last? (r : Run) : Option Nat := if r.fired then some (r.sf - 1) else none

/-! ### Commands (R193–R196) -/

/-- A command block (R196), padded to the payload. -/
def cmdBlock (l : List Byte) : List Byte := sliceBytes l 0 672

/-- A command joins a group's queue with the next sequence number. -/
def queueCmd (g : Nat) (map : Option Nat) (l : List Byte) (s : State) : State :=
  let x := s.grp g
  setGrp g { x with
    cmds := x.cmds ++ [⟨x.cmdSeq, map, cmdBlock l, 0, true, none⟩], cmdSeq := (x.cmdSeq + 1) % 65536 } s

/-- FURROW_START or RESUME_AT: the run's frames wait for its acknowledgement (R200). -/
def queueRunCmd (g : Nat) (l : List Byte) (s : State) : State :=
  let q := (s.grp g).cmdSeq
  let s := queueCmd g none l s
  setGrp g { s.grp g with runCmd := some q } s

/-- The command block of FURROW_START. -/
def furrowStartCmd (d : Desc) (nShot tq : Nat) (repair : Bool) : List Byte :=
  [1, 0, 0, 0] ++ leBytes 4 d.job ++ leBytes 2 d.furrow ++ leBytes 1 d.pass ++
    leBytes 1 (bitOf d.reverse + 2 * bitOf repair) ++ leBytes 4 nShot ++ leBytes 2 tq

/-- The command block of RESUME_AT. -/
def resumeAtCmd (shot : Nat) : List Byte := [2, 0, 0, 0] ++ leBytes 4 shot

/-- The command block of SPARE_MAP. -/
def spareMapCmd (l : Nat) : List Byte := [3, 0, 0, 0] ++ leBytes 1 l

/-- The command block of FOM_REQUEST. -/
def fomCmd (lane tag frames : Nat) : List Byte := [4, 0, 0, 0] ++ leBytes 1 lane ++ leBytes 1 tag ++ leBytes 2 frames

/-- The command block of MEM_READ. -/
def memReadCmd (a n : Nat) : List Byte := [5, 0, 0, 0] ++ leBytes 4 a ++ leBytes 2 n

/-- The command block of FURROW_END. -/
def furrowEndCmd : List Byte := [6, 0, 0, 0]

/-! ### A frame leaves (R192) -/

/-- A physical lane sends a frame: kind, key and attempt as SentFrame has them. -/
def sendFrame (g p seedLane typ low : Nat) (retry final repair spare : Bool) (pay : List Byte)
    (kind key logical attempt : Nat) (s : State) : State :=
  let x := s.grp g
  let ln := x.lane p
  let h := frameHeader typ ln.alive low retry final repair spare
  let sent : SentFrame := ⟨ln.alive, kind, key, logical, attempt⟩
  let ln' := { ln with
    alive := (ln.alive + 1) % 256, sent := sent :: ln.sent.take 127
    fails := if kind = 0 then ln.fails else (ln.alive, none) :: ln.fails.take 1023 }
  (setGrp g (x.setLane p ln') s).emit (.lane g p (idleBits minGap ++ lineBits g seedLane ln.alive h pay))

/-- A lane with no frame to send carries idle bits (R185, R200). -/
def sendIdleBits (g p : Nat) (s : State) : State := s.emit (.lane g p (idleBits minGap))

/-- The seed's lane of a frame on physical lane `p` (R187). -/
def State.seedLane (s : State) (g p : Nat) : Nat :=
  if p = 8 then (if s.l8 g = 15 then 8 else s.l8 g) else p

/-- 672 zero bytes. -/
def zeroPayload : List Byte := List.replicate 672 0

/-- A training frame (R190). -/
def sendTraining (g p : Nat) (s : State) : State :=
  let x := s.grp g
  let ln := x.lane p
  let s := sendFrame g p p 2 ln.trained false false false false zeroPayload 0 0 15 0 s
  let x := s.grp g
  setGrp g (x.setLane p { x.lane p with trained := (x.lane p).trained + 1 }) s

/-- The first command of the queue of four that a lane may send now. -/
def State.dueCmd (s : State) (g p : Nat) (onlyMap : Bool) : Option LinkCmd :=
  ((s.grp g).cmds.take 4).find? fun c =>
    c.due && (if onlyMap then p == 8 && c.map.isSome else c.map.isNone && p == s.commandLane g)

/-- A command frame belongs to a repair traverse: the FURROW_START or RESUME_AT of one (R189, R333). Which command
frames the REPAIR bit marks is the model's reading (log entry 75). -/
def State.repairCmd (s : State) (c : LinkCmd) : Bool :=
  (leAt c.bytes 0 1 == 1 || leAt c.bytes 0 1 == 2) && match s.jobs.run with | some r => r.trav | none => false

/-- An attempt of a command is sent (R193); the 16th is FINAL (R189). -/
def sendCmd (g p : Nat) (c : LinkCmd) (s : State) : State :=
  let alive := ((s.grp g).lane p).alive
  let seed := match c.map with | some m => m | none => s.seedLane g p
  let s := sendFrame g p seed 3 c.seq false (decide (16 ≤ c.attempts + 1)) (s.repairCmd c) false c.bytes 2 c.seq 15
    (c.attempts + 1) s
  let x := s.grp g
  setGrp g { x with cmds := x.cmds.map fun e =>
    if e.seq = c.seq then { e with attempts := e.attempts + 1, due := false, last := some (p, alive) } else e } s

/-- Attempts 2 and 3 of shot `f` may start (R203): before a run's first trigger none has come too close. -/
def Run.mayRetry (r : Run) (f : Nat) : Bool :=
  match r.last? with
  | some t => decide (t + 10 ≤ f)
  | none => true

/-- A dose or hold frame is sent (R189, R200, R203). -/
def sendShot (g p l f attempt : Nat) (hold : Bool) (r : Run) (s : State) : State :=
  let pay := if hold then zeroPayload else ((alGet s.path.pay (g + 32 * f)).getD []).getD l zeroPayload
  let alive := ((s.grp g).lane p).alive
  let final := attempt == 3 || !r.mayRetry f
  let s := sendFrame g p (s.seedLane g p) (bitOf hold) f (decide (1 < attempt)) final r.trav (p == 8) pay 1 f l attempt s
  let s := if 1 < attempt then tallyRetx (s.inc (F.DRL_Gnn_RETRANSMITS_RETRANSMITS g) 1) else s
  let x := s.grp g
  let fr : RingFrame := ⟨f, hold, attempt, false, false, some (p, alive)⟩
  let ring := if attempt = 1 then x.ring l ++ [fr] else (x.ring l).map fun e => if e.shot = f then fr else e
  let sentTo := if attempt = 1 then x.sentTo.set l (f + 1) else x.sentTo
  setGrp g { x with rings := x.rings.set l ring, sentTo := sentTo } s

/-- The lowest shot of a ring whose further attempt is due and may start (R200, R203). -/
def State.dueFrame (s : State) (g l : Nat) (r : Run) : Option RingFrame :=
  ((s.grp g).ring l).foldl (fun (b : Option RingFrame) e =>
    if e.due && !e.acked && decide (e.attempts < 3) && r.mayRetry e.shot &&
        (match b with | some x => decide (e.shot < x.shot) | none => true) then some e else b) none

/-- The shot fires nothing on group `g` in the present run (R200, R334). -/
def State.isHold (s : State) (g f : Nat) (r : Run) : Bool :=
  if r.trav then !s.covered g f else decide (f < r.firstSend)

/-- The next new frame of a logical lane may be sent (R200). -/
def State.mayNew (s : State) (g l : Nat) (r : Run) : Bool :=
  let x := s.grp g
  let f := x.sentTo.getD l 0
  let limit := match r.last? with | some t => t + 64 | none => x.start + 63
  !r.ending && x.runCmd.isNone && (f != 0 || decide (min s.runRows 1024 ≤ s.harrowRows)) &&
    decide (f ≤ limit) && decide (f ≤ r.segLast) && decide (f < r.computed.getD g 0)

/-- What a lane that is not training sends at its frame boundary (R200). -/
def sendNext (g p : Nat) (s : State) : State :=
  match s.dueCmd g p true with
  | some c => sendCmd g p c s
  | none =>
    let l := s.logical g p
    let run := if s.groupState g = 3 ∧ l < 8 then s.jobs.run.filter fun r => r.phase != .held else none
    match run.bind fun r => (s.dueFrame g l r).map fun e => (r, e) with
    | some (r, e) => sendShot g p l e.shot (e.attempts + 1) e.hold r s
    | none =>
      match s.dueCmd g p false with
      | some c => sendCmd g p c s
      | none =>
        match run with
        | some r =>
          if s.mayNew g l r then
            let f := (s.grp g).sentTo.getD l 0
            sendShot g p l f 1 (s.isHold g f r) r s
          else sendIdleBits g p s
        | none =>
          if s.furrowArmed then sendIdleBits g p s
          else sendFrame g p (s.seedLane g p) 4 0 false false false false zeroPayload 0 0 15 0 s

/-! ### Adaptation (R209, R210) -/

/-- DWELL, 0 acting as 1. -/
def State.dwell (s : State) : Nat := max 1 (s.f F.DRL_ADAPT_CTRL_DWELL)

/-- The neighbours of a setting that lie in range, in the order they are measured. -/
def neighbours (pre post : Nat) : List (Nat × Nat) :=
  (if 0 < pre then [(pre - 1, post)] else []) ++ (if pre < 6 then [(pre + 1, post)] else []) ++
    (if 0 < post then [(pre, post - 1)] else []) ++ (if post < 12 then [(pre, post + 1)] else [])

/-- A lane begins to adapt from the setting its TAPS register holds. -/
def adaptStart (s : State) (g p : Nat) : Adapt :=
  let pre := min 6 (s.f (F.DRL_Gnn_TAPS_PRE g p))
  let post := min 12 (s.f (F.DRL_Gnn_TAPS_POST g p))
  ⟨pre, post, 0, 0, pre, post, 1, [], (pre, post), true, 0, 0, 16, false⟩

/-- The next neighbour is measured, or the iteration ends: none when adaptation is over. -/
def Adapt.next (hyst : Nat) (a : Adapt) : Adapt × Bool :=
  match a.todo with
  | c :: t => ({ a with todo := t, cand := c, settle := 16, asked := false, resends := 0 }, false)
  | [] =>
    if a.bm < a.m + hyst then (a, true)
    else
      let a := { a with m := a.bm, pre := a.bp, post := a.bq }
      if a.it = 16 then (a, true)
      else match neighbours a.pre a.post with
        | c :: t => ({ a with it := a.it + 1, bp := a.pre, bq := a.post, todo := t, cand := c, settle := 16
                              asked := false, resends := 0 }, false)
        | [] => (a, true)

/-- The merit of the setting being measured has come (R210). -/
def Adapt.merit (hyst mc : Nat) (a : Adapt) : Adapt × Bool :=
  if a.first then
    match neighbours a.pre a.post with
    | c :: t => ({ a with m := mc, bm := mc, first := false, todo := t, cand := c, settle := 16, asked := false
                          resends := 0 }, false)
    | [] => (a, true)
  else
    let a := if a.bm < mc then { a with bm := mc, bp := a.cand.1, bq := a.cand.2 } else a
    a.next hyst

/-- A FOM_REQUEST is queued for a lane with the next tag. -/
def fomRequest (g p : Nat) (a : Adapt) (s : State) : State :=
  let x := s.grp g
  let a := { a with tag := x.tag, asked := true }
  let s := setGrp g { x with tag := (x.tag + 1) % 256, adapt := alSet x.adapt p a } s
  queueCmd g none (fomCmd p a.tag s.dwell) s

/-- A training frame of an adapting lane counts toward its request (R210). -/
def adaptFrame (g p : Nat) (s : State) : State :=
  match alGet (s.grp g).adapt p with
  | none => s
  | some a =>
    if a.asked then s
    else if 1 < a.settle then
      let x := s.grp g
      setGrp g { x with adapt := alSet x.adapt p { a with settle := a.settle - 1 } } s
    else fomRequest g p { a with settle := 0 } s

/-! ### Lost lanes and fallow groups (R211–R214) -/

/-- The first shot at or after the first unfired one that some logical lane of the group holds no acknowledgement
for (R213). -/
def State.firstUnacked (s : State) (g : Nat) (r : Run) : Nat :=
  let x := s.grp g
  let acked := fun (f : Nat) => x.rings.all fun q => q.any fun e => e.shot == f && e.acked
  r.sf + ((List.range 128).takeWhile fun i => acked (r.sf + i)).length

/-- The part of the present round's entries of a group from a shot on moves to the next round (R213). -/
def moveEntries (g first lanes : Nat) (s : State) : State :=
  match s.jobs.run with
  | none => s
  | some r =>
    let hit := fun (e : RepairEntry) => e.group == g && !e.void && decide (first < e.first + e.count)
    let next := (s.jobs.repair.filter hit).map fun e =>
      let f := max first e.first
      { e with cause := 2, first := f, count := e.first + e.count - f, lanes := lanes }
    let keep := s.jobs.repair.filterMap fun e =>
      if !hit e then some e else if first ≤ e.first then none else some { e with count := first - e.first }
    setRun { r with nextRound := r.nextRound ++ next }
      (showRepair { s with jobs := { s.jobs with repair := keep } })

/-- A group goes fallow for the rest of the furrow (R213). `lanes` are the lost logical lanes, or 0xFF. -/
def groupFallow (g lanes : Nat) (s : State) : State :=
  match s.jobs.run with
  | none => s
  | some r =>
    let st := s.groupState g
    if st ≠ 1 ∧ st ≠ 2 ∧ st ≠ 3 then s
    else
      let s := match s.cal.running with
        | some key => if key / 256 = 4 ∧ key % 256 / 10 = g then calPreempt s else s
        | none => s
      let first := s.firstUnacked g r
      let s := event 0x301 (s.jpf ++ [BitVec.ofNat 8 g, BitVec.ofNat 8 lanes, 0, 0] ++ leBytes 4 first) s
      let s := linkState g 4 s
      let s := setGrp g { s.grp g with
        phase := 0, rings := List.replicate 8 [], cmds := [], runCmd := none, training := [], adapt := [] } s
      let s := match s.jobs.run with
        | some r => setRun { r with groupsFallow := r.groupsFallow ||| 1 <<< g, flags := r.flags ||| 64 } s
        | none => s
      -- A group in training is between two rounds, or was fallow already: no round is under way for it.
      if st = 1 then s
      else if r.trav then (if r.roundOpen then moveEntries g first lanes s else s)
      else if first < r.nShot then addEntry ⟨false, 2, g, first, r.nShot - first, lanes⟩ s
      else s

/-- A group begins training (R207, R214): every logical lane returns to its own physical lane. -/
def trainStart (g tries : Nat) (s : State) : State :=
  if !s.linkUp g then s
  else
    let s := match s.cal.running with
      | some key => if key / 256 = 4 ∧ key % 256 / 10 = g ∧ s.cal.spare = some 8 then calPreempt s else s
      | none => s
    let s := setGrp g { (s.grp g).afresh with phase := 1, tries := tries } s
    let s := s.wr (F.DRL_Gnn_STATUS g).off (s.groupState g <<< 29 + 15)
    linkState g 1 { s with
      jobs := { s.jobs with headRead := false }
      head := { s.head with blocks := alErase s.head.blocks g, reads := alErase s.head.reads g } }

/-- A group that fails its training is lost (R207, R213). -/
def groupLost (g : Nat) (s : State) : State :=
  linkState g 5 (setGrp g { s.grp g with phase := 0, tries := 2, adapt := [], cmds := [] } s)

/-- A group's lanes are held in electrical idle (R358). -/
def groupDown (g : Nat) (s : State) : State :=
  let s := setGrp g (s.grp g).afresh s
  linkState g 0 (s.wr (F.DRL_Gnn_STATUS g).off (s.groupState g <<< 29 + 15))

/-- TRAIN (R207): it has no effect while a furrow is armed. -/
def trainCmd (g : Nat) (s : State) : State := if s.furrowArmed then s else trainStart g 0 s

/-- What ends a group's service in a furrow makes it train at once outside one (R199, R213). -/
def groupOut (g lanes : Nat) (s : State) : State :=
  if s.furrowArmed then groupFallow g lanes s else trainStart g 0 s

/-- L8 takes logical lane `l` at its next frame boundary (R212). -/
def takeL8 (g l : Nat) (s : State) : State :=
  let old := s.seedLane g 8
  let s := s.set (F.DRL_Gnn_STATUS_L8_CARRIES g) l
  let x := s.grp g
  let ring := (x.ring l).map fun e => if e.acked then e else { e with due := true }
  queueCmd g (some old) (spareMapCmd l) (setGrp g { x with rings := x.rings.set l ring } s)

/-! ### The reads of training and of the head's memory (R207, R215) -/

/-- A read of the head's memory is under way on a group: the next MEM_READ is sent. -/
def headReadNext (g : Nat) (h : HeadRead) (n : Nat) (s : State) : State :=
  queueCmd g none (memReadCmd h.addr n)
    { s with head := { s.head with reads := alSet s.head.reads g { h with awaited := n } } }

/-- A block is read anew: `k` is the group whose identity block it is, or 32 for the defect list. -/
def readAgain (k : Nat) (s : State) : State := { s with head := { s.head with failed := s.head.failed.filter (· != k) } }

/-- The identity block is read on a group. -/
def identityRead (g tries : Nat) (s : State) : State := headReadNext g ⟨false, 0, 0, [], tries⟩ 64 (readAgain g s)

/-- The defect list of `n` entries is read on a group, with its CRC. -/
def defectRead (g n tries : Nat) (s : State) : State :=
  headReadNext g ⟨true, 0x1000, 0, List.replicate (4 * n + 4) 0, tries⟩ (min 4096 (2 * n + 2)) (readAgain 32 s)

/-- Training ends: a missing lane is mapped to L8 and the group is ready (R207). Item 4 has run in place on every lane
that locked, and on CK (R378, R430). -/
def trainingDone (g : Nat) (s : State) : State :=
  let s := ((List.range 10).filter fun p => !s.laneOut g p).foldl (fun s p => calBoot (256 * 4 + 10 * g + p) s) s
  let s := setGrp g { s.grp g with phase := 0, adapt := [], training := [] } s
  let s := match (List.range 8).find? fun l => s.laneOut g l with
    | some l => if s.laneOut g 8 then s else takeL8 g l s
    | none => s
  linkState g 2 s

/-- Step 5 begins: the identity block is read; between rounds of a traverse the reading waits until the furrow has
completed, and no furrow arms before it (R16, R215). -/
def trainingRead (g : Nat) (s : State) : State :=
  let s := setGrp g { s.grp g with phase := 5, adapt := [] } s
  if s.writing then
    trainingDone g { s with head := { s.head with rereadDue := true } }
  else identityRead g 0 s

/-! ### Lost lanes (R211, R212) -/

/-- The rolling instance of a group, with the lane it calibrates and its step (R377). -/
def State.rolling (s : State) (g : Nat) : Option (Nat × Nat) :=
  match s.cal.running with
  | some key => if key / 256 = 4 ∧ key % 256 / 10 = g ∧ s.cal.spare = some 8 then some (key % 10, s.cal.step) else none
  | none => none

/-- The calibrated lane leaves its training (R379): its logical lane resumes from the ring. -/
def rollingBack (g : Nat) (s : State) : State :=
  let s := calPreempt s
  let x := s.grp g
  let adapt := x.training.foldl (fun a p => alErase a p) x.adapt
  setGrp g { x with training := [], adapt := adapt } s

/-- A data lane is declared lost: cause 0 unlocked, 1 four consecutive, 2 16 of 1,024 (R211, R212). Beside the state
comes the bit of the logical lane that no spare takes (R213); during training L8 takes none before its end (R207). -/
def laneDown (g p cause : Nat) (s : State) : Nat × State :=
  if s.laneOut g p && !(s.grp g).training.contains p then (0, s)
  else
    let l := s.logical g p
    let s := s.set (F.DRL_Gnn_STATUS_OUT g) (s.f (F.DRL_Gnn_STATUS_OUT g) ||| 1 <<< p)
    let roll := s.rolling g
    let calLane := match roll with | some (q, step) => decide (p = q) && decide (3 ≤ step) && decide (q < 8) | none => false
    let free := (s.grp g).phase == 0 && s.laneLocked g 8 && !s.laneOut g 8 && (s.l8 g == 15 || roll.isSome) && decide (p < 8)
    let taken := decide (l < 8) && free
    let s := event 0x300 [BitVec.ofNat 8 g, BitVec.ofNat 8 p, BitVec.ofNat 8 cause,
      if taken then BitVec.ofNat 8 l else if calLane then BitVec.ofNat 8 p else 0xFF] s
    if calLane then
      -- R378: L8 keeps the logical lane and the instance ends without a result.
      let s := s.inc F.CAL_PREEMPT_ABANDONED 1
      let x := s.grp g
      (0, setGrp g { x with training := [], adapt := alErase x.adapt p }
        { s with cal := { s.cal with running := none, spare := none, step := 0 } })
    else
      let s := if roll.isSome ∧ (taken ∨ p = 8) then rollingBack g s else s
      if l = 15 then (0, s)
      else if taken then (0, takeL8 g l s)
      else (1 <<< l, s)

/-- Data lanes are declared lost together, in the order given: the first that needs L8 takes it, and the others that
carried a logical lane end the group's service (R212, R213). A group in training goes on with up to one lane missing
(R207). -/
def lanesLost (g cause : Nat) (ps : List Nat) (s : State) : State :=
  let (m, s) := ps.foldl (fun (a : Nat × State) p =>
    let (m, s) := laneDown g p cause a.2
    (a.1 ||| m, s)) (0, s)
  let x := s.grp g
  if x.phase = 0 then (if m = 0 then s else groupOut g m s)
  else if 1 < ((List.range 9).filter fun p => s.laneOut g p).length then groupLost g s
  else
    let adapt := x.adapt.filter fun a => !s.laneOut g a.1
    let s := setGrp g { x with adapt := adapt } s
    if x.phase = 4 ∧ adapt.isEmpty then trainingRead g s else s

/-- One data lane is declared lost. -/
def laneLost (g p cause : Nat) (s : State) : State := lanesLost g cause [p] s

/-- Four consecutive attempts failed. -/
def fourFailed : List (Nat × Option Bool) → Bool
  | a :: b :: c :: d :: t =>
    (a.2 == some true && b.2 == some true && c.2 == some true && d.2 == some true) || fourFailed (b :: c :: d :: t)
  | _ => false

/-- The outcome of the newest attempt with an ALIVE whose outcome is awaited. -/
def setOutcome (alive : Nat) (failed : Bool) : List (Nat × Option Bool) → List (Nat × Option Bool)
  | [] => []
  | a :: t => if a.1 = alive ∧ a.2 = none then (alive, some failed) :: t else a :: setOutcome alive failed t

/-- The outcome of an attempt on a physical lane; a lane is lost when 4 consecutive attempts, in the order they were
sent, or 16 of the last 1,024 failed (R211). -/
def attemptResult (g p alive : Nat) (failed : Bool) (s : State) : State :=
  let x := s.grp g
  let ln := x.lane p
  let fails := setOutcome alive failed ln.fails
  let s := setGrp g (x.setLane p { ln with fails := fails }) s
  if !failed then s
  else if fourFailed fails then laneLost g p 1 s
  else if 16 ≤ (fails.filter fun a => a.2 == some true).length then laneLost g p 2 s
  else s

/-- A further attempt of a frame or command becomes due after its latest attempt failed (R193, R201). -/
def attemptFailed (g p : Nat) (f : SentFrame) (s : State) : State :=
  let x := s.grp g
  if f.kind = 1 then
    let ring := (x.ring f.logical).map fun e => if e.shot = f.key then { e with due := true } else e
    attemptResult g p f.alive true (setGrp g { x with rings := x.rings.set f.logical ring } s)
  else
    let last := x.cmds.any fun c => c.seq == f.key && decide (16 ≤ c.attempts)
    let s := setGrp g { x with cmds := x.cmds.map fun c => if c.seq = f.key then { c with due := true } else c } s
    let s := attemptResult g p f.alive true s
    if last then groupOut g 0xFF s else s

/-- The frame an ALIVE names is the latest attempt of something not yet answered (R201). -/
def State.latest (s : State) (g p alive : Nat) : Option SentFrame :=
  let x := s.grp g
  match (x.lane p).sent.find? fun f => f.alive == alive with
  | none => none
  | some f =>
    let at' := some (p, alive)
    let ok := if f.kind = 1 then (x.ring f.logical).any fun e => e.shot == f.key && e.last == at' && !e.acked && !e.due
      else if f.kind = 2 then x.cmds.any fun c => c.seq == f.key && c.last == at' && !c.due
      else false
    if ok then some f else none

/-! ### Rolling calibration and training (R207–R210, R377) -/

/-- SPARE_MAP(0xFF) ends a rolling calibration's use of L8 (R377). It goes out on the command lane; where that is L8
itself, which carries logical lane 0 then, it is the first item of R200. -/
def mapBack (g q : Nat) (s : State) : State := queueCmd g (if q = 0 then some 0 else none) (spareMapCmd 0xFF) s

/-- The parts of the lane that rolling calibration trains are done: the next step of R377 begins. With step 1 L8 is back
in service where it was lost (R214). -/
def rollNext (g : Nat) (s : State) : State :=
  let x := s.grp g
  match s.rolling g with
  | some (q, 1) =>
    let s := s.set (F.DRL_Gnn_STATUS_OUT g) (s.f (F.DRL_Gnn_STATUS_OUT g) % 256)
    if q = 8 then setGrp g { x with training := [] } { s with cal := { s.cal with step := 5 } }
    else
      let s := takeL8 g q { s with cal := { s.cal with step := 3 } }
      let fixed := s.on (F.DRL_Gnn_TAPS_OVERRIDE g q)
      let x := s.grp g
      let x := { x.setLane q { x.lane q with trained := 0 } with training := [q] }
      if fixed then
        mapBack g q (setGrp g x { s with cal := { s.cal with step := 4 } })
      else setGrp g { x with adapt := alSet x.adapt q (adaptStart s g q) } s
  | some (q, 3) => mapBack g q { s with cal := { s.cal with step := 4 } }
  | _ => s

/-- Rolling calibration of a lane begins on L8, which sends training frames (R377, step 1). -/
def rollStart (g : Nat) (s : State) : State :=
  let x := s.grp g
  let s := { s with cal := { s.cal with step := 1, spare := some 8 } }
  if s.on (F.DRL_Gnn_TAPS_OVERRIDE g 8) then rollNext g (setGrp g { x with training := [8] } s)
  else setGrp g { x with training := [8], adapt := alSet x.adapt 8 (adaptStart s g 8) } s

/-- Adaptation of a lane has ended: its taps and merit are stored, and what waited for it goes on (R210, R377). -/
def adaptDone (g p : Nat) (a : Adapt) (s : State) : State :=
  let s := (s.set (F.DRL_Gnn_TAPS_PRE g p) a.pre).set (F.DRL_Gnn_TAPS_POST g p) a.post
  let s := (s.set (F.DRL_Gnn_FOM_H_OPEN g p) (a.m / 256)).set (F.DRL_Gnn_FOM_V_OPEN g p) (a.m % 256)
  let x := s.grp g
  let s := setGrp g { x with adapt := alErase x.adapt p } s
  if x.phase = 4 then (if (s.grp g).adapt.isEmpty then trainingRead g s else s)
  else rollNext g s

/-- Step 3 of training ends: unlocked lanes are out, and the rest adapt (R207, R212). -/
def lockingDone (g : Nat) (s : State) : State :=
  let missing := (List.range 9).filter fun p => !s.laneLocked g p
  if 1 < missing.length then groupLost g s
  else
    let s := missing.foldl (fun s p =>
      let s := s.set (F.DRL_Gnn_STATUS_OUT g) (s.f (F.DRL_Gnn_STATUS_OUT g) ||| 1 <<< p)
      event 0x300 [BitVec.ofNat 8 g, BitVec.ofNat 8 p, 0, if p < 8 then BitVec.ofNat 8 p else 0xFF] s) s
    let ps := (List.range 9).filter fun p => s.laneLocked g p && !s.on (F.DRL_Gnn_TAPS_OVERRIDE g p)
    let x := s.grp g
    let s := setGrp g { x with phase := 4, adapt := ps.map fun p => (p, adaptStart s g p) } s
    if ps.isEmpty then trainingRead g s else s

/-- Training frames of 500 µs (R207). -/
def State.lockFrames (s : State) : Nat := if s.fuses.grade20 then 1095 else 1460

/-- Step 3 ends once all nine lanes lock, or each unlocked one has had its 500 µs. -/
def lockingCheck (g : Nat) (s : State) : State :=
  let x := s.grp g
  if x.phase = 3 ∧ (List.range 9).all fun p => s.laneLocked g p || decide (s.lockFrames ≤ (x.lane p).trained) then
    lockingDone g s
  else s

/-- BK word alignment is found (R207, R208). -/
def bkAligned (g : Nat) (s : State) : State :=
  setGrp g { s.grp g with phase := 3 } (s.set (F.DRL_Gnn_STATUS_BK_ALIGNED g) 1)

/-- A slip of BK; the fiftieth without success loses the group (R208). -/
def bkSlipTest (g : Nat) (good : Bool) (s : State) : State :=
  let x := s.grp g
  if !(x.phase == 1 || x.phase == 2) ∨ !s.on (F.DRL_Gnn_CTRL_AUTO_ALIGN g) ∨ !s.linkUp g then s
  else
    let s := setGrp g { x with phase := 2, slips := x.slips + 1 } s
    if good then bkAligned g s else if 50 ≤ x.slips + 1 then groupLost g s else s

/-- BK_SLIP: one slip when AUTO_ALIGN is 0 (R208). -/
def bkSlip (g : Nat) (s : State) : State :=
  let x := s.grp g
  if s.on (F.DRL_Gnn_CTRL_AUTO_ALIGN g) ∨ !(x.phase == 1 || x.phase == 2) then s
  else setGrp g { x with phase := 2, slips := x.slips + 1 } s

/-- TRAINING_TIMEOUT: training restarts once, then the group is lost (R207). -/
def trainingTimeout (g : Nat) (s : State) : State :=
  let x := s.grp g
  if x.phase = 0 then s else if x.tries = 0 then trainStart g 1 s else groupLost g s

/-! ### The frame boundary (R200) -/

/-- A physical lane reaches a frame boundary. A lane out of service carries idle bits only (R211) until rolling
calibration takes it (R214), as all lanes do while BK is aligned (R207). -/
def laneBoundary (g p : Nat) (s : State) : State :=
  let x := s.grp g
  let st := s.groupState g
  if !s.linkUp g ∨ 8 < p ∨ st = 0 ∨ st = 5 then s
  else if s.laneOut g p ∧ !x.training.contains p ∨ x.phase = 1 ∨ x.phase = 2 then sendIdleBits g p s
  else if x.phase = 3 ∨ x.phase = 4 ∨ x.training.contains p then
    match s.dueCmd g p false with
    | some c => sendCmd g p c s
    | none => lockingCheck g (adaptFrame g p (sendTraining g p s))
  else sendNext g p s

/-- SPARE_GO: SPARE_LANE moves to L8 without a loss (R212). -/
def spareGo (g l : Nat) (s : State) : State :=
  let st := s.groupState g
  if s.linkUp g ∧ l < 8 ∧ (st = 2 ∨ st = 3) ∧ s.laneLocked g 8 ∧ !s.laneOut g 8 ∧ s.l8 g = 15 ∧ (s.rolling g).isNone then
    takeL8 g l s
  else s

end Sys2Proof.Machine
end

