-- ==== Sys2Proof/Machine/Jobs.lean ====
section
/-! DEFINITION. Checkpoints as records, and the sequencer's furrows: arming, disarming, resuming, completing and
cancelling (R16–R19, R66, R138, R141, R167, R217, R272, R278–R285, R323–R330, R341, R355, R374). -/

namespace Sys2Proof.Machine

/-! ### Checkpoint records (R102, R108, R150, R157, R323) -/

/-- A Tilth context record (R108). -/
def ctxRecord (shape ty slots tiles ovf : Nat) (left : List Byte) (corner : Byte) (line : List Byte) : List Byte :=
  let h := wordsLe [0x544C5431, shape, ty, slots, tiles, ovf] ++ sliceBytes left 0 8 ++ [corner] ++ List.replicate 27 0
  let l := sliceBytes line 0 5376
  h ++ leBytes 4 (crc32c (h ++ l)) ++ l

/-- The first pixel row a re-expansion from shot `c` rasterises (R323). -/
def State.y0 (s : State) (c : Nat) : Nat := c - (8 * (s.cls.nRow - 1) + 7)

/-- Heat-map rows a checkpoint at shot `c` holds: the footprint and the trail (R151, R157). -/
def State.heatBytes (s : State) (ck : Checkpoint) : List Byte :=
  let n := s.cls.nRow + 128
  let r0 := ck.shot / 8 - n
  (List.range (n * 672)).flatMap fun i => leBytes 3 ((alGet ck.heat (672 * (r0 + i / 672) + i % 672)).getD 0)

/-- The bytes of a checkpoint record, in the order of the table of R323. -/
def State.ckptBytes (s : State) (d : Desc) (ck : Checkpoint) : List Byte :=
  let y0 := s.y0 ck.shot
  let tilth := leBytes 4 ck.decSeg ++ ck.lines.flatMap fun l =>
    let ntx := l.line.length / 8
    ctxRecord (2 ^ 31 + l.slot <<< 28 + ntx <<< 16) l.nty (ntx * l.nty) (ntx * l.nty) (512 * l.raws) [] 0 l.line
  let madder := ck.maps.flatMap (fun m => leBytes 1 m.1 ++ leBytes 1 (bitOf m.2)) ++ leBytes 4 ck.nextRows ++
    ck.mult.flatMap fun m => m.2.flatMap (leBytes 2)
  let sow := leBytes 4 ck.mc ++ leBytes 4 ck.cp ++ ck.groupMap.flatMap (leBytes 1) ++ leBytes 4 ck.tableSet
  let body := tilth ++ leBytes 4 (y0 / 64 - 16) ++ madder ++ s.heatBytes ck ++ sow
  let head := fun (crc : Nat) =>
    wordsLe [0x434B5054, d.job, d.pass <<< 16 + d.furrow, ck.shot, y0, ck.unfired, crc] ++ List.replicate 36 0
  head (crc32c (head 0 ++ body)) ++ body

/-- The address of a checkpoint slot (R324). -/
def State.ckptAddr (s : State) (slot : Nat) : Nat :=
  s.addr F.JOB_CKPT_BASE_LO.off F.JOB_CKPT_BASE_HI.off + 0x200000 * slot

/-- A controller's retraining burst starts on its next pseudo-channel, where its stack is in service (R310). -/
def burstStart (n : Nat) (s : State) : State :=
  if !s.islandOpen (7 + n) ∨ s.f (F.MEM_Snn_STATUS_STATE n) ≠ 1 ∨ s.mem.burst.contains n ∨ s.mem.freqWaiting then s
  else
    let k := (alGet s.mem.nextPc n).getD 0
    { s with mem := { s.mem with
      burst := setInsert s.mem.burst n, nextPc := alSet s.mem.nextPc n ((k + 1) % 32) } }.inc
      (F.MEM_Snn_RETRAIN_STATS_BURSTS n) 1

/-- The checkpoint notice ends, and the bursts that waited on it start (R310). -/
def noticeEnd (s : State) : State :=
  let due := s.mem.burstDue
  let s := { s with mem := { s.mem with notice := false, ckptWaiting := false, burstDue := [] } }
  due.foldl (fun s n => burstStart n s) s

/-- The furrow's own first unfired shot, also while a traverse writes. -/
def Run.unfired (r : Run) : Nat := if r.trav then r.mainSf else r.sf

/-- A checkpoint write completes: it is kept, and the resume record is rewritten (R324, R325). -/
def checkpointDone (s : State) : State :=
  match s.jobs.writing, s.head? with
  | some ck, some d =>
    if s.mem.ckptWaiting then s
    else
      let s := engineWrite 10 (s.ckptAddr ck.slot) (s.ckptBytes d ck) s
      let s := { s with jobs := { s.jobs with writing := none, ckpts := s.jobs.ckpts ++ [ck] } }
      noticeEnd (showRepair (writeResume (match s.jobs.run with | some r => r.unfired | none => 0) s))
  | _, _ => s

/-- A kept checkpoint is intact: it reads back as written with no uncorrectable word (R324). -/
def intact (d : Desc) (ck : Checkpoint) (s : State) : Bool × State :=
  let want := s.ckptBytes d ck
  let ((b, ok), s) := memRead 10 (s.ckptAddr ck.slot) want.length s
  (ok && b == want, s)

/-- The latest intact checkpoint among those given, latest first (R326). -/
def pickCheckpoint (d : Desc) : List Checkpoint → State → Option Checkpoint × State
  | [], s => (none, s)
  | c :: t, s =>
    let (ok, s) := intact d c s
    if ok then (some c, s) else pickCheckpoint d t s

/-- The starting checkpoint for a target shot; none is checkpoint 0 (R326). -/
def startingCheckpoint (d : Desc) (target : Nat) (s : State) : Option Checkpoint × State :=
  pickCheckpoint d (s.jobs.ckpts.filter fun c => decide (c.shot ≤ target)).reverse s

/-! ### Arming conditions (R278) -/

/-- Tq as it acts (SHT_DOSE_QUANTUM). -/
def State.tq (s : State) : Nat := max 320 (min 2560 (s.f F.SHT_DOSE_QUANTUM_TQ))

/-- The identity block of the lowest group that has one. -/
def State.headBlock (s : State) : List Byte := match s.head.blocks with | b :: _ => b.2 | [] => []

/-- Its MAGIC and FORMAT are right (R217). -/
def headKnown (b : List Byte) : Bool := leAt b 0 4 == 0x48444D31 && leAt b 4 2 == 1

/-- The Tq conditions may be judged (R278). -/
def State.tqJudged (s : State) : Bool :=
  let r := s.f F.DRL_HEAD_MEMORY_RESULT
  r == 1 || (r == 3 && headKnown s.headBlock && decide (leAt s.headBlock 0x24 4 ≤ 16384))

/-- The least `n` of `lo` and the `2 ^ k - 1` numbers after it with a property that holds of every larger number, by
halving. -/
def leastUpTo (p : Nat → Bool) : Nat → Nat → Nat
  | 0, lo => lo
  | k + 1, lo => if p (lo + 2 ^ k - 1) then leastUpTo p k lo else leastUpTo p k (lo + 2 ^ k)

/-- The ramp distance between rest and the writing speed in rows, rounded up (R255, R256). -/
def State.rampRows (s : State) : Nat :=
  let v := s.writeSpeed
  let a := s.planAccel
  let j := s.planJerk
  if a * a < v * j then (v * (v * j + a * a) + 12 * a * j - 1) / (12 * a * j)
  else leastUpTo (fun n => decide (v * v * v ≤ 36 * j * n * n)) 21 0

/-- An island out of service that a furrow uses (R25). -/
def State.islandMissing (s : State) : Bool :=
  let out := fun (i : Nat) => (s.gate i).outOfService
  [11, 12, 13, 14].any out || ((List.range s.cls.stacks).any fun n => out (7 + n)) ||
    s.groups.any fun g => s.txEnabled g && out (96 + g)

/-- An instance that has to be calibrated before arming is not (R374). -/
def State.calPending (s : State) : Bool :=
  let bad := fun (item inst : Nat) => s.calExists item inst && !(s.calInst (256 * item + inst)).valid
  ((List.range 7).any fun item => (List.range 240).any fun i => bad item i) ||
    ((List.range 34).any fun t => s.role tileBase t == 0 && bad 7 t) ||
    ((List.range 25).any fun t => s.role sliceBase t == 0 && bad 8 t)

/-- The blocking conditions that a repair traverse is judged by again (R333). -/
def State.blocksAgain (s : State) : List (Nat × Bool) :=
  [(0x17, s.groups.any fun g => s.role sliceBase (s.sliceOf g) == 4),
   (0x18, s.groups.any fun g => s.groupState g == 5),
   (0x1B, (List.range 4).any fun k => s.encState k != 2),
   (0x1C, s.rd F.ENC_FAULT_STATUS.off != 0),
   (0x1E, !(s.on F.PLN_STATUS_HOMED_X && s.on F.PLN_STATUS_HOMED_Y)),
   (0x20, s.holder == 0),
   (0x21, s.fence.headLevel != 0),
   (0x22, s.on F.FNC_STATUS_BLANK_ALL || s.on F.FNC_TRIP_STATUS_BLANK_UNSEEN),
   (0x23, s.calPending),
   (0x25, s.islandMissing)]

/-- The blocking conditions judged once, as a furrow arms. -/
def State.blocksOnce (s : State) (d : Desc) : List (Nat × Bool) :=
  let t := s.f F.SHT_SHOT_RATE_T_SHOT
  [(0x10, decide (5376 ≤ s.feed d.pass)),
   (0x11, s.cls == .F && maskEmpty s.activeB s),
   (0x12, s.tqJudged && decide (4 * (t / 4) < 15 * s.tq + s.f F.DRL_HEAD_TIMING_BLANK_GUARD)),
   (0x13, s.tqJudged && (decide (s.tq < s.f F.DRL_HEAD_TQ_TQ_MIN) || decide (s.f F.DRL_HEAD_TQ_TQ_MAX < s.tq))),
   (0x14, !s.madBypass && s.madBad),
   (0x15, !s.madBypass && s.mapBaseBad),
   (0x16, s.offsetConflict),
   (0x19, s.f F.DRL_HEAD_MEMORY_RESULT == 2),
   (0x1A, s.f F.DRL_HEAD_MEMORY_RESULT == 3),
   (0x1D, decide (s.leadIn < s.rampRows + s.f F.PLN_LEAD_IN_SETTLE_ROWS)),
   (0x1F, d.tableSet != s.rd F.JOB_TABLE_SET_ACTIVE.off),
   (0x24, s.f F.NVL_STATUS_ACTIVE == 2)]

/-- The lowest code of the conditions that hold. -/
def lowestCode (l : List (Nat × Bool)) : Option Nat :=
  l.foldl (fun b c => if c.2 then (match b with | some x => some (min x c.1) | none => some c.1) else b) none

/-- The blocking code of a furrow at the head of the queue (R278). -/
def State.blockCode (s : State) (d : Desc) : Option Nat := lowestCode (s.blocksOnce d ++ s.blocksAgain)

/-- A group trains, or went out of service and has still to train (R207). -/
def State.groupTraining (s : State) (g : Nat) : Bool :=
  s.txEnabled g && (let st := s.groupState g; st == 0 || st == 1 || st == 4)

/-- The head furrow waits under R16 or R138, or for a group in training. -/
def State.headWaits (s : State) (d : Desc) : Bool :=
  d.stream != .admitted || (s.streamOf d).isNone ||
    !(d.lastInPass || (match s.successor d with | some e => e.stream == .admitted | none => false)) ||
    !s.jobs.headRead || s.mapNeed d != 0 || s.groups.any s.groupTraining

/-! ### Arming (R16) -/

/-- The counts of a furrow at its start. -/
def Counts.zero : Counts := Counts.none

/-- mc, cp and MAX_QUANTA from the ceilings in force (R167). -/
def State.ceilings (s : State) : Nat × Nat × Nat :=
  let q := min 720 (s.f F.FNC_DOSE_CEILING_MAX_QUANTA)
  (s.f F.FNC_DOSE_CEILING_MAX_CODE, q / s.cls.passes, q)

/-- SOW_CEILING_IN_FORCE (R167). -/
def showCeilings (r : Run) (s : State) : State :=
  s.wr F.SOW_CEILING_IN_FORCE.off (r.maxQuanta <<< 16 + (r.maxQuanta / s.cls.passes) <<< 4 + r.mcIn)

/-- The STAGE side of a run that begins at a shot: next shot, lead-in, dibble mode (R247, R248). -/
def stageRun (shot : Nat) (s : State) : State :=
  let s := { s with shot := { s.shot with
    committed := none, committedDibble := false, lastTrigger := none, dibble := true, inWindow := 0
    furthest := none, pathHold := false, fired := [] } }
  raise 6 ((s.set F.SHT_STATUS_STATE 1).set F.SHT_STATUS_NEXT_SHOT shot)

/-- The groups begin a run at a shot: rings empty, frames sent from `from'` on, and its commands queued. A group lost
before it trains again before the next traverse arms (R207). -/
def linkRun (from' start : Nat) (cmds : List (List Byte)) (s : State) : State :=
  s.groups.foldl (fun s g =>
    let s := setGrp g { s.grp g with tries := 0 } s
    if s.groupState g = 2 ∨ s.groupState g = 3 then
      let x := s.grp g
      let s := setGrp g { x with rings := List.replicate 8 [], sentTo := List.replicate 8 from', start := start, runCmd := none } s
      linkState g 3 (cmds.foldl (fun s c => queueRunCmd g c s) s)
    else s) s

/-- The groups stop sending a run's frames. Commands queued already are sent, since their numbers are taken (R193). -/
def linkHalt (s : State) : State :=
  s.groups.foldl (fun s g =>
    let s := setGrp g { s.grp g with rings := List.replicate 8 [], runCmd := none } s
    if s.groupState g = 3 then linkState g 2 s else s) s

/-- The density-only descriptor for the head completes DONE when its map is not needed (R471). -/
def densityUnneeded (d : Desc) (s : State) : State :=
  match s.densityOnly d with
  | some e => densityDone e { s with jobs := { s.jobs with
      posts := s.jobs.posts.filter fun p => !(p.2.1 == e.party && p.2.2 == e.ringSeq)
      admitting := match s.jobs.admitting with
        | some p => if p.2.1 == e.party && p.2.2 == e.ringSeq then none else some p
        | none => none } }
  | none => s

/-- The resume record of a loss of DRAM content names a furrow (R39, R284). -/
def State.powerLost? (s : State) (d : Desc) : Option Nat :=
  match s.ret.resume with
  | some q => if q.powerLost ∧ q.job = d.job ∧ q.pass = d.pass ∧ q.furrow = d.furrow then some q.shot else none
  | none => none

/-- The LEAD fields cover the furrow whose writing begins (R218). -/
def leadBegin (s : State) : State := s.groups.foldl (fun s g => s.wr (F.DRL_Gnn_LEAD g).off 64) s

/-- The LEAD fields of a furrow that completes stay. -/
def leadKeep (s : State) : State :=
  s.groups.foldl (fun s g => setGrp g { s.grp g with lastLead := s.rd (F.DRL_Gnn_LEAD g).off } s) s

/-- The LEAD fields show the last completed furrow again (R218). -/
def leadBack (s : State) : State := s.groups.foldl (fun s g => s.wr (F.DRL_Gnn_LEAD g).off (s.grp g).lastLead) s

/-- The units retired leave their places, and places left without a unit take the spares there are, with nothing being
produced (R132, R179, R339). -/
def refit (s : State) : State := fillGroups (fillPositions (applySliceSwaps anySwap (applyTileSwaps anySwap s)))

/-- The decoder instances leave the furrow's own stream. -/
def tilthLeave (s : State) : State :=
  { s with path := { s.path with tilth := s.path.tilth.filter fun (e : Nat × (Bool × Nat × Nat × Nat)) => e.2.1 } }

/-- The data path starts the expansion of a stream over from a checkpoint, none being shot 0 (R323, R329). -/
def pathFrom (i : StreamInfo) (ck : Option Checkpoint) (s : State) : State :=
  let s := tilthLeave (cutTileUnit false s)
  let p := s.path
  startTileUnit false <| match ck with
  | none => { s with path := { p with
      cur := some (Work.start i false 0 []), recs := [], mult := [], multNext := 0, field := [], fieldNext := 0
      heat := [], heatAdd := [], pay := [] } }
  | some c =>
    let y0 := s.y0 c.shot
    let k := y0 / 64
    let n := i.rows / 64
    let first := min c.decSeg (n - 1)
    { s with path := { p with
      cur := some (Work.start i false first (c.lines.map fun l => (k - 1, l)))
      recs := [], mult := c.mult, multNext := k - 1, field := [], fieldNext := min y0 i.rows
      heat := c.heat, heatAdd := [], pay := [] } }

/-- The head furrow arms. A hold before any trigger of the furrow has no shot that its pause could be counted from: the
model counts it from the arming (R155; log entry 76). -/
def armHead (d : Desc) (i : StreamInfo) (s : State) : State :=
  let lost := s.powerLost? d
  let first := lost.getD 0
  let (mc, cp, q) := s.ceilings
  let nShot := s.nShot d
  let down := s.groups.filter fun g => s.groupState g != 2
  let r : Run := {
    phase := .armed, nShot, tq := s.tq, sf := first, segFirst := first, segLast := nShot - 1, fired := false
    begun := false, computed := s.groups.map fun _ => 0, mc, cp, maxQuanta := q
    flags := (if lost.isSome then 0x180 else 0), resumes := 0, entries := 0, causes := 0, unacked := 0, dueCauses := 0
    cancelled := false, holdFresh := false, pauseFrom := s.now, resumeTable := [], mc0 := mc, cp0 := cp, mcIn := mc
    resumeDue := lost.isSome, lowered := false, firstSend := first, captured := 0
    sig := s.groups.map fun _ => (0xFFFFFFFF, 0)
    groupsFallow := 0, trav := false, mid := false, mainSf := 0, roundOpen := false, round := 0, runs := [], nextRound := []
    repaired := 0, unrepaired := 0, lost := 0, finishing := false, ending := false }
  let s := densityUnneeded d (captureStart d i s)
  let s := pathFrom i none s
  let s := { s with
    path := { s.path with
      counts := Counts.zero, segMax := List.replicate 32 0, multMax := 0, fieldMax := 0, heatMax := 0, tilePass := [] }
    jobs := { s.jobs with repair := [], overflow := [], ckpts := [], writing := none } }
  let s := showCeilings r (showRepair (setRun r s))
  let start := furrowStartCmd d nShot r.tq false
  let s := linkRun 0 first (if lost.isSome then [start, resumeAtCmd first] else [start]) s
  let s := down.foldl (fun s g =>
    flagRun 6 (addEntry ⟨false, 2, g, first, nShot - first, 0xFF⟩ s)) s
  let (x, y) := s.startPoint d first
  lookSample (prepassStart (planStart x y (jobState 3 0 (stageRun first s))))

/-- JOB_STATUS of a head that does not arm: BLOCKED with the lowest code, else WAITING (R278). -/
def headState (s : State) : State :=
  match s.head? with
  | some d => (match s.blockCode d with | some c => jobState 2 c s | none => jobState 1 0 s)
  | none => if s.jobs.queue.isEmpty then jobState 0 0 s else jobState 1 0 s

/-- The sequencer judges the head of the queue (R16, R278). -/
def armFurrow (s : State) : State :=
  match s.head? with
  | none => s
  | some d =>
    if s.furrowArmed || !s.islandOpen 5 || s.f F.GLB_BOOT_STATUS_STATE == 1 then s
    else
      let s := jobBegins d s
      match s.blockCode d, s.streamOf d with
      | none, some i => if s.headWaits d then headState s else armHead d i s
      | _, _ => headState s

/-! ### Ending a run -/

/-- The queue's head shows again once no run is there. -/
def idleStage (s : State) : State :=
  let s := withdraw s
  raise 6 ((s.set F.SHT_STATUS_STATE 0).set F.SHT_STATUS_NEXT_SHOT 0)

/-- Everything of a furrow's run is dropped: its checkpoints' slots, entries and data path (R325). -/
def dropRun (s : State) : State :=
  let s := leadBack (ceilingOff (linkHalt s))
  let s := cutSliceUnit (cutTileUnit false (tilthLeave (s.set F.JOB_STATUS_NEEDS_ACK 0)))
  let s := noticeEnd { s with
    jobs := { s.jobs with run := none, repair := [], overflow := [], ckpts := [], writing := none }
    mem := { s.mem with openPatch := [] }
    path := { s.path with
      cur := none, recs := [], mult := [], field := [], heat := [], heatAdd := [], pay := [], dcache := [] } }
  -- Swaps that waited for a checkpoint take effect at the furrow boundary.
  let s := refit s
  let s := s.groups.foldl (fun s g => setGrp g { s.grp g with resolved := [] } s) s
  showRepair s

/-- Groups that were out of service during the furrow train before the next one (R207, R358). -/
def trainDue (s : State) : State :=
  s.groups.foldl (fun s g =>
    let st := s.groupState g
    if s.txEnabled g ∧ (st = 0 ∨ st = 4 ∨ st = 5) then trainStart g 0 s else s) s

/-- A reread of the head's memory that waited for the furrow starts, of both blocks (R215). -/
def rereadStart (s : State) : State :=
  if s.head.rereadDue then
    let s := { s with
      head := { s.head with rereadDue := false, blocks := [], reads := [], failed := [] }
      jobs := { s.jobs with headRead := false } }
    s.groups.foldl (fun s g => if s.groupState g = 2 then identityRead g 0 s else s) s
  else s

/-- The spare takes the retired pseudo-channel's logical slot (R319). -/
def pcSwap (s : State) : State :=
  match s.mem.retire with
  | some j =>
    if !j.copied then s
    else
      let lam := ((List.range s.nPc).find? fun i => s.pcMap i == j.phys).getD 0
      let spare := s.pcMap j.slot
      let s := setPcMap j.slot j.phys true (setPcMap lam spare false { s with mem := { s.mem with
        retire := none, errs := s.mem.errs.filter fun e => !j.fixed.contains e } })
      event 0x502 ([BitVec.ofNat 8 j.phys, BitVec.ofNat 8 spare, BitVec.ofNat 8 lam, 0] ++ leBytes 4 j.poisoned)
        (s.set F.MEM_RETIRE_CTRL_RESULT 3)
  | none => s

/-- What a furrow boundary brings: pending bank swap and pseudo-channel swap, the local clocks' taps, training and
rereading. -/
def boundaryWork (microcodeOk : Bool) (s : State) : State :=
  let s := if s.jobs.swapPending then bankSwap microcodeOk { s with jobs := { s.jobs with swapPending := false } } else s
  rereadStart (trainDue (clockTaps (pcSwap s)))

/-- An armed furrow that has not begun to write returns to the queue (R19, R215), and what waited for the furrow
boundary happens: the banks swap before the next furrow arms (R17). The check of the microcode at a swap that then
happens is a free value (log entry 20). -/
def disarm (s : State) : State :=
  match s.jobs.run with
  | none => s
  | some r =>
    if r.begun then s
    else boundaryWork (Config.microcodeOk s.freeCount) (plannerStop (jobState 1 0 (idleStage (dropRun s))))

/-- A FURROW_END of a group has still to be sent. -/
def State.endUnsent (s : State) : Bool :=
  s.groups.any fun g => (s.grp g).cmds.any fun c => c.attempts == 0 && leAt c.bytes 0 1 == 6

/-- A furrow that is to be disarmed is, once every group has sent its FURROW_END (R215). -/
def endDisarm (s : State) : State :=
  match s.jobs.run with
  | some r => if r.ending && !s.endUnsent then disarm s else s
  | none => s

/-- FURROW_END goes to every group that can send it, and the armed furrow is disarmed after that (R215). -/
def endFurrow (r : Run) (s : State) : State :=
  endDisarm (s.groups.foldl (fun s g =>
    if s.groupState g = 2 ∨ s.groupState g = 3 then queueCmd g none furrowEndCmd s else s) (setRun { r with ending := true } s))

/-- The armed, written or held head furrow is cancelled at a shot boundary (R279). The check of the microcode at a swap
that then happens is a free value (log entry 20). -/
def cancelRun (s : State) : State :=
  match s.head?, s.jobs.run with
  | some d, some r =>
    let s := plannerStop (captureAbandon d (idleStage (dropRun s)))
    let s := { s with ret := { s.ret with resume := none } }
    let s := complete d 0x01 0 r.resumes r.entries [] (setQueue (s.jobs.queue.filter fun e => !e.same d) (unlockStream d s))
    boundaryWork (Config.microcodeOk s.freeCount) (if s.jobs.queue.isEmpty then jobState 0 0 s else jobState 1 0 s)
  | _, _ => s

/-- The posts and the admission of a descriptor's stream end. -/
def unpost (d : Desc) (s : State) : State :=
  { s with jobs := { s.jobs with
    posts := s.jobs.posts.filter fun p => !(p.2.1 == d.party && p.2.2 == d.ringSeq)
    admitting := match s.jobs.admitting with
      | some p => if p.2.1 == d.party && p.2.2 == d.ringSeq then none else some p
      | none => none } }

/-- A queued descriptor that is not being run completes CANCELLED. A capture it holds from an earlier arming is
abandoned. What its feeder's admission report shows where the check of its stream had not ended is not stated: the model
leaves it at STATE 1 and raises no interrupt (R89; log entry 77). -/
def cancelQueued (d : Desc) (s : State) : State :=
  completeUnarmed d 0x01 (captureAbandon d <| setQueue (s.jobs.queue.filter fun e => !e.same d) (unlockStream d (unpost d s)))

/-- A cancel reaches the descriptors a test picks; a trigger already committed is still issued (R245, R279). -/
def cancelWhere (p : Desc → Bool) (s : State) : State :=
  let hit := s.jobs.queue.filter p
  let headRun := match s.head? with | some d => p d && s.furrowArmed | none => false
  let was := s.shownHead
  let rest := hit.filter fun d => !(headRun && (match s.head? with | some h => h.same d | none => false))
  let s := if headRun then
      match s.jobs.run with
      | some r =>
        if s.shot.committed.isSome ∧ r.phase ≠ .held then setRun { r with cancelled := true } s else cancelRun s
      | none => s
    else s
  let s := rest.foldl (fun s d => cancelQueued d s) s
  if s.furrowArmed || s.shownHead.map (fun d => (d.party, d.ringSeq)) == was.map (fun d => (d.party, d.ringSeq)) then s
  else headState s

/-- CANCEL_HEAD (R279). -/
def cancelHead (s : State) : State :=
  match s.shownHead with
  | some h => cancelWhere h.same s
  | none => s

/-- CANCEL_JOB (R279). -/
def cancelJob (s : State) : State :=
  match s.shownHead with
  | some h => cancelWhere (fun d => d.job == h.job) s
  | none => s

/-- CANCEL_ALL (R279). -/
def cancelAll (s : State) : State := cancelWhere (fun _ => true) s

/-! ### Resume (R329, R330) -/

/-- The ceilings of a resume (R167, R330): latched anew once CEILING_LOWERED was raised since they were latched last. -/
def resumeCeilings (r : Run) (s : State) : Run :=
  if r.lowered then
    let (mc, _, q) := s.ceilings
    { r with mcIn := min mc r.mcIn, maxQuanta := min q r.maxQuanta, lowered := false }
  else r

/-- The ceilings a re-expansion begins with (R330). -/
def startCeilings (ck : Option Checkpoint) (r : Run) : Nat × Nat :=
  match ck with
  | some c => (c.mc, c.cp)
  | none => (r.mc0, r.cp0)

/-- The run starts over from a checkpoint toward a shot, its frames sent from `from'` on. -/
def reExpand (d : Desc) (i : StreamInfo) (ck : Option Checkpoint) (r : Run) (target : Nat) (from' : Option Nat)
    (cmds : List (List Byte)) (s : State) : State :=
  let (mc, cp) := startCeilings ck r
  let c := match ck with | some k => k.shot | none => 0
  let r := { r with
    mc, cp, computed := r.computed.map fun _ => c, causes := 0, unacked := 0, dueCauses := 0, fired := false, begun := true }
  let s := pathFrom i ck (setRun r s)
  let s := linkRun (from'.getD c) target cmds (stageRun target (prepassStart s))
  let (x, y) := s.startPoint d target
  planStart x y s

/-- What a resume leaves behind of the hold: its causes, and the blocks open for a patch (R305). RESUMED, and after
CEILING_LOWERED also CEILING_CHANGED, join the signatures (R66, R283). -/
def holdEnd (r : Run) (phase : RunPhase) : Run :=
  { r with phase, causes := 0, unacked := 0, dueCauses := 0, flags := r.flags ||| (if r.lowered then 0x21 else 0x01) }

/-- The hold's conditions are met, and every place has a unit or takes a spare; where one stays bare the furrow is held
for it (R132, R179). -/
def refitHeld (s : State) : State :=
  if !s.mayResume then s
  else
    let s := refit s
    let s := if s.barePositions.isEmpty then s else raiseCause 0x09 s
    if s.bareGroups.isEmpty then s else raiseCause 0x0A s

/-- The head furrow resumes once nothing holds it any more (R328–R330); the JOB_BLOCKED vector is raised (R294). -/
def resumeFurrow (s : State) : State :=
  let s := refitHeld s
  match s.head?, s.jobs.run with
  | some d, some r =>
    if !s.mayResume then s
    else match s.streamOf d with
      | none => s
      | some i =>
        let s := ceilingOff { s with mem := { s.mem with openPatch := [] } }
        if r.segLast < r.sf then
          -- Every shot of the run has fired: nothing is left to re-expand.
          let s := setRun (holdEnd r (if r.trav then .traverse else .writing)) s
          raise 1 (jobState (if r.trav then 6 else 4) 0 (s.set F.SHT_STATUS_STATE 0))
        else if r.trav then
          -- R335: the traverse resumes at the run's first unfired shot.
          let (ck, s) := startingCheckpoint d r.sf (prepassResume s)
          let r := { holdEnd r .traverse with segFirst := r.sf, firstSend := r.sf, resumeDue := false }
          raise 1 (jobState 6 0 (reExpand d i ck r r.sf (some r.sf) [resumeAtCmd r.sf] s))
        else if 4096 ≤ r.resumeTable.length then
          cancelRun (event 0x102 s.jpf s)
        else
          let rc := resumeCeilings (holdEnd r .armed) s
          let (ck, s) := startingCheckpoint d r.sf (prepassResume s)
          let s := showCeilings rc s
          let r := { rc with segFirst := r.sf, firstSend := r.sf, resumeDue := true }
          raise 1 (jobState 3 0 (reExpand d i ck r r.sf none [resumeAtCmd r.sf] s))
  | _, _ => s

end Sys2Proof.Machine
end

