-- ==== Sys2Proof/Machine/Traverse.lean ====
section
/-! DEFINITION. The repair traverse and the mid-furrow repair, their rounds and runs, and the end of a furrow
(R119, R130, R158, R181, R282–R285, R331–R336). -/

namespace Sys2Proof.Machine

/-- Every shot the link resolved has its report or its gap counted (R205). -/
def State.accountsClosed (s : State) : Bool := s.groups.all fun g => (s.grp g).resolved.isEmpty

/-- JOB_REPAIR_STATUS.STATE. -/
def repairState (st : Nat) (s : State) : State := s.set F.JOB_REPAIR_STATUS_STATE st

/-- Entries not marked VOID. -/
def liveEntries (l : List RepairEntry) : List RepairEntry := l.filter fun e => !e.void

/-- Nothing of the planner's writing is under way: the stage rests or is in a headland (R256, R257). -/
def State.stageRests (s : State) : Bool :=
  match s.pln.motion with
  | .segment => false
  | .runOut => false
  | .stopping => false
  | _ => true

/-- The next repair run of the round begins (R333). -/
def repairRunStart (s : State) : State :=
  match s.head?, s.jobs.run with
  | some d, some r =>
    match r.runs, s.streamOf d with
    | u :: _, some i =>
      let r := { r with phase := .traverse, sf := u.first, segFirst := u.first, segLast := u.last, firstSend := u.first
                        resumeDue := false }
      let (ck, s) := startingCheckpoint d u.first s
      let s := reExpand d i ck r u.first (some u.first) [resumeAtCmd u.first] s
      repairState (if r.mid then 5 else 1) s
    | _, _ => s
  | _, _ => s

/-- FURROW_START with the repair bit to every group that takes part (R333). -/
def traverseStartCmds (d : Desc) (r : Run) (s : State) : State :=
  s.groups.foldl (fun s g =>
    if s.groupState g = 2 ∨ s.groupState g = 3 then queueCmd g none (furrowStartCmd d r.nShot r.tq true) s else s) s

/-- A round begins with the entries given; the traverse's first round begins with FURROW_START (R333). -/
def roundStart (d : Desc) (entries : List RepairEntry) (round : Nat) (s : State) : State :=
  match s.jobs.run with
  | none => s
  | some r =>
    let first := !r.trav
    let r := { r with
      trav := true, roundOpen := true, round := round, runs := s.runsOf entries, nextRound := []
      mainSf := if r.trav then r.mainSf else r.sf, phase := .traverse, causes := 0, unacked := 0, dueCauses := 0 }
    let s := { s with jobs := { s.jobs with repair := entries, overflow := [] } }
    let s := (showRepair (setRun r s)).set F.JOB_REPAIR_STATUS_ROUND round
    repairRunStart (jobState 6 0 (if first then traverseStartCmds d r s else s))

/-- A traverse, a mid-furrow repair or the next round is due, with its entries (R331, R332, R335). -/
def State.traverseDue (s : State) : Bool :=
  match s.jobs.run with
  | none => false
  | some r =>
    let some' := !(liveEntries (s.jobs.repair ++ s.jobs.overflow)).isEmpty
    s.stageRests && some' && !r.roundOpen &&
      if r.trav then true
      else if r.phase = .held then
        r.causes.testBit 0x18 && r.unacked == 0 && s.holdPending == 1 <<< 0x18
      else decide (r.nShot ≤ r.sf) && s.accountsClosed

/-- A group went fallow, or was lost before this traverse began to arm, and trains first (R207, R333). -/
def State.outBefore (s : State) (g : Nat) : Bool :=
  s.txEnabled g && (s.groupState g == 4 || (s.groupState g == 5 && (s.grp g).tries != 2))

/-- REPAIR_TRAVERSE_ARM (R333): groups that went out of service train first; then the conditions are judged. -/
def traverseArm (s : State) : State :=
  match s.head?, s.jobs.run with
  | some d, some r =>
    if r.trav && r.roundOpen && r.phase == .traverse && decide (r.segLast < r.sf) && !r.runs.isEmpty && s.stageRests &&
        s.islandOpen 5 then
      if s.fence.headLevel = 0 then repairRunStart s else s
    else if !s.traverseDue || !s.islandOpen 5 then s
    else if s.groups.any s.outBefore then
      s.groups.foldl (fun s g => if s.outBefore g then trainStart g 0 s else s) s
    else if s.groups.any fun g => s.groupState g == 1 then s
    else match lowestCode s.blocksAgain with
      | some c => repairState 4 (jobState 2 c s)
      | none =>
        if r.trav then roundStart d s.jobs.repair r.round s
        else
          let r := { r with mid := r.phase == .held }
          let (read, s) := readEntries s.jobs.repair.length 0 s.jobs.repair (setRun r s)
          roundStart d (liveEntries read ++ liveEntries s.jobs.overflow) 0 s
  | _, _ => s

/-- Entries of a round that no entry of the next one repeats in part: each of their shots fired. -/
def repairedOf (round next : List RepairEntry) : Nat :=
  (round.filter fun e => !e.void && !(next.any fun f =>
    f.group == e.group && rangesMeet e.first e.count f.first f.count)).length

/-- The traverse ends with entries left (R335). -/
def traverseEnd (left : Nat) (s : State) : State :=
  match s.jobs.run with
  | none => s
  | some r =>
    let s := if left = 0 then s else event 0x104 (s.jpf ++ leBytes 4 left) s
    let s := { s with jobs := { s.jobs with repair := [], overflow := [] } }
    let r := { r with roundOpen := false, runs := [], nextRound := [], unrepaired := r.unrepaired + left }
    let s := linkHalt s
    if r.mid then
      let r := { r with
        trav := false, mid := false, sf := r.mainSf, segLast := r.nShot - 1, phase := .held, causes := 1 <<< 0x18 }
      repairState 0 (jobState 5 0 (showRepair (setRun r s)))
    else repairState 0 (showRepair (setRun { r with phase := .traverse } s))

/-- A round whose runs have fired and whose reports are in ends (R335). -/
def traverseSettle (s : State) : State :=
  match s.jobs.run with
  | none => s
  | some r =>
    if !(r.trav && r.roundOpen && r.runs.isEmpty && s.accountsClosed) || r.phase == .held then s
    else
      let next := liveEntries r.nextRound
      let r := { r with repaired := r.repaired + repairedOf s.jobs.repair next, roundOpen := false }
      let s := setRun r s
      if next.isEmpty ∨ s.maxRounds ≤ r.round + 1 then traverseEnd next.length s
      else
        let s := { s with jobs := { s.jobs with repair := next, overflow := [] } }
        showRepair (setRun { r with round := r.round + 1, nextRound := [] } (linkHalt s))

/-- SKIP (R335): entries whose shots have not fired are left. -/
def repairSkip (s : State) : State :=
  match s.jobs.run with
  | none => s
  | some r =>
    if !r.trav then
      if r.nShot ≤ r.sf ∨ (r.phase = .held ∧ r.causes.testBit 0x18) then
        let left := (liveEntries (s.jobs.repair ++ s.jobs.overflow)).length
        let s := if left = 0 then s else event 0x104 (s.jpf ++ leBytes 4 left) s
        showRepair (setRun { r with unrepaired := r.unrepaired + left }
          { s with jobs := { s.jobs with repair := [], overflow := [] } })
      else s
    else
      let pending := if r.roundOpen then
          (liveEntries s.jobs.repair).filter fun e => r.runs.any fun u =>
            decide (u.first ≤ e.first + e.count - 1) &&
              decide (max u.first (if u.last = r.segLast then r.sf else u.first) ≤ e.first + e.count - 1) &&
              decide (e.first ≤ u.last)
        else liveEntries s.jobs.repair
      let left := pending ++ liveEntries r.nextRound
      let done := if r.roundOpen then repairedOf s.jobs.repair left else 0
      plannerStop (withdraw (traverseEnd left.length (setRun { r with repaired := r.repaired + done } s)))

/-- The registers a completed furrow leaves (R119, R130, R158, R181, R344). -/
def lastRegs (d : Desc) (r : Run) (s : State) : State :=
  let c := s.path.counts
  let pf := d.pass <<< 16 + d.furrow
  let w := fun (n : Nat) => satN 32 n
  let s := (s.wr F.HRW_LAST_FURROW.off pf).wr F.HRW_LAST_OVERLAP_PIXELS.off (w c.overlap)
  let s := (s.wr F.HRW_LAST_SATURATED_PIXELS.off (w c.saturated)).wr F.HRW_LAST_SWEEPS.off (w c.sweeps)
  let s := s.wr F.HRW_LAST_LEAD.off (satN 16 c.starved <<< 16 + min 1024 c.minLead)
  let s := s.wr F.MDR_LAST_MULT.off
    (if s.madBypass then 16384 <<< 16 + 16384 else c.multMax <<< 16 + c.multMin)
  let s := (s.wr F.MDR_LAST_CLAMPS.off (w c.multClamped)).wr F.MDR_LAST_TARGET_CLAMPED.off (w c.targetClamped)
  let s := s.wr F.MDR_LAST_STARVED.off (satN 16 c.madStarved <<< 16 + min 65535 c.minLook)
  let s := (s.wr F.MDT_LAST_PEAK.off c.peak).wr F.MDT_LAST_TRAIL_PEAK.off c.trailPeak
  let s := (s.wr F.MDT_LAST_SCALED.off (w c.scaled)).wr F.MDT_LAST_PAUSE.off (bitOf c.pauseReset <<< 31 + satN 16 c.pauseN)
  let s := (s.wr F.SOW_LAST_CEILING_CLAMPED.off (w c.ceiling)).wr F.SOW_LAST_STUCK_EXCESS.off (w c.stuck)
  let s := (s.wr F.SOW_LAST_NO_EXPOSURE.off (w c.noExposure)).wr F.SOW_LAST_EXCESS_QUANTA.off (w c.excess)
  let s := s.wr F.SOW_LAST_DISPLACED_OUT.off (w c.displaced)
  s.wr F.JOB_LAST_REPAIR.off (satN 16 r.repaired <<< 16 + satN 8 r.unrepaired <<< 8 + satN 8 r.lost)

/-- The furrow and any traverse are over (R336): every shot fired, every signature whole, the account closed and no
entry left, with the stage past its run-out. -/
def State.furrowOver (s : State) : Bool :=
  match s.jobs.run with
  | none => false
  | some r =>
    let over' := if r.trav then !r.roundOpen && !r.mid else decide (r.nShot ≤ r.sf)
    over' && r.phase != .held && s.accountsClosed && s.pln.motion != .segment && s.pln.motion != .runOut &&
      (liveEntries (s.jobs.repair ++ s.jobs.overflow)).isEmpty && (r.sig.take s.cls.groups).all fun q => q.2 == r.nShot

/-- A furrow completes: the completion record, its registers, and what the boundary brings (R282–R285, R336, R341). -/
def furrowComplete (microcodeOk : Bool) (s : State) : State :=
  match s.head?, s.jobs.run with
  | some d, some r =>
    if !s.furrowOver then s
    else
      let sigs := r.sig.map fun q => q.1 ^^^ 0xFFFFFFFF
      let s := lastRegs d r s
      let s := captureAbandon d (idleStage (dropRun (leadKeep s)))
      let s := { s with ret := { s.ret with resume := none } }
      let s := complete d 0x00 r.flags r.resumes r.entries sigs
        (setQueue (s.jobs.queue.filter fun e => !e.same d) (unlockStream d s))
      let s := repairState 0 (if s.jobs.queue.isEmpty then jobState 0 0 s else jobState 1 0 s)
      boundaryWork microcodeOk s
  | _, _ => s

end Sys2Proof.Machine
end

