-- ==== Sys2Proof/Machine/LinkEvents.lean ====
section
/-! DEFINITION. What comes back over the Drill Link: acknowledgements, NAKs, shot reports, status, lane states, figures
of merit and the head's memory, and the timers beside them (R197–R217, R353, R367, R368, R399). -/

namespace Sys2Proof.Machine

/-! ### Head temperature (R367, R368) -/

/-- The head's level (R367): 0 normal, 1 warning, 2 critical, with the hysteresis of R368. -/
def State.levelNow (s : State) : Nat :=
  let now := signed 8 (s.f F.DRL_HEAD_TEMP_TEMP_NOW)
  let al := s.f F.DRL_HEAD_TEMP_ALARMS
  let seen := s.groups.any fun g => (s.grp g).status.isSome
  let (w, c, low) := match s.fence.headTemps with
    | some (tw, tc) =>
      let tw := signed 8 tw
      (seen && decide (tw ≤ now), seen && decide (signed 8 tc ≤ now),
        decide (now < tw - (s.f F.FNC_HEAD_THERMAL_HYST : Int)))
    | none => (false, false, true)
  if c || al.testBit 6 then 2 else if w || al.testBit 7 then 1
  else if s.fence.headLevel ≠ 0 ∧ !low then 1 else 0

/-- The rest of the run fits the allowance (R367). -/
def State.withinAllowance (s : State) (r : Run) : Bool :=
  decide ((r.segLast + 1 - r.sf) * s.f F.SHT_SHOT_RATE_T_SHOT < s.f F.FNC_HEAD_THERMAL_ALLOWANCE_MS * 64000000)

/-- What the head's level does to the run (R367). -/
def headEffect (s : State) : State :=
  match s.jobs.run with
  | none => s
  | some r =>
    if s.fence.headLevel = 0 then s
    else if r.phase = .held then (if r.causes.testBit 5 then s else raiseCause 0x05 s)
    else if r.phase = .writing then
      if s.fence.headLevel = 1 ∧ s.withinAllowance r then setRun { r with finishing := true } s else dueCause 0x05 s
    else s

/-- The head's level is judged; a level reached is recorded and acts (R367). -/
def headLevels (s : State) : State :=
  let l := s.levelNow
  let was := s.fence.headLevel
  let s := { s with fence := { s.fence with headLevel := l } }
  let s := if was < l then
      let s := if 0 < l then s.set F.HK_FLAGS_HEAD_WARN 1 else s
      let s := if l = 2 then s.set F.HK_FLAGS_HEAD_CRIT 1 else s
      raise 10 (event 0x604 [BitVec.ofNat 8 l, BitVec.ofNat 8 (s.f F.DRL_HEAD_TEMP_TEMP_NOW),
        BitVec.ofNat 8 (s.f F.DRL_HEAD_TEMP_ALARMS), 0] s)
    else s
  headEffect s

/-! ### Words of the back-channel (R197–R199) -/

/-- The group's words are received: its BK is aligned, which with AUTO_ALIGN 0 the first valid word shows (R208). -/
def hear (g : Nat) (s : State) : Option State :=
  if !s.linkUp g then none
  else
    let x := s.grp g
    let s := setGrp g { x with bkLost := false } s
    if s.on (F.DRL_Gnn_STATUS_BK_ALIGNED g) then some s
    else if (x.phase == 1 || x.phase == 2) && !s.on (F.DRL_Gnn_CTRL_AUTO_ALIGN g) then some (bkAligned g s)
    else none

/-- A valid word with nothing to act on. -/
def idleBk (g : Nat) (s : State) : State := (hear g s).getD s

/-- 1 µs without a valid word (R199): the group goes fallow in an armed furrow, and otherwise trains again as a write of
TRAIN would make it. -/
def bkLost (g : Nat) (s : State) : State :=
  let st := s.groupState g
  if !s.linkUp g ∨ !s.on (F.DRL_Gnn_STATUS_BK_ALIGNED g) ∨ st = 0 ∨ st = 5 then s
  else
    groupOut g 0xFF (setGrp g { s.grp g with bkLost := true } s)

/-! ### Acknowledgements and NAKs (R193, R201) -/

/-- One lane's frame of a shot is acknowledged: the frame that the physical lane sent last for that shot, on behalf of
whichever logical lane it carried then. -/
def ackLane (g p low : Nat) (s : State) : State :=
  let x := s.grp g
  match (x.lane p).sent.find? fun f => f.kind == 1 && f.key % 65536 == low with
  | none => s
  | some f =>
    match (x.ring f.logical).find? fun e => e.shot == f.key with
    | none => s
    | some e =>
      if e.acked then s
      else
        let ring := (x.ring f.logical).map fun q => if q.shot = e.shot then { q with acked := true, due := false } else q
        attemptResult g p f.alive false (setGrp g { x with rings := x.rings.set f.logical ring } s)

/-- ACK_SHOT (R201): `mask` has a bit for each physical lane. -/
def ackShot (g low mask : Nat) (s : State) : State :=
  match hear g s with
  | none => s
  | some s => (onesOf mask 9).foldl (fun s p => ackLane g p (low % 65536) s) s

/-- The acknowledged command was SPARE_MAP(0xFF) of a rolling calibration: its lane takes its logical lane back
(R377). -/
def rollAcked (g : Nat) (c : LinkCmd) (s : State) : State :=
  match s.rolling g with
  | some (q, 4) =>
    if leAt c.bytes 0 1 = 3 ∧ leAt c.bytes 4 1 = 0xFF then
      let s := s.set (F.DRL_Gnn_STATUS_L8_CARRIES g) 15
      let x := s.grp g
      let ring := (x.ring q).map fun e => if e.acked then e else { e with due := true }
      setGrp g { x with rings := x.rings.set q ring, training := [] } { s with cal := { s.cal with step := 5 } }
    else s
  | _ => s

/-- ACK_FRAME (R193): the command leaves the queue. -/
def ackFrame (g seq : Nat) (s : State) : State :=
  match hear g s with
  | none => s
  | some s =>
    let x := s.grp g
    match x.cmds.find? fun c => c.seq == seq && c.last.isSome with
    | none => s
    | some c =>
      let s := setGrp g { x with
        cmds := x.cmds.filter fun e => e.seq != seq
        runCmd := if x.runCmd = some seq then none else x.runCmd } s
      let s := match c.last with | some (p, alive) => attemptResult g p alive false s | none => s
      rollAcked g c s

/-- NAK (R201): `alive` as the head expected it on the physical lane. -/
def nak (g p alive : Nat) (s : State) : State :=
  match hear g s with
  | none => s
  | some s =>
    match s.latest g p alive with
    | some f => attemptFailed g p f (s.inc (F.DRL_Gnn_NAKS_NAKS g) 1)
    | none => s

/-- No reply to an attempt in its time (R201). -/
def attemptTimeout (g p alive : Nat) (s : State) : State :=
  match s.latest g p alive with
  | some f => if f.kind = 1 then attemptFailed g p f (s.inc (F.DRL_Gnn_NAKS_TIMEOUTS g) 1) else s
  | none => s

/-- 4 µs without ACK_FRAME after the latest attempt of command `seq` (R193). -/
def commandTimeout (g seq : Nat) (s : State) : State :=
  match (s.grp g).cmds.find? fun c => c.seq == seq && !c.due && c.last.isSome with
  | some c =>
    match c.last with
    | some (p, alive) =>
      attemptFailed g p ⟨alive, 2, seq, 15, c.attempts⟩ (s.inc (F.DRL_Gnn_NAKS_TIMEOUTS g) 1)
    | none => s
  | none => s

/-! ### Shot reports (R205, R399) -/

/-- A beam counter of the usage window counted up (R399). -/
def usageCount (b : Nat) (l : List (Nat × Nat)) : List (Nat × Nat) :=
  alSet l b (min (2 ^ 32 - 1) ((alGet l b).getD 0 + 1))

/-- The usage of a settled fired shot of a group (R399). -/
def usageShot (g : Nat) (pay : List (List Byte)) (s : State) : State :=
  let beams := (List.range 8).flatMap fun l =>
    ((planeCodes (pay.getD l zeroPayload)).zipIdx).filterMap fun c =>
      let b := 672 * (16 * g + 2 * l + c.2 / 672) + c.2 % 672
      match s.beamState b with
      | 2 => some b
      | 0 => if c.1 ≠ 0 then some b else none
      | _ => none
  if s.ledger.usageClearing then
    { s with ledger := { s.ledger with usageLate := beams.foldl (fun l b => usageCount b l) s.ledger.usageLate } }
  else { s with usage := beams.foldl (fun l b => usageCount b l) s.usage }

/-- A repair traverse is being run. -/
def State.inTraverse (s : State) : Bool := match s.jobs.run with | some r => r.trav | none => false

/-- A shot no report covers keeps the device's resolution, which stands in for the head's report, and is counted (R205,
R283, R337). -/
def reportGap (g : Nat) (q : Nat × Bool × List (List Byte)) (s : State) : State :=
  let s := flagRun 2 (s.inc (F.DRL_Gnn_LEAD_REPORT_GAPS g) 1)
  if q.2.1 then usageShot g q.2.2 (if s.inTraverse then flagRun 1 s else s) else s

/-- A resolved shot meets the head's report of it (R205). -/
def reconcile (g lanes : Nat) (fired : Bool) (q : Nat × Bool × List (List Byte)) (s : State) : State :=
  if fired then
    let s := if s.inTraverse then flagRun 1 s else s
    usageShot g q.2.2 (if q.2.1 then s else voidEntry g q.1 s)
  else if q.2.1 then
    addEntry (shotEntry 1 g q.1 lanes) (s.inc (F.DRL_Gnn_MISSES_HEAD_REPORTED g) 1)
  else s

/-- One of the four shots a report covers. -/
def reportOne (g low lanes : Nat) (fired : Bool) (s : State) : State :=
  let x := s.grp g
  match x.resolved.find? fun q => q.1 % 65536 == low with
  | none => s
  | some q => reconcile g lanes fired q (setGrp g { x with resolved := x.resolved.filter fun e => e.1 != q.1 } s)

/-- SHOT_REPORT (R205): `first` is R mod 65,536, bit 3 of `fired` is R's, `lanes` the logical lanes lacking. -/
def shotReport (g first fired lanes : Nat) (s : State) : State :=
  match hear g s with
  | none => s
  | some s =>
    let r := first % 65536
    let top : Nat := (s.grp g).resolved.foldl (fun m q => if q.1 % 65536 = r then max m (q.1 + 1) else m) 0
    let s := [3, 2, 1, 0].foldl (fun s i =>
      reportOne g ((r + 65536 - i) % 65536) (if i = 0 then lanes else 0xFF) (fired.testBit (3 - i)) s) s
    -- Shots older than the four of a report are covered by no later one.
    let x := s.grp g
    let old := x.resolved.filter fun (q : Nat × Bool × List (List Byte)) => decide (q.1 + 4 < top)
    let s := setGrp g { x with resolved := x.resolved.filter fun (q : Nat × Bool × List (List Byte)) => decide (top ≤ q.1 + 4) } s
    traverseSettle (old.foldl (fun s q => reportGap g q s) s)

/-- The link account closes 20 µs after the last trigger of a run (R205). -/
def accountClose (s : State) : State :=
  match s.jobs.run with
  | none => s
  | some r =>
    if r.sf ≤ r.segLast then s
    else
      let s := s.groups.foldl (fun s g =>
        let x := s.grp g
        x.resolved.foldl (fun s q => reportGap g q s) (setGrp g { x with resolved := [] } s)) s
      traverseSettle s

/-! ### Head memory (R215–R217) -/

/-- The lane rate's bit of LANE_RATES. -/
def State.rateBit (s : State) : Nat := if s.fuses.grade20 then 0 else 1

/-- A block whose CRC is right fails the check of R217, other than by MAGIC or FORMAT. -/
def State.blockMismatch (s : State) (b : List Byte) : Bool :=
  decide (16384 < leAt b 0x24 4) || leAt b 6 2 != s.cls.nRow || !(leAt b 0x16 1).testBit s.rateBit ||
    decide (leAt b 0x14 2 < 1000) || s.head.blocks.any fun x => x.2 != b

/-- The fields of an identity block go into the DRL_HEAD registers (R217). -/
def headFields (b : List Byte) (s : State) : State :=
  let s := s.wr F.DRL_HEAD_ID.off (leAt b 0xA 2 <<< 16 + leAt b 8 2)
  let s := (s.wr F.DRL_HEAD_SERIAL_LO.off (leAt b 0xC 4)).wr F.DRL_HEAD_SERIAL_HI.off (leAt b 0x10 4)
  let s := s.wr F.DRL_HEAD_RANK.off (leAt b 0x14 2 <<< 16 + (leAt b 0x16 1 % 4) <<< 10 + leAt b 6 2 % 1024)
  let s := s.wr F.DRL_HEAD_TIMING.off (leAt b 0x18 2 <<< 16 + leAt b 0x1A 2)
  let s := s.wr F.DRL_HEAD_TQ.off (leAt b 0x1E 2 <<< 16 + leAt b 0x1C 2)
  (s.set F.DRL_HEAD_TEMP_TEMP_WARN (leAt b 0x20 1)).set F.DRL_HEAD_TEMP_TEMP_CRIT (leAt b 0x21 1)

/-- The head plane of a defect list (R162, R216): beams by kind, and how many entries are ignored. -/
def defectPlane (nRow : Nat) (entries : List Nat) : List (Nat × Nat) × Nat :=
  entries.foldl (fun p e =>
    let kind := bits e 31 30
    let b := bits e 17 0
    if kind = 0 ∨ 672 * nRow ≤ b then (p.1, p.2 + 1)
    else
      let old := (alGet p.1 b).getD 0
      let new := if old = 2 ∨ kind = 2 then 2 else if old = 1 ∨ kind = 1 then 1 else 3
      (alSet p.1 b new, p.2)) ([], 0)

/-- The plane packed into words of 16 beams. -/
def planeWords (p : List (Nat × Nat)) : List (Nat × Nat) :=
  p.foldl (fun w e => alSet w (e.1 / 16) ((alGet w (e.1 / 16)).getD 0 + e.2 <<< (2 * (e.1 % 16)))) []

/-- Each reading records HEAD_MEMORY_READ with its result, and the head is judged again. While a block of the present
reading has failed its CRC three times the result is CRC_BAD (R215). -/
def headReadEvent (result : Nat) (s : State) : State :=
  let result := if s.head.failed.isEmpty then result else 2
  let s := s.set F.DRL_HEAD_MEMORY_RESULT result
  event 0x302 (leBytes 4 (leAt s.headBlock 0x28 4) ++ [BitVec.ofNat 8 result, 0, 0, 0]) s

/-- A group whose training waited for its reading is ready. -/
def readingDone (g : Nat) (s : State) : State :=
  let s := { s with head := { s.head with reads := alErase s.head.reads g } }
  if (s.grp g).phase = 5 then trainingDone g s else s

/-- The first reading, or changed content, disarms a furrow that has not begun (R19). -/
def headContent (content : List Byte) (s : State) : State :=
  if s.head.defects = content then s else disarm { s with head := { s.head with defects := content } }

/-- The defect list has been read with its CRC right (R216). -/
def defectsTaken (b l : List Byte) (s : State) : State :=
  let n := leAt b 0x24 4
  let (plane, ignored) := defectPlane (leAt b 6 2) ((List.range n).map fun i => leAt l (4 * i) 4)
  let bad := s.blockMismatch b
  let s := { s with headPlane := planeWords plane, jobs := { s.jobs with headRead := true } }
  let s := (s.set F.DRL_HEAD_MEMORY_DEFECT_COUNT n).set F.DRL_HEAD_MEMORY_IGNORED (satN 6 ignored)
  let s := s.set F.DRL_HEAD_MEMORY_GENERATION (leAt b 0x28 1)
  let s := if bad then s
    else
      let khz := min (if s.fuses.grade20 then 2000 else 2800) (leAt b 0x14 2)
      let s := s.wr F.SHT_SHOT_RATE.off (khz <<< 16 + 64000000 / khz)
      { s with fence := { s.fence with headTemps := some (leAt b 0x20 1, leAt b 0x21 1) } }
  headLevels (headContent (b ++ l) (headReadEvent (if bad then 3 else 1) s))

/-- The lowest-numbered ready group, or one that waits for its reading in training (R207, R215). -/
def State.readyGroup (s : State) : Option Nat :=
  s.groups.find? fun g => let st := s.groupState g; st == 2 || st == 3 || (s.grp g).phase == 5

/-- An identity block has been read with its CRC right (R215, R217). -/
def identityTaken (g : Nat) (b : List Byte) (s : State) : State :=
  let s := { s with head := { s.head with blocks := alSet s.head.blocks g b } }
  if !headKnown b then
    readingDone g (headContent b (headReadEvent 3 { s with jobs := { s.jobs with headRead := true } }))
  else
    let s := (headFields b s).set F.DRL_HEAD_MEMORY_GENERATION (leAt b 0x28 1)
    if 16384 < leAt b 0x24 4 then
      readingDone g (headContent b (headReadEvent 3 { s with jobs := { s.jobs with headRead := true } }))
    else
      let s := if s.jobs.headRead ∧ s.blockMismatch b then headReadEvent 3 s else s
      let busy := s.head.reads.any fun q => q.2.defects
      match (if s.jobs.headRead ∨ busy then none else s.readyGroup) with
      | some h =>
        let s := { s with head := { s.head with reads := alErase s.head.reads g } }
        let s := defectRead h (leAt b 0x24 4) 0 s
        if h = g then s else readingDone g s
      | none => readingDone g s

/-- A block fails its CRC: it is read up to three times (R215). -/
def readFailed (g : Nat) (h : HeadRead) (s : State) : State :=
  if h.tries + 1 < 3 then
    if h.defects then defectRead g ((h.bytes.length - 4) / 4) (h.tries + 1) s else identityRead g (h.tries + 1) s
  else
    let k := if h.defects then 32 else g
    readingDone g (headReadEvent 2 { s with
      jobs := { s.jobs with headRead := true }
      head := { s.head with failed := setInsert s.head.failed k } })

/-- MEM_DATA (R215): `value` is INDEX << 16 | DATA; the last half-word of a MEM_READ ends it. -/
def memData (g value : Nat) (s : State) : State :=
  match hear g s with
  | none => s
  | some s =>
    match alGet s.head.reads g with
    | none => s
    | some h =>
      let i := bits value 27 16
      let base := h.addr - (if h.defects then 0x1000 else 0)
      let size := if h.defects then h.bytes.length else 128
      let old := sliceBytes h.bytes 0 size
      let bytes := (old.take (base + 2 * i)) ++ leBytes 2 (value % 65536) ++ old.drop (base + 2 * i + 2)
      let h := { h with bytes := bytes.take size }
      let s := { s with head := { s.head with reads := alSet s.head.reads g h } }
      if i + 1 ≠ h.awaited then s
      else
        let next := h.addr + 2 * h.awaited
        let done := base + 2 * h.awaited
        if done < size then headReadNext g { h with addr := next } (min 4096 ((size - done) / 2)) s
        else if h.defects then
          let l := h.bytes.take (size - 4)
          if crc32c l = leAt h.bytes (size - 4) 4 then
            readingDone g (defectsTaken ((alGet s.head.blocks g).getD s.headBlock) l s)
          else readFailed g h s
        else if crc32c (h.bytes.take 0x7C) = leAt h.bytes 0x7C 4 then identityTaken g h.bytes s
        else readFailed g h s

/-- A reread starts at once, or waits for the furrow being written or held (R215). A furrow that is armed only is
disarmed first, once every group has sent FURROW_END. -/
def rereadNow (s : State) : State :=
  if !s.head.reads.isEmpty ∨ s.head.rereadDue then s
  else
    let s := { s with head := { s.head with rereadDue := true } }
    match s.jobs.run with
    | none => rereadStart s
    | some r => if r.begun || r.phase == .held then s else endFurrow r s

/-- A physical lane reaches a frame boundary; the last FURROW_END sent disarms the furrow (R215). -/
def frameBoundary (g p : Nat) (s : State) : State := endDisarm (laneBoundary g p s)

/-! ### STATUS, LANE_STATE and FOM (R198, R209–R213) -/

/-- STATUS (R198): `body` is the word's BODY. -/
def statusWord (g body : Nat) (s : State) : State :=
  match hear g s with
  | none => s
  | some s =>
    let s := setGrp g { s.grp g with status := some body } s
    let all := s.groups.filterMap fun k => (s.grp k).status
    let temps := all.map fun b => signed 8 (bits b 23 16)
    let now := temps.foldl max (temps.headD 0)
    let al := all.foldl (fun m b => m ||| bits b 15 8) 0
    let s := (s.set F.DRL_HEAD_TEMP_TEMP_NOW (unsigned 8 now)).set F.DRL_HEAD_TEMP_ALARMS al
    let s := if body.testBit 11 then { s with fence := { s.fence with unseen := s.fence.unseen.filter (· != g) } } else s
    let s := headLevels (tallyHead s)
    if s.f F.DRL_HEAD_MEMORY_RESULT ≠ 0 ∧ bits body 7 0 ≠ s.f F.DRL_HEAD_MEMORY_GENERATION then rereadNow s else s

/-- LANE_STATE (R198): `locks` has a bit for each physical lane. -/
def laneState (g locks : Nat) (ckOk : Bool) (s : State) : State :=
  match hear g s with
  | none => s
  | some s =>
    let s := (s.set (F.DRL_Gnn_STATUS_LOCKED g) locks).set (F.DRL_Gnn_STATUS_CK_OK g) (bitOf ckOk)
    let st := s.groupState g
    let x := s.grp g
    if st = 1 ∧ x.phase ≤ 3 then lockingCheck g s
    else if st = 0 ∨ st = 5 then s
    else if !ckOk then groupOut g 0xFF s
    else
      lanesLost g 0 ((List.range 9).filter fun p =>
        let waits := x.training.contains p && decide ((x.lane p).trained < s.lockFrames)
        !s.laneLocked g p && (!s.laneOut g p || (s.grp g).training.contains p) && !waits) s

/-- The measured merit of a lane's setting goes into its adaptation (R210). -/
def adaptMerit (g p m : Nat) (s : State) : State :=
  match alGet (s.grp g).adapt p with
  | none => s
  | some a =>
    let (a, done) := a.merit (s.f F.DRL_ADAPT_CTRL_HYST) m
    if done then adaptDone g p a s
    else
      let x := s.grp g
      setGrp g { x with adapt := alSet x.adapt p a } s

/-- FOM (R209): `value` is TAG << 16 | H_OPEN << 8 | V_OPEN. -/
def fom (g p value : Nat) (s : State) : State :=
  match hear g s with
  | none => s
  | some s =>
    if 8 < p then s
    else
      let s := ((s.set (F.DRL_Gnn_FOM_TAG g p) (bits value 23 16)).set (F.DRL_Gnn_FOM_H_OPEN g p) (bits value 15 8)).set
        (F.DRL_Gnn_FOM_V_OPEN g p) (bits value 7 0)
      match alGet (s.grp g).adapt p with
      | some a => if a.asked ∧ a.tag = bits value 23 16 then adaptMerit g p (bits value 15 0) s else s
      | none => s

/-- No FOM within 100 µs: the request is resent, twice at most, and then the merit is 0 (R210). -/
def fomTimeout (g p : Nat) (s : State) : State :=
  match alGet (s.grp g).adapt p with
  | some a =>
    if !a.asked then s
    else if a.resends < 2 then
      let x := s.grp g
      queueCmd g none (fomCmd p a.tag s.dwell) (setGrp g { x with adapt := alSet x.adapt p { a with resends := a.resends + 1 } } s)
    else adaptMerit g p 0 s
  | none => s

/-! ### The back-channel's code-groups (R197)

The code is 8B/10B, as IEEE 802.3 Clause 36 gives it for data code-groups: the spec names that clause and does not repeat
it (PRESUMED, log entry 80). -/

/-- The six bits abcdei of the low five bits of a byte at negative running disparity. -/
def code6 : List Nat :=
  [0b100111, 0b011101, 0b101101, 0b110001, 0b110101, 0b101001, 0b011001, 0b111000,
   0b111001, 0b100101, 0b010101, 0b110100, 0b001101, 0b101100, 0b011100, 0b010111,
   0b011011, 0b100011, 0b010011, 0b110010, 0b001011, 0b101010, 0b011010, 0b111010,
   0b110011, 0b100110, 0b010110, 0b110110, 0b001110, 0b101110, 0b011110, 0b101011]

/-- The four bits fghj of the high three bits of a byte at negative running disparity. -/
def code4 : List Nat := [0b1011, 0b1001, 0b0101, 0b1100, 0b1101, 0b1010, 0b0110, 0b1110]

/-- A data code-group and the running disparity after it; disparities are true where positive. -/
def codeGroup (rd : Bool) (byte : Nat) : Nat × Bool :=
  let x := byte % 32
  let y := byte / 32
  let six := code6.getD x 0
  let odd6 := popCount six 6 != 3
  let six := if rd && (odd6 || x == 7) then six ^^^ 0b111111 else six
  let mid := rd != odd6
  let alt := y == 7 && (if mid then x == 11 || x == 13 || x == 14 else x == 17 || x == 18 || x == 20)
  let four := if alt then 0b0111 else code4.getD y 0
  let odd4 := popCount four 4 != 2
  let four := if mid && (odd4 || y == 3) then four ^^^ 0b1111 else four
  (16 * six + four, mid != odd4)

/-- The bytes that code-groups spell from a running disparity, with the disparity after them; none where one is invalid
or has the wrong disparity. -/
def decodeGroups : Bool → List Nat → Option (List Nat)
  | _, [] => some []
  | rd, c :: t =>
    match (List.range 256).find? fun b => (codeGroup rd b).1 == c with
    | some b => (decodeGroups (codeGroup rd b).2 t).map (b :: ·)
    | none => none

/-- A back-channel word of a TYPE and a BODY, with its CRC-8 (R197). -/
def bkWord (typ body : Nat) : Nat :=
  let w := typ <<< 28 + body
  w <<< 8 + crc8 (leBytes 4 w).reverse

/-- TYPE and BODY of 50 received bits, the code-group of B0 first; none where the word is to be discarded (R197,
R199). -/
def bkDecode (rd : Bool) (raw : Nat) : Option (Nat × Nat) :=
  match decodeGroups rd ((List.range 5).map fun i => bits raw (49 - 10 * i) (40 - 10 * i)) with
  | none => none
  | some bs =>
    let w := bs.foldl (fun n b => 256 * n + b) 0
    let typ := bits w 39 36
    let body := bits w 35 8
    if w = bkWord typ body ∧ typ < 9 then some (typ, body) else none

/-- What a valid word says (R197). -/
def bkAct (g typ body : Nat) (s : State) : State :=
  let b := fun (hi lo : Nat) => bits body (hi - 8) (lo - 8)
  match typ with
  | 1 => ackShot g (b 23 8) (b 35 27) s
  | 2 => ackFrame g (b 23 8) s
  | 3 => nak g (b 35 32) (b 31 24) s
  | 4 => shotReport g (b 31 16) (b 35 32) (b 15 8) s
  | 5 => statusWord g body s
  | 6 => laneState g (b 35 27) (b 26 26 == 1) s
  | 7 => fom g (b 35 32) (b 31 8) s
  | 8 => memData g body s
  | _ => idleBk g s

/-- 50 bits of the back-channel that may be no word: one to be discarded is counted (R199), and a valid one has the
effect of its TYPE. -/
def bkReceive (g : Nat) (rd : Bool) (raw : Nat) (s : State) : State :=
  match bkDecode rd raw with
  | some (typ, body) => bkAct g typ body s
  | none => if s.linkUp g then s.inc (F.DRL_Gnn_RETRANSMITS_BK_WORD_ERRORS g) 1 else s

/-! ### BLANK_ALL_L unseen (R353) -/

/-- 20 µs after BLANK_ALL_L fell: groups that have not shown ALARMS bit 19 set BLANK_UNSEEN. -/
def blankCheck (s : State) : State :=
  let l := s.fence.unseen
  let s := { s with fence := { s.fence with unseen := [] } }
  if l.isEmpty then s
  else l.foldl (fun s g => event 0x603 [BitVec.ofNat 8 g, 0, 0, 0] s) (s.set F.FNC_TRIP_STATUS_BLANK_UNSEEN 1)

end Sys2Proof.Machine
end

