-- ==== Sys2Proof/Machine/Encoder.lean ====
section
/-! DEFINITION. The stage encoder channels: samples, amplitude, edges and speed, direction, index pulses, yaw and faults
(R219–R237). -/

namespace Sys2Proof.Machine

/-! ### Interrupts and faults (R236) -/

/-- A bit of ENC_INT_STATUS sets; vector 5 fires while it is enabled. -/
def encInt (bit : Nat) (s : State) : State :=
  let s := s.wr F.ENC_INT_STATUS.off (s.rd F.ENC_INT_STATUS.off ||| 1 <<< bit)
  if (s.rd F.ENC_INT_ENABLE.off).testBit bit then raise 5 s else s

/-- An encoder fault: its bit, its event with the key byte and four bytes of data, and the fallow at the next shot
boundary. -/
def encFault (bit typ key : Nat) (data : List Byte) (s : State) : State :=
  let s := s.wr F.ENC_FAULT_STATUS.off (s.rd F.ENC_FAULT_STATUS.off ||| 1 <<< bit)
  let s := event typ ([BitVec.ofNat 8 key, 0, 0, 0] ++ sliceBytes data 0 4 ++ leBytes 8 s.now) s
  dueCause 0x08 (encInt 20 s)

/-- A fault bit is set. -/
def State.encFaulted (s : State) (bit : Nat) : Bool := (s.rd F.ENC_FAULT_STATUS.off).testBit bit

/-- Channel `k` enters the fault state and loses its reference (R225, R236). -/
def encLose (k : Nat) (s : State) : State :=
  let c := s.encCh k
  let s := if s.encState k = 2 then s.set (homedFld (k / 2)) 0 else s
  let s := setEnc k { c with ref := none, pulse := c.pulse.map fun u => { u with tainted := true } } s
  let s := yawLost (k / 2) s
  ((s.set (F.ENC_Cnn_STATUS_STATE k) 3).set (F.ENC_Cnn_STATUS_SPEED_VALID k) 0).set (F.ENC_Cnn_STATUS_SPEED k) 0

/-! ### Phase (R221) -/

/-- The angle of (re, im) in 2^-n turns, rounded down, by squaring the complex number: each squaring doubles the angle,
and the half-plane it lies in is the next bit. -/
def angleBits : Nat → Int → Int → Nat → Nat
  | 0, _, _, acc => acc
  | n + 1, re, im, acc =>
    angleBits n (re * re - im * im) (2 * re * im) (2 * acc + bitOf (decide (im < 0) || (decide (im = 0) && decide (re < 0))))

/-- The nearest integer to 4096 atan2(s, c) / 2 pi, modulo 4096. -/
def phaseNearest (sn cs : Int) : Nat := (angleBits 13 cs sn 0 + 1) / 2 % 4096

/-- The phase the device takes: the nearest integer, or 1 off it; with no signal at all it is open. -/
def samplePhase (sn cs : Int) (s : State) : Nat × State :=
  let (n, s) := s.fresh
  if sn = 0 ∧ cs = 0 then ((Config.freeAngle n).val, s)
  else ((phaseNearest sn cs + 4095 + (Config.freePhase n).val) % 4096, s)

/-! ### Amplitude (R223, R224) -/

/-- The corrected sine and cosine of a sample. -/
def State.corrected (s : State) (k : Nat) (sa ca : Int) : Int × Int :=
  (sa - signed 10 (s.f (F.ENC_Cnn_TRIM_SIN_OFFSET k)),
   rnd ((ca - signed 10 (s.f (F.ENC_Cnn_TRIM_COS_OFFSET k))) * s.f (F.ENC_Cnn_TRIM_COS_GAIN k)) 11)

/-- amp2 of a sample. -/
def amp2 (sn cs : Int) : Nat := min 65535 ((sn * sn + cs * cs) / 4096).toNat

/-- AMP_SAMPLES, 0 acting as 1. -/
def State.ampSamples (s : State) : Nat := max 1 (s.f F.ENC_CONFIG_AMP_SAMPLES)

/-- The sample lies inside the amplitude window. -/
def State.ampInside (s : State) (a : Nat) (sa ca : Int) : Bool :=
  let full := fun (v : Int) => decide (v ≤ -8192) || decide (8191 ≤ v)
  decide (s.f F.ENC_AMP_WINDOW_AMP2_LO ≤ a) && decide (a < s.f F.ENC_AMP_WINDOW_AMP2_HI) && !full sa && !full ca

/-- The run of samples outside the window, and AMPLITUDE, after a sample. -/
def encAmplitude (k a : Nat) (inside : Bool) (s : State) : State :=
  let c := s.encCh k
  let s := s.set (F.ENC_Cnn_AMPLITUDE_NOW k) a
  let s := s.set (F.ENC_Cnn_AMPLITUDE_MIN k) (min a (s.f (F.ENC_Cnn_AMPLITUDE_MIN k)))
  if inside then
    let s := if 0 < c.run ∧ c.run < s.ampSamples then s.inc (F.ENC_Cnn_EVENTS_AMP_EVENTS k) 1 else s
    setEnc k { c with run := 0, runMin := 65535, inside := min 50000 (c.inside + 1) } s
  else
    setEnc k { c with run := c.run + 1, runMin := if c.run = 0 then a else min c.runMin a, inside := 0 } s

/-- AMPLITUDE of a channel: its run has reached AMP_SAMPLES (R224). The sample that completes the run raises it, and
so does any later one, or ENC_AMPLITUDE_FAULT, while the run goes on and the bit was acknowledged (R236). -/
def encAmplitudeFault (k : Nat) (s : State) : State :=
  let c := s.encCh k
  if 4 ≤ k ∨ c.run < s.ampSamples ∨ s.encFaulted (16 + k) ∨ !s.islandOpen 14 then s
  else encFault (16 + k) 0x400 k (leBytes 2 c.runMin) (encLose k s)

/-- ENC_TRACKING_QUALIFIED: 1 ms of samples inside the window moves an idle channel to tracking (R225). -/
def encQualified (k : Nat) (s : State) : State :=
  let c := s.encCh k
  if 4 ≤ k ∨ s.encState k ≠ 0 ∨ c.inside < 50000 ∨ !s.islandOpen 14 then s
  else
    let p := if c.tracked then c.p else 0
    let s := setEnc k { c with
      p, pPrev := p, tracked := true, qual := p, extreme := p, lastB := none, tLast := none, tPrev := none } s
    (s.set (F.ENC_Cnn_STATUS_STATE k) 1).set (F.ENC_Cnn_STATUS_DIR_KNOWN k) 0

/-! ### Direction, edges and speed (R226–R230) -/

/-- Earlier speed edges are discarded (R228). -/
def EncChan.restart (c : EncChan) : EncChan := { c with lastB := none, tLast := none, tPrev := none }

/-- The direction flag is set or flipped (R229). -/
def encFlip (k dir : Nat) (p : Int) (s : State) : State :=
  let c := (s.encCh k).restart
  let c := { c with extreme := p, pulse := c.pulse.map fun u => { u with tainted := true } }
  let s := (setEnc k c s).set (F.ENC_Cnn_STATUS_DIR_KNOWN k) 1
  encInt (16 + k) ((s.set (F.ENC_Cnn_STATUS_DIR k) dir).inc (F.ENC_Cnn_EVENTS_REVERSALS k) 1)

/-- The direction flag after a sample (R229). -/
def encDirection (k : Nat) (s : State) : State :=
  let c := s.encCh k
  let h : Int := s.f F.ENC_CONFIG_HYST
  if !s.on (F.ENC_Cnn_STATUS_DIR_KNOWN k) then
    if h < c.p - c.qual then encFlip k 0 c.p s
    else if h < c.qual - c.p then encFlip k 1 c.p s
    else s
  else if s.f (F.ENC_Cnn_STATUS_DIR k) = 0 then
    if c.p < c.extreme - h then encFlip k 1 c.p s else setEnc k { c with extreme := max c.extreme c.p } s
  else
    if c.extreme + h < c.p then encFlip k 0 c.p s else setEnc k { c with extreme := min c.extreme c.p } s

/-- A speed edge (R226, R227): `t0` is the timestamp of the previous sample. -/
def encEdge (k t0 : Nat) (s : State) : State :=
  let c := s.encCh k
  let a := c.pPrev / 1024
  let b := c.p / 1024
  if a = b ∨ !s.on (F.ENC_Cnn_STATUS_DIR_KNOWN k) then s
  else
    let bd := 1024 * max a b
    let up := decide (c.pPrev < c.p)
    let beyond := match c.lastB with
      | none => true
      | some l => if up then decide (l < bd) else decide (bd < l)
    if (up == (s.f (F.ENC_Cnn_STATUS_DIR k) == 0)) && beyond then
      let num := 20 * (bd - c.pPrev).natAbs
      let den := (c.p - c.pPrev).natAbs
      let t := t0 + (2 * num + den) / (2 * den)
      setEnc k { c with lastB := some bd, tPrev := c.tLast, tLast := some t } s
    else s

/-- The speed shown after a sample (R228), with the restart after 10 ms without a speed edge. -/
def encSpeed (k : Nat) (s : State) : State :=
  let c := s.encCh k
  let show' := fun (v valid : Nat) (s : State) =>
    (s.set (F.ENC_Cnn_STATUS_SPEED k) v).set (F.ENC_Cnn_STATUS_SPEED_VALID k) valid
  match c.tLast with
  | none => show' 0 0 s
  | some l =>
    if l + 10000000 ≤ s.now then show' 0 0 (setEnc k c.restart s)
    else match c.tPrev with
      | none => show' 0 0 s
      | some p =>
        let dt := max (l - p) (s.now - l)
        show' (min 1048575 ((128000000 + dt / 2) / dt)) 1 s

/-- A hard-stopped axis at standstill takes its command position from its pair mean (R263). -/
def settleAxis (axis : Nat) (s : State) : State :=
  let due := if axis = 0 then s.pln.settleX else s.pln.settleY
  let still := !s.on (F.ENC_Cnn_STATUS_SPEED_VALID (2 * axis)) && !s.on (F.ENC_Cnn_STATUS_SPEED_VALID (2 * axis + 1))
  match s.pairMean axis with
  | some m =>
    if due && still then
      let s := setCmdPos axis (rnd m 4) s
      if axis = 0 then { s with pln := { s.pln with settleX := false } } else { s with pln := { s.pln with settleY := false } }
    else s
  | none => s

/-- ENC_SPEED_RESTART: 10 ms without a speed edge (R228, R263). -/
def encSpeedRestart (k : Nat) (s : State) : State :=
  if 4 ≤ k ∨ !s.islandOpen 14 then s else settleAxis 1 (settleAxis 0 (encSpeed k s))

/-! ### A sample of one channel -/

/-- The channel takes a sample (R221, R222). -/
def encChannel (k : Nat) (sa ca : Int) (s : State) : State :=
  let (sn, cs) := s.corrected k sa ca
  let a := amp2 sn cs
  -- R236: AMPLITUDE comes before OVERSPEED of the same channel.
  let s := encAmplitudeFault k (encAmplitude k a (s.ampInside a sa ca) s)
  let (ph, s) := samplePhase sn cs s
  let c := s.encCh k
  let inv := if s.encState k = 0 then s.on (F.ENC_Cnn_CTRL_INVERT k) else c.invert
  let d : Int := (((ph : Int) - c.ph + 2048) % 4096) - 2048
  let d := if inv then -d else d
  let p := signed 40 (unsigned 40 (c.p + d))
  let s := setEnc k { c with p, pPrev := c.p, ph, invert := inv } s
  let fast := decide (1024 ≤ d.natAbs)
  let s := if s.encState k = 1 ∨ s.encState k = 2 then encSpeed k (encEdge k (s.now - 20) (encDirection k s)) else s
  if fast ∧ !s.encFaulted (12 + k) then encFault (12 + k) 0x401 k [] (encLose k s) else s

/-! ### Index pulses (R231–R233) -/

/-- The difference of a later valid pulse from the nearest mark (R233). -/
def indexDiff (pc ref : Int) (period : Nat) : Int :=
  let per : Int := 1024 * period
  if per = 0 then pc - ref
  else
    let n := pc - ref + per / 2
    let k := tdiv n per
    let k := if n < 0 then k - 1 else k
    pc - (ref + k * per)

/-- A valid pulse against the reference (R233). -/
def indexCheck (k : Nat) (pc ref : Int) (s : State) : State :=
  let d := indexDiff pc ref (s.f (F.ENC_Cnn_INDEX_PERIOD_PERIOD k))
  let s := (s.set (F.ENC_Cnn_INDEX_LAST_VALID k) 1).set (F.ENC_Cnn_INDEX_LAST_DIFF k)
    (unsigned 24 (sat d (-8388608) 8388607))
  let dc := rnd d 10
  let tol : Int := s.f F.ENC_CONFIG_INDEX_TOL
  let data := leBytes 4 (unsigned 32 d)
  if -tol ≤ dc ∧ dc < tol + 1 then
    if dc = 0 then s
    else
      let s := (encInt (8 + k) s).inc (F.ENC_Cnn_INDEX_STATS_DRIFT k) 1
      event 0x403 ([BitVec.ofNat 8 k, 0, 0, 0] ++ data ++ leBytes 8 s.now) s
  else encFault (8 + k) 0x402 k data s

/-- Z of an axis is latched, and its yaw difference is 0 (R235). -/
def latchZ (axis : Nat) (s : State) : State :=
  let s := yawLost axis s
  let z := (s.encCh (2 * axis)).p - (s.encCh (2 * axis + 1)).p
  if axis = 0 then { s with zX := z } else { s with zY := z }

/-- The reference of a channel is set (R232, R235). -/
def setRef (k : Nat) (pc : Int) (s : State) : State :=
  let s := setEnc k { s.encCh k with ref := some pc } s
  let s := (s.set (F.ENC_Cnn_STATUS_STATE k) 2).set (F.ENC_Cnn_INDEX_LAST_VALID k) 0
  let s := encInt (4 + k) s
  if s.encState (2 * (k / 2)) = 2 ∧ s.encState (2 * (k / 2) + 1) = 2 then latchZ (k / 2) s else s

/-- Homing leaves its back-off once HOME is inactive and both channels are referenced (R265). -/
def homeCheck (s : State) : State :=
  match s.pln.motion with
  | .homeBack a =>
    if !s.switchActive (4 + a) && s.encState (2 * a) == 2 && s.encState (2 * a + 1) == 2 then
      planHalt (.homeRest a) s
    else s
  | .homeSearch a =>
    if s.switchActive (4 + a) then planHalt (.homeStop a) s else s
  | _ => s

/-- A channel is tracking or referenced. -/
def State.encTracks (s : State) (k : Nat) : Bool := s.encState k == 1 || s.encState k == 2

/-- ENC_INDEX_EDGE: an edge `frac` ns after the previous sample, interpolated between the latest two (R231, R232). -/
def indexEdge (k : Nat) (rising : Bool) (frac : Nat) (s : State) : State :=
  if 4 ≤ k ∨ !s.islandOpen 14 then s
  else
    let c := s.encCh k
    let p := c.pPrev + (2 * (c.p - c.pPrev) * (min frac 20 : Nat) + 20) / 40
    let spoilt := decide (0 < c.run) || !s.encTracks k
    let dir := s.f (F.ENC_Cnn_STATUS_DIR k)
    if rising then setEnc k { c with pulse := some ⟨p, dir, spoilt⟩ } s
    else match c.pulse with
      | none => s
      | some u =>
        let s := setEnc k { c with pulse := none } s
        let w := (p - u.rise).natAbs
        if u.tainted ∨ u.dir ≠ dir ∨ spoilt ∨ w < 64 ∨ 8192 ≤ w then s.inc (F.ENC_Cnn_INDEX_STATS_DISCARDED k) 1
        else
          let pc := rnd (u.rise + p) 1
          let s := encInt (12 + k) (s.inc (F.ENC_Cnn_INDEX_STATS_SEEN k) 1)
          match c.ref with
          | none => homeCheck (setRef k pc s)
          | some r => indexCheck k pc r s

/-! ### Yaw (R235) -/

/-- Dy of an axis, while both channels are referenced. -/
def State.yaw (s : State) (axis : Nat) : Option Int :=
  if s.encState (2 * axis) = 2 ∧ s.encState (2 * axis + 1) = 2 then
    some ((s.encCh (2 * axis)).p - (s.encCh (2 * axis + 1)).p - (if axis = 0 then s.zX else s.zY))
  else none

/-- The run of samples outside an axis's yaw window. -/
def State.yawRun (s : State) (axis : Nat) : Nat := if axis = 0 then s.yawX else s.yawY

/-- That run replaced. -/
def setYawRun (axis n : Nat) (s : State) : State := if axis = 0 then { s with yawX := n } else { s with yawY := n }

/-- ENC_YAW and the run after a sample. -/
def encYaw (axis : Nat) (s : State) : State :=
  let off := F.ENC_YAW_X.off + 4 * axis
  let w := s.rd (F.ENC_YAW_WINDOW_X.off + 4 * axis)
  let peak := bits (s.rd off) 31 16
  match s.yaw axis with
  | none => setYawRun axis 0 (s.wr off (peak <<< 16))
  | some d =>
    let s := s.wr off ((max peak (min 65535 d.natAbs)) <<< 16 + unsigned 16 (sat d (-32768) 32767))
    if signed 16 (bits w 15 0) ≤ d ∧ d < signed 16 (bits w 31 16) then setYawRun axis 0 s
    else setYawRun axis (s.yawRun axis + 1) s

/-- YAW of an axis: its run has reached YAW_SAMPLES (R235), raised as AMPLITUDE is. -/
def encYawFault (axis : Nat) (s : State) : State :=
  if 2 ≤ axis ∨ (s.yaw axis).isNone ∨ s.yawRun axis < max 1 (s.f F.ENC_CONFIG_YAW_SAMPLES) ∨ s.encFaulted axis ∨
      !s.islandOpen 14 then s
  else encFault axis 0x404 axis (leBytes 4 (unsigned 32 ((s.yaw axis).getD 0))) s

/-! ### Commands on the channels -/

/-- REREF (R232): it is discarded while a furrow is armed. -/
def encReref (k : Nat) (s : State) : State := if s.furrowArmed then s else rerefCh k s

/-- ZERO_X or ZERO_Y (R235). -/
def encZero (axis : Nat) (s : State) : State := if s.furrowArmed then s else latchZ axis s

/-- Fault bits acknowledged (R225, R236): a channel in fault with none left is idle. -/
def encFaultAck (mask : Nat) (s : State) : State :=
  let s := s.wr F.ENC_FAULT_STATUS.off (s.rd F.ENC_FAULT_STATUS.off &&& (0xFFF03 ^^^ (mask &&& 0xFFF03)))
  (List.range 4).foldl (fun s k =>
    if s.encState k = 3 ∧ !s.encFaulted (16 + k) ∧ !s.encFaulted (12 + k) then
      setEnc k { s.encCh k with inside := 0 } (s.set (F.ENC_Cnn_STATUS_STATE k) 0)
    else s) s

end Sys2Proof.Machine
end

