-- ==== Sys2Proof/Machine/Shots.lean ====
section
/-! DEFINITION. Shot timing: prediction and commitment, late shots, dibble mode, the path, the trigger itself with its
shot-boundary checks, and the deflection words (R124, R146, R238–R253, R339). -/

namespace Sys2Proof.Machine

/-! ### The sample as shot timing sees it (R241) -/

/-- dirsign of the head furrow, 1 without one. -/
def State.dirsign (s : State) : Int := match s.head? with | some d => d.dirsign | none => 1

/-- A history of pair means with the latest added; it is lost while the mean is not defined. -/
def pushMean (m : Option Int) (l : List Int) : List Int :=
  match m with
  | some v => v :: l.take 50
  | none => []

/-- ΔM of a history, the travel over 1 µs. -/
def travel (l : List Int) : Option Int :=
  match l with
  | m :: _ => (l[50]?).map fun o => m - o
  | [] => none

/-- SHT_SPEED follows the latest sample (R241). -/
def showSpeed (s : State) : State :=
  let v := match travel s.shot.histY with
    | some dm => sat (rnd (125 * s.dirsign * dm) 1) (-524288) 524287
    | none => 0
  let ok := s.encState 2 == 2 && s.encState 3 == 2
  s.wr F.SHT_SPEED.off (bitOf ok <<< 31 + unsigned 20 v)

/-- SHT_STATUS.STATE; a change raises the STAGE vector. -/
def shtState (st : Nat) (s : State) : State :=
  if s.f F.SHT_STATUS_STATE = st then s else raise 6 (s.set F.SHT_STATUS_STATE st)

/-- The state shot timing shows while a writing segment runs. -/
def showMode (r : Run) (s : State) : State :=
  shtState (if s.shot.pathHold then 4 else if !r.fired then 1 else if s.shot.dibble then 3 else 2) s

/-! ### Predicting the crossing (R242, R243) -/

/-- SKEW less FIRE_DELAY, in 1/16 ns. -/
def State.fireShift (s : State) : Int :=
  signed 16 (s.f F.SHT_TRIGGER_CFG_SKEW) - rnd (s.f F.DRL_HEAD_TIMING_FIRE_DELAY : Int) 2

/-- predict(k) of R242: `a` from the distance still to travel, b from the travel estimate. -/
def predictShot (tk a b shift : Int) : Option Int :=
  if b ≤ 0 then none
  else
    let u := if a < 0 then 0 else (32000 * a + b) / (2 * b)
    some (tk + u + shift)

/-- T_min in 1/16 ns (R240). -/
def State.tMin (s : State) : Int := (s.f F.SHT_SHOT_RATE_T_SHOT / 4 : Nat)

/-- A trigger is committed; one that comes too soon after the previous one is put off (R242, R244 condition 5). -/
def commit (dibble : Bool) (t : Int) (s : State) : State :=
  let t := match s.shot.lastTrigger with
    | some l => max t (l + s.tMin)
    | none => t
  { s with shot := { s.shot with committed := some t, committedDibble := dibble } }

/-- The instant, in ns before the latest sample and doubled to keep halves, at which the interpolated mean crosses `q`
in the direction `sg`: the place in the history, its two means and the distance to travel between them. -/
def crossing (sg q : Int) : Nat → List Int → Option (Nat × Int × Int)
  | i, m :: p :: t =>
    if sg * (p - q) < 0 ∧ 0 ≤ sg * (m - q) then some (i, sg * (q - p), sg * (m - p))
    else crossing sg q (i + 1) (p :: t)
  | _, _ => none

/-- The actual error of a trigger, once its crossing is known (R243). -/
def measureOne (sg : Int) (e : Int × Int) (s : State) : Option State :=
  match crossing sg e.1 0 s.shot.histY with
  | none => none
  | some (i, n, d) =>
    let (f, s) := s.fresh
    -- The interpolated instant in whole ns after the earlier sample; how it is rounded is open.
    let x := 20 * n / d
    let x := if 20 * n % d ≠ 0 ∧ Config.freeRound f then x + 1 else x
    let at' := 16 * ((s.now : Int) - 20 * (i + 1) + x)
    let err := (e.2 - (at' + s.fireShift)).natAbs
    some (s.set F.SHT_STATS_MAX_ERR (min 65535 (max err (s.f F.SHT_STATS_MAX_ERR))))

/-- The errors of triggers whose crossings have been passed. -/
def measure (sg : Int) (s : State) : State :=
  let l := s.shot.toMeasure
  l.foldl (fun s e =>
    match measureOne sg e s with
    | some s => { s with shot := { s.shot with toMeasure := s.shot.toMeasure.filter (· != e) } }
    | none => s) s

/-! ### The path (R250, R251) -/

/-- A run is in its writing segment, its run-out included, and the device is not fallow (R256). -/
def State.inSegment (s : State) : Bool :=
  match s.jobs.run with
  | some r => (r.phase == .writing || r.phase == .traverse) && (s.pln.motion == .segment || s.pln.motion == .runOut)
  | none => false

/-- The stage is on the path. -/
def State.onPath (s : State) (d : Desc) : Bool :=
  match s.pairMean 0, s.pairMean 1 with
  | some mx, some my =>
    let e := s.xTarget d - mx
    let win : Int := s.f F.SHT_PATH_HOLD_XWIN
    let back := match s.shot.furthest with
      | some f => decide (f - d.dirsign * my ≤ s.f F.SHT_PATH_CFG_BACK_TOL)
      | none => true
    decide (-win ≤ e) && decide (e < win) && back && (s.pln.motion == .segment || s.pln.motion == .runOut)
  | _, _ => false

/-- A path hold begins or ends with a sample. -/
def pathSample (d : Desc) (s : State) : State :=
  let s := match s.pairMean 1 with
    | some my =>
      let m := d.dirsign * my
      { s with shot := { s.shot with furthest := some (match s.shot.furthest with | some f => max f m | none => m) } }
    | none => s
  let on := s.onPath d
  if !on && !s.shot.pathHold then
    { s with shot := { s.shot with pathHold := true } }.inc F.SHT_STATS_PATH_HOLDS 1
  else if on && s.shot.pathHold then { s with shot := { s.shot with pathHold := false } }
  else s

/-- STAGE raises a fallow of its own (SHT_LAST_FALLOW). -/
def stageFallow (code last : Nat) (s : State) : State :=
  match s.jobs.run with
  | none => s
  | some r => raiseCause code (s.wr F.SHT_LAST_FALLOW.off (last <<< 30 + r.sf % 2 ^ 26))

/-- PATH_HOLD_TIMEOUT: the stage has not returned to the path in time (R251). -/
def pathHoldTimeout (s : State) : State :=
  match s.jobs.run with
  | some r => if s.shot.pathHold ∧ r.phase ≠ .held ∧ r.phase ≠ .armed then stageFallow 0x13 1 s else s
  | none => s

/-! ### The mode and the decision at a sample (R242, R245, R248, R249) -/

/-- The mode from twice the travel per ns: v = 62.5 b µm/s (R248). -/
def modeSample (b : Int) (s : State) : State :=
  let en : Int := s.f F.SHT_MODE_CFG_CONT_ENTER
  let hy : Int := min en (s.f F.SHT_MODE_CFG_CONT_HYST)
  if 2 * en ≤ 125 * b then { s with shot := { s.shot with dibble := false, inWindow := 0 } }
  else if 125 * b < 2 * (en - hy) then { s with shot := { s.shot with dibble := true } }
  else s

/-- Samples inside the window that a dibble shot needs (R249). -/
def State.dibbleCount (s : State) : Nat := max 1 ((s.f F.SHT_DIBBLE_CFG_DWELL + 19) / 20)

/-- A dibble sample (R249). -/
def dibbleSample (q m : Int) (s : State) : State :=
  let w : Int := max 1 (s.f F.SHT_DIBBLE_CFG_DIBBLE_WIN)
  if q - w ≤ m ∧ m < q + w then
    let n := s.shot.inWindow + 1
    let s := { s with shot := { s.shot with inWindow := n } }
    if s.dibbleCount ≤ n ∧ s.shot.committed.isNone then commit true (16 * (s.now : Int) + 1440) s else s
  else { s with shot := { s.shot with inWindow := 0 } }

/-- A continuous sample commits the predicted trigger (R242). -/
def trackSample (q m sg : Int) (s : State) : State :=
  match travel s.shot.histY with
  | none => s
  | some dm =>
    let tk : Int := 16 * s.now
    match predictShot tk (sg * (q - m)) (sg * dm) s.fireShift with
    | some t => if s.shot.committed.isNone ∧ t < tk + 1920 then commit false (max t (tk + 1440)) s else s
    | none => s

/-- The shot falls too late: its position was passed by LATE_LIMIT with no trigger by the time the sample is known
(R245). -/
def State.late (s : State) (q m sg : Int) : Bool :=
  decide ((s.f F.SHT_PATH_CFG_LATE_LIMIT : Int) ≤ sg * (m - q)) &&
    (match s.shot.committed with
     | some t => decide (16 * ((s.now : Int) + 80) < t)
     | none => true)

/-- Shot timing at a sample of a run in its writing segment. -/
def shotSample (s : State) : State :=
  match s.head?, s.jobs.run with
  | some d, some r =>
    if r.phase ≠ .writing ∧ !s.inSegment then s
    else
      let s := pathSample d s
      -- In the run-out the path is watched, and no shot is left to fire.
      if r.segLast < r.sf then s
      else match s.shot.histY with
      | [] => showMode r s
      | m :: _ =>
        let sg := d.dirsign
        let q := s.shotPos d r.sf
        if s.late q m sg then stageFallow 0x12 2 s
        else
          let s := match travel s.shot.histY with | some dm => modeSample (sg * dm) s | none => s
          let s := if s.shot.dibble then dibbleSample q m s else trackSample q m sg s
          showMode r s
  | _, _ => s

/-- ENC_SAMPLE: the four channels in ascending order, yaw, shot timing, and the planner's next 20 ns (R221–R258). -/
def encSample (codes : List (Int × Int)) (s : State) : State :=
  if !s.islandOpen 14 then s
  else
    let s := { s with now := s.now + 20 }
    let s := (List.range 4).foldl (fun s k => let c := codes.getD k (0, 0); encChannel k c.1 c.2 s) s
    let s := encYaw 1 (encYaw 0 s)
    let s := { s with shot := { s.shot with
      histY := pushMean (s.pairMean 1) s.shot.histY, histX := pushMean (s.pairMean 0) s.shot.histX } }
    let s := encYawFault 1 (encYawFault 0 s)
    planTick (settleAxis 1 (settleAxis 0 (shotSample (measure s.dirsign (showSpeed s)))))

/-! ### Resolving frames at a trigger (R18, R205) -/

/-- The logical lanes of a group that hold no acknowledgement for a shot, as a mask. -/
def Group.lacking (x : Group) (f : Nat) : Nat :=
  maskOf ((List.range 8).filter fun l => !((x.ring l).any fun e => e.shot == f && e.acked))

/-- A group's frame of a shot is resolved, and leaves the rings. -/
def resolveFrame (f : Nat) (r : Run) (g : Nat) (s : State) : State :=
  if s.groupState g ≠ 3 then s
  else
    let x := s.grp g
    let miss := x.lacking f
    let hold := s.isHold g f r
    let lead := x.sentTo.foldl min (x.sentTo.headD 0) - 1 - f
    let s := s.set (F.DRL_Gnn_LEAD_MIN_LEAD g) (min (min 64 lead) (s.f (F.DRL_Gnn_LEAD_MIN_LEAD g)))
    let pay := (alGet s.path.pay (g + 32 * f)).getD []
    let x := { x with
      rings := x.rings.map fun q => q.filter fun e => decide (f < e.shot)
      resolved := if hold then x.resolved else x.resolved ++ [(f, miss == 0, pay)] }
    let s := setGrp g x s
    if hold ∨ miss = 0 then s
    else addEntry (shotEntry 0 g f miss) (s.inc (F.DRL_Gnn_MISSES_DEADLINE g) 1)

/-- The payloads of a fired shot join the signatures and are released (R282). -/
def releasePay (f : Nat) (r : Run) (g : Nat) (s : State) : State :=
  let s := if r.trav then s else sigAdvance g s
  { s with path := { s.path with pay := alErase s.path.pay (g + 32 * f) } }

/-! ### Shot-boundary checks (R124, R146, R339) -/

/-- Harrow's rows at boundary `sh`, where shot `sh` is the next to fire (R124). -/
def harrowCheck (sh : Nat) (s : State) : State :=
  let s := withCounts (fun c => { c with minLead := min c.minLead (s.harrowRows - sh) }) s
  if min s.runRows (sh + 192) ≤ s.harrowRows then s
  else
    let s := withCounts (fun c => { c with starved := c.starved + 1 }) s
    raiseCause 0x10 (event 0x201 (s.jpf ++ leBytes 4 sh) s)

/-- Madder's rows at boundary `sh` (R146). -/
def madderCheck (sh : Nat) (s : State) : State :=
  if min s.runRows (sh + 128) ≤ s.path.fieldNext then s
  else
    let s := withCounts (fun c => { c with madStarved := c.madStarved + 1 }) s
    raiseCause 0x11 (event 0x204 (s.jpf ++ leBytes 4 sh) s)

/-- A tile swap due at this boundary (R339). -/
def swapCheck (s : State) : State :=
  match s.jobs.run with
  | some r => if s.path.tileSwaps.any fun w => decide (w.atShot ≤ r.sf) then raiseCause 0x17 s else s
  | none => s

/-- The run's last shot has fired: the stage runs out (R256), and a repair run is over (R333). -/
def segmentFired (s : State) : State :=
  match s.jobs.run with
  | none => s
  | some r =>
    if r.sf ≤ r.segLast then s
    else
      let r := if r.trav then { r with runs := r.runs.drop 1 } else r
      let s := setRun r s
      if r.phase = .held then s
      else
        let s := if s.pln.motion = .segment then setMotion .runOut s else s
        let s := shtState 0 s
        if r.trav then repairState 3 (setRun { r with phase := .traverse } s) else s

/-- What a shot boundary brings once a trigger was issued. The boundary after a repair run's last shot needs no
further row (log entry 49). -/
def shotBoundary (s : State) : State :=
  match s.jobs.run with
  | none => s
  | some r =>
    if r.cancelled then cancelRun s
    else
      let s := boundaryCauses s
      let s := if r.trav ∧ r.segLast < r.sf then s else madderCheck r.sf (harrowCheck r.sf s)
      segmentFired (if r.segLast < r.sf then s else swapCheck s)

/-- WIDTH of the pulse on SHOT_P/N in ns (R246). -/
def State.pulseWidth (s : State) : Nat := max 4 (min 100 (s.f F.SHT_TRIGGER_CFG_WIDTH))

/-- The committed trigger is issued (R244, R246, R247). -/
def fireShot (d : Desc) (r : Run) (t : Int) (s : State) : State :=
  let f := r.sf
  let s := s.groups.foldl (fun s g => resolveFrame f r g s) s
  let s := s.emit (.shot f s.pulseWidth)
  match s.jobs.run with
  | none => s
  | some r =>
    let r := { r with sf := f + 1, fired := true, pauseFrom := if r.trav then r.pauseFrom else (t / 16).toNat }
    let x := s.shot
    let s := { s with shot := { x with
      committed := none, lastTrigger := some t, inWindow := 0
      -- R249: a dibble shot's firing counts as its crossing, so its error is 0.
      toMeasure := if x.committedDibble then x.toMeasure else x.toMeasure ++ [(s.shotPos d f, t)]
      fired := (f, t) :: x.fired.take 31 } }
    let s := (setRun r s).set F.SHT_STATUS_NEXT_SHOT (f + 1)
    let s := s.groups.foldl (fun s g => releasePay f r g s) s
    shotBoundary (if r.trav then s else lookSample s)

/-- SHOT_TRIGGER: at the committed instant the shot fires if R244 holds, and otherwise its commitment ends. -/
def shotTrigger (s : State) : State :=
  match s.shot.committed, s.head?, s.jobs.run with
  | some t, some d, some r =>
    if !s.islandOpen 14 then s
    else if r.phase = .writing ∧ r.sf ≤ r.segLast ∧ !s.shot.pathHold ∧ s.pln.motion = .segment then
      -- The boundary of the run's first shot comes with its trigger; that of each other shot, with the shot before it.
      let s := if r.fired then s else madderCheck r.sf (harrowCheck r.sf s)
      match s.jobs.run with
      | some r => if r.phase = .held then s else fireShot d r t s
      | none => s
    else { s with shot := { s.shot with committed := none, inWindow := 0 } }
  | _, _, _ => s

/-! ### Deflection (R252, R253) -/

/-- A mean extrapolated by `dt` ns with its travel over 1 µs, times 4, and a number to subtract it from; how the
fraction is rounded is open. -/
def deflect (target m dm : Int) (dt : Nat) (s : State) : Int × State :=
  let (f, s) := s.fresh
  let n := dm * 4 * dt
  let e := n / 1000
  let e := if n % 1000 ≠ 0 ∧ Config.freeRound f then e + 1 else e
  (sat (4 * (target - m) - e) (-524288) 524287, s)

/-- The twelve bit times of a deflection word on DEFL_D3 to DEFL_D0 and DEFL_FRM: data pair d carries W[47 - (4i + d)]
in bit time i (R252). -/
def deflectionLine (w : Nat) : List (Nat × Bool) :=
  (List.range 12).map fun i =>
    (((List.range 4).map fun d => 2 ^ d * bitOf (w.testBit (47 - (4 * i + d)))).sum, decide (i < 6))

/-- DEFLECTION_WORD: one word, sent as the latest sample's result is available (R252, R253). -/
def deflectionWord (s : State) : State :=
  if !s.islandOpen 14 then s
  else
    let dt := 80 + s.f F.SHT_DEFL_CFG_LATENCY
    let at' : Int := 16 * ((s.now : Int) + dt)
    let held := match s.jobs.run with | some r => r.phase == .held | none => false
    let valid := s.inSegment
    let acts := valid && s.on F.SHT_DEFL_CFG_ENABLE && !s.shot.fired.isEmpty
    let opened := s.shot.fired.find? fun e => decide (e.2 + rnd (s.f F.DRL_HEAD_TIMING_FIRE_DELAY : Int) 2 ≤ at')
    let ((x, y), s) :=
      match acts, s.head?, s.shot.histX, s.shot.histY with
      | true, some d, mx :: _, my :: _ =>
        let (x, s) := deflect (s.xTarget d) mx ((travel s.shot.histX).getD 0) dt s
        match opened with
        | some e =>
          let (y, s) := deflect (s.shotPos d e.1) my ((travel s.shot.histY).getD 0) dt s
          ((x, y), s)
        | none => ((x, 0), s)
      | _, _, _, _ => ((0, 0), s)
    let w := unsigned 20 x <<< 28 + unsigned 20 y <<< 8 + (s.shot.seq % 16) <<< 4 + bitOf valid <<< 3 +
      bitOf (valid && s.shot.dibble) <<< 1 + bitOf held
    { s with shot := { s.shot with seq := (s.shot.seq + 1) % 16 } }.emit (.deflection w (deflectionLine w))

end Sys2Proof.Machine
end

