-- ==== Sys2Proof/Machine/Headland.lean ====
section
/-! DEFINITION. The headland planner's events: moves that end, headland turns, writing segments, switches and homing
(R254–R266). -/

namespace Sys2Proof.Machine

/-! ### Motions that end (R256–R258, R265, R266) -/

/-- The successor's start point, where the planner takes the stage after a run-out (R257): nothing of the furrow is left
to write. -/
def State.turnTarget (s : State) : Option (Int × Int) :=
  match s.head?, s.jobs.run with
  | some d, some r =>
    if r.trav ∨ !(liveEntries (s.jobs.repair ++ s.jobs.overflow)).isEmpty ∨ r.sf < r.nShot ∨ s.fence.headLevel ≠ 0 then none
    else (s.successor d).map fun e => s.startPoint e 0
  | _, _ => none

/-- The stage has run out: the headland turn, or the next run of a traverse, follows (R257, R333, R367). -/
def afterRunOut (s : State) : State :=
  match s.jobs.run with
  | some r =>
    if r.trav ∧ r.roundOpen ∧ r.phase = .traverse ∧ !r.runs.isEmpty ∧ s.fence.headLevel = 0 then repairRunStart s
    else match s.turnTarget with
      | some (x, y) => planTo .toStart x y s
      | none => s
  | none => s

/-- Homing ends early with a result and a ramped stop (R266). -/
def homingFails (result : Nat) (s : State) : State := planHalt .stopping (plnResult result s)

/-- Homing of an axis is done: its command position comes from the pair mean (R265). -/
def homingDone (a : Nat) (s : State) : State :=
  let s := setMotion .rest s
  match s.pairMean a with
  | some m => plnResult 1 ((setCmdPos a (rnd m 4) s).set (homedFld a) 1)
  | none => plnResult 6 s

/-- PLANNER_MOVE_DONE: the stage rests at (x, y), where its command position stands, with no move left. A search that has gone its 400 mm, or a back-off its 4 mm,
fails (R266). -/
def plannerDone (x y : Int) (s : State) : State :=
  if !s.islandOpen 14 ∨ !s.planAtRest ∨ x ≠ s.cmdPos 0 ∨ y ≠ s.cmdPos 1 then s
  else
    match s.pln.motion with
    | .rest => s
    | .move => plnResult 1 (setMotion .rest s)
    | .homeSearch _ => homingFails 5 s
    | .homeStop a => homeCheck (planAxis (.homeBack a) a (s.cmdPos a - s.homeDir a * 4000000) s)
    | .homeBack _ => homingFails 6 s
    | .homeRest a => homingDone a s
    | .segment => setMotion .rest s
    | .runOut => afterRunOut (setMotion .rest s)
    | .toStart => setMotion .dwell s
    | .dwell => s
    | .waiting => s
    | .stopping =>
      let s := setMotion .rest s
      if s.f F.PLN_STATUS_RESULT = 0 then plnResult 1 s else s

/-- TURN_DWELL_END (R257). -/
def dwellEnd (s : State) : State :=
  if s.pln.motion = .dwell ∧ s.islandOpen 14 then setMotion .waiting s else s

/-- Every group that takes part has sent the frames of the run's first 64 shots (R200, R257). -/
def State.framesSent (s : State) (r : Run) : Bool :=
  s.groups.all fun g => s.groupState g != 3 ||
    ((s.grp g).runCmd.isNone && (s.grp g).sentTo.all fun n => decide (min (r.sf + 64) (r.segLast + 1) ≤ n))

/-- WRITING_SEGMENT_START: the ramp of a writing segment begins (R256, R257, R367). -/
def segmentStart (s : State) : State :=
  match s.head?, s.jobs.run with
  | some d, some r =>
    let ready := r.phase == .armed || (r.phase == .traverse && r.trav && r.roundOpen && decide (r.sf ≤ r.segLast))
    if !ready ∨ r.ending ∨ s.pln.motion ≠ .waiting ∨ !s.framesSent r ∨ s.fence.headLevel ≠ 0 ∨
        s.doorStops ∨ !s.islandOpen 14 then s
    else
      let (x, _) := s.startPoint d r.sf
      let y := rnd (s.shotPos d ((r.segLast : Int) + s.leadIn)) 4
      let s := setRun { r with phase := .writing, begun := true } (if r.begun then s else leadBegin s)
      let s := jobState (if r.trav then 6 else 4) 0 (shtState 1 s)
      planTo .segment x y (if r.trav then repairState (if r.mid then 5 else 2) s else s)
  | _, _ => s

/-! ### Commands (R260) -/

/-- STOP (R260): it holds an armed furrow. -/
def plnStop (s : State) : State :=
  if s.furrowArmed then raiseCause 0x07 (s.set F.PLN_STATUS_STOPPED 1)
  else
    let homing := s.pln.motion.homing.isSome
    let rest := s.pln.motion == .rest
    let s := plannerStop s
    if homing then s else plnResult (if rest || s.pln.motion == .rest then 1 else 0) s

/-- HOME of an axis from its command (R260, R265). -/
def homeCmd (axis : Nat) (s : State) : State := homeCheck (plnHome axis s)

/-! ### Switches (R261–R264, R266) -/

/-- Bit `b` of a register set or cleared. -/
def setRegBit (off b : Nat) (on : Bool) (s : State) : State := s.wr off (withBits (s.rd off) b b (bitOf on))

/-- The filter time of a switch in ns: FILTER µs, or two samples of 10 ns (R261). -/
def State.filterTime (s : State) (i : Nat) : Nat := max 20 (1000 * s.f (F.PLN_SWITCH_CFG_FILTER i))

/-- The raw level of a switch: its input against its POLARITY (R261). -/
def State.rawLevel (s : State) (i : Nat) : Bool := s.pins.switches.testBit i == s.on (F.PLN_SWITCH_CFG_POLARITY i)

/-- RAW follows the input and POLARITY (R261, R262): an edge that follows another before the filter elapses is
chatter, and the first one toward the active level is latched with the command position of the switch's axis. -/
def switchEdge (i : Nat) (s : State) : State :=
  let off := F.PLN_SWITCH_STATUS.off
  let active := s.rawLevel i
  if (s.rd off).testBit (8 + i) = active then s
  else
    let early := match alGet s.pln.edgeTime i with | some t => decide (s.now < t + s.filterTime i) | none => false
    let s := if early then
        let c := F.PLN_CHATTER.off
        s.wr c (withBits (s.rd c) (5 * i + 4) (5 * i) (min 31 (bits (s.rd c) (5 * i + 4) (5 * i) + 1)))
      else s
    let s := { s with pln := { s.pln with edgeTime := alSet s.pln.edgeTime i s.now } }
    let s := setRegBit off (8 + i) active s
    if active && !(s.rd off).testBit (24 + i) then
      let axis := if i < 4 then i / 2 else i - 4
      let s := setRegBit off (24 + i) true (s.wr (F.PLN_LATCH i).off (unsigned 32 (s.cmdPos axis)))
      { s with pln := { s.pln with latchTime := alSet s.pln.latchTime i s.now } }
    else s

/-- SWITCH_RAW_EDGE: a switch input changes from the level it has to the other (R261). -/
def switchRaw (i : Nat) (was level : Bool) (s : State) : State :=
  if 6 ≤ i ∨ was = level ∨ s.pins.switches.testBit i ≠ was then s
  else
    let s := { s with pins := { s.pins with
      switches := withBits s.pins.switches i i (bitOf level) } }
    if s.islandOpen 14 then switchEdge i s else s

/-- ACTION of a switch: 0 latch only, 1 ramped stop, 2 hard stop, which the Fence can force on a limit switch (R263,
R357). -/
def State.switchAction (s : State) (i : Nat) : Nat :=
  if i < 4 ∧ (s.f F.FNC_LIMIT_FORCE_FORCE).testBit i then 2 else min 2 (s.f (F.PLN_SWITCH_CFG_ACTION i))

/-- The payload of PLN_LIMIT and PLN_HOMING_LIMIT. -/
def switchPayload (i action : Nat) (s : State) : List Byte :=
  [BitVec.ofNat 8 i, BitVec.ofNat 8 action, 0, 0] ++ leBytes 4 (s.rd (F.PLN_LATCH i).off) ++
    leBytes 8 ((alGet s.pln.latchTime i).getD s.now)

/-- A raw level has held for its filter time. -/
def filterElapsed (i : Nat) (s : State) : State := { s with pln := { s.pln with edgeTime := alErase s.pln.edgeTime i } }

/-- A stop action trips: TRIPPED, the event, the stop, and the hold of an armed furrow (R263). -/
def switchTrip (i action : Nat) (s : State) : State :=
  let s := event 0x405 (switchPayload i action s) (setRegBit F.PLN_SWITCH_STATUS.off i true s)
  let s := if action = 2 then plannerHardStop s else plannerStop s
  match s.jobs.run with
  | none => s
  | some r =>
    let old := if r.phase = .held ∧ r.causes.testBit 6 then s.pln.limitSw else 0
    stageFallow 0x06 3 { s with pln := { s.pln with limitSw := old ||| 1 <<< i } }

/-- A switch becomes active while an axis homes (R265, R266). -/
def switchHoming (i a action : Nat) (s : State) : State :=
  if i = 4 + a then (if action = 0 then homeCheck s else s)
  else if i < 4 ∧ i / 2 = a then
    let s := event 0x406 (switchPayload i action s) s
    let s := if s.pln.motion = .rest then s else homingFails 4 s
    plnResult 4 s
  else if i < 4 then plannerStop s
  else s

/-- SWITCH_FILTERED_EDGE: a filtered level becomes active and its action applies (R261, R263–R266). -/
def switchFiltered (i : Nat) (s : State) : State :=
  let v := s.rd F.PLN_SWITCH_STATUS.off
  if 6 ≤ i ∨ !s.islandOpen 14 ∨ !v.testBit (8 + i) ∨ v.testBit (16 + i) then s
  else
    let s := setRegBit F.PLN_SWITCH_STATUS.off (16 + i) true (filterElapsed i s)
    let action := s.switchAction i
    let homing := s.pln.motion.homing
    let ownHome := match homing with | some a => i == 4 + a && action == 1 | none => false
    let s := if ownHome then homeCheck (event 0x405 (switchPayload i 1 s) (setRegBit F.PLN_SWITCH_STATUS.off i true s))
      else if action = 0 then s else switchTrip i action s
    match homing with
    | some a => switchHoming i a action s
    | none => s

/-- SWITCH_FILTERED_INACTIVE: a filtered level becomes inactive (R261, R263, R265). -/
def switchInactive (i : Nat) (s : State) : State :=
  let v := s.rd F.PLN_SWITCH_STATUS.off
  if 6 ≤ i ∨ !s.islandOpen 14 ∨ v.testBit (8 + i) ∨ !v.testBit (16 + i) then s
  else homeCheck (setRegBit F.PLN_SWITCH_STATUS.off (16 + i) false (filterElapsed i s))

/-- Bits of PLN_SWITCH_STATUS written 1 clear: LATCHED re-arms a latch, TRIPPED acknowledges a stop (R262, R263). -/
def switchAck (mask : Nat) (s : State) : State :=
  let off := F.PLN_SWITCH_STATUS.off
  (onesOf (mask &&& 0x3F00003F) 32).foldl (fun s b => setRegBit off b false s) s

end Sys2Proof.Machine
end

