-- ==== Sys2Proof/Machine/MemOps.lean ====
section
/-! DEFINITION. The memory's own work: the map, ranges, scrubbing, refresh, retraining, self-refresh, frequency steps,
retirement and the flip mask (R298–R321). -/

namespace Sys2Proof.Machine

/-! ### The map and ranges (R300, R308, R316) -/

/-- A write of MEM_MAP_CFG (R300). -/
def memMapWrite (value : Nat) (s : State) : State :=
  let running := (List.range 16).any fun ch => s.dmaState ch == 2 || s.dmaState ch == 3
  if s.furrowArmed || !s.lockedStreams.isEmpty || running || s.path.job.isSome && s.f F.TLT_JOB_STATUS_STATE == 1 then
    s.set F.MEM_MAP_CFG_MAP_REFUSED 1
  else
    let s := (s.set F.MEM_MAP_CFG_GRAIN (bits value 19 16)).set F.MEM_MAP_CFG_RESERVE (bits value 3 0)
    let s := (List.range (32 * s.cls.stacks)).foldl (fun s i => setPcMap i (resetMap s.cls i) false s) s
    let s := s.set F.MEM_CAPACITY_CAPACITY_MIB (512 * s.nPc)
    let s := if s.mem.retire.isSome then (s.set F.MEM_RETIRE_CTRL_RESULT 0).set F.MEM_RETIRE_CTRL_COPIED_MIB 0 else s
    mapsClear (dramLost { s with mem := { s.mem with retire := none } })

/-- The blocks of MEM_RANGE_FIRST and MEM_RANGE_END as byte addresses. -/
def State.memRange (s : State) : Nat × Nat :=
  (4096 * s.f F.MEM_RANGE_FIRST_ADDR_4K, 4096 * s.f F.MEM_RANGE_END_ADDR_4K)

/-- RESULT of a range command. -/
def rangeResult (r : Nat) (s : State) : State := s.set F.MEM_RANGE_CTRL_RESULT r

/-- The valid blocks of [a, b). -/
def State.validIn (s : State) (a b : Nat) : List Nat :=
  s.mem.valid.filter fun k => decide (a ≤ 4096 * k) && decide (4096 * k < b)

/-- The stacks that hold the valid blocks of [a, b). -/
def State.stacksIn (s : State) (a b : Nat) : List Nat := (s.validIn a b).flatMap fun k => s.stacksOf (4096 * k) 4096

/-- Requests reach stacks: those in self-refresh leave it (R311). -/
def wakeStacks (l : List Nat) (s : State) : State :=
  l.foldl (fun s n => if s.f (F.MEM_Snn_STATUS_STATE n) = 2 then s.set (F.MEM_Snn_STATUS_STATE n) 1 else s) s

/-- SCRUB (R316). -/
def memScrub (s : State) : State :=
  if s.mem.scrub.isSome then rangeResult 3 s
  else
    let (a, b) := s.memRange
    wakeStacks (s.stacksIn a b)
      (rangeResult 1 { s with mem := { s.mem with scrub := some (a, b), invalidating := false } })

/-- INVALIDATE (R308). -/
def memInvalidate (s : State) : State :=
  let (a, b) := s.memRange
  if s.mem.scrub.isSome then rangeResult 3 s
  else if s.meetsLocked a (b - a) || s.furrowArmed && rangesMeet a (b - a) s.mapBase (3 * mapBytes) then rangeResult 4 s
  else rangeResult 1 { s with mem := { s.mem with scrub := some (a, b), invalidating := true } }

/-- The valid bits of blocks [a, b) clear. -/
def clearValid (a b : Nat) (s : State) : State :=
  { s with mem := { s.mem with
    valid := s.mem.valid.filter fun k => !(decide (a ≤ 4096 * k) && decide (4096 * k < b))
    cells := cellsClear s.mem.cells a (b - a)
    errs := s.mem.errs.filter fun e => !(decide (a ≤ 8 * e.1) && decide (8 * e.1 < b)) } }

/-- MEM_INVALIDATE_DONE (R308). -/
def invalidateDone (s : State) : State :=
  match s.mem.scrub with
  | some (a, b) =>
    if !s.mem.invalidating then s
    else rangeResult 2 (clearValid a b { s with mem := { s.mem with scrub := none, invalidating := false } })
  | none => s

/-! ### Scrubbing (R315–R318) -/

/-- What a scrub has found: words corrected and uncorrectable, the first uncorrectable word, and the corrected words by
pseudo-channel. -/
structure ScrubCount where
  corr : Nat
  uncorr : Nat
  first : Option Nat
  byPc : List (Nat × Nat)
deriving DecidableEq, Repr

/-- One word is scrubbed (R315): corrected and written back, or left as it is. -/
def scrubWord (e : Nat × Nat) (p : ScrubCount × State) : ScrubCount × State :=
  let (c, s) := p
  let a := 8 * e.1
  let fix := fun (s : State) =>
    let phys := s.physOf a
    ({ c with corr := c.corr + 1, byPc := alSet c.byPc phys ((alGet c.byPc phys).getD 0 + 1) },
      corrected a { s with mem := { s.mem with errs := alErase s.mem.errs e.1 } })
  let bad := fun (s : State) =>
    ({ c with uncorr := c.uncorr + 1, first := some (c.first.getD a) }, uncorrectable 32 a s)
  match popCount e.2 72 with
  | 0 => (c, s)
  | 1 => fix s
  | 2 => bad s
  | _ =>
    let (k, s) := s.fresh
    if Config.freeEccDetected k then bad s
    else fix { s with mem := { s.mem with
      cells := cellsPut dramDefault s.mem.cells a (leBytes 8 (Config.freeEccWord k).toNat) } }

/-- The words with errors that a test of their address picks are scrubbed, in ascending order. -/
def scrubAll (p : Nat → Bool) (s : State) : ScrubCount × State :=
  (s.mem.errs.filter fun e => p (8 * e.1)).foldl (fun q e => scrubWord e q) (⟨0, 0, none, []⟩, s)

/-- Pseudo-channels in which a pass found too many corrected words are nominated, in ascending order (R318). -/
def nominateCe (c : ScrubCount) (s : State) : State :=
  if !s.on F.MEM_RETIRE_CFG_AUTO then s
  else
    let limit := 64 * max 1 (s.f F.MEM_RETIRE_CFG_CE_LIMIT)
    c.byPc.foldl (fun s e => if limit ≤ e.2 then nominate e.1 s else s) s

/-- SCRUB_PASS_END: the pass covers its range, and its summary is written (R316). The pass goes on while a stack's gate
keeps its reads waiting (R28), and its reads wake a stack in self-refresh (R311). -/
def scrubPassEnd (us : Nat) (s : State) : State :=
  match s.mem.scrub with
  | some (a, b) =>
    let stackList := s.stacksIn a b
    if s.mem.invalidating || stackList.any s.shutStacks.contains then s
    else
      let blocks := (s.validIn a b).length
      let (c, s) := scrubAll (fun x => decide (a ≤ x) && decide (x < b))
        (wakeStacks stackList { s with mem := { s.mem with scrub := none } })
      let s := (s.wr F.MEM_SCRUB_BLOCKS.off (satN 32 blocks)).wr F.MEM_SCRUB_CORRECTED.off (satN 32 c.corr)
      let s := (s.wr F.MEM_SCRUB_UNCORRECTABLE.off (satN 32 c.uncorr)).wr F.MEM_SCRUB_TIME.off (satN 32 us)
      let f := c.first.getD 0
      let s := (s.wr F.MEM_SCRUB_FIRST_UE_LO.off (f % 2 ^ 32)).wr F.MEM_SCRUB_FIRST_UE_HI.off
        (bitOf c.first.isSome <<< 31 + f / 2 ^ 32)
      raise 9 (rangeResult 2 (nominateCe c s))
  | none => s

/-- A bit of a stored word flips in the cell array. -/
def upset (u : Nat × Nat) (s : State) : State :=
  if 72 ≤ u.2 ∨ !s.blockValid (8 * u.1) ∨ s.capacity ≤ 8 * u.1 then s
  else
    let m := ((alGet s.mem.errs u.1).getD 0) ^^^ (1 <<< u.2)
    { s with mem := { s.mem with errs := if m = 0 then alErase s.mem.errs u.1 else alSet s.mem.errs u.1 m } }

/-- PATROL_PASS_END: one pass over the valid blocks of stacks in service and not in self-refresh (R315). `upsets` are
the bits, by word and place, that flipped since the last pass. -/
def patrolPassEnd (upsets : List (Nat × Nat)) (s : State) : State :=
  let s := upsets.foldl (fun s u => upset u s) s
  if !s.on F.MEM_PATROL_CFG_ENABLE ∨ s.mem.scrub.isSome then s
  else
    let (c, s) := scrubAll (fun x =>
      let n := s.physOf x / 32
      s.f (F.MEM_Snn_STATUS_STATE n) != 2 && s.islandOpen (7 + n)) s
    nominateCe c (s.inc F.MEM_PATROL_STATUS_PASSES 1)

/-! ### Retirement (R319) -/

/-- PC_COPY_DONE: the copy ends, and the swap follows at once or waits for a furrow boundary (R319). The copy has woken
both stacks from self-refresh (R311), and it cannot end while the gate of one is shut (R28). -/
def pcCopyDone (s : State) : State :=
  match s.mem.retire with
  | none => s
  | some j =>
    let stackList := [j.phys / 32, s.pcMap j.slot / 32]
    if j.copied || stackList.any s.shutStacks.contains then s
    else
      let s := wakeStacks stackList s
      let mine := s.mem.errs.filter fun e => s.physOf (8 * e.1) == j.phys
      let fixed := mine.filter fun e => popCount e.2 72 == 1
      let bad := mine.length - fixed.length
      let s := (s.inc F.MEM_ERRORS_POISONED bad).set F.MEM_RETIRE_CTRL_COPIED_MIB 512
      let s := { s with mem := { s.mem with retire := some { j with copied := true, poisoned := bad, fixed := fixed } } }
      if s.furrowArmed then s.set F.MEM_RETIRE_CTRL_RESULT 2 else pcSwap s

/-- MEM_RETIRE_CTRL.GO (R318). -/
def memRetire (phys : Nat) (s : State) : State := nominate phys s

/-! ### Refresh, retraining and self-refresh (R309–R311) -/

/-- A stack is bonded. -/
def State.stackBonded (s : State) (n : Nat) : Bool := decide (n < s.cls.stacks)

/-- The refresh rate a reading in 1/8 °C calls for (R309). -/
def refreshRate (now : Nat) (t : Int) : Nat :=
  let up := if t < 85 * 8 then 0 else if t < 105 * 8 then 1 else 2
  if now ≤ up then up
  else if now = 2 then (if t < 82 * 8 then 0 else if t < 102 * 8 then 1 else 2)
  else (if t < 82 * 8 then 0 else 1)

/-- A reading of a stack sets its refresh rate. -/
def stackReading (n : Nat) (t : Int) (s : State) : State :=
  let new := refreshRate (s.f (F.MEM_Snn_STATUS_REFRESH n)) t
  (s.set (F.MEM_Snn_STATUS_REFRESH n) new).set (F.MEM_Snn_STATUS_TEMP n) (unsigned 8 (sat (t / 8) (-128) 127))

/-- REFRESH_READING_STALE: no reading is newer than 10 ms (R309). -/
def refreshStale (n : Nat) (s : State) : State :=
  if s.stackBonded n then s.set (F.MEM_Snn_STATUS_REFRESH n) 2 else s

/-- RETRAIN_BURST: a burst comes due. A controller retrains its next pseudo-channel; under a checkpoint notice the burst
waits, counted, and starts when the notice ends (R310). -/
def retrainBurst (n : Nat) (s : State) : State :=
  if !s.stackBonded n ∨ !s.islandOpen (7 + n) ∨ s.f (F.MEM_Snn_STATUS_STATE n) ≠ 1 ∨ s.mem.burst.contains n ∨
      s.mem.freqWaiting then s
  else if s.mem.notice then
    { s with mem := { s.mem with burstDue := setInsert s.mem.burstDue n } }.inc (F.MEM_Snn_RETRAIN_STATS_DEFERRED n) 1
  else burstStart n s

/-- ENTER (R311). -/
def selfRefreshEnter (n : Nat) (s : State) : State :=
  if s.stackBonded n ∧ s.f (F.MEM_Snn_STATUS_STATE n) = 1 then s.set (F.MEM_Snn_STATUS_STATE n) 2 else s

/-- EXIT (R311): every pseudo-channel is retrained in its next rotation. -/
def selfRefreshExit (n : Nat) (s : State) : State :=
  if s.stackBonded n ∧ s.f (F.MEM_Snn_STATUS_STATE n) = 2 then s.set (F.MEM_Snn_STATUS_STATE n) 1 else s

/-- SELF_REFRESH_AUTO: AUTO_IDLE_US passed with no request while no furrow is armed (R311). -/
def selfRefreshAuto (n : Nat) (s : State) : State :=
  if s.furrowArmed ∨ s.f (F.MEM_Snn_SR_CTRL_AUTO_IDLE_US n) = 0 then s else selfRefreshEnter n s

/-! ### Frequency steps (R313, R314) -/

/-- The change begins: the MEM gates close, without a reset. -/
def freqStart (s : State) : State :=
  (List.range s.cls.stacks).foldl (fun s n =>
    let g := s.gate (7 + n)
    let s := s.setGate (7 + n) { g with st := if g.accepted.isEmpty && s.issued (7 + n) == 0 then .closed else .closing }
    s.set (F.MEM_Snn_STATUS_STATE n) 3) { s with mem := { s.mem with freqWaiting := false } }

/-- FREQ_CTRL.GO (R313). -/
def freqChange (s : State) : State :=
  let copying := match s.mem.retire with | some j => !j.copied | none => false
  let shut := (List.range s.cls.stacks).any fun n => !s.islandOpen (7 + n)
  if s.furrowArmed || s.mem.freqChange.isSome || copying || shut then s.set F.MEM_FREQ_CTRL_RESULT 3
  else
    let s := (s.set F.MEM_FREQ_CTRL_RESULT 1)
    let s := { s with mem := { s.mem with freqChange := some (min 2 (s.f F.MEM_FREQ_CTRL_FREQ)) } }
    if s.mem.burst.isEmpty then freqStart s else { s with mem := { s.mem with freqWaiting := true } }

/-- FREQ_CHANGE_DONE (R313): the stacks are trained in full and the gates reopen. -/
def freqDone (s : State) : State :=
  match s.mem.freqChange with
  | none => s
  | some f =>
    if s.mem.freqWaiting then s
    else
      let s := (List.range s.cls.stacks).foldl (fun s n =>
        let s := s.setGate (7 + n) { s.gate (7 + n) with st := .opened }
        (s.set (F.MEM_Snn_STATUS_STATE n) 1).set (F.MEM_Snn_STATUS_FREQ n) f) s
      { s with mem := { s.mem with freqChange := none } }.set F.MEM_FREQ_CTRL_RESULT 2

/-- RETRAIN_BURST_DONE: what waited for the burst proceeds (R310, R314). -/
def retrainDone (n : Nat) (s : State) : State :=
  if !s.mem.burst.contains n then s
  else
    let s := { s with mem := { s.mem with burst := setErase s.mem.burst n } }
    if !s.mem.burst.isEmpty then s
    else
      let s := { s with mem := { s.mem with ckptWaiting := false } }
      if s.mem.freqWaiting then freqStart s else s

/-! ### Fault injection (R321) and SRAM patrols (R303) -/

/-- ARM of the flip mask. -/
def flipArm (s : State) : State :=
  let a := s.rd F.MEM_FLIP_ADDR_LO.off / 8 * 8 + s.f F.MEM_FLIP_ADDR_HI_ADDR_HI <<< 32
  if s.furrowArmed || (!s.on F.MEM_FLIP_ADDR_HI_SPACE && s.meetsLocked a 8) then s.set F.MEM_FLIP_CTRL_REFUSED 1
  else s.set F.MEM_FLIP_CTRL_ARMED 1

/-- A word of an island's SRAMs holds data: one of a ring row of the field window never written does not (R307). -/
def State.sramHolds (s : State) (island w : Nat) : Bool :=
  island != 12 || s.path.field.any fun e => e.1 % 4096 == w / fwRowWords

/-- A bit of a stored word of an island's SRAMs flips in the cell array. -/
def sramUpset (island : Nat) (u : Nat × Nat) (s : State) : State :=
  if 72 ≤ u.2 ∨ 2 ^ 32 ≤ u.1 ∨ !s.sramHolds island u.1 then s
  else
    let k := island <<< 32 + u.1
    let m := ((alGet s.mem.sramErrs k).getD 0) ^^^ (1 <<< u.2)
    { s with mem := { s.mem with sramErrs := if m = 0 then alErase s.mem.sramErrs k else alSet s.mem.sramErrs k m } }

/-- A patrol reads a word of an island's SRAMs that holds the error `m`: corrected and written back, or uncorrectable
and left as it is. The counts are of both (R302, R303). -/
def sramWord (e : Nat × Nat) (p : (Nat × Nat) × State) : (Nat × Nat) × State :=
  let ((c, u), s) := p
  let fix := fun (s : State) => (((c + 1, u) : Nat × Nat), { s with mem := { s.mem with sramErrs := alErase s.mem.sramErrs e.1 } })
  match popCount e.2 72 with
  | 0 => p
  | 1 => fix s
  | 2 => ((c, u + 1), s)
  | _ =>
    let (k, s) := s.fresh
    if Config.freeEccDetected k then ((c, u + 1), s) else fix s

/-- The bits of a word of 72: its 64 data bits, then its 8 check bits (R302, R303). -/
def sramBits (data check : List (Nat × Nat)) : List (Nat × Nat) := data ++ check.map fun u => (u.1, u.2 + 64)

/-- SRAM_PATROL_PASS: an island's patrol reads every word of its SRAMs (R303). `upsets` are the bits, by word and place,
that flipped since the last pass. A tile or slice with an uncorrectable word is retired (R131, R179); one in the field
window costs a fallow (R304). -/
def sramPatrol (island : Nat) (upsets : List (Nat × Nat)) (s : State) : State :=
  let s := upsets.foldl (fun s u => sramUpset island u s) s
  if !s.islandOpen island then s
  else if island = 12 then s.fwErrs.foldl (fun s e => fwWord true e.1 e.2 s) s
  else
    let ((corr, unc), s) :=
      (s.mem.sramErrs.filter fun e => e.1 >>> 32 == island).foldl (fun p e => sramWord e p) ((0, 0), s)
    let s := tallyEcc corr unc s
    if 16 ≤ island ∧ island < 50 then
      let t := island - 16
      let s := (s.inc (F.HRW_Tnn_ECC_CORRECTED t) corr).inc (F.HRW_Tnn_ECC_UNCORRECTABLE t) unc
      if unc = 0 then s else (retireTile t 1 .spare s).2
    else if 64 ≤ island ∧ island < 89 then
      let t := island - 64
      let s := (s.inc (F.SOW_Snn_ECC_CORRECTED t) corr).inc (F.SOW_Snn_ECC_UNCORRECTABLE t) unc
      if unc = 0 then s else settleSwaps (retireSlice t 1 .spare s).2
    else s

end Sys2Proof.Machine
end

