-- ==== Sys2Proof/Machine/TilthJobs.lean ====
section
/-! DEFINITION. Tilth jobs: encoding and decoding tile arrays in DRAM, and their context records (R105–R109). -/

namespace Sys2Proof.Machine

/-- The job's state. -/
def tiltState (st reason : Nat) (s : State) : State :=
  (s.set F.TLT_JOB_STATUS_STATE st).set F.TLT_JOB_STATUS_REASON reason

/-- The job stops, ends or fails: the TILTH vector fires (R294). -/
def tiltEnd (st reason : Nat) (s : State) : State := raise 12 (tiltState st reason s)

/-- A job's state as its command starts it: a zero context but for the line above (R92, R109). The line counts as held
from then on, also where the job stops or fails within a tile row: CONTINUE then takes the line as it stands, partly
of the last tile row (log entry 79). -/
def TilthJob.fresh (decode : Bool) (slot ntx nty : Nat) (line : List Byte) (dst dl ovf ol : Nat) : TilthJob :=
  ⟨decode, slot, ntx, nty, line, List.replicate 8 0, 0, dst, dl, ovf, ol, 0, 0, false, true⟩

/-- ENCODE or DECODE (R105, R109). -/
def tiltStart (decode : Bool) (s : State) : State :=
  if s.f F.TLT_JOB_STATUS_STATE = 1 then s
  else
    let ntx := s.f F.TLT_JOB_GEOMETRY_NTX
    let nty := s.f F.TLT_JOB_GEOMETRY_NTY
    let cont := s.on F.TLT_JOB_CTRL_CONTINUE
    let held := match s.path.job with | some j => j.heldLine && j.ntx == ntx | none => false
    if ntx = 0 ∨ 672 < ntx ∨ nty = 0 ∨ 2 ^ 22 < ntx * nty ∨ (cont ∧ !held) then s.set F.TLT_JOB_STATUS_REASON 5
    else
      let line := if cont then (match s.path.job with | some j => j.line | none => []) else List.replicate (8 * ntx) 0
      let j := TilthJob.fresh decode (s.f F.TLT_JOB_CTRL_SLOT) ntx nty line (s.rd F.TLT_JOB_DST.off)
        (s.rd F.TLT_JOB_DST_LIMIT.off) (s.rd F.TLT_JOB_OVF.off) (s.rd F.TLT_JOB_OVF_LIMIT.off)
      let s := ((s.wr F.TLT_JOB_SLOT_COUNT.off 0).wr F.TLT_JOB_TILE_COUNT.off 0).wr F.TLT_JOB_OVF_BITS.off 0
      tiltState 1 0 { s with path := { s.path with job := some j } }

/-- RESUME (R107): the buffers and their limits are read again. -/
def tiltResume (s : State) : State :=
  match s.path.job with
  | some j =>
    if s.f F.TLT_JOB_STATUS_STATE ≠ 2 then s
    else
      let j := { j with
        dst := s.rd F.TLT_JOB_DST.off, dstLimit := s.rd F.TLT_JOB_DST_LIMIT.off, ovf := s.rd F.TLT_JOB_OVF.off
        ovfLimit := s.rd F.TLT_JOB_OVF_LIMIT.off, dstBase := s.rd F.TLT_JOB_TILE_COUNT.off
        ovfBase := s.rd F.TLT_JOB_OVF_BITS.off / 512, abort := false }
      tiltState 1 0 { s with path := { s.path with job := some j } }
  | none => s

/-- ABORT (R106): the job stops before its next tile. -/
def tiltAbort (s : State) : State :=
  match s.path.job with
  | some j =>
    if s.f F.TLT_JOB_STATUS_STATE = 1 then { s with path := { s.path with job := some { j with abort := true } } } else s
  | none => s

/-- A job is stopped or done. -/
def State.tiltHeld (s : State) : Bool := let st := s.f F.TLT_JOB_STATUS_STATE; st == 2 || st == 3

/-- The context record of the job as it stands (R108). -/
def State.tiltRecord (s : State) (j : TilthJob) : List Byte :=
  let n := s.rd F.TLT_JOB_TILE_COUNT.off
  ctxRecord (bitOf j.decode <<< 31 + j.slot <<< 28 + j.ntx <<< 16 + n % j.ntx) (n / j.ntx) (s.rd F.TLT_JOB_SLOT_COUNT.off)
    n (s.rd F.TLT_JOB_OVF_BITS.off) j.left j.corner j.line

/-- SAVE (R108). -/
def tiltSave (s : State) : State :=
  match s.path.job with
  | some j => if s.tiltHeld then engineWrite 34 (64 * s.rd F.TLT_JOB_CTX.off) (s.tiltRecord j) s else s
  | none => s

/-- RESTORE (R108): the tile rows come from TLT_JOB_GEOMETRY, which the record does not hold. -/
def tiltRestore (s : State) : State :=
  if !s.tiltHeld then s
  else
    let ((b, ok), s) := memRead 34 (64 * s.rd F.TLT_JOB_CTX.off) 5440 s
    if !ok then tiltEnd 4 7 s
    else if leAt b 0 4 ≠ 0x544C5431 ∨ leAt b 60 4 ≠ crc32c (b.take 60 ++ b.drop 64) then s.set F.TLT_JOB_STATUS_REASON 4
    else
      let shape := leAt b 4 4
      let ntx := bits shape 25 16
      let j : TilthJob := { TilthJob.fresh (shape.testBit 31) (bits shape 29 28) ntx (s.f F.TLT_JOB_GEOMETRY_NTY)
          (sliceBytes b 64 (8 * ntx)) 0 0 0 0 with left := sliceBytes b 24 8, corner := (b.getD 32 0) }
      let s := ((s.wr F.TLT_JOB_SLOT_COUNT.off (leAt b 12 4)).wr F.TLT_JOB_TILE_COUNT.off (leAt b 16 4)).wr
        F.TLT_JOB_OVF_BITS.off (leAt b 20 4)
      tiltState 2 0 { s with path := { s.path with job := some j } }

/-- The context of the tile at column `tx` (R92). -/
def TilthJob.ctx (j : TilthJob) (tx : Nat) : TileCtx :=
  ⟨j.left.map BitVec.toNat, (sliceBytes j.line (8 * tx) 8).map BitVec.toNat, j.corner.toNat⟩

/-- The context once tile `tx` is done. -/
def TilthJob.advance (j : TilthJob) (tx : Nat) (tile : List Byte) : TilthJob :=
  let line := j.line.take (8 * tx) ++ sliceBytes tile 56 8 ++ j.line.drop (8 * tx + 8)
  if tx + 1 = j.ntx then { j with line := line, left := List.replicate 8 0, corner := 0 }
  else { j with
    line := line, left := (List.range 8).map fun v => tile.getD (8 * v + 7) 0, corner := j.line.getD (8 * tx + 7) 0 }

/-- A tile is done: the counts and the context advance, and the last tile ends the job. -/
def tiltTile (j : TilthJob) (tile : List Byte) (raw : Bool) (s : State) : State :=
  let n := s.rd F.TLT_JOB_TILE_COUNT.off
  let s := (s.wr F.TLT_JOB_TILE_COUNT.off (n + 1)).wr F.TLT_JOB_SLOT_COUNT.off (s.rd F.TLT_JOB_SLOT_COUNT.off + 1)
  let s := if raw then s.wr F.TLT_JOB_OVF_BITS.off (s.rd F.TLT_JOB_OVF_BITS.off + 512) else s
  let s := { s with path := { s.path with job := some (j.advance (n % j.ntx) tile) } }
  if j.ntx * j.nty ≤ n + 1 then tiltEnd 3 0 s else s

/-- A tile of a DECODE job. A slot that overruns is counted and sets OVERRUN; the job has no furrow to name, and no
event is recorded (R99; log entry 78). -/
def tiltDecode (j : TilthJob) (s : State) : State :=
  let n := s.rd F.TLT_JOB_TILE_COUNT.off
  let w := slotWords j.slot
  let ((b, ok), s) := memRead 34 (64 * s.rd F.TLT_JOB_SRC.off + 4 * w * n) (4 * w) s
  if !ok then tiltEnd 4 7 s
  else
    let ws := (List.range w).map fun i => leAt b (4 * i) 4
    let out := fun (tile : List Byte) (raw : Bool) (s : State) =>
      tiltTile j tile raw (engineWrite 34 (64 * j.dst + 64 * (n - j.dstBase)) tile s)
    match slotRaw ws with
    | some i =>
      if j.ovfLimit ≤ i then tiltEnd 2 3 s
      else
        let ((t, ok), s) := memRead 34 (64 * j.ovf + 64 * i) 64 s
        if !ok then tiltEnd 4 7 s else out t true s
    | none =>
      let (rows, past) := slotResiduals ws
      let s := if past then (s.set F.TLT_JOB_STATUS_OVERRUN 1).inc F.TLT_SLOT_OVERRUNS_COUNT 1 else s
      out (decodeTile (j.ctx (n % j.ntx)) rows) false s

/-- The DRAM a job's next tile reads and writes: its item of SRC and its item of DST. -/
def State.tiltWaits (s : State) (j : TilthJob) (n : Nat) : Bool :=
  let w := 4 * slotWords j.slot
  let (a, b) := if j.decode then (w, 64) else (64, w)
  s.memWaits (64 * s.rd F.TLT_JOB_SRC.off + a * n) a || s.memWaits (64 * j.dst + b * (n - j.dstBase)) b

/-- A tile of an ENCODE job. -/
def tiltEncode (j : TilthJob) (s : State) : State :=
  let n := s.rd F.TLT_JOB_TILE_COUNT.off
  let w := slotWords j.slot
  let raws := s.rd F.TLT_JOB_OVF_BITS.off / 512
  let ((tile, ok), s) := memRead 34 (64 * s.rd F.TLT_JOB_SRC.off + 64 * n) 64 s
  let put := fun (ws : List Nat) (s : State) => engineWrite 34 (64 * j.dst + 4 * w * (n - j.dstBase)) (wordsLe ws) s
  if !ok then tiltEnd 4 7 s
  else match encodeSlot w (j.ctx (n % j.ntx)) tile with
    | some ws => tiltTile j tile false (put ws s)
    | none =>
      if j.ovfLimit ≤ raws - j.ovfBase then tiltEnd 2 2 s
      else
        tiltTile j tile true (engineWrite 34 (64 * j.ovf + 64 * (raws - j.ovfBase)) tile (put (rawSlot w raws) s))

/-- TILTH_JOB_TILE_DONE: the checks before the next tile, and the tile (R106). -/
def tiltStep (s : State) : State :=
  match s.path.job with
  | none => s
  | some j =>
    let n := s.rd F.TLT_JOB_TILE_COUNT.off
    if s.f F.TLT_JOB_STATUS_STATE ≠ 1 ∨ !s.islandOpen 11 then s
    else if j.ntx * j.nty ≤ n then tiltEnd 3 0 s
    else if j.abort then tiltEnd 2 6 s
    else if j.dstLimit ≤ n - j.dstBase then tiltEnd 2 1 s
    else if s.tiltWaits j n then s
    else if j.decode then tiltDecode j s else tiltEncode j s

/-- A command of TLT_JOB_CTRL (R105–R109). -/
def tiltCommand (cmd : Nat) (s : State) : State :=
  match cmd with
  | 1 => tiltStart false s
  | 2 => tiltStart true s
  | 3 => tiltResume s
  | 4 => tiltSave s
  | 5 => tiltRestore s
  | 6 => tiltAbort s
  | _ => s

end Sys2Proof.Machine
end

