-- ==== Sys2Proof/Machine/CalOps.lean ====
section
/-! DEFINITION. The calibration engine and the composer of test furrows (R370–R381, R384). -/

namespace Sys2Proof.Machine

/-! ### Instances (R371, R372) -/

/-- Every existing instance as 256 × item + instance, in the order of R373. -/
def State.calAll (s : State) : List Nat :=
  (List.range 9).flatMap fun i => (s.calItem i).map fun k => 256 * i + k

/-- DELTA_T, 0 acting as 1. -/
def State.deltaT (s : State) : Nat := max 1 (s.f F.CAL_CFG_DELTA_T)

/-- RUN makes an item's instances due; INSTANCE 0xFF names all of them (R372). -/
def calRun (item inst : Nat) (s : State) : State :=
  ((s.calItem item).filter fun k => inst == 0xFF || k == inst).foldl (fun s k =>
    let c := s.calInst (256 * item + k)
    setCal (256 * item + k) { c with due := true, asked := c.asked || !s.furrowArmed } s) s

/-- MAX_AGE seconds have passed since an instance completed (R372). -/
def calDueAge (item inst : Nat) (s : State) : State :=
  if s.calExists item inst && (s.calInst (256 * item + inst)).valid then calDue (256 * item + inst) s else s

/-- Instances of items 2–8 whose sensor has moved by more than DELTA_T become due; one that completed while its sensor
had no reading takes the first that comes as the reading at completion (R372). -/
def calTempDue (s : State) : State :=
  (s.calAll.filter fun key => decide (512 ≤ key)).foldl (fun s key =>
    let c := s.calInst key
    let (v, t) := s.calTemp key
    if !c.valid || !v then s
    else match c.temp with
      | none => setCal key { c with temp := some t } s
      | some t0 => if !c.due && decide (s.deltaT < (t - t0).natAbs) then calDue key s else s) s

/-- A gate RESET or LOAD of an island makes its instances due: HK's items, and a tile's, slice's or group's own
(R372). -/
def calIslandReset (island : Nat) (s : State) : State :=
  let keys := s.calAll.filter fun key =>
    let item := key / 256
    let k := key % 256
    if item = 7 then island == 16 + k
    else if item = 8 then island == 64 + k
    else if item = 4 then island == 96 + k / 10
    else if item = 3 ∨ item = 5 ∨ item = 6 then island == 14
    else island == 1
  keys.foldl (fun s key => calDue key s) s

/-- Completed instances age by a second (CAL_RESULT_1). -/
def calAge (s : State) : State :=
  { s with cal := { s.cal with insts := s.cal.insts.map fun (e : Nat × CalInst) =>
      (e.1, if e.2.valid then { e.2 with age := satN 16 (e.2.age + 1) } else e.2) } }

/-! ### Running (R373, R376–R379) -/

/-- The preconditions of R377 on a data lane. An L8 declared lost that locks and carries nothing may be rolled, and
returns to service by it (R214). -/
def State.mayRoll (s : State) (g : Nat) : Bool :=
  let st := s.groupState g
  let x := s.grp g
  let lead := x.sentTo.foldl min (x.sentTo.headD 0) - (match s.jobs.run with | some r => r.sf | none => 0)
  (st == 2 || st == 3) && s.linkUp g && s.laneLocked g 8 && s.l8 g == 15 &&
    (st == 2 || decide (min 64 (s.f F.CAL_CFG_MIN_LEAD) ≤ lead))

/-- A due instance can run now (R371, R373, R377, R379). -/
def State.calRunnable (s : State) (key : Nat) : Bool :=
  let c := s.calInst key
  let item := key / 256
  let k := key % 256
  let g := k / 10
  let training := item == 4 && s.groupState g == 1
  let thrice := decide (3 ≤ c.preSince) && s.furrowArmed && !training
  c.due && !c.waiting && !thrice && (match item with
    | 0 => c.asked && !s.furrowArmed
    | 4 => training || (k % 10 != 9 && s.mayRoll g)
    | 6 => s.pln.motion != .segment && s.pln.motion != .runOut
    | 7 => (s.role tileBase k == 1 || s.role tileBase k == 2) && !s.promised tileBase k
    | 8 => (s.role sliceBase k == 1 || s.role sliceBase k == 2) && !s.promised sliceBase k
    | _ => true)

/-- An instance takes the spare it needs and runs. -/
def calBegin (key : Nat) (s : State) : State :=
  let item := key / 256
  let k := key % 256
  let s := { s with cal := { s.cal with running := some key, spare := none, step := 0 } }
  let s := ((s.set F.CAL_STATUS_STATE 1).set F.CAL_STATUS_ITEM item).set F.CAL_STATUS_INSTANCE k
  match item with
  | 4 => if s.groupState (k / 10) = 1 then s else rollStart (k / 10) s
  | 7 => fillTileAuditor (setRole tileBase k 3 0 { takeUnit tileBase k s with cal := { s.cal with spare := some k } })
  | 8 => fillSliceAuditor (setRole sliceBase k 3 0 { takeUnit sliceBase k s with cal := { s.cal with spare := some k } })
  | _ => s

/-- The engine scans for the next due instance that can run (R373). -/
def calStart (s : State) : State :=
  if !s.islandOpen 1 ∨ !s.on F.CAL_CTRL_ENABLE ∨ s.cal.running.isSome then s
  else match s.calAll.find? s.calRunnable with
    | some key => calBegin key s
    | none =>
      let spare := s.calAll.any fun key => (s.calInst key).due && [4, 7, 8].contains (key / 256)
      s.set F.CAL_STATUS_STATE (if spare then 2 else 0)

/-- What a running instance borrowed goes back (R377, R379). -/
def calReturn (key : Nat) (s : State) : State :=
  let s := { s with cal := { s.cal with running := none, spare := none, step := 0 } }
  let s := s.set F.CAL_STATUS_STATE 0
  if key / 256 = 7 then standbyTile (key % 256) s
  else if key / 256 = 8 then standbySlice (key % 256) s
  else s

/-- The running instance completes and its choice is applied (R371, R373, R377); a rolled lane completes at step 5. -/
def calDone (choice : Nat) (s : State) : State :=
  match s.cal.running with
  | none => s
  | some key =>
    if key / 256 = 4 ∧ s.cal.spare = some 8 ∧ s.cal.step ≠ 5 then s
    else
      raise 13 (calComplete key choice (calReturn key s))

/-- ENABLE cleared: an instance that runs ends without a result (R373). -/
def calDisable (s : State) : State :=
  let s := match s.cal.running with
    | none => s
    | some key =>
      let g := key % 256 / 10
      let s := if key / 256 = 4 ∧ s.cal.spare = some 8 then
          let x := s.grp g
          let back := x.training.foldl (fun a p => alErase a p) x.adapt
          let s := setGrp g { x with training := [], adapt := back } s
          if 3 ≤ s.cal.step ∧ s.cal.step < 5 then
            let q := key % 10
            let s := if s.cal.step = 3 then queueCmd g none (spareMapCmd 0xFF) s else s
            let s := s.set (F.DRL_Gnn_STATUS_L8_CARRIES g) 15
            let x := s.grp g
            let ring := (x.ring q).map fun (e : RingFrame) => if e.acked then e else { e with due := true }
            setGrp g { x with rings := x.rings.set q ring } s
          else s
        else s
      calReturn key s
  s.set F.CAL_STATUS_STATE 3

/-- RETRY_MS after a preemption (R379). -/
def calRetry (item inst : Nat) (s : State) : State :=
  setCal (256 * item + inst) { s.calInst (256 * item + inst) with waiting := false } s

/-- An instance has stayed due for 2 × MAX_AGE seconds (R373). -/
def calOverdue (item inst : Nat) (s : State) : State :=
  let c := s.calInst (256 * item + inst)
  if !s.calExists item inst ∨ !c.due ∨ c.overdue ∨ !s.on F.CAL_CTRL_ENABLE then s
  else
    let s := setCal (256 * item + inst) { c with overdue := true } s
    event 0x700 [BitVec.ofNat 8 item, BitVec.ofNat 8 inst, 0, 0] s

/-- CAL_STATUS as read: DUE counts the instances due, saturating. -/
def State.calStatus (s : State) : Nat :=
  let due := (s.calAll.filter fun key => (s.calInst key).due).length
  let late := s.calAll.any fun key => (s.calInst key).overdue
  let w := withBits (s.rd F.CAL_STATUS.off) 8 0 (satN 9 due)
  withBits w 28 28 (bitOf late)

/-- CAL_RESULT_0 and CAL_RESULT_1 of the instance selected; zero where it does not exist. -/
def State.calResult (s : State) (second : Bool) : Nat :=
  let item := s.f F.CAL_RESULT_SEL_ITEM
  let inst := s.f F.CAL_RESULT_SEL_INSTANCE
  let key := 256 * item + inst
  let c := s.calInst key
  if !s.calExists item inst then 0
  else if second then unsigned 16 (c.temp.getD 0) <<< 16 + c.age
  else bitOf c.valid <<< 31 + bitOf c.overdue <<< 30 + (Config.nearestSensor key).val <<< 24 +
    c.preempts <<< 8 + c.choice

/-! ### Test furrows (R380, R381) -/

/-- A RECT of a test pattern in whole pixels: its class and its edges. -/
structure TestRect where
  cls : Nat
  x0 : Nat
  x1 : Nat
  y0 : Nat
  y1 : Nat
deriving DecidableEq, Repr

/-- Stripe length of a pattern (R381). -/
def patternRows (p : Nat) : Nat := nth [8192, 5120, 8192, 65536] p

/-- The items of a pattern (R381). -/
def patternRects (p : Nat) : List TestRect :=
  match p with
  | 0 => (List.range 5376).map fun x => ⟨1, x, x + 1, 2048 + 128 * (x % 32), 2112 + 128 * (x % 32)⟩
  | 1 => (List.range 16).map fun j =>
      let x := 256 + 1280 * (j % 4)
      let y := 512 + 1024 * (j / 4)
      ⟨j + 1, x, x + 1024, y, y + 1024⟩
  | 2 => (List.range 64).map fun j =>
      let (dx, dy) := Config.stitchBar j
      let x := 5312 * (j / 32) + dx.val
      let y := 256 * (j % 32) + dy.val
      ⟨1, x, x + 2, y, y + 32⟩
  | _ => (List.range 4).flatMap fun j =>
      let (a, w, y, above) := Config.densityPad j
      let x0 := a.val
      let x1 := x0 + 1 + w.val % (5376 - x0)
      let y0 := 1032 + y.val
      let line := if above then y0 + 5120 else y0 - 1032
      ((List.range 1024).map fun i => (⟨1, x0, x1, y0 + 4 * i, y0 + 4 * i + j + 1⟩ : TestRect)) ++
        [⟨1, x0, x1, line, line + 8⟩]

/-- The three words of a RECT packet of segment `k` (R76, R78). -/
def TestRect.words (r : TestRect) (k : Nat) : List Nat :=
  [1 <<< 28 + r.cls <<< 22 + 2 <<< 10 + (16 * r.y0 - 1024 * k), (16 * (r.y1 - r.y0)) <<< 17 + 16 * r.x0, 16 * r.x1]

/-- A segment of a test stream: its rectangles and the PAD that fills its payload to 16 bytes (R74). -/
def testSegment (k : Nat) (rects : List TestRect) : List Byte :=
  let ws := rects.flatMap fun r => r.words k
  let n := (4 - ws.length % 4) % 4
  let pad := if n = 0 then [] else (15 <<< 28 + (n - 1) <<< 10) :: List.replicate (n - 1) 0
  let pay := wordsLe (ws ++ pad)
  wordsLe [0xD5 <<< 24 + k, rects.length + bitOf (n != 0), pay.length, crc32c pay] ++ pay

/-- The directory of segments laid out from a byte offset up. -/
def testDir : Nat → List (List Byte) → List Nat
  | _, [] => []
  | a, g :: t => a / 16 :: g.length / 16 :: testDir (a + g.length) t

/-- The whole test stream of a pattern (R380). -/
def testStream (pattern band job furrow pass feeder step : Nat) : List Byte :=
  let rows := patternRows pattern
  let segs := rows / 64
  let rects := patternRects pattern
  let body := (List.range segs).map fun k => testSegment k (rects.filter fun r => r.y0 / 64 == k)
  let start := 320 + 8 * segs
  let dir := wordsLe (testDir start body)
  let pay := body.flatten
  let used := start + pay.length
  let size := (used + 63) / 64 * 64
  let table := wordsLe ((List.range 64).map fun c => if 1 ≤ c ∧ c ≤ 16 then c * step else 0)
  let head := wordsLe [0x5A4F5253, 1 <<< 24 + feeder <<< 8, job, pass <<< 16 + furrow, rows, segs, 0, size % 2 ^ 32,
    size / 2 ^ 32, 0, 0, 0x43410000 + 256 * pattern + band, 0, 0, 0]
  head ++ wordsLe [crc32c (head ++ table ++ dir)] ++ table ++ dir ++ pay ++ List.replicate (size - used) 0

/-- GO in CAL_TEST_CTRL: a stream is composed, or the composer refuses (R380). -/
def testCompose (s : State) : State :=
  let p := s.f F.CAL_TEST_CTRL_PATTERN
  let step := s.f F.CAL_TEST_PARAM_DOSE_STEP
  let band := s.f F.CAL_TEST_PARAM_BAND
  let feeder := s.f F.CAL_TEST_FURROW_FEEDER
  let a := s.addr F.CAL_TEST_ADDR_LO.off F.CAL_TEST_ADDR_HI.off
  let b := testStream p band (s.rd F.CAL_TEST_JOB.off) (s.f F.CAL_TEST_FURROW_FURROW) (s.f F.CAL_TEST_FURROW_PASS)
    feeder step
  let result := fun n (s : State) => s.set F.CAL_TEST_CTRL_RESULT n
  if s.f F.CAL_TEST_CTRL_RESULT = 1 then s
  else if 46080 < 16 * step ∨ s.cls.exposures ≤ band ∨ !(feeder == 1 || feeder == 2) then result 5 s
  else if s.meetsLocked a b.length then result 3 s
  else if a % 4096 ≠ 0 ∨ !s.inDram a b.length then result 4 s
  else
    let s := engineWrite 11 a b s
    result 1 { s with cal := { s.cal with testBytes := b.length } }

/-- Composition ends (R380). -/
def testDone (s : State) : State :=
  if s.f F.CAL_TEST_CTRL_RESULT = 1 then
    (s.set F.CAL_TEST_CTRL_RESULT 2).wr F.CAL_TEST_BYTES.off s.cal.testBytes
  else s

end Sys2Proof.Machine
end

