-- ==== Sys2Proof/Machine/Image.lean ====
section
/-! DEFINITION. The configuration image: its checks and the layers of defaults (R409–R415, R420). -/

namespace Sys2Proof.Machine

/-- Where an image is read from: offset and length to bytes. -/
abbrev Reader := Nat → Nat → List Byte

/-- An entry of the directory (R409). -/
structure Section where
  off : Nat
  len : Nat
  typ : Nat
  island : Nat
  crc : Nat
deriving DecidableEq, Repr

/-- Start of a slot in the flash (R408). -/
def slotBase (slot : Nat) : Nat := 0x1000000 * slot

/-- A slot of the flash. -/
def State.slotReader (s : State) (slot : Nat) : Reader := fun a n => s.flashBytes (slotBase slot + a) n

/-- A little-endian number of an image. -/
def rdNat (r : Reader) (a n : Nat) : Nat := ofLe (r a n)

/-- SEQ of a header. -/
def imageSeq (r : Reader) : Nat := rdNat r 8 4

/-- IMAGE_BYTES of a header. -/
def imageBytes (r : Reader) : Nat := rdNat r 16 4

/-- The sections of an image. -/
def imageSections (r : Reader) : List Section :=
  (List.range (rdNat r 6 2)).map fun i =>
    let a := 64 + 16 * i
    ⟨rdNat r a 4, rdNat r (a + 4) 4, rdNat r (a + 8) 1, rdNat r (a + 9) 1, rdNat r (a + 12) 4⟩

/-- A section of an island that the variant does not bond out (R410). -/
def Section.ignored (c : BeamClass) (x : Section) : Bool := x.typ == 2 && islandFused c x.island

/-- The directory breaks R409 or R410. -/
def directoryBad (size : Nat) (l : List Section) : Bool :=
  (l.any fun x => x.off % 4096 != 0 || decide (x.off < 4096) || x.len == 0 || decide (size < x.off + x.len) ||
    x.typ == 0 || decide (5 < x.typ) || (if x.typ = 2 then x.island == 0 || !islandAssigned x.island else x.island != 0)) ||
  ((List.range l.length).any fun i => (List.range i).any fun j =>
    match l[i]?, l[j]? with
    | some x, some y => rangesMeet x.off x.len y.off y.len || (x.typ == 2 && y.typ == 2 && x.island == y.island)
    | _, _ => false)

/-- VARIANT_MASK suits the fuses (R409). -/
def variantFits (f : Fuses) (mask : Nat) : Bool :=
  mask.testBit f.cls.code && mask.testBit (if f.grade20 then 5 else 4) && mask.testBit (if f.gradeC then 9 else 8)

/-- The result code of a slot header's checks, 0 where it is good (R420). -/
def headerCode (f : Fuses) (r : Reader) : Nat :=
  let n := rdNat r 6 2
  let size := imageBytes r
  let zero := fun (a k : Nat) => (r a k).all (· == 0)
  if rdNat r 0 4 = 0xFFFFFFFF then 1
  else if rdNat r 0 4 ≠ 0x5A494D47 ∨ rdNat r 4 2 ≠ 1 ∨ rdNat r 1088 4 ≠ crc32c (r 0 1088) ∨ n = 0 ∨ 64 < n ∨
      size % 4096 ≠ 0 ∨ size = 0 ∨ 0x1000000 < size ∨ !zero 32 32 ∨ !zero 1092 3004 ∨
      ((List.range n).any fun i => rdNat r (64 + 16 * i + 10) 2 != 0) then 2
  else if !variantFits f (rdNat r 12 4) then 3
  else if directoryBad size (imageSections r) ∨ !zero (64 + 16 * n) (1024 - 16 * n) then 4
  else 0

/-! ### Sections (R411–R413) -/

/-- A failed check: its code, its section and the entry in it. -/
structure ImageFail where
  code : Nat
  sect : Nat
  entry : Nat
deriving DecidableEq, Repr

/-- The bits of a register that an access code covers. -/
def accMask (row : RegRow) (p : Acc → Bool) : Nat :=
  row.fields.foldl (fun m x => if p x.acc then withBits m x.hi x.lo (2 ^ 32 - 1) else m) 0

/-- The LW and RW bits of a register, which a DEFAULTS entry writes (R411). -/
def layerMask (row : RegRow) : Nat := accMask row fun a => a == .lw || a == .rw

/-- A DEFAULTS entry is invalid (R411). -/
def defaultBad (off v : Nat) : Bool :=
  match regRow off with
  | none => true
  | some row =>
    off % 4 != 0 || (decide (0x10000 ≤ off) && decide (off < 0x20000)) || layerMask row == 0 ||
      (v &&& accMask row fun a => a == .w1s) != 0

/-- FNC offsets a SEALED entry may name (R412). -/
def sealedOffs : List Nat := [0x04, 0x0C, 0x10, 0x14, 0x18, 0x1C, 0x20, 0x40]

/-- The entries of a section of 8-byte entries from an offset. -/
def entryPairs (r : Reader) (a n : Nat) : List (Nat × Nat) :=
  (List.range n).map fun i => (rdNat r (a + 8 * i) 4, rdNat r (a + 8 * i + 4) 4)

/-- The first index with a property. -/
def firstIdx {α : Type} (p : α → Bool) (l : List α) : Option Nat :=
  let n := (l.takeWhile fun x => !p x).length
  if n < l.length then some n else none

/-- The SEALED section of a directory and its index. -/
def sealedOf (l : List Section) : Option (Nat × Section) :=
  match (List.range l.length).filterMap fun i => (l[i]?).bind fun x => if x.typ == 1 then some (i, x) else none with
  | [p] => some p
  | _ => none

/-- The key a SEALED section names, where it is programmed (R413). -/
def sealKey (f : Fuses) (id : Nat) : Option (List Byte) :=
  if id = 0 ∧ f.key0State = 1 then some f.key0
  else if id = 1 ∧ f.key1State = 1 then some f.key1
  else none

/-- The entries of a SEALED section. -/
def sealedEntries (r : Reader) (x : Section) : List (Nat × Nat) := entryPairs r (x.off + 4) (rdNat r (x.off + 2) 2)

/-- The checks of the sealed section: present, key, tag and entries (R412, R413, R420). -/
def sealedCheck (f : Fuses) (r : Reader) : Option ImageFail :=
  match sealedOf (imageSections r) with
  | none => some ⟨6, 0, 0⟩
  | some (i, x) =>
    let n := rdNat r (x.off + 2) 2
    if n = 0 ∨ 64 < n ∨ x.len ≠ 36 + 8 * n then some ⟨6, i, 0⟩
    else match sealKey f (rdNat r x.off 1) with
    | none => some ⟨7, i, 0⟩
    | some key =>
      if hmac256 key (r x.off (4 + 8 * n)) ≠ r (x.off + 4 + 8 * n) 32 then some ⟨8, i, 0⟩
      else if rdNat r (x.off + 1) 1 ≠ 0 then some ⟨9, i, 0⟩
      else (firstIdx (fun (e : Nat × Nat) => !sealedOffs.contains e.1 || (e.1 == 4 && (e.2 &&& 0x50000000) != 0))
        (sealedEntries r x)).map fun k => ⟨9, i, k⟩

/-- The checks of one section by the loader: its CRC, then its entries. -/
def sectionCheck (c : BeamClass) (r : Reader) (i : Nat) (x : Section) : Option ImageFail :=
  if x.ignored c then none
  else if crc32c (r x.off x.len) ≠ x.crc then some ⟨5, i, 0⟩
  else if x.typ = 3 then
    if x.len % 8 ≠ 0 then some ⟨9, i, x.len / 8⟩
    else (firstIdx (fun (e : Nat × Nat) => defaultBad e.1 e.2) (entryPairs r x.off (x.len / 8))).map fun k => ⟨9, i, k⟩
  else if x.typ = 4 then
    let base := rdNat r x.off 4
    let words := (x.len - 4) / 4
    if x.len < 4 ∨ x.len % 4 ≠ 0 ∨ (List.range words).any fun k => (tableEntry (base + 4 * k)).isNone then some ⟨9, i, 0⟩
    else none
  else none

/-- The first failure of sections in directory order. -/
def sectionsCheck (c : BeamClass) (r : Reader) : Nat → List Section → Option ImageFail
  | _, [] => none
  | i, x :: t =>
    match sectionCheck c r i x with
    | some e => some e
    | none => sectionsCheck c r (i + 1) t

/-- HK's section fails its CRC (R418, step 2). -/
def hkCheck (r : Reader) : Option ImageFail :=
  let l := imageSections r
  match firstIdx (fun (x : Section) => x.typ == 2 && x.island == 1) l with
  | none => none
  | some i => match l[i]? with
    | some x => if crc32c (r x.off x.len) ≠ x.crc then some ⟨5, i, 0⟩ else none
    | none => none

/-- An image checked as at a start (R418, R421). -/
def imageCheck (f : Fuses) (r : Reader) : Option ImageFail :=
  let h := headerCode f r
  if h ≠ 0 then some ⟨h, 0, 0⟩
  else match sealedCheck f r with
    | some e => some e
    | none => match hkCheck r with
      | some e => some e
      | none => sectionsCheck f.cls r 0 (imageSections r)

/-! ### Layers (R414, R415) -/

/-- The bits of a register that a JOB reset leaves (R25): GRAIN and RESERVE with what they make, the DRAM map, the roles
and maps of tiles and slices, the active banks and the active table set. Tile and slice roles stand through their own
islands' resets too (R133, R180). -/
def keptBits (off : Nat) : Option Nat :=
  if off = F.MEM_MAP_CFG.off then some 0x000F000F
  else if off = F.JOB_BANK_CTRL.off then some 0x3
  else if off = F.MEM_CAPACITY.off ∨ (0x140100 ≤ off ∧ off < 0x140180) ∨ (0x330000 ≤ off ∧ off < 0x330020) ∨
      (0x520000 ≤ off ∧ off < 0x520018) ∨ off = F.JOB_TABLE_SET_ACTIVE.off ∨
      (0x300000 ≤ off ∧ off < 0x322000 ∧ off % 0x1000 = 0) ∨ (0x500000 ≤ off ∧ off < 0x519000 ∧ off % 0x1000 = 0) then
    some 0xFFFFFFFF
  else none

/-- A DEFAULTS entry stores the LW and RW fields of its register (R411); one of MEM_MAP_CFG makes the capacity (R298).
-/
def applyDefault (off v : Nat) (s : State) : State :=
  match regRow off with
  | none => s
  | some row =>
    let m := layerMask row
    let s := s.wr off ((s.rd off &&& (0xFFFFFFFF ^^^ m)) ||| (v &&& m))
    if off = F.MEM_MAP_CFG.off then s.set F.MEM_CAPACITY_CAPACITY_MIB (512 * s.nPc) else s

/-- DEFAULTS entries of an island, in order; none of the kept registers where the reset is not a start. -/
def applyDefaults (island : Nat) (start : Bool) (l : List (Nat × Nat)) (s : State) : State :=
  (l.filter fun e => islandOf e.1 == island && (start || (keptBits e.1).isNone)).foldl (fun s e => applyDefault e.1 e.2 s) s

/-- The DEFAULTS entries of an image, in directory order and then entry order. -/
def imageDefaults (r : Reader) : List (Nat × Nat) :=
  ((imageSections r).filter fun x => x.typ == 3).flatMap fun x => entryPairs r x.off (x.len / 8)

/-- The active slot: 0 A, 1 B, 2 factory defaults. -/
def State.activeSlot (s : State) : Nat := s.f F.NVL_STATUS_ACTIVE

/-- Layers 2 and 3 of an island's registers (R414, R415). -/
def applyLayers (island : Nat) (start : Bool) (slot : Nat) (s : State) : State :=
  let s := applyDefaults island start s.fuses.factory s
  if slot = 2 then s else applyDefaults island start (imageDefaults (s.slotReader slot)) s

/-- The first check failed by the sections a gate RESET or LOAD of an island reads (R415). -/
def reloadFail (island : Nat) (load : Bool) (s : State) : Option ImageFail :=
  let slot := s.activeSlot
  if slot = 2 then none
  else
    let r := s.slotReader slot
    let l := imageSections r
    ((List.range l.length).filterMap fun i => (l[i]?).bind fun x =>
      if x.typ == 3 || (load && x.typ == 2 && x.island == island) then sectionCheck s.cls r i x else none).head?

/-- NVL_FAIL shows the last failed check (R420); slot 2 is the staged image. -/
def nvlFail (slot : Nat) (e : ImageFail) (s : State) : State :=
  s.wr F.NVL_FAIL.off (e.code <<< 24 + slot <<< 22 + (e.sect % 64) <<< 16 + e.entry % 65536)

/-- A slot's RESULT (R420). -/
def slotResult (slot code : Nat) (s : State) : State :=
  s.set (if slot = 1 then F.NVL_SLOT_B_RESULT else F.NVL_SLOT_A_RESULT) code

/-- The entries of a sealed section stored: FNC's FL bits (R412, R414). -/
def fncStore (off v : Nat) (s : State) : State :=
  let g := 2 ^ s.cls.groups - 1
  if off = 0x04 then s.wr F.FNC_CTRL.off (v &&& 0xA0000000)
  else if off = 0x0C then s.wr F.FNC_INTERLOCK_CFG.off v
  else if off = 0x10 then s.wr F.FNC_DIE_THERMAL.off (v % 2 ^ 27)
  else if off = 0x14 then s.wr F.FNC_STACK_THERMAL.off (v % 2 ^ 27)
  else if off = 0x18 then s.wr F.FNC_HEAD_THERMAL.off (v &&& 0xFFFF00FF)
  else if off = 0x1C then s.wr F.FNC_LIMIT_FORCE.off (v % 16)
  else if off = 0x20 then s.wr F.FNC_TX_ENABLE.off (v &&& g)
  else if off = 0x40 then s.wr F.FNC_DOSE_CEILING.off (v &&& 0x03FF000F)
  else s

/-- The SEALED section applied (R346, R414). -/
def applySealed (r : Reader) (s : State) : State :=
  match sealedOf (imageSections r) with
  | some (_, x) => (sealedEntries r x).foldl (fun s e => fncStore e.1 e.2 s) s
  | none => s

/-- TABLE sections written into banks A and B, and TABLE_SET into both registers (R410, R414). -/
def applyTables (r : Reader) (s : State) : State :=
  let s := ((imageSections r).filter fun x => x.typ == 4).foldl (fun s x =>
    let base := rdNat r x.off 4
    (List.range ((x.len - 4) / 4)).foldl (fun s k =>
      let v := rdNat r (x.off + 4 + 4 * k) 4
      setBank true (base + 4 * k) v (setBank false (base + 4 * k) v s)) s) s
  let t := rdNat r 20 4
  (s.wr F.JOB_TABLE_SET_ACTIVE.off t).wr F.JOB_TABLE_SET_NEXT.off t

end Sys2Proof.Machine
end

