-- ==== Sys2Proof/Machine/NvlOps.lean ====
section
/-! DEFINITION. The loader's commands and the flash operations of an update, a verification and a ledger clear
(R421–R425, R397). -/

namespace Sys2Proof.Machine

/-! ### Slots -/

/-- A slot marked in a store record with its state, its ATTEMPTS and its SEQ (R416). -/
def StoreRec.mark (r : StoreRec) (slot state attempts seq : Nat) : StoreRec :=
  if slot = 1 then { r with stateB := state, attB := attempts, seqB := seq }
  else { r with stateA := state, attA := attempts, seqA := seq }

/-- State of a slot in the store. -/
def StoreRec.stateOf (r : StoreRec) (slot : Nat) : Nat := if slot = 1 then r.stateB else r.stateA

/-- ATTEMPTS of a slot in the store. -/
def StoreRec.attOf (r : StoreRec) (slot : Nat) : Nat := if slot = 1 then r.attB else r.attA

/-- SEQ of a slot in the store. -/
def StoreRec.seqOf (r : StoreRec) (slot : Nat) : Nat := if slot = 1 then r.seqB else r.seqA

/-- SEQ of a slot: its header's where that is good, else the store's. -/
def State.slotSeq (s : State) (slot : Nat) : Nat :=
  let r := s.slotReader slot
  if headerCode s.fuses r = 0 then imageSeq r else s.nvl.store.seqOf slot

/-- The slot UPDATE writes (R421). -/
def State.inactiveSlot (s : State) : Nat :=
  if s.activeSlot = 0 then 1
  else if s.activeSlot = 1 then 0
  else if headerCode s.fuses (s.slotReader 0) ≠ 0 then 0
  else if headerCode s.fuses (s.slotReader 1) ≠ 0 then 1
  else if s.slotSeq 1 < s.slotSeq 0 then 1 else 0

/-- RESULT of NVL_CTRL. -/
def nvlResult (n : Nat) (s : State) : State := s.set F.NVL_CTRL_RESULT n

/-- A command ends refused, with its failed check in NVL_FAIL (R427). -/
def nvlRefuse (slot : Nat) (e : ImageFail) (s : State) : State := nvlResult 4 (nvlFail slot e s)

/-! ### Flash operations -/

/-- The flash may start a write of the loader: it answers, the window holds and no thermal trip runs (R22, R364). -/
def State.mayWrite (s : State) : Bool := s.flashPresent && s.windowHolds && s.fence.trip == 0

/-- The update or verification leaves, and the loader is idle. -/
def updateEnd (result : Nat) (s : State) : State :=
  nvlResult result { s.set F.NVL_STATUS_STATE 1 with nvl := { s.nvl with update := none, flashBusy := 0, suspended := false } }

/-- The phase needs a flash write. -/
def UpdPhase.writes : UpdPhase → Bool
  | .readback => false
  | .verify => false
  | _ => true

/-- The flash operation of a phase: 1 a page program, 2 an erase, 3 a read. -/
def UpdPhase.op : UpdPhase → Nat
  | .erase => 2
  | .readback => 3
  | .verify => 3
  | _ => 1

/-- An ABORT still takes effect: page 0 of the header has not started (R422). -/
def Update.abortable (u : Update) : Bool :=
  match u.phase with
  | .storeTrial => false
  | .header => decide (u.pos < 15)
  | .verify => false
  | _ => true

/-- NVL_PROGRESS of an update (R427). -/
def showProgress (u : Update) (s : State) : State :=
  let (ph, kib) := match u.phase with
    | .storeEmpty => (0, 0)
    | .erase => (1, 64 * u.pos)
    | .program => (2, u.pos / 4)
    | .readback => (3, 0)
    | .header => (4, u.pos / 4)
    | .storeTrial => (4, 4)
    | .verify => (0, 0)
  s.wr F.NVL_PROGRESS.off (ph <<< 29 + kib % 2 ^ 15)

/-- The loader starts what it can while the flash is free: a queued CONFIRM, a confirmed clear, then the next
operation of an update, which waits for the window (R392, R397, R422–R424). -/
def flashNext (s : State) : State :=
  let s := match s.ret.loaderConfirm with
    | some slot =>
      if s.mayWrite && s.nvl.flashBusy == 0 then
        let r := s.nvl.store
        nvlResult 2 (storeProgram (r.mark slot 2 0 (r.seqOf slot)) { s with ret := { s.ret with loaderConfirm := none } })
      else s
    | none => s
  let s := if s.nvl.update.isNone && s.mayWrite then clearProceed s else s
  match s.nvl.update with
  | none => s
  | some u =>
    if s.nvl.flashBusy ≠ 0 then s
    else if u.abort && u.abortable && u.phase != .storeEmpty then updateEnd 6 s
    else if u.phase.writes && !s.mayWrite then s.set F.NVL_STATUS_STATE 3
    else
      let s := s.set F.NVL_STATUS_STATE (if u.phase = .verify then 4 else 2)
      showProgress u { s with nvl := { s.nvl with flashBusy := u.phase.op } }

/-- The window or a trip has changed: an erase in progress is suspended or goes on (R397, R422). -/
def flashWindow (s : State) : State :=
  if s.nvl.flashBusy = 2 then
    let stop := !s.mayWrite
    let s := { s with nvl := { s.nvl with suspended := stop } }
    if s.nvl.update.isSome && s.f F.LDG_CLEAR_STATE != 4 then s.set F.NVL_STATUS_STATE (if stop then 3 else 2) else s
  else flashNext s

/-! ### Checks (R420, R421) -/

/-- The staged image read from DRAM: its bytes, or the check it fails (R420). -/
def stagedImage (s : State) : (List Byte × Option ImageFail) × State :=
  let n := s.f F.NVL_SRC_BYTES_BYTES
  if 0x1000000 < n then (([], some ⟨0x0E, 0, 0⟩), s)
  else
    let ((b, ok), s) := memRead 12 (s.addr F.NVL_SRC_LO.off F.NVL_SRC_HI.off) n s
    if !ok then ((b, some ⟨0x0A, 0, 0⟩), s)
    else
      let r : Reader := fun a k => sliceBytes b a k
      let h := headerCode s.fuses r
      if h ≠ 0 then ((b, some ⟨h, 0, 0⟩), s)
      else if imageBytes r ≠ n then ((b, some ⟨0x0E, 0, 0⟩), s)
      else ((b, imageCheck s.fuses r), s)

/-- A command other than ABORT while UPDATE or VERIFY runs returns BUSY (R423). -/
def nvlBusy (s : State) : Bool := s.nvl.update.isSome

/-- UPDATE by a party (R421). -/
def nvlUpdate (party : Nat) (s : State) : State :=
  let t := s.inactiveSlot
  if nvlBusy s then nvlResult 3 s
  else if !s.flashPresent then nvlRefuse t ⟨0x0A, 0, 0⟩ s
  else if 100000 ≤ nth s.nvl.store.erases t then nvlResult 7 s
  else
    let ((b, e), s) := stagedImage s
    match e with
    | some e => nvlRefuse 2 e s
    | none =>
      let r : Reader := fun a k => sliceBytes b a k
      let crcs := (imageSections r).map fun x => crc32c (r x.off x.len)
      let seq := (max (s.slotSeq 0) (s.slotSeq 1) + 1) % 2 ^ 32
      let u : Update := ⟨t, .storeEmpty, 0, b.length, b.take 4096, crcs, party, seq, false⟩
      flashNext (nvlResult 1 { s with nvl := { s.nvl with update := some u } })

/-- ABORT (R422): with no operation in progress the update ends at once. -/
def nvlAbort (s : State) : State :=
  match s.nvl.update with
  | some u => if u.phase = .verify then s
              else flashNext { s with nvl := { s.nvl with update := some { u with abort := true } } }
  | none => s

/-- CONFIRM (R423): without effect unless the active slot is trial. A write that cannot start now waits in retention RAM
(R22). -/
def nvlConfirm (s : State) : State :=
  let a := s.activeSlot
  if nvlBusy s then nvlResult 3 s
  else if a = 2 ∨ s.nvl.store.stateOf a ≠ 1 then s
  else flashNext (nvlResult 1 { s with ret := { s.ret with loaderConfirm := some a } })

/-- The bytes of a slot's sealed section. -/
def State.sealedBytes (s : State) (slot : Nat) : Option (List Byte) :=
  let r := s.slotReader slot
  (sealedOf (imageSections r)).map fun x => r x.2.off x.2.len

/-- ADOPT (R423). -/
def nvlAdopt (s : State) : State :=
  let t := s.inactiveSlot
  if nvlBusy s then nvlResult 3 s
  else if s.activeSlot ≠ 2 && s.nvl.store.stateOf t == 1 && headerCode s.fuses (s.slotReader t) == 0 &&
      (s.sealedBytes t).isSome && s.sealedBytes t == s.sealedBytes s.activeSlot then
    nvlResult 2 ((s.set F.NVL_STATUS_ACTIVE t).set F.NVL_STATUS_ADOPTED 1)
  else nvlRefuse t ⟨0x0D, 0, 0⟩ s

/-- VERIFY of slot A, slot B or the staged image (R423); the check's outcome comes when the flash has been read. -/
def nvlVerify (target : Nat) (s : State) : State :=
  let t := min 2 target
  if nvlBusy s then nvlResult 3 s
  else if t ≠ 2 ∧ !s.flashPresent then slotResult t 0x0A (nvlRefuse t ⟨0x0A, 0, 0⟩ s)
  else
    flashNext (nvlResult 1 { s with nvl := { s.nvl with update := some ⟨t, .verify, 0, 0, [], [], 0, 0, false⟩ } })

/-! ### An operation ends -/

/-- VERIFY's outcome. -/
def verifyDone (u : Update) (s : State) : State :=
  if u.target = 2 then
    let ((_, e), s) := stagedImage s
    match e with
    | some e => nvlFail 2 e (updateEnd 4 s)
    | none => updateEnd 2 s
  else
    match imageCheck s.fuses (s.slotReader u.target) with
    | some e => slotResult u.target e.code (nvlFail u.target e (updateEnd 4 s))
    | none => slotResult u.target 0 (updateEnd 2 s)

/-- The header as step 6 programs it: SEQ replaced and HEADER_CRC recomputed (R421). -/
def newHeader (u : Update) : List Byte :=
  let h := u.header.take 8 ++ leBytes 4 u.seq ++ (u.header.drop 12).take 1076
  h ++ leBytes 4 (crc32c h) ++ u.header.drop 1092

/-- The next step of an update, reached at its first page. -/
def updateGoto (u : Update) (ph : UpdPhase) (s : State) : State :=
  { s with nvl := { s.nvl with update := some { u with phase := ph, pos := 0 } } }

/-- The next page or sector of an update's step. -/
def updatePos (u : Update) (s : State) : State :=
  { s with nvl := { s.nvl with update := some { u with pos := u.pos + 1 }, ledgerTurn := true } }

/-- The operation an update waits for has ended (R421). -/
def updateStep (u : Update) (s : State) : State :=
  let base := slotBase u.target
  match u.phase with
  | .storeEmpty =>
    let r := s.nvl.store
    let s := storeProgram ((r.mark u.target 0 0 (r.seqOf u.target)).erased u.target) s
    updateGoto u .erase s
  | .erase =>
    let s := flashErase (base + 0x10000 * u.pos) 0x10000 s
    if (u.pos + 1) * 0x10000 < u.bytes then updatePos u s else updateGoto u .program s
  | .program =>
    let a := 4096 + 256 * u.pos
    let ((b, ok), s) := if a < u.bytes then memRead 12 (s.addr F.NVL_SRC_LO.off F.NVL_SRC_HI.off + a) 256 s
      else (([], true), s)
    if !ok then nvlFail 2 ⟨0x0A, 0, 0⟩ (updateEnd 4 s)
    else
      let s := flashProgram (base + a) b s
      if a + 256 < u.bytes then updatePos u s else updateGoto u .readback s
  | .readback =>
    let r := s.slotReader u.target
    let h : Reader := fun a k => sliceBytes u.header a k
    match firstIdx (fun (e : Section × Nat) => crc32c (r e.1.off e.1.len) != e.2) ((imageSections h).zip u.crcs) with
    | some i => slotResult u.target 0x0C (nvlFail u.target ⟨0x0C, i, 0⟩ (updateEnd 4 s))
    | none => updateGoto u .header s
  | .header =>
    let a := 256 * (15 - u.pos)
    let s := flashProgram (base + a) (sliceBytes (newHeader u) a 256) s
    if u.pos < 15 then updatePos u s else updateGoto u .storeTrial s
  | .storeTrial =>
    let s := storeProgram (s.nvl.store.mark u.target 1 0 u.seq) s
    let s := event 0x801 ([BitVec.ofNat 8 u.target, 2, 0, 0] ++ leBytes 4 u.seq) s
    slotResult u.target 0 (updateEnd 2 s)
  | .verify => verifyDone u s

/-- FLASH_OPERATION_DONE: the flash ends the operation in progress, unless it is a suspended erase, and the next one
starts (R364, R397, R421–R424). -/
def flashDone (s : State) : State :=
  if s.nvl.flashBusy = 0 ∨ s.nvl.suspended then s
  else if s.f F.LDG_CLEAR_STATE = 4 then
    let s := clearSectorDone s
    if s.nvl.flashBusy = 0 then flashNext s else flashWindow s
  else
    match s.nvl.update with
    | none => flashNext { s with nvl := { s.nvl with flashBusy := 0 } }
    | some u =>
      let s := updateStep u { s with nvl := { s.nvl with flashBusy := 0 } }
      flashNext s

end Sys2Proof.Machine
end

