-- ==== Sys2Proof/Machine/Reset.lean ====
section
/-! DEFINITION. Resets: of one island (R24, R25, R307, R312, R415), of a host port (R268), and of everything beyond AON
when the core goes down (R39, R428). -/

namespace Sys2Proof.Machine

/-- The replies gates keep for an island's requesters are cleared (R33), and their counts of requests begin again. -/
def clearKept (island : Nat) (s : State) : State :=
  { s with gates := s.gates.map fun (e : Nat × Gate) =>
      (e.1, { e.2 with
        kept := e.2.kept.filter fun (k : Nat × Kept) => engineIsland k.1 != island
        nums := e.2.nums.filter fun (k : Nat × Nat) => engineIsland k.1 != island }) }

/-- Registers of an island return to their reset values; the fields R25 keeps stand unless it is a start (R414). -/
def resetRegs (island : Nat) (start : Bool) (s : State) : State :=
  { s with regs := s.regs.filterMap fun (e : Nat × Word) =>
      if islandOf e.1 ≠ island then some e
      else if start then none
      else (keptBits e.1).map fun m =>
        (e.1, BitVec.ofNat 32 ((e.2.toNat &&& m) ||| (regReset s.fuses e.1 &&& (0xFFFFFFFF ^^^ m)))) }

/-! ### Ledger scan (R387, R398) -/

/-- What a scan of the region finds: the end of the log, records, skipped records, corrupt, and the latest operating
seconds and power-cycle count. -/
structure LogScan where
  stop : Nat
  records : Nat
  skipped : Nat
  corrupt : Bool
  seconds : Nat
  cycles : Nat
deriving DecidableEq, Repr

/-- The log read from an offset by the rules of R387; `fuel` bounds the records. -/
def scanLog (s : State) : Nat → LogScan → LogScan
  | 0, q => q
  | fuel + 1, q =>
    let a := ledgerBase + q.stop
    let len := ofLe (s.flashBytes a 2)
    if ledgerSize ≤ q.stop ∨ len = 0xFFFF then q
    else if len < 16 ∨ 257 ≤ len then { q with corrupt := true }
    else
      let b := s.flashBytes a len
      let ok := leAt b 14 2 == crc16 (b.take 14 ++ b.drop 16)
      let next := q.stop + (len + 3) / 4 * 4
      scanLog s fuel (if ok then
        { q with stop := next, records := q.records + 1, seconds := max q.seconds (leAt b 4 4)
                 cycles := max q.cycles (leAt b 9 3) }
      else { q with stop := next, skipped := q.skipped + 1 })

/-- The whole region read. -/
def State.logScan (s : State) : LogScan := scanLog s 0x40000 ⟨0, 0, 0, false, 0, 0⟩

/-- The ledger writer shows what its scan found. -/
def showScan (q : LogScan) (s : State) : State :=
  let s := (s.set F.LDG_USED_BYTES q.stop).set F.LDG_RECORDS_COUNT q.records
  let s := s.set F.LDG_LOST_SKIPPED (satN 8 q.skipped)
  showLedger { s with ledger := { s.ledger with
    corrupt := q.corrupt, full := decide (ledgerSize - 32 < q.stop) || s.ledger.full } }

/-! ### One island -/

/-- A host's port leaves (R268, R271, R293). -/
def portGone (party : Nat) (s : State) : State :=
  let s := if s.holder = party then leaseEnd 2 s else s
  let s := chkRelease party (endFreezeOf party (dmaDropAll party s))
  { s with
    ctx := alErase s.ctx party
    retrying := s.retrying.filter fun (e : Nat × Req) => e.2.requester != party }

/-- The calibration engine stops with HK, and what it borrowed goes back (R24). -/
def calHalt (s : State) : State := if s.cal.running.isSome then calDisable s else s

/-- HK's hidden state after its reset. The loader's view of the flash, and the count of telemetry records since
power-up, stand. -/
def resetHk (s : State) : State :=
  let shown := [F.NVL_STATUS.off, F.NVL_SLOT_A.off, F.NVL_SLOT_B.off, F.NVL_FLASH_INFO.off, F.NVL_WEAR_A.off,
    F.NVL_WEAR_A.off + 4, F.NVL_WEAR_A.off + 8, F.NVL_WEAR_A.off + 12, F.NVL_KEY_STATUS.off,
    F.NVL_KEY_FINGERPRINT.off].map fun a => (a, s.rd a)
  let s := calHalt s
  let s := shown.foldl (fun s e => s.wr e.1 e.2) (resetRegs 1 false s)
  let s := { s with
    ledger := { Ledger.empty with waiting := s.ledger.waiting, tSeq := s.ledger.tSeq }
    chk := [], nvl := { s.nvl with update := none, flashBusy := 0, suspended := false, ledgerTurn := false } }
  showScan s.logScan (s.set F.NVL_STATUS_STATE 1)

/-- The entries of a bank outside an island's windows. -/
def bankWithout (island : Nat) (l : List (Nat × Nat)) : List (Nat × Nat) := l.filter fun e => islandOf e.1 != island

/-- The table windows' SRAMs clear with their island (R307); the active bank outlives a reset of JOB (R25). -/
def resetTables (island : Nat) (s : State) : State :=
  { s with
    bankA := if island = 5 ∧ !s.activeB then s.bankA else bankWithout island s.bankA
    bankB := if island = 5 ∧ s.activeB then s.bankB else bankWithout island s.bankB }

/-- JOB's hidden state after its reset: the head's memory as read, the usage counters, the inactive bank's tables, the
scrub and the pre-run under way are gone (R307, R399), and the audits end. The queue and its streams stand: the
admission in progress is abandoned, and its stream stays locked and comes first again (R85, R86; log entry 33). -/
def resetJob (s : State) : State :=
  let s := dropPre (sowAuditEnable false (harrowAuditEnable false (resetTables 5 s)))
  let s := resetRegs 5 false s
  let j := s.jobs
  let s := { s with
    jobs := { j with
      queue := j.queue.map fun d => if d.stream = .admitting then { d with stream := .posted } else d
      posts := j.admitting.toList ++ j.posts, admitting := none, headRead := false }
    head := { Head.empty with rereadDue := true }
    headPlane := [], usage := []
    ledger := { s.ledger with usageClearing := false }
    mem := { s.mem with openPatch := [], scrub := none, invalidating := false } }
  showQueue (if s.jobs.queue.isEmpty then s else jobState 1 0 s)

/-- STAGE's hidden state after its reset. The shot rate follows the head's identity block, which JOB still holds
(R240). -/
def resetStage (s : State) : State :=
  { (resetRegs 14 false s).wr F.SHT_SHOT_RATE.off (s.rd F.SHT_SHOT_RATE.off) with
    now := 0, enc := [], zX := 0, zY := 0, yawX := 0, yawY := 0, shot := ShotTiming.empty, pln := Planner.empty }

/-- A tile or slice after its reset: what it was doing ends, and it serves nothing before it has passed its self-test
(R133, R180). -/
def resetUnit (base island t : Nat) (s : State) : State :=
  let s := setRole base t 4 0 (resetRegs island false (takeUnit base t s))
  if base = tileBase then fillTileAuditor s else fillSliceAuditor s

/-- A lane group after its reset: down, its lanes idle (R207). -/
def resetLink (g : Nat) (s : State) : State :=
  let s := { resetRegs (96 + g) false s with link := alErase s.link g }
  linkState g 0 (s.wr (F.DRL_Gnn_STATUS g).off 15)

/-- GLB_STATUS holds the furrow state JOB last reported (GLB_STATUS.FURROW_STATE). -/
def latchFurrow (s : State) : State :=
  if s.islandOpen 5 ∨ (s.gate 5).st = .closing then
    s.wr F.GLB_STATUS.off (withBits (s.rd F.GLB_STATUS.off) 18 16 (s.f F.JOB_STATUS_STATE))
  else s

/-- An island's registers and hidden state as its reset leaves them (R24, R307, R312). Layers of defaults are applied by
the release. -/
def islandReset (i : Nat) (s : State) : State :=
  let s := clearKept i s
  let s := { s with mem := { s.mem with sramErrs := s.mem.sramErrs.filter fun e => e.1 >>> 32 != i } }
  let s :=
    if i = 1 then resetHk s
    else if i = 2 ∨ i = 3 then resetRegs i false (portGone (i - 1) s)
    else if i = 4 then { resetRegs i false s with ctx := alErase s.ctx 4, usb := [] }
    else if i = 5 then resetJob s
    else if i = 6 then { resetRegs i false s with dma := [] }
    else if 7 ≤ i ∧ i ≤ 10 then (resetRegs i false s).set (F.MEM_Snn_STATUS_STATE (i - 7)) 2
    else if i = 11 then
      let s := dropPre (resetRegs i false s)
      { s with path := { s.path with job := none, capture := none, tilth := [] } }
    else if i = 12 then
      let s := mapsClear (resetTables i (resetRegs i false s))
      { s with path := { s.path with mult := [], field := [] } }
    else if i = 13 then
      let s := resetTables i (resetRegs i false s)
      { s with path := { s.path with heat := [], heatAdd := [] } }
    else if i = 14 then resetStage s
    else if 16 ≤ i ∧ i < 50 then resetUnit tileBase i (i - 16) s
    else if 64 ≤ i ∧ i < 89 then resetUnit sliceBase i (i - 64) s
    else if 96 ≤ i ∧ i < 120 then resetLink (i - 96) s
    else resetRegs i false s
  calIslandReset i s

/-- RAW shows the switch inputs once STAGE samples them (R261). -/
def showRaw (s : State) : State :=
  (List.range 6).foldl (fun s i => setRegBit F.PLN_SWITCH_STATUS.off (8 + i) (s.rawLevel i) s) s

/-- A start, or the Fence, releases an island: layers 2 and 3 apply and its gate opens (R358, R414, R431). -/
def releaseIsland (i : Nat) (s : State) : State :=
  let s := applyLayers i true s.activeSlot s
  let s := if i = 14 then showRaw s else s
  s.setGate i { s.gate i with st := .opened }

/-! ### Everything beyond AON (R39, R428) -/

/-- Every island except AON is held in reset: its registers, queues and engines are as reset leaves them, DRAM content
is lost, and the resume record and retention RAM survive. A clear being erased keeps its place in the region (R397).
-/
def coreDown (s : State) : State :=
  let clear := s.rd F.LDG_CLEAR.off
  let clearing := s.f F.LDG_CLEAR_STATE = 3 ∨ s.f F.LDG_CLEAR_STATE = 4
  let old := s.ledger
  let updating := s.nvl.update.isSome
  let lease := s.holder
  let s := latchFurrow s
  let s := { s with
    regs := s.regs.filter fun (e : Nat × Word) => islandOf e.1 == 0
    gates := [], gateCmd := none, retrying := [], ctx := [], smbusStatus := 0, usb := [], jobs := Jobs.empty, path := Path.empty
    link := [], head := Head.empty, cal := Cal.empty, dma := []
    mem := { Mem.empty with sramErrs := s.mem.sramErrs.filter fun e => e.1 >>> 32 == 0 }, ledger := Ledger.empty, chk := []
    nvl := { s.nvl with update := none, flashBusy := 0, suspended := false, ledgerTurn := false }
    usage := [], bankA := [], bankB := [], headPlane := [], now := 0, enc := [], zX := 0, zY := 0, yawX := 0, yawY := 0
    shot := ShotTiming.empty, pln := Planner.empty
    fence := { s.fence with ceilingDriver := false, unseen := [], headLevel := 0, headTemps := none, supplyBad := [] }
    ret := { s.ret with resume := s.ret.resume.map fun q => { q with powerLost := true } } }
  let s := if clearing then
      { s.wr F.LDG_CLEAR.off clear with ledger := { s.ledger with
        mode := 3, clearBefore := old.clearBefore, eraseNext := old.eraseNext } }
    else s
  let s := if updating then s.set F.NVL_CTRL_RESULT 5 else s
  let s := if lease = 1 ∨ lease = 2 then leaseEnd 2 s else s
  let s := (s.set F.FNC_STATUS_SEALED_LOADED 0).set F.GLB_GATE_STATUS_BUSY 0
  let s := (s.set F.GLB_BOOT_STATUS_STATE 0).set F.GLB_BOOT_STATUS_STEP 0
  updateBlank (showMode' s)

/-- A fall of CORE_PWRGD (R428), or what acts as one (R467). -/
def corePowerFall (s : State) : State :=
  if !s.pins.corePwrgd then s
  else coreDown { s with pins := { s.pins with corePwrgd := false, startStalled := false, loading := false } }

end Sys2Proof.Machine
end

