-- ==== Sys2Proof/Machine/FenceOps.lean ====
section
/-! DEFINITION. The Fence port, interlocks, transmit enables, the service pod, and thermal trips (R345–R369). -/

namespace Sys2Proof.Machine

/-! ### Trips and drivers (R350, R351, R354) -/

/-- A blanking driver or trip may have begun or ended: BLANK_ALL_L follows, and a Fence trip that begins takes a furrow
fallow with FENCE_TRIP (R349–R351). `was` tells whether a trip held before. -/
def tripChanged (was : Bool) (s : State) : State :=
  let s := updateBlank s
  if s.fenceTrip && !was then raiseCause 0x03 s else s

/-- HOLD_REQ_EDGE: the filtered HOLD_REQ_L changes (R350, R351); without VDD_AON only the ball does. -/
def holdEdge (s : State) : State :=
  let active := s.pins.holdReqL
  let s := { s with pins := { s.pins with holdReqL := !active } }
  if !s.pins.vddAon then s else
  let s := s.set F.FNC_STATUS_HOLD_REQ (bitOf active)
  if active then raiseCause 0x01 (updateBlank { s with fence := { s.fence with holdDriver := true } }) else s

/-- The door's stop of the stage (R354). -/
def doorStop (s : State) : State := if s.doorStops then plannerStop s else s

/-- DOOR_OK_EDGE: the filtered DOOR_OK changes (R350, R351, R354); without VDD_AON only the ball does. -/
def doorEdge (s : State) : State :=
  let opened := s.pins.doorOk
  let s := { s with pins := { s.pins with doorOk := !opened } }
  if !s.pins.vddAon then s else
  let s := s.set F.FNC_STATUS_DOOR_OPEN (bitOf opened)
  if opened then
    doorStop (raiseCause 0x02 (updateBlank { s with fence := { s.fence with doorDriver := true } }))
  else s

/-- INTERLOCK_RELEASE: an input has stayed released for RELEASE_MS, and its driver ends (R354). -/
def interlockRelease (door : Bool) (s : State) : State :=
  if door then
    if s.pins.doorOk then updateBlank { s with fence := { s.fence with doorDriver := false } } else s
  else
    if s.pins.holdReqL then updateBlank { s with fence := { s.fence with holdDriver := false } } else s

/-- FENCE_WATCHDOG_EXPIRY (R349): nothing happens while WATCHDOG_MS is 0. -/
def watchdogExpiry (s : State) : State :=
  if s.f F.FNC_INTERLOCK_CFG_WATCHDOG_MS = 0 then s
  else tripChanged s.fenceTrip (s.set F.FNC_TRIP_STATUS_WATCHDOG 1)

/-! ### The service pod (R9, R296, R359) -/

/-- FNC_STATUS.SERVICE_PRESENT follows the pod and SERVICE_ENABLE. When the rights end, so do the party's lease, its
requests, its channels and what else it holds; an update it started is aborted (R9, R271, R293, R422). -/
def serviceRights (s : State) : State :=
  let on := s.pins.svcSense && s.on F.FNC_INTERLOCK_CFG_SERVICE_ENABLE
  let was := s.on F.FNC_STATUS_SERVICE_PRESENT
  let s := s.set F.FNC_STATUS_SERVICE_PRESENT (bitOf on)
  if was && !on then
    let s := if s.holder = 4 then leaseEnd 3 s else s
    let s := chkRelease 4 (endFreezeOf 4 (dmaDropAll 4 s))
    let s := { s with
      retrying := s.retrying.filter fun (e : Nat × Req) => e.2.requester != 4
      gates := s.gates.map fun (e : Nat × Gate) =>
        (e.1, { e.2 with accepted := e.2.accepted.filter fun (x : Req × Nat) => x.1.requester != 4 })
      usb := []
      evPending := alErase s.evPending 4, evEnable := alErase s.evEnable 4 }
    if (match s.nvl.update with | some u => u.starter == 4 | none => false) then nvlAbort s else s
  else s

/-- SVC_VBUS_SENSE has been high for 10 ms, or is low (R296). -/
def podSense (present : Bool) (s : State) : State :=
  if !s.pins.vddAon then s else serviceRights { s with pins := { s.pins with svcSense := present } }

/-! ### Writes through the Fence (R345, R354–R359) -/

/-- FALLOW written (R349, R350). -/
def fenceFallow (on : Bool) (s : State) : State :=
  tripChanged s.fenceTrip (s.set F.FNC_CTRL_FALLOW (bitOf on))

/-- REVOKE_LEASE written 1 (R356). -/
def revokeLease (s : State) : State := leaseEnd 4 s

/-- LEASE_LOCK written (R356). -/
def leaseLock (on : Bool) (s : State) : State := s.set F.FNC_CTRL_LEASE_LOCK (bitOf on)

/-- THERMTRIP_L is released; a trip sequence is over (R364, R365). -/
def tripRelease (s : State) : State :=
  { s.set F.FNC_STATUS_THERMTRIP 0 with
    pins := { s.pins with thermtripL := true }, fence := { s.fence with trip := 0, stopDone := false } }

/-- THERMTRIP_RELEASE written 1: without COOLED it has no effect (R364). -/
def thermtripRelease (s : State) : State :=
  if s.on F.FNC_STATUS_COOLED && s.on F.FNC_STATUS_THERMTRIP then tripRelease s else s

/-- A level of FNC_DIE_THERMAL or FNC_STACK_THERMAL in °C. -/
def thermLevel (x : Fld) (s : State) : Int := signed 9 (s.f x)

/-- The fused limits of TRIP and RESTART (R362). -/
def fusedLimit (stack gradeC restart : Bool) : Int :=
  if stack then (if restart then (if gradeC then 90 else 95) else if gradeC then 105 else 110)
  else if restart then (if gradeC then 95 else 110) else if gradeC then 110 else 130

/-- TRIP as it acts (R362). -/
def State.tripLevel (s : State) (stack : Bool) : Int :=
  min (fusedLimit stack s.fuses.gradeC false)
    (thermLevel (if stack then F.FNC_STACK_THERMAL_TRIP else F.FNC_DIE_THERMAL_TRIP) s)

/-- RESTART as it acts (R362). -/
def State.restartLevel (s : State) (stack : Bool) : Int :=
  min (fusedLimit stack s.fuses.gradeC true)
    (thermLevel (if stack then F.FNC_STACK_THERMAL_RESTART else F.FNC_DIE_THERMAL_RESTART) s)

/-- A housekeeping channel's latest reading. -/
def State.channel (s : State) (i : Nat) : Option Int :=
  if s.on (F.HK_CHANNEL_VALID i) then some (signed 16 (s.f (F.HK_CHANNEL_VALUE i))) else none

/-- Every stack's latest reading lies below RESTART (FNC_TRIP_STATUS). -/
def State.stacksCool (s : State) : Bool :=
  (List.range s.cls.stacks).all fun n => match s.channel (24 + n) with
    | some t => decide (t < 8 * s.restartLevel true)
    | none => true

/-- Bits of FNC_TRIP_STATUS written 1 clear: DIE_TRIP only once COOLED is set, STACK_TRIP only once every stack reads
below RESTART. -/
def tripClear (mask : Nat) (s : State) : State :=
  let was := s.fenceTrip
  let m := if mask.testBit 2 && !s.on F.FNC_STATUS_COOLED then withBits mask 2 2 0 else mask
  let m := if m.testBit 1 && !s.stacksCool then withBits m 1 1 0 else m
  let v := s.rd F.FNC_TRIP_STATUS.off
  tripChanged was (s.wr F.FNC_TRIP_STATUS.off (v &&& (0xF ^^^ (m &&& 0xF))))

/-- The start has ended at READY or FACTORY. -/
def State.started (s : State) : Bool := s.f F.GLB_BOOT_STATUS_STATE == 2 || s.f F.GLB_BOOT_STATUS_STATE == 3

/-- A write of FNC_TX_ENABLE (R358): a group disabled goes fallow in an armed furrow and its lanes idle; one enabled
trains, once no furrow is armed. -/
def txEnable (value : Nat) (s : State) : State :=
  let old := s.rd F.FNC_TX_ENABLE.off
  let new := value % 2 ^ s.cls.groups
  let s := s.groups.foldl (fun s g =>
    if old.testBit g && !new.testBit g then groupDown g (groupFallow g 0xFF s) else s) s
  let s := s.wr F.FNC_TX_ENABLE.off new
  s.groups.foldl (fun s g =>
    if !new.testBit g || old.testBit g then s
    else
      -- A group whose bit was 0 in the start is released now (R431).
      let s := if s.started && (alGet s.gates (96 + g)).isNone then releaseIsland (96 + g) s else s
      if s.furrowArmed then s else trainStart g 0 s) s

/-- A write of FNC_LIMIT_FORCE (R357). -/
def limitForce (value : Nat) (s : State) : State := s.set F.FNC_LIMIT_FORCE_FORCE value

/-- SERVICE_ENABLE written (R359). -/
def serviceEnable (on : Bool) (s : State) : State :=
  serviceRights (s.set F.FNC_INTERLOCK_CFG_SERVICE_ENABLE (bitOf on))

/-- A write of FNC_INTERLOCK_CFG. -/
def interlockCfg (value : Nat) (s : State) : State :=
  doorStop (serviceRights (s.wr F.FNC_INTERLOCK_CFG.off value))

/-- A write of FNC_DOSE_CEILING (R65, R66): while a furrow is armed a lowered ceiling takes it fallow; what a furrow
uses is latched under R167. -/
def doseCeiling (value : Nat) (s : State) : State :=
  let (c0, _, q0) := s.ceilings
  let s := s.wr F.FNC_DOSE_CEILING.off (value &&& 0x03FF000F)
  let (c1, _, q1) := s.ceilings
  if (c1 < c0 ∨ q1 < q0) ∧ s.furrowArmed then
    raiseCause 0x04 (updateBlank { s with fence := { s.fence with ceilingDriver := true } })
  else s

/-- A write of FNC_LEDGER_KEY (R396). -/
def ledgerKey (value : Nat) (s : State) : State :=
  if value.testBit 31 then ledgerAuthorise (value % 65536) s else s

/-- A register written through the Fence (R345); RO fields stay as they are. -/
def fncWrite (off value : Nat) (s : State) : State :=
  if s.pins.loading then s
  else if off = 0x04 then
    let s := if value.testBit 30 then revokeLease s else s
    let s := leaseLock (value.testBit 29) s
    let s := if value.testBit 28 then thermtripRelease s else s
    fenceFallow (value.testBit 31) s
  else if off = 0x08 then tripClear value s
  else if off = 0x0C then interlockCfg value s
  else if off = 0x10 ∨ off = 0x14 then fncStore off value s
  else if off = 0x18 then headLevels (fncStore off value s)
  else if off = 0x1C then limitForce value s
  else if off = 0x20 then txEnable value s
  else if off = 0x30 then ledgerKey value s
  else if off = 0x40 then doseCeiling value s
  else s

/-! ### Frames (R347, R348) -/

/-- Offsets of the FNC registers (R345). -/
def fncOffs : List Nat := [0x00, 0x04, 0x08, 0x0C, 0x10, 0x14, 0x18, 0x1C, 0x20, 0x30, 0x40, 0x50]

/-- An FNC register as it reads: the key reads zero. -/
def fncRead (off : Nat) (s : State) : Nat := if off = 0x30 then 0 else s.rd (0x10000 + off)

/-- The nine bytes of a response. -/
def fenceResponse (status seq off data : Nat) : List Byte :=
  let b := beBytes 1 status ++ beBytes 1 seq ++ beBytes 2 off ++ beBytes 4 data
  b ++ beBytes 1 (crc8 b)

/-- The pending response leaves during this frame, and the next one waits. -/
def fenceAnswer (next : List Byte) (s : State) : State :=
  { s.emit (.fence s.fence.response) with fence := { s.fence with response := next } }

/-- A request that passed its CRC: `op` 0 NOP, 1 READ, 2 WRITE, others undefined (R348). -/
def fenceRequest (op seq off data : Nat) (s : State) : State :=
  let s := s.inc F.FNC_SPI_STATS_GOOD 1
  if 2 < op then fenceAnswer (fenceResponse 3 0 0 0) s
  else if off % 4 ≠ 0 ∨ !fncOffs.contains off then fenceAnswer (fenceResponse 4 0 0 0) s
  else if op = 0 then fenceAnswer (fenceResponse 0 seq off (s.rd F.FNC_STATUS.off)) s
  else if op = 1 then fenceAnswer (fenceResponse 0 seq off (fncRead off s)) s
  else
    let busy := s.pins.loading
    let s := fncWrite off data s
    fenceAnswer (fenceResponse (if busy then 5 else 0) seq off (fncRead off s)) s

/-- A frame of some number of SCK cycles, as its bytes (R347, R348): a bad length or CRC is counted and answered. -/
def fenceFrame (cycles : Nat) (bytes : List Byte) (s : State) : State :=
  let b := sliceBytes bytes 0 9
  if cycles ≠ 72 then fenceAnswer (fenceResponse 2 0 0 0) (s.inc F.FNC_SPI_STATS_LENGTH_ERRORS 1)
  else if crc8 (b.take 8) ≠ leAt b 8 1 then fenceAnswer (fenceResponse 1 0 0 0) (s.inc F.FNC_SPI_STATS_CRC_ERRORS 1)
  else fenceRequest (leAt b 0 1) (leAt b 1 1) (256 * leAt b 2 1 + leAt b 3 1)
    (((leAt b 4 1 * 256 + leAt b 5 1) * 256 + leAt b 6 1) * 256 + leAt b 7 1) s

/-! ### Thermal trips (R361–R366) -/

/-- A reading at or above TRIP (R362): its bit sets, and outside a trip already running the sequence of R364 or R365
begins. -/
def thermalTrip (stack : Bool) (channel : Nat) (reading : Int) (s : State) : State :=
  let was := s.fenceTrip
  let s := s.set (if stack then F.FNC_TRIP_STATUS_STACK_TRIP else F.FNC_TRIP_STATUS_DIE_TRIP) 1
  if s.fence.trip ≠ 0 then tripChanged was s
  else
    let hw := s.on F.FNC_STATUS_HW_MODE
    let s := s.set F.FNC_STATUS_COOLED 0
    let s := { s with fence := { s.fence with
      trip := if hw then 2 else 1, tripCause := if stack then 2 else 1, tripChannel := channel, tripReading := reading
      tripSeconds := s.ret.seconds } }
    let s := tripChanged was s
    if hw then coreDown s else plannerStop s

/-- 100 ms after the trip a ramped stop that has not ended ends as a hard stop (R364). -/
def thermalStopLimit (s : State) : State :=
  if s.fence.trip = 1 ∧ s.pln.motion ≠ .rest then plannerHardStop s else s

/-- The shutdown record, with the operating seconds of the trip (R366). -/
def shutdownRecord (heldMs stopMs : Nat) (s : State) : LedgerRec :=
  let rec' := s.stamp 0x602 ([BitVec.ofNat 8 s.fence.tripCause, BitVec.ofNat 8 s.fence.tripChannel] ++
    leBytes 2 (unsigned 16 s.fence.tripReading) ++
    [BitVec.ofNat 8 (s.fence.trip - 1), BitVec.ofNat 8 heldMs] ++ leBytes 2 s.ret.queue.length ++ leBytes 4 stopMs)
  { rec' with seconds := s.fence.tripSeconds }

/-- THERMAL_SHUTDOWN: the steps of the trip have ended; the records go into retention RAM, every island except AON is
held in reset and THERMTRIP_L is driven low (R364, R365). -/
def thermalShutdown (heldMs stopMs : Nat) (s : State) : State :=
  if s.fence.trip = 0 ∨ s.on F.FNC_STATUS_THERMTRIP ∨ (s.fence.trip = 1 ∧ s.pln.motion ≠ .rest) then s
  else
    let s := { s with ret := { s.ret with shutdown := some (shutdownRecord heldMs stopMs s) } }
    let s := match s.jobs.run with
      | some r => writeResume r.sf s
      | none => s
    let s := coreDown s
    { s.set F.FNC_STATUS_THERMTRIP 1 with
      pins := { s.pins with thermtripL := false }, fence := { s.fence with stopDone := true } }

/-- A reading of the comparators while a trip is on: below RESTART the device has cooled, and in hardware mode AON
releases THERMTRIP_L and clears DIE_TRIP by itself (R364, R365). -/
def cooling (t : Int) (s : State) : State :=
  if s.fence.trip = 0 ∨ !s.on F.FNC_STATUS_THERMTRIP then s
  else
    let cool := decide (t < 8 * s.restartLevel false)
    let s := s.set F.FNC_STATUS_COOLED (bitOf cool)
    if cool && s.fence.trip == 2 then
      let was := s.fenceTrip
      tripChanged was (tripRelease (s.set F.FNC_TRIP_STATUS_DIE_TRIP 0))
    else s

/-- The highest of the readings, with its place. -/
def highest (l : List Int) : Option (Nat × Int) :=
  (List.range l.length).foldl (fun b i =>
    let v := l.getD i 0
    match b with
    | some (j, w) => if w < v then some (i, v) else some (j, w)
    | none => some (i, v)) none

/-- AON_COMPARATOR_READ: the comparators read TS_00–TS_03 in 1/8 °C (R361). -/
def comparatorRead (l : List Int) (s : State) : State :=
  let l := l.take 4
  let s := { s with fence := { s.fence with comparators := l } }
  match highest l with
  | none => s
  | some (i, t) =>
    let s := cooling t s
    if 8 * s.tripLevel false ≤ t then thermalTrip false i t s else s

end Sys2Proof.Machine
end

