-- ==== Sys2Proof/Machine/TeleOps.lean ====
section
/-! DEFINITION. The housekeeping round, telemetry, usage counters and the operating-seconds counter (R309, R360–R366,
R372, R388, R399–R401, R452). -/

namespace Sys2Proof.Machine

/-! ### Readings (R360, R361) -/

/-- What a round reads on a channel: the die sensors, stacks and supplies as given, and a group's TEMP_MAX from its
latest STATUS word (R360). -/
def roundReading (readings : List (Option Int)) (i : Nat) (s : State) : Option Int :=
  if 28 ≤ i ∧ i < 52 then
    if i - 28 < s.cls.groups then (s.grp (i - 28)).status.map fun b => 8 * signed 8 (bits b 23 16) else none
  else if 24 ≤ i ∧ i < 28 ∧ s.cls.stacks ≤ i - 24 then none
  else (readings.getD i none)

/-- A channel takes its reading. -/
def takeReading (i : Nat) (v : Int) (s : State) : State :=
  s.wr (F.HK_CHANNEL_VALID i).off (1 <<< 31 + (s.f F.HK_ROUND_ROUND % 256) <<< 16 + unsigned 16 v)

/-- The latest readings of the die sensors. -/
def State.dieSensors (s : State) : List Int := (List.range 24).filterMap s.channel

/-- The highest of some readings. -/
def maxOf (l : List Int) : Option Int := l.head?.map fun a => l.foldl max a

/-- The lowest of some readings. -/
def minOf (l : List Int) : Option Int := l.head?.map fun a => l.foldl min a

/-- The die reading (R361). -/
def State.dieReading (s : State) : Option Int := maxOf (s.dieSensors ++ s.fence.comparators)

/-- The coldest die reading (R361). -/
def State.coldest (s : State) : Option Int := minOf s.dieSensors

/-- The flash write window of the grade, in 1/8 °C (R366). -/
def inFlashWindow (gradeC : Bool) (t : Int) : Bool :=
  if gradeC then decide (0 ≤ t) && decide (t < 760) else decide (-320 ≤ t) && decide (t < 880)

/-- HK_DIE_RANGE and FLASH_WINDOW follow the readings (R361, R366). -/
def showRange (s : State) : State :=
  match s.dieReading, s.coldest with
  | some hi, some lo =>
    let s := s.wr F.HK_DIE_RANGE_DIE_MAX.off (unsigned 16 hi <<< 16 + unsigned 16 lo)
    let w := inFlashWindow s.fuses.gradeC
    s.set F.HK_FLAGS_FLASH_WINDOW (bitOf (w hi && w lo))
  | _, _ => s.set F.HK_FLAGS_FLASH_WINDOW 0

/-! ### Checks of a round -/

/-- A reading against WARN and TRIP (R362). -/
def levelCheck (stack : Bool) (i : Nat) (v : Int) (s : State) : State :=
  let warn := 8 * thermLevel (if stack then F.FNC_STACK_THERMAL_WARN else F.FNC_DIE_THERMAL_WARN) s
  let s := if warn ≤ v then
      let s := s.set (if stack then F.HK_FLAGS_STACK_WARN else F.HK_FLAGS_DIE_WARN) 1
      raise 10 (event (if stack then 0x601 else 0x600) ([BitVec.ofNat 8 i, 0] ++ leBytes 2 (unsigned 16 v)) s)
    else s
  if 8 * s.tripLevel stack ≤ v then thermalTrip stack i v s else s

/-- The recommended range of a supply monitor's rail in mV (R450, R452), low and high. -/
def supplyRange (k : Nat) : Int × Int :=
  ([(720, 790), (820, 880), (825, 875), (1164, 1236), (1067, 1133), (388, 412), (1746, 1854), (1746, 1854), (1710, 1890),
    (3135, 3465), (760, 840), (3135, 3465)] : List (Int × Int)).getD k (0, 0)

/-- A supply reading (R452): out of range in three consecutive rounds, it is recorded. -/
def supplyCheck (k : Nat) (v : Int) (s : State) : State :=
  let (lo, hi) := supplyRange k
  let n := if lo ≤ v ∧ v < hi then 0 else min 3 ((alGet s.fence.supplyBad k).getD 0 + 1)
  let bad := if n = 0 then alErase s.fence.supplyBad k else alSet s.fence.supplyBad k n
  let s := { s with fence := { s.fence with supplyBad := bad } }
  if n = 3 then raise 10 (event 0x605 ([BitVec.ofNat 8 k, 0] ++ leBytes 2 (unsigned 16 v)) s) else s

/-- A channel's reading taken and checked. -/
def channelRound (readings : List (Option Int)) (s : State) (i : Nat) : State :=
  match roundReading readings i s with
  | none => s
  | some v =>
    let s := takeReading i v s
    if 24 ≤ i ∧ i < 28 then stackReading (i - 24) v s
    else if 52 ≤ i then supplyCheck (i - 52) v s
    else s

/-- The levels of R362 applied to what this round read, die first, until a trip has put HK into reset (R365). -/
def levelRound (readings : List (Option Int)) (s : State) (i : Nat) : State :=
  match roundReading readings i s with
  | none => s
  | some v => if (alGet s.gates 1).isNone then s else levelCheck (decide (24 ≤ i)) i v s

/-- A round enters the telemetry period (R400). -/
def tallyRound (missed : Bool) (s : State) : State :=
  let l := s.ledger
  let hot := (List.range s.cls.stacks).filterMap fun n => s.channel (24 + n)
  let s := { s with ledger := { l with
    tRounds := l.tRounds + 1, tMissed := l.tMissed + bitOf missed
    tFirst := if l.tRounds = 0 then s.f F.HK_ROUND_ROUND else l.tFirst
    tDie := (s.dieReading.map (max l.tDie)).getD l.tDie
    tStack := ((maxOf hot).map (max l.tStack)).getD l.tStack } }
  if s.groups.any fun g => (s.grp g).status.isSome then tallyHead s else s

/-- HK_ROUND: a housekeeping round is due (R360). `taken` tells whether HK takes it; while HK is in reset it does not. A
core that is down has no rounds. -/
def hkRound (readings : List (Option Int)) (taken : Bool) (s : State) : State :=
  if (alGet s.gates 1).isNone then s
  else if !taken || !s.islandOpen 1 then tallyRound true (s.inc F.HK_ROUND_MISSED 1)
  else
    let s := s.set F.HK_ROUND_ROUND (s.f F.HK_ROUND_ROUND + 1)
    let s := (List.range 64).foldl (channelRound readings) s
    let s := tallyRound false (showRange s)
    let s := calTempDue s
    let s := (List.range 28).foldl (levelRound readings) s
    if s.fence.trip = 0 ∨ !s.on F.FNC_STATUS_HW_MODE then showLedger (flashWindow s) else s

/-! ### Telemetry (R400, R401) -/

/-- A telemetry record without its CRC (R400), 252 bytes. -/
def telemetryBytes (s : State) : List Byte :=
  let l := s.ledger
  let ch := (List.range 64).flatMap fun i =>
    leBytes 2 (if s.on (F.HK_CHANNEL_VALID i) then s.f (F.HK_CHANNEL_VALUE i) else 0x8000)
  leBytes 4 0x544C4D31 ++ leBytes 4 l.tSeq ++ leBytes 4 s.ret.seconds ++ leBytes 4 (s.ret.cycles * 256 + s.ret.sub) ++
    leBytes 2 l.tFirst ++ leBytes 2 l.tRounds ++ leBytes 2 l.tMissed ++ [0, 0] ++ ch ++
    leBytes 2 (unsigned 16 l.tDie) ++ leBytes 2 (unsigned 16 l.tStack) ++ leBytes 1 (unsigned 8 l.tHead) ++
    leBytes 1 l.tAlarms ++ [0, 0] ++ leBytes 4 (s.rd F.FNC_STATUS.off) ++ leBytes 4 (s.rd F.JOB_STATUS.off) ++
    leBytes 4 (s.rd F.JOB_HEAD_JOB.off) ++ leBytes 4 l.tEccC ++ leBytes 4 l.tEccU ++ leBytes 4 l.tRetx ++
    leBytes 4 l.tEntries ++ leBytes 4 (s.rd F.LDG_RECORDS.off) ++ leBytes 4 (s.rd F.LDG_LOST.off) ++ List.replicate 56 0

/-- TELEMETRY_RECORD: the period of ROUNDS rounds has ended; its record is formed and delivered (R400, R401). -/
def telemetryRecord (s : State) : State :=
  if !s.islandOpen 1 ∨ s.ledger.tRounds < max 1 (s.f F.LDG_TELEM_CFG_ROUNDS) then s
  else
    let b := telemetryBytes s
    let b := b ++ leBytes 4 (crc32c b)
    let seq := s.ledger.tSeq
    let s := (List.range 64).foldl (fun s i => s.wr (F.LDG_TELEM_LAST_WORD i).off (leAt b (4 * i) 4)) s
    let slots := s.f F.LDG_TELEM_CFG_SLOTS
    let base := s.addr F.LDG_TELEM_BASE_LO.off F.LDG_TELEM_BASE_HI.off
    let s := if slots = 0 then s
      else if base % 4096 ≠ 0 ∨ !s.inDram base (256 * slots) then s.set F.LDG_TELEM_CFG_TELEM_REFUSED 1
      else engineWrite 14 (base + 256 * (seq % slots)) b s
    { s with ledger := { s.ledger with
      tSeq := min 0xFFFFFFFE (seq + 1), tRounds := 0, tMissed := 0, tFirst := 0, tDie := -32768, tStack := -32768
      tHead := -128, tAlarms := 0, tEccC := 0, tEccU := 0, tRetx := 0, tEntries := 0 } }

/-! ### Usage counters (R399) -/

/-- CLEAR of LDG_USAGE_CTRL: the counters read zero, and what lands until the zeroing has ended waits. -/
def usageClear (s : State) : State :=
  { s with usage := [], ledger := { s.ledger with usageClearing := true } }

/-- USAGE_CLEAR_DONE: the increments that landed during the zeroing are applied. -/
def usageClearDone (s : State) : State :=
  if s.ledger.usageClearing then
    { s with usage := s.ledger.usageLate, ledger := { s.ledger with usageClearing := false, usageLate := [] } }
  else s

/-! ### Operating seconds (R388, R470) -/

/-- OPERATING_SECOND_TICK: a second of the 32.768 kHz crystal, or of the RC oscillator while that has not started
(R465), completes while VDD_AON is up; the counter saturates. -/
def secondTick (s : State) : State :=
  if !s.pins.vddAon then s
  else
    let s := { s with ret := { s.ret with
      seconds := min (2 ^ 32 - 1) (s.ret.seconds + 1)
      openAge := s.ret.openAge + bitOf s.ret.openRec.isSome } }
    if s.islandOpen 1 then calAge s else s

end Sys2Proof.Machine
end

