-- ==== Sys2Proof/Machine/Bringup.lean ====
section
/-! DEFINITION. From power to writing: AON's power-up, the start and what ends it, clocks, the TAP and the keys, and the
PCI Express link (R38–R40, R268, R363, R398, R413, R416–R419, R428–R436, R465–R467). -/

namespace Sys2Proof.Machine

/-! ### AON (R40, R295, R428, R429) -/

/-- GLB_BOOT_STATUS shows the straps as sampled. -/
def showStraps (s : State) : State :=
  let s := s.set F.GLB_BOOT_STATUS_SMB_A (s.pins.straps % 8)
  let s := s.set F.GLB_BOOT_STATUS_FLASH_1LINE (bits s.pins.straps 3 3)
  s.set F.GLB_BOOT_STATUS_FACTORY (bits s.pins.straps 4 4)

/-- AON_POWER_UP: VDD_AON comes within range. `straps` are STRAP_SMB_A in bits 2–0, STRAP_FLASH_1LINE in bit 3 and
STRAP_FACTORY in bit 4. -/
def aonPowerUp (straps : Nat) (s : State) : State :=
  if s.pins.vddAon then s
  else
    let s := { s with
      pins := { s.pins with vddAon := true, straps := straps % 32, thermtripL := true, leds := false }
      smbusAddr := 0, smbusStatus := 0
      fence := { Fence.empty with holdDriver := !s.pins.holdReqL, doorDriver := !s.pins.doorOk } }
    let s := s.set F.FNC_STATUS_HOLD_REQ (bitOf (!s.pins.holdReqL))
    let s := s.set F.FNC_STATUS_DOOR_OPEN (bitOf (!s.pins.doorOk))
    let s := s.set F.GLB_BOOT_STATUS_SMB_A (straps % 8)
    updateBlank (showMode' s)

/-- VDD_AON_LOSS: only the flash, the fuses and the world's levels on the balls stand (R40). -/
def vddAonLoss (s : State) : State :=
  { State.reset with
    fuses := s.fuses
    nvl := { Nvl.empty with flash := s.nvl.flash, densityMbit := s.nvl.densityMbit }
    pins := { Pins.default with
      sysclk := s.pins.sysclk, ref10m := s.pins.ref10m, switches := s.pins.switches, holdReqL := s.pins.holdReqL
      doorOk := s.pins.doorOk, jtagBusy := s.pins.jtagBusy }
    out := s.out ++ (if s.pins.blankAllL then [.blankAll false] else []), pending := s.pending, freeCount := s.freeCount }

/-- XTAL32_START: the 32.768 kHz crystal oscillates, or is not detected (R428, R465). -/
def xtalStart (running : Bool) (s : State) : State := { s with pins := { s.pins with xtal32 := running } }

/-! ### The store at a start (R416, R417) -/

/-- The store record in slot `i` of the region. -/
def State.storeAt (s : State) (i : Nat) : Option StoreRec := parseStore (s.flashBytes (storeBase + 64 * i) 64)

/-- The slot of 64 bytes is erased. -/
def State.storeBlank (s : State) (i : Nat) : Bool := (s.flashBytes (storeBase + 64 * i) 64).all (· == 0xFF)

/-- Of some records, the first with the highest RSEQ. -/
def bestStore (l : List (Nat × StoreRec)) : Option (Nat × StoreRec) :=
  l.foldl (fun b x => match b with
    | some y => if y.2.rseq < x.2.rseq then some x else some y
    | none => some x) none

/-- The latest store record and its slot: the sector whose first record has the highest RSEQ is scanned (R416). -/
def State.storeScan (s : State) : Option (Nat × StoreRec) :=
  let first := (List.range 64).filterMap fun k => (s.storeAt (1024 * k)).map fun r => (k, r)
  match bestStore first with
  | none => none
  | some (k, _) =>
    bestStore ((List.range 1024).filterMap fun j => (s.storeAt (1024 * k + j)).map fun r => (1024 * k + j, r))

/-- The first erased slot after a record in its sector, or the next sector's first. -/
def State.storeFree (s : State) (i : Nat) : Nat :=
  match ((List.range (1023 - i % 1024)).map fun j => i + 1 + j).find? s.storeBlank with
  | some n => n
  | none => (i / 1024 + 1) * 1024 % 65536

/-- What the boot reader finds: the store, with a slot programmed outside the device counted as confirmed (R416,
R417). -/
def readStore (s : State) : State :=
  let found := if s.flashPresent then s.storeScan else none
  let s := match found with
    | some (i, r) => { s with nvl := { s.nvl with store := r, storeValid := true, storeNext := s.storeFree i } }
    | none => { s with nvl := { s.nvl with store := StoreRec.empty, storeValid := false, storeNext := 0 } }
  let s := if s.flashPresent then
      [0, 1].foldl (fun s slot =>
        let r := s.slotReader slot
        let st := s.nvl.store
        if headerCode s.fuses r = 0 ∧ (!s.nvl.storeValid ∨ imageSeq r ≠ st.seqOf slot) then
          { s with nvl := { s.nvl with store := st.mark slot 2 0 (imageSeq r) } }
        else s) s
    else s
  if s.nvl.storeValid then s
  else [0, 1, 2, 3].foldl (fun s i => s.wr (F.NVL_WEAR_A.off + 4 * i) (1 <<< 31)) s

/-- The eligible slots in the order they are tried (R417). -/
def State.candidates (s : State) : List Nat :=
  let ok := [0, 1].filter fun slot => headerCode s.fuses (s.slotReader slot) == 0 && s.nvl.store.stateOf slot != 3
  if ok = [0, 1] ∧ imageSeq (s.slotReader 0) < imageSeq (s.slotReader 1) then [1, 0] else ok

/-- RESULT of each slot as its header and its state give it (R420). -/
def slotChecks (s : State) : State :=
  [0, 1].foldl (fun s slot =>
    let h := headerCode s.fuses (s.slotReader slot)
    if h ≠ 0 then slotResult slot h (nvlFail slot ⟨h, 0, 0⟩ s)
    else if s.nvl.store.stateOf slot = 3 then slotResult slot 0x0B (nvlFail slot ⟨0x0B, 0, 0⟩ s)
    else s) s

/-- The slots tried in order (R417, R418): the first that passes every check is in force; each that fails is recorded as
a fallback. A trial slot's attempt is programmed before it is tried. -/
def trySlots (window : Bool) : List Nat → State → Option Nat × State
  | [], s => (none, s)
  | slot :: rest, s =>
    let r := s.nvl.store
    let att := r.attOf slot
    let trial := r.stateOf slot == 1
    if trial && decide (3 ≤ att) then
      let s := if window then storeProgram (r.mark slot 3 att (r.seqOf slot)) s else s
      trySlots window rest (slotResult slot 0x0B (nvlFail slot ⟨0x0B, 0, 0⟩ s))
    else if trial && !window then trySlots window rest s
    else
      let s := if trial then storeProgram (r.mark slot 1 (att + 1) (r.seqOf slot)) s else s
      match imageCheck s.fuses (s.slotReader slot) with
      | none => (some slot, slotResult slot 0 s)
      | some e =>
        let s := slotResult slot e.code (nvlFail slot e s)
        let s := s.set (if slot = 1 then F.NVL_STATUS_B_FAILED else F.NVL_STATUS_A_FAILED) 1
        trySlots window rest (event 0x800 [BitVec.ofNat 8 slot, BitVec.ofNat 8 e.code, BitVec.ofNat 8 e.sect, 0] s)

/-! ### The steps of a start (R430, R431) -/

/-- The start stalls (R433): what is open stays open. -/
def bootStall (step cause : Nat) (s : State) : State :=
  let s := (bootAt 4 step s).set F.GLB_BOOT_STATUS_CAUSE cause
  showMode' { s with pins := { s.pins with startStalled := true, loading := false } }

/-- FNC's FL registers return to their reset values while loading runs (R346); trips and the frame counts stand. -/
def fncReset (s : State) : State :=
  { s with regs := s.regs.filter fun (e : Nat × Word) =>
      !(([0x10004, 0x1000C, 0x10010, 0x10014, 0x10018, 0x1001C, 0x10020, 0x10030, 0x10040] : List Nat).contains e.1) }

/-- Step 1: the power cycle counts and loading begins (R38, R346, R388, R429). -/
def bootStep1 (s : State) : State :=
  let s := { s with
    pins := { s.pins with corePwrgd := true, startStalled := false, loading := true }
    ret := { s.ret with cycles := satN 24 (s.ret.cycles + 1) } }
  let s := showStraps (bootAt 1 1 ((s.wr F.GLB_BOOT_TIME.off 0).set F.GLB_BOOT_STATUS_CAUSE 0))
  let s := (fncReset s).set F.FNC_STATUS_SEALED_LOADED 0
  serviceRights (updateBlank (showMode' s))

/-- The image in force, in NVL_STATUS and GLB_BOOT_STATUS (R427, R436). -/
def showSlot (slot : Nat) (s : State) : State :=
  (s.set F.NVL_STATUS_ACTIVE slot).set F.GLB_BOOT_STATUS_SLOT slot

/-- Step 2: the flash answers in its mode (R407), and the headers and the store are read. -/
def bootStep2 (env : StartEnv) (s : State) : State :=
  let one := s.pins.straps.testBit 3 || !env.flashOctal
  let mode := if env.flashAbsent then 0 else if one then 1 else 2
  let s := s.set F.NVL_STATUS_FLASH mode
  let s := s.set F.NVL_FLASH_INFO_CLOCK_MHZ (if mode = 0 then 0 else if mode = 1 then 50 else 200)
  let s := s.set F.NVL_FLASH_INFO_DENSITY (if s.nvl.densityMbit = 2048 then 2 else if s.nvl.densityMbit = 1024 then 1 else 0)
  let s := if mode = 0 then s else s.set F.NVL_FLASH_INFO_MANUFACTURER Config.flashMaker.toNat
  let s := readStore s
  let s := if mode = 0 then s else slotChecks s
  showSlot 2 (showStore s)

/-- Step 3: a slot is tried and its sealed section applied, or the start settles on factory defaults; loading ends
(R346, R417–R419, R433). -/
def bootStep3 (env : StartEnv) (s : State) : State :=
  let l := if s.pins.straps.testBit 4 || !s.flashPresent then [] else s.candidates
  let (slot, s) := trySlots env.windowHolds l s
  let s := match slot with
    | some k => (applySealed (s.slotReader k) (showSlot k s)).set F.FNC_STATUS_SEALED_LOADED 1
    | none => s
  let s := { s with pins := { s.pins with loading := false } }
  updateBlank (serviceRights (showStore s))

/-- NVL_KEY_STATUS and NVL_KEY_FINGERPRINT (R413). -/
def showKeys (s : State) : State :=
  let print := fun (k : List Byte) (st : Nat) => if st = 0 then 0 else leAt (sha256 k) 0 2
  let f := s.fuses
  let s := (s.set F.NVL_KEY_STATUS_K0_STATE f.key0State).set F.NVL_KEY_STATUS_K1_STATE f.key1State
  s.wr F.NVL_KEY_FINGERPRINT.off (print f.key1 f.key1State <<< 16 + print f.key0 f.key0State)

/-- The ledger's start (R366, R398): the region is scanned; the stamps are restored where the retention RAM failed; the
open record, the shutdown record, AON_LOST and POWER_UP join the queue behind what it held. -/
def ledgerBoot (s : State) : State :=
  let q := if s.flashPresent then s.logScan else ⟨0, 0, 0, false, 0, 0⟩
  let lost := !s.ret.valid
  let s := if lost then
      { s with ret := { Retention.empty with
        valid := true, seconds := min (2 ^ 32 - 1) (q.seconds + 1), cycles := satN 24 (q.cycles + 1), sub := s.ret.sub } }
    else s
  let s := closeOpenRec (showScan q s)
  let s := match s.ret.shutdown with
    | some r => enqueueRec r { s with ret := { s.ret with shutdown := none } }
    | none => s
  let s := if lost then enqueueRec (s.stamp 0x002 (leBytes 4 s.ret.seconds ++ leBytes 4 s.ret.cycles)) s else s
  let up := s.stamp 0x001 (leBytes 4 (s.rd F.GLB_VARIANT.off) ++ leBytes 1 s.activeSlot ++ [0, 0, 0])
  enqueueRec up s

/-- A ledger clear that a trip or a power loss interrupted goes on (R397). -/
def clearBoot (s : State) : State :=
  if s.f F.LDG_CLEAR_STATE = 4 then { s with nvl := { s.nvl with flashBusy := 2, suspended := true } } else s

/-- Step 4: HK is released (R398, R418, R430). -/
def bootStep4 (env : StartEnv) (s : State) : State :=
  let s := showKeys ((releaseIsland 1 s).set F.NVL_STATUS_STATE 1)
  let s := s.set F.HK_FLAGS_FLASH_WINDOW (bitOf env.windowHolds)
  let s := drainEvents (ledgerBoot s)
  flashWindow (calBootItem 1 (calBootItem 0 (clearBoot s)))

/-- Islands released in ascending order. -/
def releaseAll (l : List Nat) (s : State) : State := l.foldl (fun s i => releaseIsland i s) s

/-- Step 6: group 1 is released, and every bonded stack is trained and in service. -/
def bootStep6 (s : State) : State :=
  let stacks' := List.range s.cls.stacks
  let s := releaseAll ([2, 3, 4] ++ stacks'.map (7 + ·)) { s with pins := { s.pins with leds := true } }
  stacks'.foldl (fun s n => s.set (F.MEM_Snn_STATUS_STATE n) 1) s

/-- Step 7: group 2 is released; the tables are written (R414). -/
def bootStep7 (s : State) : State :=
  let s := releaseAll [5, 6, 11, 12, 13, 14] s
  if s.activeSlot = 2 then s else applyTables (s.slotReader s.activeSlot) s

/-- Roles after the self-tests (R133, R180): the units that pass fill the places in ascending order, and those left over
are standby. A place without a unit names a failed one. -/
def bootRoles (base n places : Nat) (units failed : List Nat) (serve : Nat → Nat → State → State) (s : State) : State :=
  let pass := units.filter fun t => !failed.contains t
  let s := (List.range n).foldl (fun s t => if units.contains t then
    setRole base t (if failed.contains t then 4 else 1) 0 s else s) s
  (List.range places).foldl (fun s a => match pass[a]? with
    | some t => serve t a s
    | none =>
      let t := (units.filter failed.contains).headD 0
      setRole base t 4 0 (serve t a s)) s

/-- Step 8: group 3 is released and its roles are assigned; items 7 and 8 have chosen the clock taps. -/
def bootStep8 (env : StartEnv) (s : State) : State :=
  let slices := s.groups ++ [24]
  let s := releaseAll ((List.range 34).map (16 + ·) ++ slices.map (64 + ·)) s
  let s := bootRoles tileBase 34 32 (List.range 34) env.failedTiles serveTile s
  let s := bootRoles sliceBase 25 s.cls.groups slices env.failedSlices serveSlice s
  calBootItem 8 (calBootItem 7 (fillSliceAuditor (fillTileAuditor s)))

/-- Step 9: the groups whose FNC_TX_ENABLE bit is 1 are released and begin to train (R207, R431). It lasts until each is
ready or lost. -/
def bootStep9 (s : State) : State :=
  bootLinks ((s.groups.filter s.txEnabled).foldl (fun s g => trainStart g 0 (releaseIsland (96 + g) s)) s)

/-- A step of the start after the first. Step 5's checks of the whole slot are made where the slot is chosen. -/
def bootStep (env : StartEnv) (s : State) (k : Nat) : State :=
  let s := if k = 5 then s else bootAt 1 k s
  if k = 2 then bootStep2 env s
  else if k = 3 then bootStep3 env s
  else if k = 4 then bootStep4 env s
  else if k = 6 then bootStep6 s
  else if k = 7 then bootStep7 s
  else if k = 8 then bootStep8 env s
  else if k = 9 then bootStep9 s
  else s

/-- CORE_PWRGD_RISE: a start (R428, R430). Steps 1 to 8 are run at once, up to the last that ends within its limit;
step 9 goes on with the commands of the links until every group has trained, and step 10 follows. A missing clock
stalls the start (R433, R466, R467). -/
def corePowerRise (env : StartEnv) (s : State) : State :=
  if !s.pins.vddAon || s.pins.corePwrgd || s.on F.FNC_STATUS_THERMTRIP then s
  else
    let s := bootStep1 s
    if !s.pins.sysclk then bootStall 1 1 s
    else if !s.pins.ref10m then bootStall 1 2 s
    else
      let last := min 8 (max 1 env.reached)
      let s := ((List.range 9).filter fun k => decide (2 ≤ k) && decide (k ≤ last)).foldl (bootStep env) s
      if last = 8 then bootStep env s 9 else bootAt 1 (last + 1) s

/-- The CAUSE of a step that exceeds its limit (R436). -/
def stepCause (step : Nat) : Nat := nth [0, 3, 3, 3, 3, 3, 4, 5, 6, 7, 8] step

/-- START_STEP_TIMEOUT: the step in progress exceeds its limit (R433). -/
def startTimeout (step : Nat) (s : State) : State :=
  if s.f F.GLB_BOOT_STATUS_STATE = 1 ∧ s.f F.GLB_BOOT_STATUS_STEP = step then bootStall step (stepCause step) s else s

/-! ### Status LEDs (R355, R435) -/

/-- The level of a status LED's ball: high impedance (none) from power-up until step 6 of a start, then low while its
condition holds (R435). The model takes power-up to be that of VDD_AON, so that LED_FAULT_L can be low after a thermal
trip (log entry 84). -/
def State.led (s : State) (low : Bool) : Option Bool := if s.pins.leds then some (!low) else none

/-- LED_LINK_L: low while every bonded group whose FNC_TX_ENABLE bit is 1 is ready or writing. -/
def State.ledLinkL (s : State) : Option Bool :=
  s.led (s.groups.all fun g => !s.txEnabled g || s.groupState g == 2 || s.groupState g == 3)

/-- LED_WRITE_L: low while a furrow or repair traverse is armed, writing or held. -/
def State.ledWriteL (s : State) : Option Bool := s.led s.furrowArmed

/-- LED_FAULT_L: low while a Fence trip holds, THERMTRIP_L is low or the start has stalled. -/
def State.ledFaultL (s : State) : Option Bool :=
  s.led (s.fenceTrip || !s.pins.thermtripL || s.f F.GLB_BOOT_STATUS_STATE == 4)

/-! ### Clocks (R466, R467) -/

/-- SYSCLK_LOSS (R467). -/
def sysclkLoss (s : State) : State := corePowerFall { s with pins := { s.pins with sysclk := false } }

/-- SYSCLK is present again (R467). -/
def sysclkRestored (s : State) : State := { s with pins := { s.pins with sysclk := true } }

/-- REF_10M_LOSS (R466). -/
def refLoss (s : State) : State := dueCause 0x0C { s with pins := { s.pins with ref10m := false } }

/-- REF_10M has been present and in range for 10 ms and the synthesiser has locked (R466). -/
def refRestored (s : State) : State := { s with pins := { s.pins with ref10m := true } }

/-! ### The TAP and the keys (R363, R413) -/

/-- The TAP takes an instruction (R363). -/
def jtagInstruction (quiet : Bool) (s : State) : State :=
  showMode' { s with pins := { s.pins with jtagBusy := !quiet } }

/-- Key registers follow the fuses while HK is open. -/
def keysChanged (s : State) : State := if s.islandOpen 1 then showKeys s else s

/-- KEY_PROGRAM (R413): the TAP holds the instruction, so the device is in hardware mode; a key that is not blank stays
as it is. -/
def keyProgram (which : Nat) (key : List Byte) (s : State) : State :=
  let s := jtagInstruction false s
  let k := sliceBytes key 0 32
  if which = 0 ∧ s.fuses.key0State = 0 then keysChanged { s with fuses := { s.fuses with key0 := k, key0State := 1 } }
  else if which = 1 ∧ s.fuses.key1State = 0 then keysChanged { s with fuses := { s.fuses with key1 := k, key1State := 1 } }
  else s

/-- KEY_REVOKE (R413): a programmed key is revoked for good. -/
def keyRevoke (which : Nat) (s : State) : State :=
  let s := jtagInstruction false s
  if which = 0 ∧ s.fuses.key0State = 1 then keysChanged { s with fuses := { s.fuses with key0State := 2 } }
  else if which = 1 ∧ s.fuses.key1State = 1 then keysChanged { s with fuses := { s.fuses with key1State := 2 } }
  else s

/-! ### PCI Express (R268) -/

/-- What a port's function tells of itself in its configuration space: class code, device and subsystem numbers, the
sizes of BAR0 and BAR2 in bytes (both 64-bit and non-prefetchable; no other BAR is implemented), MSI-X vectors,
maximum payload and read request in bytes, and outstanding non-posted requests. -/
structure PciFunction where
  classCode : Nat
  device : Nat
  subsystem : Nat
  bar0 : Nat
  bar2 : Nat
  vectors : Nat
  payload : Nat
  readRequest : Nat
  tags : Nat
deriving DecidableEq, Repr

/-- The function of port A and of port B; they are alike (R268). -/
def State.pciFunction (s : State) : PciFunction :=
  { classCode := 0x120000, device := 0x4A04, subsystem := s.rd F.GLB_VARIANT.off % 2 ^ 16, bar0 := 64 * 2 ^ 20
    bar2 := 64 * 2 ^ 10, vectors := 64, payload := 512, readRequest := 4096, tags := 768 }

/-- The port answers configuration requests; before its island opens they receive Request Retry Status (R431). -/
def State.pciAnswers (s : State) (port : Nat) : Bool := (port == 1 || port == 2) && s.islandOpen (port + 1)

/-- PCIE_LINK_UP: a port's link is up at a width and a speed (HST_x_LINK). A port whose island is closed shows
nothing. -/
def pcieLinkUp (party width speed : Nat) (s : State) : State :=
  if (party = 1 ∨ party = 2) ∧ s.islandOpen (party + 1) then
    s.wr (hstBase party) (1 <<< 31 + (width % 16) <<< 4 + speed % 16)
  else s

end Sys2Proof.Machine
end

