-- ==== Sys2Proof/Machine/GateCmds.lean ====
section
/-! DEFINITION. Gate commands: CLOSE, OPEN, RESET and LOAD of an island, from acceptance to result (R24, R25, R28, R29,
R36, R37, R415). -/

namespace Sys2Proof.Machine

/-- RESULT of GLB_GATE_STATUS (R37). -/
def gateResult (r : Nat) (s : State) : State := s.set F.GLB_GATE_STATUS_RESULT r

/-- An expiry flag of a host port sets (R35). -/
def gateExpired (party : Nat) (s : State) : State :=
  if party = 1 then raise 4 (s.set F.GLB_GATE_STATUS_HOST_A_EXPIRED 1)
  else if party = 2 then raise 4 (s.set F.GLB_GATE_STATUS_HOST_B_EXPIRED 1)
  else s

/-- The condition of the Islands table (R24, R25, R343). -/
def State.gateAccepts (s : State) (i cmd : Nat) : Bool :=
  if i = 0 then false
  else if 1 ≤ i ∧ i ≤ 4 then true
  else if i = 5 then
    !s.furrowArmed && (decide (cmd ≤ 2) ||
      (!(match s.mem.retire with | some j => !j.copied | none => false) && s.mem.freqChange.isNone))
  else if i = 6 then (List.range 16).all fun ch => s.dmaState ch != 2 && s.dmaState ch != 3
  else if 7 ≤ i ∧ i ≤ 10 then !s.furrowArmed && s.f (F.MEM_Snn_STATUS_STATE (i - 7)) == 2
  else if 11 ≤ i ∧ i ≤ 13 then !s.furrowArmed
  else if i = 14 then !s.furrowArmed && s.pln.motion == .rest
  else if 16 ≤ i ∧ i < 50 then s.role tileBase (i - 16) != 0
  else if 64 ≤ i ∧ i < 89 then s.role sliceBase (i - 64) != 0
  else !s.furrowArmed || s.groupState (i - 96) == 4 ||
    (match s.jobs.run with | some r => r.groupsFallow.testBit (i - 96) | none => false)

/-- The command running ends (R37): BUSY clears and vector 4 is raised (R294). -/
def gateEnd (r : Nat) (s : State) : State :=
  raise 4 (gateResult r ({ s with gateCmd := none }.set F.GLB_GATE_STATUS_BUSY 0))

/-- Requests a forced close leaves without a reply count as never applied; their requesters present them again (R29). -/
def gateForget (i : Nat) (s : State) : State :=
  let g := s.gate i
  let again := g.accepted.map fun (e : Req × Nat) => (i, e.1)
  { s.setGate i { g with accepted := [] } with retrying := again ++ s.retrying }

/-- The gate has closed: CLOSE leaves the island out of service, RESET and LOAD hold it in reset (R28, R36, R37). -/
def gateClosed (c : GateCmd) (s : State) : State :=
  let i := c.island
  let s := if i = 5 then latchFurrow s else s
  let s := s.setGate i { s.gate i with st := .closed }
  if c.cmd = 1 then
    gateEnd (if c.forced then 4 else 0) (s.setGate i { s.gate i with outOfService := true })
  else islandReset i s

/-- A gate command of a party or an engine (R37): 1 CLOSE, 2 OPEN, 3 RESET, 4 LOAD. During a start every command is
BUSY (R431). -/
def gateCommand (cmd i : Nat) (s : State) : State :=
  if s.gateCmd.isSome ∨ s.f F.GLB_BOOT_STATUS_STATE = 1 then gateResult 1 s
  else
    let s := s.set F.GLB_GATE_STATUS_ISLAND i
    let conclude := fun (r : Nat) => raise 4 (gateResult r s)
    if !islandAssigned i ∨ islandFused s.cls i then conclude 3
    else if cmd = 0 ∨ 5 ≤ cmd ∨ !s.gateAccepts i cmd then conclude 2
    else
      let g := s.gate i
      if cmd = 2 then
        if g.st = .opened then conclude 0
        else if g.outOfService then
          raise 4 (gateResult 0 (let s := s.setGate i { g with st := .opened, outOfService := false }
            if i = 1 then drainEvents s else s))
        else conclude 2
      else if (alGet s.gates i).isNone then conclude 2
      else
        let c : GateCmd := ⟨cmd, i, false⟩
        let s := { s with gateCmd := some c }.set F.GLB_GATE_STATUS_BUSY 1
        if g.st = .closed then gateClosed c (s.setGate i { s.gate i with outOfService := false })
        else s.setGate i { g with st := .closing, outOfService := false }

/-- GATE_DRAIN_DONE: a closing gate has no accepted and no issued request without its reply, and closes (R28). -/
def gateDrainDone (i : Nat) (s : State) : State :=
  let g := s.gate i
  if g.st ≠ .closing ∨ !g.accepted.isEmpty ∨ s.issued i ≠ 0 then s
  else match s.gateCmd with
    | some c => if c.island = i then gateClosed c s else s.setGate i { g with st := .closed }
    | none => s.setGate i { g with st := .closed }

/-- GATE_DRAIN_LIMIT: the drain limit has passed, and the gate closes with replies outstanding (R29). -/
def gateDrainLimit (i : Nat) (s : State) : State :=
  let g := s.gate i
  match s.gateCmd with
  | some c =>
    if c.island ≠ i ∨ g.st ≠ .closing then s
    else
      let n := g.accepted.length + s.issued i
      let c := { c with forced := decide (0 < n) }
      let s := { s with gateCmd := some c }.set F.GLB_GATE_STATUS_OUTSTANDING (satN 8 n)
      gateClosed c (gateForget i s)
  | none => s

/-- What the release of an island brings besides its registers (R126, R133, R180, R207, R307, R312). -/
def releaseEffects (i : Nat) (pass : Bool) (s : State) : State :=
  if i = 1 then drainEvents s
  else if i = 5 then
    rereadStart (sowAuditEnable (s.on F.SOW_AUDIT_CTRL_ENABLE) (harrowAuditEnable (s.on F.HRW_AUDIT_CTRL_ENABLE) s))
  else if i = 14 then showRaw s
  else if 16 ≤ i ∧ i < 50 then returnTile (i - 16) pass s
  else if 64 ≤ i ∧ i < 89 then returnSlice (i - 64) pass s
  else if 96 ≤ i ∧ i < 120 then (if s.furrowArmed then s else trainStart (i - 96) 0 s)
  else s

/-- ISLAND_RESET_DONE: the island held in reset by RESET or LOAD is released: what the loader read passes its checks,
its layers apply and its gate opens; else it stays closed and out of service (R37, R415). `pass` is the self-test of a
tile or slice, and for any other island whether its release succeeds. -/
def islandResetDone (pass : Bool) (s : State) : State :=
  match s.gateCmd with
  | none => s
  | some c =>
    let i := c.island
    let g := s.gate i
    if g.st ≠ .closed ∨ c.cmd = 1 then s
    else
      let tested := decide (16 ≤ i ∧ i < 50) || decide (64 ≤ i ∧ i < 89)
      match reloadFail i (c.cmd == 4) s with
      | some e => gateEnd 5 (nvlFail s.activeSlot e (s.setGate i { g with outOfService := true }))
      | none =>
        if !pass && !tested then gateEnd 5 (s.setGate i { g with outOfService := true })
        else
          let s := applyLayers i false s.activeSlot s
          let s := s.setGate i { g with st := .opened, outOfService := false }
          gateEnd (if c.forced then 4 else 0) (releaseEffects i pass s)

/-- State of a gate in GLB_GATE_STATUS: 0 open, 1 closing, 2 closed. -/
def State.gateCode (s : State) (i : Nat) : Nat :=
  if i = 0 then 0 else match (s.gate i).st with | .opened => 0 | .closing => 1 | .closed => 2

/-- NOT_OPEN of GLB_GATE_STATE_k: fused-off and unassigned islands read 1 (R37). -/
def State.gateWord (s : State) (k : Nat) : Nat :=
  maskOf ((List.range 32).filter fun b =>
    let i := 32 * k + b
    !islandAssigned i || islandFused s.cls i || !s.islandOpen i)

end Sys2Proof.Machine
end

