-- ==== Sys2Proof/Machine/RegActions.lean ====
section
/-! DEFINITION. Register reads and writes: what a register reads as, who may write which field, the reports of refused
writes, and what a write does (R5, R12–R14, R158, R267, R286, R297, R344, R402, R437–R443). -/

namespace Sys2Proof.Machine

/-! ### What a register reads as -/

/-- STATE and the map bits of MDR_STATUS (R158). With an empty queue every map bit and NEXT_ROWS read 0, and STATE 3 is
shown only once the furrow is written: a head that waits for the lookahead before it arms shows idle or pre-run (log
entry 73). -/
def State.mdrStatus (s : State) : Nat :=
  let bits' := s.rd 0x400008 &&& (1 <<< 28)
  match s.head? with
  | none => (if s.madBypass then 4 else 0) <<< 29 ||| bits'
  | some d =>
    let running := match s.jobs.run with | some r => r.begun | none => false
    let st := if s.madBypass then 4
      else if running then (if s.lookaheadOk d then 2 else 3)
      else if s.path.preWork.isSome then 1 else 0
    let v := fun (r : Nat) => d.mapZero r || s.mapValid (d.mapIdent r) d.rows
    st <<< 29 ||| bits' ||| bitOf (v 0) <<< 27 ||| bitOf (v 1) <<< 26 ||| bitOf (v 2) <<< 25 ||| satN 19 (s.nextRows d)

/-- GLB_STATUS (R441). -/
def State.glbStatus (s : State) : Nat :=
  let boot := s.f F.GLB_BOOT_STATUS_STATE
  let held := match s.jobs.run with | some r => r.phase == .held | none => false
  let shut := (List.range 120).any fun i =>
    islandAssigned i && !islandFused s.cls i && decide (i ≠ 0) && !s.islandOpen i
  bitOf (boot == 2) <<< 31 + bitOf (boot == 3) <<< 30 + bitOf (s.holder != 0) <<< 29 + s.holder <<< 26 +
    bitOf held <<< 25 + bitOf (s.on F.FNC_STATUS_BLANK_ALL) <<< 24 + bitOf (s.on F.FNC_STATUS_HW_MODE) <<< 23 +
    bitOf (s.on F.FNC_STATUS_SERVICE_PRESENT) <<< 22 + bitOf shut <<< 21 +
    bitOf (s.rd F.HK_FLAGS_DIE_WARN.off % 16 != 0) <<< 20 + bitOf s.ledgerStopped <<< 19 +
    (if s.islandOpen 5 then s.f F.JOB_STATUS_STATE else bits (s.rd F.GLB_STATUS.off) 18 16) <<< 16

/-- A word of the resume record (JOB_RESUME_JOB, _FURROW, _SHOT). -/
def State.resumeWord (s : State) (k : Nat) : Nat :=
  match s.ret.resume with
  | none => 0
  | some r =>
    if k = 0 then r.job
    else if k = 1 then 1 <<< 31 + bitOf r.powerLost <<< 30 + r.pass <<< 16 + r.furrow
    else r.shot

/-- A party's copy of GLB_EVENT_PENDING or GLB_EVENT_ENABLE; a host reads its port's registers (R443). -/
def State.eventCopy (s : State) (party : Nat) (enable : Bool) : Nat :=
  if party = 1 ∨ party = 2 then s.rd (hstBase party + (if enable then 4 else 8))
  else ((alGet (if enable then s.evEnable else s.evPending) party).getD 0).toNat

/-- A party's view of GLB_LEASE (R442). -/
def State.leaseView (s : State) (party : Nat) : Nat :=
  ((alGet s.leaseCmd party).getD 0 % 8) <<< 28 + ((alGet s.leaseResult party).getD 0 % 8) <<< 25 +
    s.rd F.GLB_LEASE.off % 2 ^ 22

/-- The bits of a register that read zero: its reserved bits and its WO and W1S fields (R12, R14). -/
def readMask (row : RegRow) : Nat := accMask row fun a => !(a == .reserved || a == .wo || a == .w1s)

/-- The registers of the map whose value is computed where it is read. -/
def computedReg (party off : Nat) (s : State) : Option Nat :=
  if off = 0x10 then some s.ret.seconds
  else if off = 0x14 then some (s.ret.latchedSub <<< 24 + s.ret.cycles)
  else if off = F.GLB_BOOT_TIME.off then
    -- STEP_MS counts while the start is in a step or has stalled in one (R436; log entry 83).
    some (if s.f F.GLB_BOOT_STATUS_STATE = 1 ∨ s.f F.GLB_BOOT_STATUS_STATE = 4 then
      withBits (s.rd off) 15 0 (Config.bootTime s.freeCount).toNat else s.rd off)
  else if off = 0x48 then some s.glbStatus
  else if off = 0x80 then some (s.leaseView party)
  else if off = 0xC0 then some (s.eventCopy party false)
  else if off = 0xC4 then some (s.eventCopy party true)
  else if off = 0x104 then
    some (withBits (s.rd off) 8 7 (s.gateCode (s.f F.GLB_GATE_STATUS_ISLAND)))
  else if 0x110 ≤ off ∧ off < 0x120 then some (s.gateWord ((off - 0x110) / 4))
  else if off = F.LDG_READ_ADDR.off then some (s.ledgerPtr party)
  else if off = F.LDG_READ_DATA.off then some (ledgerWord party s)
  else if off = F.CAL_STATUS.off then some s.calStatus
  else if off = 0x40014 then some (s.calResult false)
  else if off = 0x40018 then some (s.calResult true)
  else if off = 0x7032C then some s.holdPending
  else if off = 0x70340 then some (s.resumeWord 0)
  else if off = 0x70344 then some (s.resumeWord 1)
  else if off = 0x70348 then some (s.resumeWord 2)
  else if off = 0x400008 then some s.mdrStatus
  else none

/-- A register as a party would read it, without the effects of a read. -/
def State.peek (s : State) (party off : Nat) : Nat :=
  if islandFused s.cls (islandOf off) then 0
  else if 0x1000000 ≤ off then tableRead off s
  else match regRow off with
    | none => 0
    | some row =>
      match computedReg party off s with
      | some v => v
      | none => s.rd off &&& readMask row

/-- The RC fields of a register return to what they hold with nothing counted (R12). -/
def clearRc (off : Nat) (row : RegRow) (s : State) : State :=
  row.fields.foldl (fun s x =>
    if x.acc == .rc then s.wr off (withBits (s.rd off) x.hi x.lo (bits (regReset s.fuses off) x.hi x.lo)) else s) s

/-- A register read by a party: its value and what the read changes (R12, R395, R470). -/
def regRead (party off : Nat) (s : State) : Nat × State :=
  let v := s.peek party off
  if islandFused s.cls (islandOf off) then (0, s)
  else match regRow off with
    | none => (v, s)
    | some row =>
      let s := if off = 0x10 then { s with ret := { s.ret with latchedSub := s.ret.sub } }
        else if off = F.LDG_READ_DATA.off then ledgerAdvance party s
        else s
      (v, clearRc off row s)

/-! ### Who may write (R439) -/

/-- The registers R439 opens to the management party. -/
def mgmtOpen (off : Nat) : Bool :=
  off == F.LDG_CTRL.off || off == F.LDG_READ_ADDR.off || off == 0xC0 || off == 0xC4 ||
    (decide (0x60300 ≤ off) && decide (off < 0x60400))

/-- The register belongs to a port, channel, unit or event copy of someone else (R286, R297, R402, R443). -/
def notOwner (party off : Nat) (s : State) : Bool :=
  if off = 0xC0 ∨ off = 0xC4 then party == 1 || party == 2
  else if 0x90000 ≤ off ∧ off < 0x90100 then party != 1
  else if 0x90100 ≤ off ∧ off < 0xA0000 then party != 2
  else if 0x80000 ≤ off ∧ off < 0x90000 then
    let ch := (off - 0x80000) / 0x100
    s.dmaState ch == 0 || s.dmaOwner ch != party
  else if 0x60000 ≤ off ∧ off < 0x70000 then s.chkOwner ((off - 0x60000) / 0x100) != party
  else false

/-- CLAIM of a DMA channel or of U03, which no owner guards (R286, R402). -/
def isClaim (off lo : Nat) : Bool :=
  lo == 31 && ((decide (0x80000 ≤ off) && decide (off < 0x90000) && off % 0x100 == 0) || off == 0x60300)

/-- W1C and W1S fields that only the lease holder writes although their register has no LW field, or an RW one: where a
chapter or the register's own access says so (R236, R262, R263, R260, R335, R341, R399). -/
def holderOnly (off lo : Nat) : Bool :=
  off == F.ENC_FAULT_STATUS.off || off == F.PLN_SWITCH_STATUS.off || (off == F.PLN_STATUS.off && lo == 25) ||
    off == F.JOB_REPAIR_CTRL.off || off == F.JOB_BANK_CTRL.off || off == F.LDG_USAGE_CTRL.off || off == 0x800818

/-- REASON for which a party's write of a field is refused, 0 where it is allowed (R439, R441). -/
def denied (party off : Nat) (row : RegRow) (x : RegField) (s : State) : Nat :=
  let has := fun (a : Acc) => row.fields.any fun (y : RegField) => y.acc == a
  let lw := if s.holder = party ∧ party ≠ 0 then 0 else 2
  let mine := if isClaim off x.lo then 0 else if notOwner party off s then 4 else 0
  match x.acc with
  | .reserved => 0
  | .ro => 1
  | .rc => 1
  | .fl => 3
  | acc =>
    if off = F.GLB_LEASE.off ∧ acc = .w1s then 0
    else if off = F.GLB_LEASE.off ∧ acc = .rw then 0
    else if party = 3 ∧ !mgmtOpen off then 5
    else if acc = .lw then lw
    else if acc = .rw ∨ acc = .wo then mine
    else if holderOnly off x.lo then lw
    else if has .rw ∨ notOwner party off s ∨ isClaim off x.lo then mine
    else if has .lw then lw
    else 0

/-- A refused write is reported (R441): the party's count and GLB_REFUSED_LAST. -/
def refuse (party off reason : Nat) (s : State) : State :=
  let c := if party = 1 then F.GLB_REFUSED_COUNT_HOST_A else if party = 2 then F.GLB_REFUSED_COUNT_HOST_B
    else if party = 3 then F.GLB_REFUSED_COUNT_MANAGEMENT else F.GLB_REFUSED_COUNT_SERVICE
  if 1 ≤ party ∧ party ≤ 4 then
    (s.inc c 1).wr F.GLB_REFUSED_LAST.off (party <<< 29 + reason <<< 26 + off / 4 % 2 ^ 24)
  else s

/-- A field of a write counts as refused: written with another value than it holds, or with a 1 where ones act
(R441). -/
def countsRefused (x : RegField) (old v : Nat) : Bool :=
  let b := bits v x.hi x.lo
  if x.acc == .w1c || x.acc == .w1s then b != 0 else b != bits old x.hi x.lo

/-- The first refused field's REASON (R441); fields are taken from the most significant down. -/
def refusal (party off v : Nat) (row : RegRow) (s : State) : Option Nat :=
  let old := s.peek party off
  (row.fields.filterMap fun (x : RegField) =>
    let r := denied party off row x s
    if r ≠ 0 ∧ countsRefused x old v then some r else none).head?

/-- The bits of a register that a party's write reaches, among the fields of some access codes. -/
def allowedMask (party off : Nat) (row : RegRow) (p : Acc → Bool) (s : State) : Nat :=
  row.fields.foldl (fun m (x : RegField) =>
    if p x.acc && denied party off row x s == 0 then withBits m x.hi x.lo (2 ^ 32 - 1) else m) 0

/-! ### What a write does -/

/-- MDR_MAP_BASE_LO or _HI written (R158, R138). -/
def mdrMapBase (off v : Nat) (s : State) : State :=
  if s.furrowArmed then s.set F.MDR_STATUS_BASE_REFUSED 1 else mapsClear (s.wr off v)

/-- An LW register of STAGE that R267 freezes while a furrow is armed, with the flag a discarded write sets. -/
def stageFrozen (off : Nat) : Option Fld :=
  if 0x801008 ≤ off ∧ off ≤ 0x80102C then some F.SHT_STATUS_CFG_REFUSED
  else if (0x802000 ≤ off ∧ off ≤ 0x80200C) ∨ (0x802030 ≤ off ∧ off < 0x802048) then some F.PLN_STATUS_CFG_REFUSED
  else none

/-- A register of JOB that R344 freezes while a furrow is armed or held. -/
def jobFrozen (off : Nat) : Bool :=
  off == 0x70300 || off == 0x70304 || off == 0x70310 || off == 0x70314 || off == F.JOB_REPAIR_CFG.off

/-- Stored fields of a register: `m` covers the allowed RW and LW bits of the write. -/
def storeFields (party off v m : Nat) (s : State) : State :=
  let w := (s.rd off &&& (0xFFFFFFFF ^^^ m)) ||| (v &&& m)
  let stageRaise := fun (s : State) => raise 6 s
  if m = 0 then s
  else if off = F.GLB_LEASE.off then
    let s := { s with leaseCmd := alSet s.leaseCmd party (bits v 30 28) }
    s.wr off ((s.rd off &&& (0xFFFFFFFF ^^^ (m &&& 0xFFFF))) ||| (v &&& m &&& 0xFFFF))
  else if off = 0xC4 then { s with evEnable := alSet s.evEnable party (BitVec.ofNat 32 (v &&& 0xFFFF3FFF)) }
  else if off = 0x90004 ∨ off = 0x90104 then s.wr off (v &&& 0xFFFF3FFF)
  else if off = F.LDG_READ_ADDR.off then
    { s with ledger := { s.ledger with readPtr := alSet s.ledger.readPtr party (v &&& 0x3FFFFC) } }
  else if off = F.MEM_MAP_CFG.off then memMapWrite v s
  else if off = 0x400000 ∨ off = 0x400004 then mdrMapBase off w s
  else if jobFrozen off && s.furrowArmed then s.set F.JOB_REPAIR_CFG_CFG_REFUSED 1
  else match stageFrozen off with
    | some x =>
      if s.furrowArmed then stageRaise (s.set x 1)
      else
        let s := s.wr off w
        -- A new POLARITY turns the raw level of its switch (R261).
        if 0x802030 ≤ off then switchEdge ((off - 0x802030) / 4) s else s
    | none =>
      if off = F.CAL_CTRL.off then
        let was := s.on F.CAL_CTRL_ENABLE
        let s := s.wr off w
        if was && !s.on F.CAL_CTRL_ENABLE then calDisable s
        else if !was && s.on F.CAL_CTRL_ENABLE then s.set F.CAL_STATUS_STATE 0
        else s
      else if off = F.HRW_AUDIT_CTRL.off then harrowAuditEnable (v.testBit 31) s
      else if off = F.SOW_AUDIT_CTRL.off then sowAuditEnable (v.testBit 31) s
      else if 0x60000 ≤ off ∧ off < 0x70000 ∧ off % 0x100 = 0 then showChk ((off - 0x60000) / 0x100) (s.wr off w)
      else s.wr off w

/-- W1C bits written 1: `m` covers the allowed ones. -/
def clearBits (party off m : Nat) (s : State) : State :=
  if m = 0 then s
  else if off = 0xC0 then
    let w := ((alGet s.evPending party).getD 0) &&& BitVec.ofNat 32 (0xFFFFFFFF ^^^ m)
    { s with evPending := alSet s.evPending party w }
  else if off = F.ENC_FAULT_STATUS.off then encFaultAck m s
  else
    let old := s.rd off
    let s := if off = F.PLN_SWITCH_STATUS.off then switchAck m s else s.wr off (old &&& (0xFFFFFFFF ^^^ m))
    if (off = F.PLN_STATUS.off ∨ off = F.SHT_STATUS.off) ∧ s.rd off ≠ old then raise 6 s else s

/-- W1S bits written 1: `m` covers the allowed ones; `ok` is the outcome of a microcode check that a bank swap makes. -/
def setBits' (party off m : Nat) (ok : Bool) (s : State) : State :=
  let on := fun b => m.testBit b
  if m = 0 then s
  else if off = F.GLB_LEASE.off then
    let cmd := (alGet s.leaseCmd party).getD 0
    if cmd = 1 then leaseAcquire party s
    else if party = 3 then leaseResult 3 3 s
    else if cmd = 2 then leaseRelease party s
    else if cmd = 3 then leaseKeepalive party s
    else leaseResult party 4 s
  else if off = F.GLB_GATE_CTRL.off then gateCommand (s.f F.GLB_GATE_CTRL_CMD) (s.f F.GLB_GATE_CTRL_ISLAND) s
  else if off = F.LDG_CTRL.off then
    let s := if on 31 then ledgerFreeze party s else s
    let s := if on 30 then ledgerUnfreeze party s else s
    let s := if on 29 then clearRequest party s else s
    if on 28 then clearConfirm party s else s
  else if off = F.LDG_USAGE_CTRL.off then usageClear s
  else if off = F.CAL_CTRL.off then calRun (s.f F.CAL_CTRL_ITEM) (s.f F.CAL_CTRL_INSTANCE) s
  else if off = F.CAL_TEST_CTRL.off then testCompose s
  else if off = F.NVL_CTRL.off then
    match s.f F.NVL_CTRL_CMD with
    | 1 => nvlUpdate party s
    | 2 => nvlAbort s
    | 3 => nvlConfirm s
    | 4 => nvlAdopt s
    | 5 => nvlVerify (s.f F.NVL_CTRL_TARGET) s
    | _ => s
  else if 0x60000 ≤ off ∧ off < 0x70000 then
    let u := (off - 0x60000) / 0x100
    let s := if on 31 && u == 3 then chkClaim party s else s
    let s := if on 29 then chkDoInit u s else s
    if on 30 && u == 3 then chkRelease party s else s
  else if off = F.JOB_CTRL.off then
    match s.f F.JOB_CTRL_CMD with
    | 1 => jobAck s
    | 2 => cancelHead s
    | 3 => cancelJob s
    | 4 => cancelAll s
    | _ => s
  else if off = F.JOB_REPAIR_CTRL.off then repairSkip s
  else if off = F.JOB_BANK_CTRL.off then bankSwapRequest ok s
  else if 0x80000 ≤ off ∧ off < 0x90000 then
    let ch := (off - 0x80000) / 0x100
    let s := if on 31 then dmaClaim party ch s else s
    let s := if on 28 then dmaAbort ch s else s
    let s := if on 29 then dmaStart ch s else s
    if on 30 then dmaRelease ch s else s
  else if 0x100000 ≤ off ∧ off < 0x140000 then
    let n := (off - 0x100000) / 0x10000
    let s := if on 31 then selfRefreshEnter n s else s
    if on 30 then selfRefreshExit n s else s
  else if off = F.MEM_RETIRE_CTRL.off then memRetire (s.f F.MEM_RETIRE_CTRL_PHYS) s
  else if off = F.MEM_FREQ_CTRL.off then freqChange s
  else if off = F.MEM_RANGE_CTRL.off then
    match s.f F.MEM_RANGE_CTRL_CMD with
    | 1 => memScrub s
    | 2 => memInvalidate s
    | _ => s
  else if off = F.MEM_FLIP_CTRL.off then flipArm s
  else if off = F.TLT_JOB_CTRL.off then tiltCommand (s.f F.TLT_JOB_CTRL_CMD) s
  else if off = F.HRW_RETIRE_CTRL.off then
    let (r, s) := retireTile (s.f F.HRW_RETIRE_CTRL_TILE) 3 .spare s
    s.set F.HRW_RETIRE_CTRL_RESULT r
  else if off = F.SOW_RETIRE_CTRL.off then
    let (r, s) := retireSlice (s.f F.SOW_RETIRE_CTRL_SLICE) 4 .spare s
    settleSwaps (s.set F.SOW_RETIRE_CTRL_RESULT r)
  else if 0x600000 ≤ off ∧ off < 0x780000 then
    let g := (off - 0x600000) / 0x10000
    let s := if on 31 then trainCmd g s else s
    let s := if on 30 then bkSlip g s else s
    if on 29 then spareGo g (s.f (F.DRL_Gnn_CTRL_SPARE_LANE g)) s else s
  else if 0x800000 ≤ off ∧ off < 0x800400 then encReref ((off - 0x800000) / 0x100) s
  else if off = 0x800818 then
    let s := if on 31 then encZero 0 s else s
    if on 30 then encZero 1 s else s
  else if off = F.PLN_CMD.off then
    match s.f F.PLN_CMD_CMD with
    | 1 => homeCmd 0 s
    | 2 => homeCmd 1 s
    | 3 => plnMove s
    | 4 => plnStop s
    | _ => s
  else s

/-- A feed of a check unit (R403). -/
def feedWrite (off v : Nat) (s : State) : State :=
  let u := (off - 0x60000) / 0x100
  let n := if off % 0x100 = 0x10 then 1 else if off % 0x100 = 0x14 then 2 else 4
  chkFeed u (leBytes n v) s

/-- A write to a table window (R438, R441). -/
def tablePartyWrite (party off v : Nat) (s : State) : State :=
  let old := tableRead off s
  let differs := v % 2 ^ 32 != old
  if (tableEntry off).isSome then
    if s.holder = party ∧ party ≠ 0 then tableWrite off v s
    else if differs then refuse party off (if party = 3 then 5 else 2) s else s
  else if (activeView off).isSome ∨ (0x1200000 ≤ off ∧ off < 0x120FC00) ∨ (0x1400000 ≤ off ∧ off < 0x14FC000) then
    (if differs then refuse party off 1 s else s)
  else s

/-- A register write by a party: the allowed fields take their values, then ones clear and act, and refused fields are
counted (R439–R441). `ok` is the outcome of the microcode check of a bank swap. -/
def regWriteOk (party off v : Nat) (ok : Bool) (s : State) : State :=
  if islandFused s.cls (islandOf off) then s
  else if 0x1000000 ≤ off ∧ off < 0x1500000 then tablePartyWrite party off v s
  else match regRow off with
    | none => if v = 0 then s else refuse party off 6 s
    | some row =>
      let why := if off = F.GLB_LEASE.off ∧ party = 3 then none else refusal party off v row s
      let st := allowedMask party off row (fun a => a == .rw || a == .lw) s
      let c := allowedMask party off row (fun a => a == .w1c) s &&& v
      let a := allowedMask party off row (fun a => a == .w1s) s &&& v
      let feed := allowedMask party off row (fun a => a == .wo) s
      let s := match why with
        | some r => refuse party off r s
        | none => s
      let s := storeFields party off v st s
      let s := if feed = 0 then s else feedWrite off v s
      setBits' party off a ok (clearBits party off c s)

/-- A register write whose swap, if it makes one, meets a microcode bank that this model does not hold. -/
def regWrite (party off v : Nat) (s : State) : State :=
  if off = F.JOB_BANK_CTRL.off ∧ v.testBit 31 then
    let (k, s) := s.fresh
    regWriteOk party off v (Config.microcodeOk k) s
  else regWriteOk party off v true s

/-- A write would be counted as refused: what SMBus and USB report of it (R295, R296). -/
def writeRefused (party off v : Nat) (s : State) : Bool :=
  if islandFused s.cls (islandOf off) ∨ (off = F.GLB_LEASE.off ∧ party = 3) then false
  else if 0x1000000 ≤ off ∧ off < 0x1500000 then
    v % 2 ^ 32 != tableRead off s && !((tableEntry off).isSome && s.holder == party && party != 0)
  else match regRow off with
    | none => v != 0
    | some row => (refusal party off v row s).isSome

/-! ### Context windows (R269) -/

/-- A write to a party's context window. -/
def ctxWrite (party off v : Nat) (s : State) : State :=
  let c := s.ctxOf party
  if !(party == 1 || party == 2 || party == 4) then s
  else if off = 0x0 then jobTailWrite party v s
  else if off = 0x8 then s.setCtx party { c with cplHead := v % 65536 }
  else if off = 0x10 then (if party = 4 then s else s.setCtx party { c with streamJob := v })
  else if off = 0x14 then streamReady party v s
  else if off = 0x18 then (if v.testBit 0 then s.setCtx party { c with ringError := false } else s)
  else if 0x2000 ≤ off ∧ off < 0x4000 then
    s.setCtx party { c with jobRing := cellsPut 0 c.jobRing (off - 0x2000) (leBytes 4 v) }
  else if 0xE000 ≤ off ∧ off < 0xE400 ∧ party ≠ 4 then
    s.setCtx party { c with msix := cellsPut 0 c.msix (off - 0xE000) (leBytes 4 v) }
  else s

end Sys2Proof.Machine
end

