-- ==== Sys2Proof/Machine/Access.lean ====
section
/-! DEFINITION. Register accesses as they pass the gates: acceptance, retries, replies and timeouts, and the paths of
the four parties (R28–R36, R268, R295, R296). -/

namespace Sys2Proof.Machine

/-! ### Requests at a gate (R28, R31–R36) -/

/-- The access carried out in its island: the data of its reply. -/
def perform (r : Req) (s : State) : Nat × State :=
  if r.write then (0, regWrite r.requester r.off r.value.toNat s) else regRead r.requester r.off s

/-- A reply leaves for its requester: 0 good, 2 RETRY, 3 OUT_OF_SERVICE. The status of the management party's last WRITE
comes with the next READ that returns data (R295). -/
def answer (r : Req) (status data : Nat) (s : State) : State :=
  if r.requester = 3 ∧ status = 0 ∧ r.direct then
    { s with smbusStatus := 0 }.emit (.reply 3 s.smbusStatus [data])
  else s.emit (.reply r.requester status [data])

/-- What a request given up or answered OUT_OF_SERVICE means (R36): a DMA channel's access fails (R291), and a tile or
slice is retired (R131, R179). -/
def requestFailed (i requester : Nat) (s : State) : State :=
  if requester < 8 then s
  else if 16 ≤ requester ∧ requester ≤ 31 then
    (if s.dmaState (requester - 16) = 2 then dmaFail (requester - 16) s else s)
  else if 16 ≤ i ∧ i < 50 then (retireTile (i - 16) 2 .spare s).2
  else if 64 ≤ i ∧ i < 89 then settleSwaps (retireSlice (i - 64) 2 .spare s).2
  else s

/-- A request answered OUT_OF_SERVICE (R35, R36): a host's completes with ones and sets its expiry flag, an engine's
fails and is recorded. -/
def outOfService (i : Nat) (r : Req) (s : State) : State :=
  let s := answer r 3 0xFFFFFFFF s
  if r.requester = 1 ∨ r.requester = 2 then gateExpired r.requester s
  else if r.requester < 8 then s
  else requestFailed i r.requester (event 0x005 [BitVec.ofNat 8 r.requester, BitVec.ofNat 8 i, 1, 0] s)

/-- A read of a field with an effect, or a write that acts rather than stores (R32): taken from the register's access
codes. -/
def nonIdem (off : Nat) (write : Bool) : Bool :=
  match regRow off with
  | none => false
  | some row =>
    if write then row.fields.any fun x => x.acc == .w1c || x.acc == .w1s || x.acc == .wo
    else off == F.LDG_READ_DATA.off || row.fields.any fun x => x.acc == .rc

/-- The island has a gate of its own in this variant (R5, R24). -/
def State.gated (s : State) (i : Nat) : Bool := i != 0 && i != 255 && !islandFused s.cls i

/-- The sequence number of a requester's next non-idempotent request to an island: one more than its last, modulo 256
(R32). The first is 0. -/
def Gate.nextNum (g : Gate) (requester : Nat) : Nat :=
  match alGet g.nums requester with
  | some k => (k + 1) % 256
  | none => 0

/-- A register access as its requester numbers it (R32): `again` for a reissue, which bears the number of the request it
repeats. -/
def request (requester off : Nat) (again write direct : Bool) (value : Word) (s : State) : Req × State :=
  let i := islandOf off
  if nonIdem off write && s.gated i then
    let g := s.gate i
    let k := if again then (alGet g.nums requester).getD 0 else g.nextNum requester
    (⟨requester, k, true, write, off, value, direct⟩, s.setGate i { g with nums := alSet g.nums requester k })
  else (⟨requester, 0, false, write, off, value, direct⟩, s)

/-- The gate keeps the reply of a non-idempotent request (R33). -/
def keepReply (i : Nat) (r : Req) (v : Nat) (s : State) : State :=
  let g := s.gate i
  if r.nonIdem then s.setGate i { g with kept := alSet g.kept r.requester ⟨r.seq, 0, v⟩ } else s

/-- An open gate takes a request: one whose reply it kept is answered with that (R33), a direct one completes, any other
awaits its reply. A reissue of one still awaiting its reply finds it there. -/
def acceptReq (i : Nat) (r : Req) (s : State) : State :=
  let g := s.gate i
  match (if r.nonIdem then alGet g.kept r.requester else none) with
  | some k =>
    if k.seq = r.seq then answer r k.status k.data s else takeReq s
  | none => takeReq s
where
  takeReq (s : State) : State :=
    if r.direct then
      let (v, s) := perform r s
      let s := keepReply i r v s
      if r.write then s else answer r 0 v s
    else
      let g := s.gate i
      if r.nonIdem &&
          g.accepted.any fun (e : Req × Nat) => e.1.requester == r.requester && e.1.nonIdem && e.1.seq == r.seq then s
      else s.setGate i { g with accepted := g.accepted ++ [(r, 0)] }

/-- A requester's earlier request to an island holds this one back: one that received RETRY (R31), or a non-idempotent
one without its reply where this one is another such (R32). -/
def State.behind (s : State) (i : Nat) (r : Req) : Bool :=
  (s.retrying.any fun (e : Nat × Req) => e.2.requester == r.requester && e.1 == i) ||
    (r.nonIdem && (s.gate i).accepted.any fun (e : Req × Nat) =>
      e.1.requester == r.requester && e.1.nonIdem && e.1.seq != r.seq)

/-- A request presented to the gate of an island for the first time (R5, R28, R31): a requester's later requests wait
behind one that received RETRY. A host's 65th posted write finds no credit (R35). -/
def present (i : Nat) (r : Req) (s : State) : State :=
  if !s.gated i then
    let (v, s) := perform r s
    if r.direct && r.write then s else answer r 0 v s
  else
    let g := s.gate i
    if g.outOfService then outOfService i r s
    else if g.st = .opened ∧ !s.behind i r then acceptReq i r s
    else if (r.requester = 1 ∨ r.requester = 2) ∧ r.write ∧
        64 ≤ (s.retrying.filter fun (e : Nat × Req) => e.2.requester == r.requester && e.2.write).length then s
    else
      let s := if r.direct || g.st = .opened then s else answer r 2 0 s
      { s with retrying := s.retrying ++ [(i, r)] }

/-- The first element with a property counts one more reissue. -/
def bumpFirst (p : Req × Nat → Bool) : List (Req × Nat) → List (Req × Nat)
  | [] => []
  | x :: t => if p x then (x.1, x.2 + 1) :: t else x :: bumpFirst p t

/-- The first element with a property, and the list without it. -/
def takeFirst {α : Type} (p : α → Bool) : List α → Option (α × List α)
  | [] => none
  | x :: t => if p x then some (x, t) else (takeFirst p t).map fun (y, l) => (y, x :: l)

/-- A party reaches the register map: a host or the service function through its island, the service party while its
rights hold, management while AON is up (R9, R268, R295, R296). -/
def State.reaches (s : State) (party : Nat) : Bool :=
  if party = 1 ∨ party = 2 then s.islandOpen (party + 1)
  else if party = 3 then s.pins.vddAon
  else if party = 4 then s.islandOpen 4 && s.on F.FNC_STATUS_SERVICE_PRESENT
  else false

/-- A requester can send: a party that reaches the map, or an engine of the table of R27 whose island runs. -/
def State.canRequest (s : State) (q : Nat) : Bool :=
  if q < 8 then s.reaches q
  else decide (q < 40) && q != 15 && q != 33 && s.islandOpen (engineIsland q)

/-- A request is one that a requester sends (R32): to the island of its register, tagged as that register's access is,
and a non-idempotent one with the number after its requester's last, or with that last number as a reissue. -/
def State.numberedSo (s : State) (i q seq : Nat) (tag write : Bool) (off : Nat) : Bool :=
  i == islandOf off && tag == nonIdem off write &&
    (!tag || seq == (s.gate i).nextNum q || alGet (s.gate i).nums q == some seq)

/-- GATE_REQUEST: a register access of a requester is presented at the gate of the register's island, for the first time
or as a reissue with the number it had (R32, R33). -/
def gateRequest (i q seq : Nat) (tag write : Bool) (off : Nat) (value : Word) (s : State) : State :=
  if s.canRequest q && s.numberedSo i q seq tag write off then
    let (r, s) := request q off (alGet (s.gate i).nums q == some seq) write false value s
    present i r s
  else s

/-- RETRY_REPRESENT: a requester presents its oldest refused request to an island again (R31); one that waits only
behind its own request goes in once that has its reply. -/
def representReq (party i : Nat) (s : State) : State :=
  match takeFirst (fun (e : Nat × Req) => e.1 == i && e.2.requester == party) s.retrying with
  | none => s
  | some (e, rest) =>
    let g := s.gate i
    if g.outOfService then outOfService i e.2 { s with retrying := rest }
    else if g.st = .opened then
      let t := { s with retrying := rest }
      if e.2.nonIdem && t.behind i e.2 then s else acceptReq i e.2 t
    else s

/-- GATE_REPLY: an accepted request is carried out and its reply passes the gate, which keeps that of a non-idempotent
one (R33). A reply for an island whose own gate has closed is discarded and counted (R28). -/
def gateReply (i requester : Nat) (s : State) : State :=
  let g := s.gate i
  match takeFirst (fun (e : Req × Nat) => e.1.requester == requester) g.accepted with
  | none => s
  | some (e, rest) =>
    let r := e.1
    let s := s.setGate i { g with accepted := rest }
    let (v, s) := perform r s
    let home := engineIsland requester
    let h := s.gate home
    if home ≠ 0 ∧ h.st = .closed then s.setGate home { h with discarded := h.discarded + 1 }
    else answer r 0 v (keepReply i r v s)

/-- REQUESTER_TIMEOUT: a requester's oldest request accepted and unanswered is reissued, and given up after three
reissues (R34). -/
def requesterTimeout (i requester : Nat) (s : State) : State :=
  let g := s.gate i
  match takeFirst (fun (e : Req × Nat) => e.1.requester == requester) g.accepted with
  | none => s
  | some (e, rest) =>
    if e.2 < 3 then
      s.setGate i { g with accepted := bumpFirst (fun (x : Req × Nat) => x.1.requester == requester) g.accepted }
    else
      let s := s.setGate i { g with accepted := rest }
      let s := event 0x005 [BitVec.ofNat 8 requester, BitVec.ofNat 8 i, 0, 0] s
      requestFailed i requester s

/-- HOST_READ_EXPIRY: a host read has received RETRY for 32 µs and completes with ones (R35). -/
def hostReadExpiry (party : Nat) (s : State) : State :=
  if party = 1 ∨ party = 2 then
    match takeFirst (fun (e : Nat × Req) => e.2.requester == party && !e.2.write) s.retrying with
    | none => s
    | some (e, rest) => gateExpired party (answer e.2 0 0xFFFFFFFF { s with retrying := rest })
  else s

/-! ### The parties -/

/-- A register write by a party. -/
def partyWrite (party off v : Nat) (s : State) : State :=
  if s.reaches party then
    let (r, s) := request party off false true true (BitVec.ofNat 32 v) s
    present (islandOf off) r s
  else s

/-- A register read by a party. -/
def partyRead (party off : Nat) (s : State) : State :=
  if s.reaches party then
    let (r, s) := request party off false false true 0 s
    present (islandOf off) r s
  else s

/-- What a write of some fields of a register gives the others (log entry 23): every other field as it stands, and no
one to a bit where ones act. Writing back a value just read never counts as refused (R441). -/
def State.kept (s : State) (party off : Nat) : Nat :=
  match regRow off with
  | some row => s.peek party off &&& accMask row fun a => a == .rw || a == .lw || a == .ro || a == .rc || a == .fl
  | none => 0

/-- A write of some fields of a register, the others written back as they stand. -/
def partyField (party : Nat) (x : Fld) (v : Nat) (acts : Nat) (s : State) : State :=
  partyWrite party x.off (withBits (s.kept party x.off) x.hi x.lo v ||| acts) s

/-- Two fields of a register at once. -/
def partyFields (party : Nat) (x y : Fld) (v w : Nat) (acts : Nat) (s : State) : State :=
  partyWrite party x.off (withBits (withBits (s.kept party x.off) x.hi x.lo v) y.hi y.lo w ||| acts) s

/-- Bits that act written 1, with the other fields as they stand. -/
def partyAct (party off acts : Nat) (s : State) : State := partyWrite party off (s.kept party off ||| acts) s

/-- REGISTER_WRITE: to BAR0, or to the party's context window (R269). -/
def registerWrite (party : Nat) (bar2 : Bool) (off v : Nat) (s : State) : State :=
  if bar2 then (if s.reaches party then ctxWrite party off v s else s) else partyWrite party off v s

/-- BANK_SWAP_REQUEST: SWAP written, with the outcome of the microcode check at the swap (R341, R342). -/
def swapWrite (party : Nat) (ok : Bool) (s : State) : State :=
  let v := s.kept party F.JOB_BANK_CTRL.off ||| 1 <<< 31
  let (r, t) := request party F.JOB_BANK_CTRL.off false true true (BitVec.ofNat 32 v) s
  if s.reaches party ∧ s.islandOpen 5 ∧ !t.behind 5 r then keepReply 5 r 0 (regWriteOk party F.JOB_BANK_CTRL.off v ok t)
  else partyWrite party F.JOB_BANK_CTRL.off v s

/-- PCIE_FUNCTION_RESET: a function-level reset, hot reset or link down of a port resets its island alone, whose gate
stands as it is: the lease of its host ends and its DMA channels are freed (R24, R268, R271, R293). -/
def pcieReset (party : Nat) (s : State) : State :=
  let i := party + 1
  if !(party == 1 || party == 2) ∨ (alGet s.gates i).isNone then s
  else applyLayers i false s.activeSlot (islandReset i s)

/-! ### SMBus (R295) -/

/-- The SMBus address advances. -/
def smbusNext (s : State) : State := { s with smbusAddr := (s.smbusAddr + 4) % 2 ^ 32 }

/-- SMBUS_ADDRESS. -/
def smbusAddress (addr : Nat) (pec : Bool) (s : State) : State :=
  if pec && s.pins.vddAon then { s with smbusAddr := addr % 2 ^ 32 } else s

/-- SMBUS_READ: a read of the register at the address through its gate. -/
def smbusRead (pec : Bool) (s : State) : State :=
  if !pec || !s.pins.vddAon then s else partyRead 3 s.smbusAddr (smbusNext s)

/-- SMBUS_WRITE. -/
def smbusWrite (v : Nat) (pec : Bool) (s : State) : State :=
  if !pec || !s.pins.vddAon then s
  else
    let off := s.smbusAddr
    let i := islandOf off
    let s := smbusNext s
    if !s.gated i ∨ s.islandOpen i then
      { partyWrite 3 off v s with smbusStatus := bitOf (writeRefused 3 off v s) }
    else { s with smbusStatus := if (s.gate i).outOfService then 3 else 2 }

/-- SMBUS_READ_TIMEOUT: a read that could not complete within 1 ms returns RETRY. -/
def smbusTimeout (s : State) : State :=
  match takeFirst (fun (e : Nat × Req) => e.2.requester == 3 && e.2.direct) s.retrying with
  | none => s
  | some (e, rest) => answer e.2 2 0xFFFFFFFF { s with retrying := rest }

/-! ### USB (R296) -/

/-- A response of the USB function. -/
def usbReply (q : UsbReq) (status : Nat) (data : List Byte) (s : State) : State :=
  s.emit (.usb (q.op + 0x80) status (q.seq % 65536) q.length q.addr data)

/-- The request is malformed. -/
def UsbReq.bad (q : UsbReq) : Bool :=
  q.length % 4 != 0 || decide (65536 < q.length) || decide (2 < q.space) || q.addr % 4 != 0

/-- A register can be accessed at once. -/
def State.reachable (s : State) (off : Nat) : Bool := !s.gated (islandOf off) || s.islandOpen (islandOf off)

/-- A register's island is out of service. -/
def State.outOf (s : State) (off : Nat) : Bool := !s.reachable off && (s.gate (islandOf off)).outOfService

/-- One register access of the service party through an open gate. -/
def usbAccess (write : Bool) (off v : Nat) (s : State) : Nat × State :=
  let (r, s) := request 4 off false write true (BitVec.ofNat 32 v) s
  let (w, s) := perform r s
  (w, keepReply (islandOf off) r w s)

/-- The registers of a request in ascending order: up to the first that receives RETRY, which waits with all after it. A
word of an island out of service reads as ones and is not written; a refused write, else an island out of service, gives
the status. -/
def usbWords : Nat → UsbReq → State → UsbReq × State
  | 0, q, s => (q, s)
  | n + 1, q, s =>
    let off := q.addr + 4 * q.done
    let w := leAt q.data (4 * q.done) 4
    if s.outOf off then
      usbWords n { q with
        done := q.done + 1, st := if q.st = 1 then 1 else 3, got := if q.op = 1 then q.got ++ leBytes 4 0xFFFFFFFF else q.got } s
    else if !s.reachable off then (q, s)
    else
      let st := if q.op = 2 ∧ writeRefused 4 off w s then 1 else q.st
      let (v, s) := usbAccess (q.op == 2) off w s
      usbWords n { q with done := q.done + 1, st := st, got := if q.op = 1 then q.got ++ leBytes 4 v else q.got } s

/-- Words of a context window read. -/
def usbReadCtx : Nat → Nat → State → List Byte
  | 0, _, _ => []
  | n + 1, off, s => leBytes 4 (ctxRead 4 off s) ++ usbReadCtx n (off + 4) s

/-- Words of a context window written. -/
def usbWriteCtx : Nat → List Nat → State → State
  | _, [], s => s
  | off, w :: t, s => usbWriteCtx (off + 4) t (ctxWrite 4 off w s)

/-- A DRAM read of the USB function, answered whole. -/
def usbDramRead (q : UsbReq) (s : State) : State :=
  let ((b, ok), s) := memRead 4 q.addr q.length s
  if ok then usbReply q 0 b s
  else if (s.memGone q.addr q.length).isSome then usbReply q 3 b s
  else
    let (k, s) := s.fresh
    usbReply q (Config.usbErrorStatus k).val b s

/-- A DRAM write of the USB function; one into a locked stream is answered LOCKED and writes nothing (R85, R281). -/
def usbDramWrite (q : UsbReq) (s : State) : State :=
  let b := sliceBytes q.data 0 q.length
  if s.meetsLocked q.addr q.length then usbReply q 2 [] s
  else
    let (ok, s) := memWrite 4 q.addr b s
    if ok then usbReply q 0 [] s
    else if (s.memGone q.addr q.length).isSome then usbReply q 3 [] s
    else
      let (k, s) := s.fresh
      usbReply q (Config.usbErrorStatus k).val [] s

/-- The request at the head is carried out as far as the gates let it: what is left of it, none once its response has
left. While SERVICE_ENABLE is 0 it is answered REFUSED (R359). -/
def usbStep (q : UsbReq) (s : State) : Option UsbReq × State :=
  if !s.on F.FNC_STATUS_SERVICE_PRESENT then (none, usbReply q 1 [] s)
  else if q.bad then (none, usbReply q 4 [] s)
  else if q.space = 0 then
    let (q, s) := usbWords (q.length / 4 - q.done) q s
    if q.length ≤ 4 * q.done then (none, usbReply q q.st q.got s) else (some q, s)
  else if q.space = 1 then
    (none, if q.op = 1 then usbReply q 0 (usbReadCtx (q.length / 4) q.addr s) s
      else usbReply q 0 [] (usbWriteCtx q.addr (leWords (sliceBytes q.data 0 q.length)) s))
  else if s.memWaits q.addr q.length then (some q, s)
  else (none, if q.op = 1 then usbDramRead q s else usbDramWrite q s)

/-- Requests are executed in order (R296): each starts once the one before has its response. -/
def usbRun : Nat → State → State
  | 0, s => s
  | n + 1, s =>
    match s.usb with
    | [] => s
    | q :: t =>
      let (left, s) := usbStep q { s with usb := t }
      match left with
      | none => usbRun n s
      | some q => { s with usb := q :: s.usb }

/-- A request reaches the USB function, which answers while the pod is present and its island is open. -/
def usbReceive (q : UsbReq) (s : State) : State :=
  if !s.pins.svcSense ∨ !s.islandOpen 4 then s
  else
    let s := { s with usb := s.usb ++ [q] }
    usbRun s.usb.length s

/-- USB_READ. -/
def usbRead (space seq length addr : Nat) (s : State) : State :=
  usbReceive ⟨1, space, seq, length, addr, [], 0, [], 0⟩ s

/-- USB_WRITE. -/
def usbWrite (space seq length addr : Nat) (data : List Byte) (s : State) : State :=
  usbReceive ⟨2, space, seq, length, addr, data, 0, [], 0⟩ s

/-- RETRY_REPRESENT: what a requester has waiting for an island is presented again (R31), the USB function's request
among it. -/
def retryRepresent (party i : Nat) (s : State) : State :=
  let s := representReq party i s
  if party = 4 then usbRun s.usb.length s else s

end Sys2Proof.Machine
end

