-- ==== Sys2Proof/Machine/CmdAccess.lean ====
section
/-! DEFINITION. The meanings of the commands of register accesses, the lease, the gates, SMBus, USB and the service
pod. -/

namespace Sys2Proof.Machine

/-- LEASE_WATCHDOG_EXPIRY: the lease ends, reason 5; a LEASE_TIMEOUT of 0 disables the watchdog (R271). -/
def leaseExpiry (s : State) : State := if s.f F.GLB_LEASE_LEASE_TIMEOUT_MS = 0 then s else leaseEnd 5 s

/-- A gate command of a party: GLB_GATE_CTRL with GO (R37). -/
def gateWrite (party cmd i : Nat) (s : State) : State :=
  partyWrite party F.GLB_GATE_CTRL.off (1 <<< 31 + cmd <<< 16 + i % 128) s

/-- OPERATING_SECONDS_READ (R470). -/
def execOperatingSecondsRead (party : Nat) (s : State) : Host.Outcome State Fault Refusal :=
  .next (partyRead party 0x10 s.begin)

/-- REGISTER_WRITE (R13). -/
def execRegisterWrite (party : Nat) (bar2 : Bool) (off : Nat) (value : Word) (s : State) : Host.Outcome State Fault Refusal :=
  .next (registerWrite party bar2 off value.toNat s.begin)

/-- READ_CLEAR (R12). -/
def execReadClear (party off : Nat) (s : State) : Host.Outcome State Fault Refusal :=
  .next (partyRead party off s.begin)

/-- LEASE_ACQUIRE (R270). -/
def execLeaseAcquire (party : Nat) (s : State) : Host.Outcome State Fault Refusal :=
  .next (partyField party F.GLB_LEASE_CMD 1 (1 <<< 31) s.begin)

/-- LEASE_RELEASE (R270). -/
def execLeaseRelease (party : Nat) (s : State) : Host.Outcome State Fault Refusal :=
  .next (partyField party F.GLB_LEASE_CMD 2 (1 <<< 31) s.begin)

/-- LEASE_KEEPALIVE (R442). -/
def execLeaseKeepalive (party : Nat) (s : State) : Host.Outcome State Fault Refusal :=
  .next (partyField party F.GLB_LEASE_CMD 3 (1 <<< 31) s.begin)

/-- LEASE_WATCHDOG_EXPIRY (R271). -/
def execLeaseWatchdogExpiry (s : State) : Host.Outcome State Fault Refusal :=
  .next (leaseExpiry s.begin)

/-- SERVICE_POD_PRESENT (R296). -/
def execServicePodPresent (s : State) : Host.Outcome State Fault Refusal :=
  .next (podSense true s.begin)

/-- SERVICE_POD_REMOVED (R9). -/
def execServicePodRemoved (s : State) : Host.Outcome State Fault Refusal :=
  .next (podSense false s.begin)

/-- GATE_CLOSE (R37). -/
def execGateClose (party island : Nat) (s : State) : Host.Outcome State Fault Refusal :=
  .next (gateWrite party 1 island s.begin)

/-- GATE_OPEN (R37). -/
def execGateOpen (party island : Nat) (s : State) : Host.Outcome State Fault Refusal :=
  .next (gateWrite party 2 island s.begin)

/-- GATE_RESET (R37). -/
def execGateReset (party island : Nat) (s : State) : Host.Outcome State Fault Refusal :=
  .next (gateWrite party 3 island s.begin)

/-- GATE_LOAD (R37). -/
def execGateLoad (party island : Nat) (s : State) : Host.Outcome State Fault Refusal :=
  .next (gateWrite party 4 island s.begin)

/-- ISLAND_RESET_DONE (R415). -/
def execIslandResetDone (pass : Bool) (s : State) : Host.Outcome State Fault Refusal :=
  .next (islandResetDone pass s.begin)

/-- GATE_REQUEST (R28). -/
def execGateRequest (island requester seq : Nat) (nonIdem write : Bool) (off : Nat) (value : Word) (s : State) :
    Host.Outcome State Fault Refusal :=
  .next (gateRequest island requester seq nonIdem write off value s.begin)

/-- GATE_REPLY (R28). -/
def execGateReply (island requester : Nat) (s : State) : Host.Outcome State Fault Refusal :=
  .next (gateReply island requester s.begin)

/-- GATE_DRAIN_DONE (R28). -/
def execGateDrainDone (island : Nat) (s : State) : Host.Outcome State Fault Refusal :=
  .next (gateDrainDone island s.begin)

/-- GATE_DRAIN_LIMIT (R29). -/
def execGateDrainLimit (island : Nat) (s : State) : Host.Outcome State Fault Refusal :=
  .next (gateDrainLimit island s.begin)

/-- RETRY_REPRESENT (R31). -/
def execRetryRepresent (party island : Nat) (s : State) : Host.Outcome State Fault Refusal :=
  .next (retryRepresent party island s.begin)

/-- REQUESTER_TIMEOUT (R34). -/
def execRequesterTimeout (island requester : Nat) (s : State) : Host.Outcome State Fault Refusal :=
  .next (requesterTimeout island requester s.begin)

/-- HOST_READ_EXPIRY (R35). -/
def execHostReadExpiry (party : Nat) (s : State) : Host.Outcome State Fault Refusal :=
  .next (hostReadExpiry party s.begin)

/-- PCIE_FUNCTION_RESET (R268). -/
def execPcieFunctionReset (party : Nat) (s : State) : Host.Outcome State Fault Refusal :=
  .next (pcieReset party s.begin)

/-- SMBUS_ADDRESS (R295). -/
def execSmbusAddress (addr : Nat) (pecOk : Bool) (s : State) : Host.Outcome State Fault Refusal :=
  .next (smbusAddress addr pecOk s.begin)

/-- SMBUS_READ (R295). -/
def execSmbusRead (pecOk : Bool) (s : State) : Host.Outcome State Fault Refusal :=
  .next (smbusRead pecOk s.begin)

/-- SMBUS_WRITE (R295). -/
def execSmbusWrite (value : Word) (pecOk : Bool) (s : State) : Host.Outcome State Fault Refusal :=
  .next (smbusWrite value.toNat pecOk s.begin)

/-- SMBUS_READ_TIMEOUT (R295). -/
def execSmbusReadTimeout (s : State) : Host.Outcome State Fault Refusal :=
  .next (smbusTimeout s.begin)

/-- USB_READ (R296). -/
def execUsbRead (space seq length addr : Nat) (s : State) : Host.Outcome State Fault Refusal :=
  .next (usbRead space seq length addr s.begin)

/-- USB_WRITE (R296). -/
def execUsbWrite (space seq length addr : Nat) (data : List Byte) (s : State) : Host.Outcome State Fault Refusal :=
  .next (usbWrite space seq length addr data s.begin)

end Sys2Proof.Machine
end

