-- ==== Sys2Proof/Machine/CmdDose.lean ====
section
/-! DEFINITION. The meanings of the commands of Tilth, Harrow, Madder and Sow. -/

namespace Sys2Proof.Machine

/-- TILTH_TILE_DECODE (R101). -/
def execTilthTileDecode (inst : Nat) (s : State) : Host.Outcome State Fault Refusal :=
  .next (tilthTile inst s.begin)

/-- HARROW_SEGMENT_DONE (R125). -/
def execHarrowSegmentDone (tile : Nat) (bad : List (Nat × Nat)) (s : State) : Host.Outcome State Fault Refusal :=
  .next (harrowSegment tile bad s.begin)

/-- HARROW_SECOND_OPINION_DONE (R129). -/
def execHarrowSecondOpinionDone (bad : List (Nat × Nat)) (s : State) : Host.Outcome State Fault Refusal :=
  .next (harrowSecond bad s.begin)

/-- HARROW_RETIRE (R131). -/
def execHarrowRetire (party tile : Nat) (s : State) : Host.Outcome State Fault Refusal :=
  .next (partyField party F.HRW_RETIRE_CTRL_TILE tile (1 <<< 31) s.begin)

/-- HARROW_AUDIT_ENABLE (R126). -/
def execHarrowAuditEnable (party : Nat) (enable : Bool) (s : State) : Host.Outcome State Fault Refusal :=
  .next (partyField party F.HRW_AUDIT_CTRL_ENABLE (bitOf enable) 0 s.begin)

/-- MADDER_MULT_ROW (R144). -/
def execMadderMultRow (row : Nat) (s : State) : Host.Outcome State Fault Refusal :=
  .next (multRow row s.begin)

/-- MADDER_ROW_CONVERT (R145). -/
def execMadderRowConvert (row : Nat) (s : State) : Host.Outcome State Fault Refusal :=
  .next (rowConvert row s.begin)

/-- MDR_MAP_BASE_WRITE (R158). -/
def execMdrMapBaseWrite (party : Nat) (hi : Bool) (value : Word) (s : State) : Host.Outcome State Fault Refusal :=
  .next (partyWrite party (if hi then F.MDR_MAP_BASE_HI.off else F.MDR_MAP_BASE_LO.off) value.toNat s.begin)

/-- SOW_SHOT_COMPUTE (R160). -/
def execSowShotCompute (group : Nat) (bad : List (Nat × Nat × Nat)) (s : State) : Host.Outcome State Fault Refusal :=
  .next (sowShot group (bad.map fun b => BadCode.mk b.1 b.2.1 b.2.2) s.begin)

/-- SOW_AUDITOR_SELF_TEST_DONE (R177). -/
def execSowAuditorSelfTestDone (pass : Bool) (s : State) : Host.Outcome State Fault Refusal :=
  .next (sowSelfTest pass s.begin)

/-- SOW_RETIRE (R179). -/
def execSowRetire (party slice : Nat) (s : State) : Host.Outcome State Fault Refusal :=
  .next (partyField party F.SOW_RETIRE_CTRL_SLICE slice (1 <<< 31) s.begin)

/-- SOW_AUDIT_ENABLE (R175). -/
def execSowAuditEnable (party : Nat) (enable : Bool) (s : State) : Host.Outcome State Fault Refusal :=
  .next (partyField party F.SOW_AUDIT_CTRL_ENABLE (bitOf enable) 0 s.begin)

/-- TILTH_ENCODE (R105). -/
def execTilthEncode (party : Nat) (s : State) : Host.Outcome State Fault Refusal :=
  .next (partyField party F.TLT_JOB_CTRL_CMD 1 (1 <<< 31) s.begin)

/-- TILTH_DECODE (R105). -/
def execTilthDecode (party : Nat) (s : State) : Host.Outcome State Fault Refusal :=
  .next (partyField party F.TLT_JOB_CTRL_CMD 2 (1 <<< 31) s.begin)

/-- TILTH_RESUME (R107). -/
def execTilthResume (party : Nat) (s : State) : Host.Outcome State Fault Refusal :=
  .next (partyField party F.TLT_JOB_CTRL_CMD 3 (1 <<< 31) s.begin)

/-- TILTH_SAVE (R108). -/
def execTilthSave (party : Nat) (s : State) : Host.Outcome State Fault Refusal :=
  .next (partyField party F.TLT_JOB_CTRL_CMD 4 (1 <<< 31) s.begin)

/-- TILTH_RESTORE (R108). -/
def execTilthRestore (party : Nat) (s : State) : Host.Outcome State Fault Refusal :=
  .next (partyField party F.TLT_JOB_CTRL_CMD 5 (1 <<< 31) s.begin)

/-- TILTH_ABORT (R106). -/
def execTilthAbort (party : Nat) (s : State) : Host.Outcome State Fault Refusal :=
  .next (partyField party F.TLT_JOB_CTRL_CMD 6 (1 <<< 31) s.begin)

/-- TILTH_JOB_TILE_DONE (R106). -/
def execTilthJobTileDone (s : State) : Host.Outcome State Fault Refusal :=
  .next (tiltStep s.begin)

end Sys2Proof.Machine
end

