-- ==== Sys2Proof/Machine/CmdFence.lean ====
section
/-! DEFINITION. The meanings of the commands of the Fence port, interlocks and thermal trips. -/

namespace Sys2Proof.Machine

/-- AON acts only while VDD_AON is present (R453). -/
def awake (f : State → State) (s : State) : State := if s.pins.vddAon then f s else s

/-- A write through the Fence: while FNC loading runs it has no effect (R348). -/
def fenceDo (f : State → State) (s : State) : State := if s.pins.vddAon && !s.pins.loading then f s else s

/-- FENCE_NOP (R348). -/
def execFenceNop (seq off data : Nat) (s : State) : Host.Outcome State Fault Refusal :=
  .next (awake (fenceRequest 0 seq off data) s.begin)

/-- FENCE_READ (R348). -/
def execFenceRead (seq off data : Nat) (s : State) : Host.Outcome State Fault Refusal :=
  .next (awake (fenceRequest 1 seq off data) s.begin)

/-- FENCE_WRITE (R348). -/
def execFenceWrite (seq off data : Nat) (s : State) : Host.Outcome State Fault Refusal :=
  .next (awake (fenceRequest 2 seq off data) s.begin)

/-- FENCE_BAD_FRAME (R348). -/
def execFenceBadFrame (cycles : Nat) (bytes : List Byte) (s : State) : Host.Outcome State Fault Refusal :=
  .next (awake (fenceFrame cycles bytes) s.begin)

/-- FENCE_WATCHDOG_EXPIRY (R349). -/
def execFenceWatchdogExpiry (s : State) : Host.Outcome State Fault Refusal :=
  .next (awake watchdogExpiry s.begin)

/-- FENCE_FALLOW (R350). -/
def execFenceFallow (on : Bool) (s : State) : Host.Outcome State Fault Refusal :=
  .next (fenceDo (Sys2Proof.Machine.fenceFallow on) s.begin)

/-- REVOKE_LEASE (R356). -/
def execRevokeLease (s : State) : Host.Outcome State Fault Refusal :=
  .next (fenceDo Sys2Proof.Machine.revokeLease s.begin)

/-- LEASE_LOCK (R356). -/
def execLeaseLock (on : Bool) (s : State) : Host.Outcome State Fault Refusal :=
  .next (fenceDo (Sys2Proof.Machine.leaseLock on) s.begin)

/-- THERMTRIP_RELEASE (R364). -/
def execThermtripRelease (s : State) : Host.Outcome State Fault Refusal :=
  .next (fenceDo Sys2Proof.Machine.thermtripRelease s.begin)

/-- FENCE_TRIP_CLEAR (R354). -/
def execFenceTripClear (mask : Nat) (s : State) : Host.Outcome State Fault Refusal :=
  .next (fenceDo (tripClear mask) s.begin)

/-- TX_ENABLE_WRITE (R358). -/
def execTxEnableWrite (value : Nat) (s : State) : Host.Outcome State Fault Refusal :=
  .next (fenceDo (txEnable value) s.begin)

/-- LIMIT_FORCE_WRITE (R357). -/
def execLimitForceWrite (value : Nat) (s : State) : Host.Outcome State Fault Refusal :=
  .next (fenceDo (limitForce value) s.begin)

/-- SERVICE_ENABLE_WRITE (R359). -/
def execServiceEnableWrite (on : Bool) (s : State) : Host.Outcome State Fault Refusal :=
  .next (fenceDo (serviceEnable on) s.begin)

/-- DOSE_CEILING_WRITE (R66). -/
def execDoseCeilingWrite (value : Nat) (s : State) : Host.Outcome State Fault Refusal :=
  .next (fenceDo (doseCeiling value) s.begin)

/-- LEDGER_AUTHORISE (R396). -/
def execLedgerAuthorise (key : Nat) (s : State) : Host.Outcome State Fault Refusal :=
  .next (fenceDo (ledgerKey (1 <<< 31 + key % 65536)) s.begin)

/-- HOLD_REQ_EDGE (R351). -/
def execHoldReqEdge (s : State) : Host.Outcome State Fault Refusal :=
  .next (holdEdge s.begin)

/-- DOOR_OK_EDGE (R351). -/
def execDoorOkEdge (s : State) : Host.Outcome State Fault Refusal :=
  .next (doorEdge s.begin)

/-- INTERLOCK_RELEASE (R354). -/
def execInterlockRelease (door : Bool) (s : State) : Host.Outcome State Fault Refusal :=
  .next (awake (Sys2Proof.Machine.interlockRelease door) s.begin)

/-- AON_COMPARATOR_READ (R361). -/
def execAonComparatorRead (readings : List Int) (s : State) : Host.Outcome State Fault Refusal :=
  .next (awake (comparatorRead readings) s.begin)

/-- THERMAL_STOP_LIMIT (R364). -/
def execThermalStopLimit (s : State) : Host.Outcome State Fault Refusal :=
  .next (awake Sys2Proof.Machine.thermalStopLimit s.begin)

/-- THERMAL_SHUTDOWN (R364). -/
def execThermalShutdown (heldMs stopMs : Nat) (s : State) : Host.Outcome State Fault Refusal :=
  .next (awake (Sys2Proof.Machine.thermalShutdown heldMs stopMs) s.begin)

end Sys2Proof.Machine
end

