-- ==== Sys2Proof/Machine/CmdHk.lean ====
section
/-! DEFINITION. The meanings of the commands of housekeeping: rounds, calibration, the ledger, telemetry, the check
units and the image. -/

namespace Sys2Proof.Machine

/-- HK_ROUND (R360). -/
def execHkRound (readings : List (Option Int)) (taken : Bool) (s : State) : Host.Outcome State Fault Refusal :=
  .next (Sys2Proof.Machine.hkRound readings taken s.begin)

/-- CAL_RUN (R372). -/
def execCalRun (party item : Nat) (s : State) : Host.Outcome State Fault Refusal :=
  .next (partyFields party F.CAL_CTRL_ITEM F.CAL_CTRL_INSTANCE item 0xFF (1 <<< 30) s.begin)

/-- CAL_DUE_AGE (R372). -/
def execCalDueAge (item inst : Nat) (s : State) : Host.Outcome State Fault Refusal :=
  .next (Sys2Proof.Machine.calDueAge item inst s.begin)

/-- CAL_INSTANCE_START (R373). -/
def execCalInstanceStart (s : State) : Host.Outcome State Fault Refusal :=
  .next (calStart s.begin)

/-- CAL_INSTANCE_DONE (R371). -/
def execCalInstanceDone (choice : Nat) (s : State) : Host.Outcome State Fault Refusal :=
  .next (calDone choice s.begin)

/-- CAL_RETRY_ELIGIBLE (R379). -/
def execCalRetryEligible (item inst : Nat) (s : State) : Host.Outcome State Fault Refusal :=
  .next (calRetry item inst s.begin)

/-- CAL_OVERDUE (R373). -/
def execCalOverdue (item inst : Nat) (s : State) : Host.Outcome State Fault Refusal :=
  .next (Sys2Proof.Machine.calOverdue item inst s.begin)

/-- CAL_TEST_COMPOSE (R380). -/
def execCalTestCompose (party : Nat) (s : State) : Host.Outcome State Fault Refusal :=
  .next (partyAct party F.CAL_TEST_CTRL.off (1 <<< 31) s.begin)

/-- CAL_TEST_DONE (R380). -/
def execCalTestDone (s : State) : Host.Outcome State Fault Refusal :=
  .next (testDone s.begin)

/-- LEDGER_HOLD_EXPIRY (R391). -/
def execLedgerHoldExpiry (s : State) : Host.Outcome State Fault Refusal :=
  .next (Sys2Proof.Machine.ledgerHoldExpiry s.begin)

/-- LEDGER_COMMIT (R392). -/
def execLedgerCommit (s : State) : Host.Outcome State Fault Refusal :=
  .next (Sys2Proof.Machine.ledgerCommit s.begin)

/-- LEDGER_FREEZE (R394). -/
def execLedgerFreeze (party : Nat) (s : State) : Host.Outcome State Fault Refusal :=
  .next (partyAct party F.LDG_CTRL.off (1 <<< 31) s.begin)

/-- LEDGER_UNFREEZE (R394). -/
def execLedgerUnfreeze (party : Nat) (s : State) : Host.Outcome State Fault Refusal :=
  .next (partyAct party F.LDG_CTRL.off (1 <<< 30) s.begin)

/-- FREEZE_TIMEOUT (R394). -/
def execFreezeTimeout (s : State) : Host.Outcome State Fault Refusal :=
  .next (endFreeze s.begin)

/-- LDG_READ_DATA (R395). -/
def execLdgReadData (party : Nat) (s : State) : Host.Outcome State Fault Refusal :=
  .next (partyRead party F.LDG_READ_DATA.off s.begin)

/-- CLEAR_REQUEST (R396). -/
def execClearRequest (party : Nat) (s : State) : Host.Outcome State Fault Refusal :=
  .next (partyAct party F.LDG_CTRL.off (1 <<< 29) s.begin)

/-- CLEAR_CONFIRM (R397). -/
def execClearConfirm (party : Nat) (s : State) : Host.Outcome State Fault Refusal :=
  .next (partyAct party F.LDG_CTRL.off (1 <<< 28) s.begin)

/-- AUTHORISATION_EXPIRY (R396). -/
def execAuthorisationExpiry (s : State) : Host.Outcome State Fault Refusal :=
  .next (Sys2Proof.Machine.authorisationExpiry s.begin)

/-- TELEMETRY_RECORD (R400). -/
def execTelemetryRecord (s : State) : Host.Outcome State Fault Refusal :=
  .next (Sys2Proof.Machine.telemetryRecord s.begin)

/-- USAGE_CLEAR (R399). -/
def execUsageClear (party : Nat) (s : State) : Host.Outcome State Fault Refusal :=
  .next (partyAct party F.LDG_USAGE_CTRL.off (1 <<< 31) s.begin)

/-- USAGE_CLEAR_DONE (R399). -/
def execUsageClearDone (s : State) : Host.Outcome State Fault Refusal :=
  .next (Sys2Proof.Machine.usageClearDone s.begin)

/-- CHK_CLAIM (R402). -/
def execChkClaim (party : Nat) (s : State) : Host.Outcome State Fault Refusal :=
  .next (partyAct party (F.CHK_Unn_CTRL 3).off (1 <<< 31) s.begin)

/-- CHK_RELEASE (R402). -/
def execChkRelease (party : Nat) (s : State) : Host.Outcome State Fault Refusal :=
  .next (partyAct party (F.CHK_Unn_CTRL 3).off (1 <<< 30) s.begin)

/-- CHK_INIT (R403). -/
def execChkInit (party unit : Nat) (s : State) : Host.Outcome State Fault Refusal :=
  .next (partyAct party (F.CHK_Unn_CTRL unit).off (1 <<< 29) s.begin)

/-- CHK_FEED8 (R403). -/
def execChkFeed8 (party unit : Nat) (value : Word) (s : State) : Host.Outcome State Fault Refusal :=
  .next (partyWrite party (F.CHK_Unn_FEED8 unit).off value.toNat s.begin)

/-- CHK_FEED16 (R403). -/
def execChkFeed16 (party unit : Nat) (value : Word) (s : State) : Host.Outcome State Fault Refusal :=
  .next (partyWrite party (F.CHK_Unn_FEED16 unit).off value.toNat s.begin)

/-- CHK_FEED32 (R403). -/
def execChkFeed32 (party unit : Nat) (value : Word) (s : State) : Host.Outcome State Fault Refusal :=
  .next (partyWrite party (F.CHK_Unn_FEED32 unit).off value.toNat s.begin)

/-- CHK_RESULT (R403). -/
def execChkResult (party unit : Nat) (s : State) : Host.Outcome State Fault Refusal :=
  .next (partyRead party (F.CHK_Unn_RESULT unit).off s.begin)

/-- NVL_UPDATE (R421). -/
def execNvlUpdate (party : Nat) (s : State) : Host.Outcome State Fault Refusal :=
  .next (partyField party F.NVL_CTRL_CMD 1 (1 <<< 31) s.begin)

/-- NVL_ABORT (R422). -/
def execNvlAbort (party : Nat) (s : State) : Host.Outcome State Fault Refusal :=
  .next (partyField party F.NVL_CTRL_CMD 2 (1 <<< 31) s.begin)

/-- NVL_CONFIRM (R423). -/
def execNvlConfirm (party : Nat) (s : State) : Host.Outcome State Fault Refusal :=
  .next (partyField party F.NVL_CTRL_CMD 3 (1 <<< 31) s.begin)

/-- NVL_ADOPT (R423). -/
def execNvlAdopt (party : Nat) (s : State) : Host.Outcome State Fault Refusal :=
  .next (partyField party F.NVL_CTRL_CMD 4 (1 <<< 31) s.begin)

/-- NVL_VERIFY (R423). -/
def execNvlVerify (party target : Nat) (s : State) : Host.Outcome State Fault Refusal :=
  .next (partyFields party F.NVL_CTRL_CMD F.NVL_CTRL_TARGET 5 target (1 <<< 31) s.begin)

/-- FLASH_OPERATION_DONE (R424). -/
def execFlashOperationDone (s : State) : Host.Outcome State Fault Refusal :=
  .next (flashDone s.begin)

end Sys2Proof.Machine
end

