-- ==== Sys2Proof/Machine/CmdJobs.lean ====
section
/-! DEFINITION. The meanings of the commands of descriptors, streams, furrows, checkpoints, repair and bank swaps. -/

namespace Sys2Proof.Machine

/-- JOB_TAIL_WRITE (R273). -/
def execJobTailWrite (party value : Nat) (s : State) : Host.Outcome State Fault Refusal :=
  .next (registerWrite party true 0x0 value s.begin)

/-- TAKE_DESCRIPTOR (R274). -/
def execTakeDescriptor (s : State) : Host.Outcome State Fault Refusal :=
  .next (takeDescriptor s.begin)

/-- STREAM_READY (R280). -/
def execStreamReady (party value : Nat) (s : State) : Host.Outcome State Fault Refusal :=
  .next (registerWrite party true 0x14 value s.begin)

/-- ADMISSION_START (R86). -/
def execAdmissionStart (s : State) : Host.Outcome State Fault Refusal :=
  .next (admissionStart s.begin)

/-- ADMISSION_END (R89). -/
def execAdmissionEnd (s : State) : Host.Outcome State Fault Refusal :=
  .next (admissionEnd s.begin)

/-- ARM_FURROW (R16). -/
def execArmFurrow (s : State) : Host.Outcome State Fault Refusal :=
  .next (armFurrow s.begin)

/-- PRE_RUN_START (R138). -/
def execPreRunStart (s : State) : Host.Outcome State Fault Refusal :=
  .next (preRunStart s.begin)

/-- JOB_ACK (R279). -/
def execJobAck (party : Nat) (s : State) : Host.Outcome State Fault Refusal :=
  .next (partyField party F.JOB_CTRL_CMD 1 (1 <<< 31) s.begin)

/-- JOB_CANCEL_HEAD (R279). -/
def execJobCancelHead (party : Nat) (s : State) : Host.Outcome State Fault Refusal :=
  .next (partyField party F.JOB_CTRL_CMD 2 (1 <<< 31) s.begin)

/-- JOB_CANCEL_JOB (R279). -/
def execJobCancelJob (party : Nat) (s : State) : Host.Outcome State Fault Refusal :=
  .next (partyField party F.JOB_CTRL_CMD 3 (1 <<< 31) s.begin)

/-- JOB_CANCEL_ALL (R279). -/
def execJobCancelAll (party : Nat) (s : State) : Host.Outcome State Fault Refusal :=
  .next (partyField party F.JOB_CTRL_CMD 4 (1 <<< 31) s.begin)

/-- FURROW_COMPLETE (R336). -/
def execFurrowComplete (microcodeOk : Bool) (s : State) : Host.Outcome State Fault Refusal :=
  .next (furrowComplete microcodeOk s.begin)

/-- CHECKPOINT_WRITE_DONE (R324). -/
def execCheckpointWriteDone (s : State) : Host.Outcome State Fault Refusal :=
  .next (checkpointDone s.begin)

/-- RESUME (R329). -/
def execResumeFurrow (s : State) : Host.Outcome State Fault Refusal :=
  .next (resumeFurrow s.begin)

/-- REPAIR_TRAVERSE_ARM (R333). -/
def execRepairTraverseArm (s : State) : Host.Outcome State Fault Refusal :=
  .next (traverseArm s.begin)

/-- REPAIR_SKIP (R335). -/
def execRepairSkip (party : Nat) (s : State) : Host.Outcome State Fault Refusal :=
  .next (partyAct party F.JOB_REPAIR_CTRL.off (1 <<< 31) s.begin)

/-- BANK_SWAP_REQUEST (R341). -/
def execBankSwapRequest (party : Nat) (microcodeOk : Bool) (s : State) : Host.Outcome State Fault Refusal :=
  .next (swapWrite party microcodeOk s.begin)

end Sys2Proof.Machine
end

