-- ==== Sys2Proof/Machine/CmdLink.lean ====
section
/-! DEFINITION. The meanings of the commands of the drill link and the head's words. -/

namespace Sys2Proof.Machine

/-- LANE_FRAME_BOUNDARY (R200). -/
def execLaneFrameBoundary (group lane : Nat) (s : State) : Host.Outcome State Fault Refusal :=
  .next (frameBoundary group lane s.begin)

/-- ACK_SHOT (R201). -/
def execAckShot (group shot mask : Nat) (s : State) : Host.Outcome State Fault Refusal :=
  .next (ackShot group shot mask s.begin)

/-- ACK_FRAME (R193). -/
def execAckFrame (group seq : Nat) (s : State) : Host.Outcome State Fault Refusal :=
  .next (ackFrame group seq s.begin)

/-- NAK (R201). -/
def execNak (group lane value : Nat) (s : State) : Host.Outcome State Fault Refusal :=
  .next (nak group lane value s.begin)

/-- SHOT_REPORT (R205). -/
def execShotReport (group first fired lanes : Nat) (s : State) : Host.Outcome State Fault Refusal :=
  .next (shotReport group first fired lanes s.begin)

/-- STATUS (R198). -/
def execStatusWord (group value : Nat) (s : State) : Host.Outcome State Fault Refusal :=
  .next (Sys2Proof.Machine.statusWord group value s.begin)

/-- LANE_STATE (R198). -/
def execLaneState (group locks : Nat) (ckOk : Bool) (s : State) : Host.Outcome State Fault Refusal :=
  .next (laneState group locks ckOk s.begin)

/-- FOM (R209). -/
def execFom (group lane value : Nat) (s : State) : Host.Outcome State Fault Refusal :=
  .next (fom group lane value s.begin)

/-- MEM_DATA (R215). -/
def execMemData (group value : Nat) (s : State) : Host.Outcome State Fault Refusal :=
  .next (memData group value s.begin)

/-- IDLE_BK (R197). -/
def execIdleBk (group : Nat) (s : State) : Host.Outcome State Fault Refusal :=
  .next (idleBk group s.begin)

/-- BK_WORD_ERROR (R199). -/
def execBkWordError (code : BkCode) (s : State) : Host.Outcome State Fault Refusal :=
  .next (bkReceive code.group code.rd code.raw s.begin)

/-- BK_LOST (R199). -/
def execBkLost (group : Nat) (s : State) : Host.Outcome State Fault Refusal :=
  .next (bkLost group s.begin)

/-- ATTEMPT_TIMEOUT (R201). -/
def execAttemptTimeout (group lane alive : Nat) (s : State) : Host.Outcome State Fault Refusal :=
  .next (attemptTimeout group lane alive s.begin)

/-- COMMAND_ATTEMPT_TIMEOUT (R193). -/
def execCommandAttemptTimeout (attempt : CmdAttempt) (s : State) : Host.Outcome State Fault Refusal :=
  .next (commandTimeout attempt.group attempt.seq s.begin)

/-- LINK_ACCOUNT_CLOSE (R205). -/
def execLinkAccountClose (s : State) : Host.Outcome State Fault Refusal :=
  .next (accountClose s.begin)

/-- TRAIN (R207). -/
def execTrain (party group : Nat) (s : State) : Host.Outcome State Fault Refusal :=
  .next (partyAct party (F.DRL_Gnn_CTRL group).off (1 <<< 31) s.begin)

/-- TRAINING_TIMEOUT (R207). -/
def execTrainingTimeout (group : Nat) (s : State) : Host.Outcome State Fault Refusal :=
  .next (trainingTimeout group s.begin)

/-- BK_SLIP (R208). -/
def execBkSlip (party group : Nat) (s : State) : Host.Outcome State Fault Refusal :=
  .next (partyAct party (F.DRL_Gnn_CTRL group).off (1 <<< 30) s.begin)

/-- BK_ALIGN_SLIP_TEST (R208). -/
def execBkAlignSlipTest (group : Nat) (good : Bool) (s : State) : Host.Outcome State Fault Refusal :=
  .next (bkSlipTest group good s.begin)

/-- FOM_TIMEOUT (R210). -/
def execFomTimeout (group lane : Nat) (s : State) : Host.Outcome State Fault Refusal :=
  .next (fomTimeout group lane s.begin)

/-- SPARE_GO (R212). -/
def execSpareGo (party group lane : Nat) (s : State) : Host.Outcome State Fault Refusal :=
  .next (partyField party (F.DRL_Gnn_CTRL_SPARE_LANE group) lane (1 <<< 29) s.begin)

/-- BLANK_ALL_CHECK (R353). -/
def execBlankAllCheck (s : State) : Host.Outcome State Fault Refusal :=
  .next (blankCheck s.begin)

end Sys2Proof.Machine
end

