-- ==== Sys2Proof/Machine/CmdMem.lean ====
section
/-! DEFINITION. The meanings of the commands of the DMA engine and the memory controllers. -/

namespace Sys2Proof.Machine

/-- Offset of MEM_Snn_SR_CTRL. -/
def srCtrl (stack : Nat) : Nat := 0x100004 + 0x10000 * stack

/-- DMA_CLAIM (R286). -/
def execDmaClaim (party ch : Nat) (s : State) : Host.Outcome State Fault Refusal :=
  .next (partyAct party (F.DMA_CH_nn_CTRL ch).off (1 <<< 31) s.begin)

/-- DMA_RELEASE (R286). -/
def execDmaRelease (party ch : Nat) (s : State) : Host.Outcome State Fault Refusal :=
  .next (partyAct party (F.DMA_CH_nn_CTRL ch).off (1 <<< 30) s.begin)

/-- DMA_START (R291). -/
def execDmaStart (party ch : Nat) (s : State) : Host.Outcome State Fault Refusal :=
  .next (partyAct party (F.DMA_CH_nn_CTRL ch).off (1 <<< 29) s.begin)

/-- DMA_ABORT (R292). -/
def execDmaAbort (party ch : Nat) (s : State) : Host.Outcome State Fault Refusal :=
  .next (partyAct party (F.DMA_CH_nn_CTRL ch).off (1 <<< 28) s.begin)

/-- DMA_DESCRIPTOR_FETCH (R287). -/
def execDmaDescriptorFetch (ch : Nat) (ok : Bool) (host : List Byte) (s : State) : Host.Outcome State Fault Refusal :=
  .next (dmaFetch ch ok host s.begin)

/-- DMA_BURST_DONE (R291). -/
def execDmaBurstDone (ch : Nat) (ok : Bool) (host : List Byte) (s : State) : Host.Outcome State Fault Refusal :=
  .next (dmaBurst ch ok host s.begin)

/-- DMA_ACCESS_RETRY (R291). -/
def execDmaAccessRetry (ch : Nat) (ok : Bool) (host : List Byte) (s : State) : Host.Outcome State Fault Refusal :=
  .next (dmaRetry ch ok host s.begin)

/-- DMA_TIMER_TICK (R289). -/
def execDmaTimerTick (ch : Nat) (s : State) : Host.Outcome State Fault Refusal :=
  .next (dmaTick ch s.begin)

/-- MEM_MAP_CFG_WRITE (R300). -/
def execMemMapCfgWrite (party : Nat) (value : Word) (s : State) : Host.Outcome State Fault Refusal :=
  .next (partyWrite party F.MEM_MAP_CFG.off value.toNat s.begin)

/-- MEM_INVALIDATE (R308). -/
def execMemInvalidate (party : Nat) (s : State) : Host.Outcome State Fault Refusal :=
  .next (partyField party F.MEM_RANGE_CTRL_CMD 2 (1 <<< 31) s.begin)

/-- MEM_INVALIDATE_DONE (R308). -/
def execMemInvalidateDone (s : State) : Host.Outcome State Fault Refusal :=
  .next (invalidateDone s.begin)

/-- MEM_SCRUB (R316). -/
def execMemScrub (party : Nat) (s : State) : Host.Outcome State Fault Refusal :=
  .next (partyField party F.MEM_RANGE_CTRL_CMD 1 (1 <<< 31) s.begin)

/-- SCRUB_PASS_END (R316). -/
def execScrubPassEnd (us : Nat) (s : State) : Host.Outcome State Fault Refusal :=
  .next (Sys2Proof.Machine.scrubPassEnd us s.begin)

/-- PATROL_PASS_END (R315). -/
def execPatrolPassEnd (upsets : List (Nat × Nat)) (s : State) : Host.Outcome State Fault Refusal :=
  .next (Sys2Proof.Machine.patrolPassEnd upsets s.begin)

/-- MEM_RETIRE (R318). -/
def execMemRetire (party phys : Nat) (s : State) : Host.Outcome State Fault Refusal :=
  .next (partyField party F.MEM_RETIRE_CTRL_PHYS phys (1 <<< 31) s.begin)

/-- PC_COPY_DONE (R319). -/
def execPcCopyDone (s : State) : Host.Outcome State Fault Refusal :=
  .next (Sys2Proof.Machine.pcCopyDone s.begin)

/-- REFRESH_READING_STALE (R309). -/
def execRefreshReadingStale (stack : Nat) (s : State) : Host.Outcome State Fault Refusal :=
  .next (refreshStale stack s.begin)

/-- RETRAIN_BURST (R310). -/
def execRetrainBurst (stack : Nat) (s : State) : Host.Outcome State Fault Refusal :=
  .next (Sys2Proof.Machine.retrainBurst stack s.begin)

/-- RETRAIN_BURST_DONE (R314). -/
def execRetrainBurstDone (stack : Nat) (s : State) : Host.Outcome State Fault Refusal :=
  .next (retrainDone stack s.begin)

/-- SELF_REFRESH_ENTER (R311). -/
def execSelfRefreshEnter (party stack : Nat) (s : State) : Host.Outcome State Fault Refusal :=
  .next (partyAct party (srCtrl stack) (1 <<< 31) s.begin)

/-- SELF_REFRESH_EXIT (R311). -/
def execSelfRefreshExit (party stack : Nat) (s : State) : Host.Outcome State Fault Refusal :=
  .next (partyAct party (srCtrl stack) (1 <<< 30) s.begin)

/-- SELF_REFRESH_AUTO (R311). -/
def execSelfRefreshAuto (stack : Nat) (s : State) : Host.Outcome State Fault Refusal :=
  .next (Sys2Proof.Machine.selfRefreshAuto stack s.begin)

/-- MEM_FREQ_CHANGE (R313). -/
def execMemFreqChange (party freq : Nat) (s : State) : Host.Outcome State Fault Refusal :=
  .next (partyField party F.MEM_FREQ_CTRL_FREQ freq (1 <<< 31) s.begin)

/-- FREQ_CHANGE_DONE (R313). -/
def execFreqChangeDone (s : State) : Host.Outcome State Fault Refusal :=
  .next (freqDone s.begin)

/-- FLIP_ARM (R321). -/
def execFlipArm (party check : Nat) (s : State) : Host.Outcome State Fault Refusal :=
  .next (partyField party F.MEM_FLIP_CTRL_CHECK check (1 <<< 31) s.begin)

/-- SRAM_PATROL_PASS (R303). -/
def execSramPatrolPass (island : Nat) (data check : List (Nat × Nat)) (s : State) : Host.Outcome State Fault Refusal :=
  .next (sramPatrol island (sramBits data check) s.begin)

end Sys2Proof.Machine
end

