-- ==== Sys2Proof/Machine/CmdPower.lean ====
section
/-! DEFINITION. The meanings of the commands of the part's power, clocks, start, fuses and links. -/

namespace Sys2Proof.Machine

/-- AON_POWER_UP (R453). -/
def execAonPowerUp (straps : Nat) (s : State) : Host.Outcome State Fault Refusal :=
  .next (aonPowerUp straps s.begin)

/-- CORE_PWRGD_RISE (R430). -/
def execCorePwrgdRise (env : StartEnv) (s : State) : Host.Outcome State Fault Refusal :=
  .next (corePowerRise env s.begin)

/-- START_STEP_TIMEOUT (R433). -/
def execStartStepTimeout (step : Nat) (s : State) : Host.Outcome State Fault Refusal :=
  .next (startTimeout step s.begin)

/-- CORE_PWRGD_FALL (R428). -/
def execCorePwrgdFall (s : State) : Host.Outcome State Fault Refusal :=
  .next (corePowerFall s.begin)

/-- SYSCLK_LOSS (R467). -/
def execSysclkLoss (s : State) : Host.Outcome State Fault Refusal :=
  .next (sysclkLoss s.begin)

/-- SYSCLK_RESTORED (R467). -/
def execSysclkRestored (s : State) : Host.Outcome State Fault Refusal :=
  .next (sysclkRestored s.begin)

/-- REF_10M_LOSS (R466). -/
def execRef10mLoss (s : State) : Host.Outcome State Fault Refusal :=
  .next (refLoss s.begin)

/-- REF_10M_RESTORED (R466). -/
def execRef10mRestored (s : State) : Host.Outcome State Fault Refusal :=
  .next (refRestored s.begin)

/-- OPERATING_SECOND_TICK (R388). -/
def execOperatingSecondTick (s : State) : Host.Outcome State Fault Refusal :=
  .next (secondTick s.begin)

/-- VDD_AON_LOSS (R40). -/
def execVddAonLoss (s : State) : Host.Outcome State Fault Refusal :=
  .next (vddAonLoss s.begin)

/-- XTAL32_START (R428). -/
def execXtal32Start (running : Bool) (s : State) : Host.Outcome State Fault Refusal :=
  .next (xtalStart running s.begin)

/-- JTAG_INSTRUCTION (R363). -/
def execJtagInstruction (bypassOrIdcode : Bool) (s : State) : Host.Outcome State Fault Refusal :=
  .next (jtagInstruction bypassOrIdcode s.begin)

/-- KEY_PROGRAM (R413). -/
def execKeyProgram (which : Nat) (key : List Byte) (s : State) : Host.Outcome State Fault Refusal :=
  .next (keyProgram which key s.begin)

/-- KEY_REVOKE (R413). -/
def execKeyRevoke (which : Nat) (s : State) : Host.Outcome State Fault Refusal :=
  .next (keyRevoke which s.begin)

/-- PCIE_LINK_UP (R268). -/
def execPcieLinkUp (party width speed : Nat) (s : State) : Host.Outcome State Fault Refusal :=
  .next (pcieLinkUp party width speed s.begin)

end Sys2Proof.Machine
end

