-- ==== Sys2Proof/Machine/CmdStage.lean ====
section
/-! DEFINITION. The meanings of the commands of encoders, shots, the planner and the switches. -/

namespace Sys2Proof.Machine

/-- ENC_SAMPLE (R221). -/
def execEncSample (codes : List (Int × Int)) (s : State) : Host.Outcome State Fault Refusal :=
  .next (Sys2Proof.Machine.encSample codes s.begin)

/-- ENC_TRACKING_QUALIFIED (R225). -/
def execEncTrackingQualified (ch : Nat) (s : State) : Host.Outcome State Fault Refusal :=
  .next (encQualified ch s.begin)

/-- ENC_AMPLITUDE_FAULT (R224). -/
def execEncAmplitudeFault (ch : Nat) (s : State) : Host.Outcome State Fault Refusal :=
  .next (Sys2Proof.Machine.encAmplitudeFault ch s.begin)

/-- ENC_YAW_FAULT (R235). -/
def execEncYawFault (axis : Nat) (s : State) : Host.Outcome State Fault Refusal :=
  .next (Sys2Proof.Machine.encYawFault axis s.begin)

/-- ENC_SPEED_RESTART (R228). -/
def execEncSpeedRestart (ch : Nat) (s : State) : Host.Outcome State Fault Refusal :=
  .next (Sys2Proof.Machine.encSpeedRestart ch s.begin)

/-- ENC_INDEX_EDGE (R231). -/
def execEncIndexEdge (ch : Nat) (rising : Bool) (frac : Nat) (s : State) : Host.Outcome State Fault Refusal :=
  .next (indexEdge ch rising frac s.begin)

/-- REREF (R232). -/
def execReref (party ch : Nat) (s : State) : Host.Outcome State Fault Refusal :=
  .next (partyAct party (F.ENC_Cnn_CTRL ch).off (1 <<< 31) s.begin)

/-- ZERO_X (R235). -/
def execZeroX (party : Nat) (s : State) : Host.Outcome State Fault Refusal :=
  .next (partyAct party F.ENC_YAW_CTRL.off (1 <<< 31) s.begin)

/-- ZERO_Y (R235). -/
def execZeroY (party : Nat) (s : State) : Host.Outcome State Fault Refusal :=
  .next (partyAct party F.ENC_YAW_CTRL.off (1 <<< 30) s.begin)

/-- ENC_FAULT_ACK (R236). -/
def execEncFaultAck (party mask : Nat) (s : State) : Host.Outcome State Fault Refusal :=
  .next (partyAct party F.ENC_FAULT_STATUS.off (mask % 2 ^ 32) s.begin)

/-- SHOT_TRIGGER (R244). -/
def execShotTrigger (s : State) : Host.Outcome State Fault Refusal :=
  .next (Sys2Proof.Machine.shotTrigger s.begin)

/-- DEFLECTION_WORD (R253). -/
def execDeflectionWord (s : State) : Host.Outcome State Fault Refusal :=
  .next (Sys2Proof.Machine.deflectionWord s.begin)

/-- PATH_HOLD_TIMEOUT (R251). -/
def execPathHoldTimeout (s : State) : Host.Outcome State Fault Refusal :=
  .next (Sys2Proof.Machine.pathHoldTimeout s.begin)

/-- HOME_X (R265). -/
def execHomeX (party : Nat) (s : State) : Host.Outcome State Fault Refusal :=
  .next (partyField party F.PLN_CMD_CMD 1 (1 <<< 31) s.begin)

/-- HOME_Y (R265). -/
def execHomeY (party : Nat) (s : State) : Host.Outcome State Fault Refusal :=
  .next (partyField party F.PLN_CMD_CMD 2 (1 <<< 31) s.begin)

/-- MOVE (R260). -/
def execMovePlanner (party : Nat) (s : State) : Host.Outcome State Fault Refusal :=
  .next (partyField party F.PLN_CMD_CMD 3 (1 <<< 31) s.begin)

/-- STOP (R260). -/
def execStopPlanner (party : Nat) (s : State) : Host.Outcome State Fault Refusal :=
  .next (partyField party F.PLN_CMD_CMD 4 (1 <<< 31) s.begin)

/-- PLANNER_MOVE_DONE (R258). -/
def execPlannerMoveDone (x y : Int) (s : State) : Host.Outcome State Fault Refusal :=
  .next (plannerDone x y s.begin)

/-- TURN_DWELL_END (R257). -/
def execTurnDwellEnd (s : State) : Host.Outcome State Fault Refusal :=
  .next (dwellEnd s.begin)

/-- WRITING_SEGMENT_START (R257). -/
def execWritingSegmentStart (s : State) : Host.Outcome State Fault Refusal :=
  .next (segmentStart s.begin)

/-- SWITCH_RAW_EDGE (R262). -/
def execSwitchRawEdge (sw : Nat) (was level : Bool) (s : State) : Host.Outcome State Fault Refusal :=
  .next (switchRaw sw was level s.begin)

/-- SWITCH_FILTERED_EDGE (R263). -/
def execSwitchFilteredEdge (sw : Nat) (s : State) : Host.Outcome State Fault Refusal :=
  .next (switchFiltered sw s.begin)

/-- SWITCH_FILTERED_INACTIVE (R263). -/
def execSwitchFilteredInactive (sw : Nat) (s : State) : Host.Outcome State Fault Refusal :=
  .next (switchInactive sw s.begin)

/-- LATCH_REARM (R262). -/
def execLatchRearm (party mask : Nat) (s : State) : Host.Outcome State Fault Refusal :=
  .next (partyAct party F.PLN_SWITCH_STATUS.off ((mask % 64) <<< 24) s.begin)

/-- TRIPPED_ACK (R263). -/
def execTrippedAck (party mask : Nat) (s : State) : Host.Outcome State Fault Refusal :=
  .next (partyAct party F.PLN_SWITCH_STATUS.off (mask % 64) s.begin)

/-- STOPPED_ACK (R260). -/
def execStoppedAck (party : Nat) (s : State) : Host.Outcome State Fault Refusal :=
  .next (partyAct party F.PLN_STATUS.off (1 <<< 25) s.begin)

end Sys2Proof.Machine
end

