-- ==== Sys2Proof/Machine/Dispatch.lean ====
section
/-! DEFINITION. The dispatch of a command to its meaning, one arm for each constructor of Instr. -/

namespace Sys2Proof.Machine

open Sys2Proof

def exec (i : Instr) (s : State) : Host.Outcome State Fault Refusal :=
  match i with
  | .aonPowerUp straps => Sys2Proof.Machine.execAonPowerUp straps s
  | .corePwrgdRise env => Sys2Proof.Machine.execCorePwrgdRise env s
  | .startStepTimeout step => Sys2Proof.Machine.execStartStepTimeout step s
  | .corePwrgdFall => Sys2Proof.Machine.execCorePwrgdFall s
  | .sysclkLoss => Sys2Proof.Machine.execSysclkLoss s
  | .ref10mLoss => Sys2Proof.Machine.execRef10mLoss s
  | .ref10mRestored => Sys2Proof.Machine.execRef10mRestored s
  | .operatingSecondTick => Sys2Proof.Machine.execOperatingSecondTick s
  | .operatingSecondsRead party => Sys2Proof.Machine.execOperatingSecondsRead party s
  | .registerWrite party bar2 off value => Sys2Proof.Machine.execRegisterWrite party bar2 off value s
  | .readClear party off => Sys2Proof.Machine.execReadClear party off s
  | .leaseAcquire party => Sys2Proof.Machine.execLeaseAcquire party s
  | .leaseRelease party => Sys2Proof.Machine.execLeaseRelease party s
  | .leaseKeepalive party => Sys2Proof.Machine.execLeaseKeepalive party s
  | .leaseWatchdogExpiry => Sys2Proof.Machine.execLeaseWatchdogExpiry s
  | .servicePodPresent => Sys2Proof.Machine.execServicePodPresent s
  | .servicePodRemoved => Sys2Proof.Machine.execServicePodRemoved s
  | .gateClose party island => Sys2Proof.Machine.execGateClose party island s
  | .gateOpen party island => Sys2Proof.Machine.execGateOpen party island s
  | .gateReset party island => Sys2Proof.Machine.execGateReset party island s
  | .gateLoad party island => Sys2Proof.Machine.execGateLoad party island s
  | .islandResetDone pass => Sys2Proof.Machine.execIslandResetDone pass s
  | .gateRequest island requester seq nonIdem write off value => Sys2Proof.Machine.execGateRequest island requester seq nonIdem write off value s
  | .gateDrainDone island => Sys2Proof.Machine.execGateDrainDone island s
  | .gateDrainLimit island => Sys2Proof.Machine.execGateDrainLimit island s
  | .retryRepresent party island => Sys2Proof.Machine.execRetryRepresent party island s
  | .requesterTimeout island requester => Sys2Proof.Machine.execRequesterTimeout island requester s
  | .hostReadExpiry party => Sys2Proof.Machine.execHostReadExpiry party s
  | .pcieFunctionReset party => Sys2Proof.Machine.execPcieFunctionReset party s
  | .jobTailWrite party value => Sys2Proof.Machine.execJobTailWrite party value s
  | .takeDescriptor => Sys2Proof.Machine.execTakeDescriptor s
  | .streamReady party value => Sys2Proof.Machine.execStreamReady party value s
  | .admissionStart => Sys2Proof.Machine.execAdmissionStart s
  | .admissionEnd => Sys2Proof.Machine.execAdmissionEnd s
  | .armFurrow => Sys2Proof.Machine.execArmFurrow s
  | .preRunStart => Sys2Proof.Machine.execPreRunStart s
  | .jobAck party => Sys2Proof.Machine.execJobAck party s
  | .jobCancelHead party => Sys2Proof.Machine.execJobCancelHead party s
  | .jobCancelJob party => Sys2Proof.Machine.execJobCancelJob party s
  | .jobCancelAll party => Sys2Proof.Machine.execJobCancelAll party s
  | .furrowComplete microcodeOk => Sys2Proof.Machine.execFurrowComplete microcodeOk s
  | .tilthTileDecode inst => Sys2Proof.Machine.execTilthTileDecode inst s
  | .harrowSegmentDone tile bad => Sys2Proof.Machine.execHarrowSegmentDone tile bad s
  | .harrowSecondOpinionDone bad => Sys2Proof.Machine.execHarrowSecondOpinionDone bad s
  | .harrowRetire party tile => Sys2Proof.Machine.execHarrowRetire party tile s
  | .harrowAuditEnable party enable => Sys2Proof.Machine.execHarrowAuditEnable party enable s
  | .madderMultRow row => Sys2Proof.Machine.execMadderMultRow row s
  | .madderRowConvert row => Sys2Proof.Machine.execMadderRowConvert row s
  | .mdrMapBaseWrite party hi value => Sys2Proof.Machine.execMdrMapBaseWrite party hi value s
  | .sowShotCompute group bad => Sys2Proof.Machine.execSowShotCompute group bad s
  | .sowAuditorSelfTestDone pass => Sys2Proof.Machine.execSowAuditorSelfTestDone pass s
  | .sowRetire party slice => Sys2Proof.Machine.execSowRetire party slice s
  | .sowAuditEnable party enable => Sys2Proof.Machine.execSowAuditEnable party enable s
  | .checkpointWriteDone => Sys2Proof.Machine.execCheckpointWriteDone s
  | .laneFrameBoundary group lane => Sys2Proof.Machine.execLaneFrameBoundary group lane s
  | .ackShot group shot mask => Sys2Proof.Machine.execAckShot group shot mask s
  | .ackFrame group seq => Sys2Proof.Machine.execAckFrame group seq s
  | .nak group lane value => Sys2Proof.Machine.execNak group lane value s
  | .shotReport group first fired lanes => Sys2Proof.Machine.execShotReport group first fired lanes s
  | .statusWord group value => Sys2Proof.Machine.execStatusWord group value s
  | .laneState group locks ckOk => Sys2Proof.Machine.execLaneState group locks ckOk s
  | .fom group lane value => Sys2Proof.Machine.execFom group lane value s
  | .memData group value => Sys2Proof.Machine.execMemData group value s
  | .idleBk group => Sys2Proof.Machine.execIdleBk group s
  | .bkWordError code => Sys2Proof.Machine.execBkWordError code s
  | .bkLost group => Sys2Proof.Machine.execBkLost group s
  | .attemptTimeout group lane alive => Sys2Proof.Machine.execAttemptTimeout group lane alive s
  | .commandAttemptTimeout attempt => Sys2Proof.Machine.execCommandAttemptTimeout attempt s
  | .linkAccountClose => Sys2Proof.Machine.execLinkAccountClose s
  | .train party group => Sys2Proof.Machine.execTrain party group s
  | .trainingTimeout group => Sys2Proof.Machine.execTrainingTimeout group s
  | .bkSlip party group => Sys2Proof.Machine.execBkSlip party group s
  | .bkAlignSlipTest group good => Sys2Proof.Machine.execBkAlignSlipTest group good s
  | .fomTimeout group lane => Sys2Proof.Machine.execFomTimeout group lane s
  | .spareGo party group lane => Sys2Proof.Machine.execSpareGo party group lane s
  | .blankAllCheck => Sys2Proof.Machine.execBlankAllCheck s
  | .encSample codes => Sys2Proof.Machine.execEncSample codes s
  | .encTrackingQualified ch => Sys2Proof.Machine.execEncTrackingQualified ch s
  | .encAmplitudeFault ch => Sys2Proof.Machine.execEncAmplitudeFault ch s
  | .encYawFault axis => Sys2Proof.Machine.execEncYawFault axis s
  | .encSpeedRestart ch => Sys2Proof.Machine.execEncSpeedRestart ch s
  | .encIndexEdge ch rising frac => Sys2Proof.Machine.execEncIndexEdge ch rising frac s
  | .reref party ch => Sys2Proof.Machine.execReref party ch s
  | .zeroX party => Sys2Proof.Machine.execZeroX party s
  | .zeroY party => Sys2Proof.Machine.execZeroY party s
  | .encFaultAck party mask => Sys2Proof.Machine.execEncFaultAck party mask s
  | .shotTrigger => Sys2Proof.Machine.execShotTrigger s
  | .deflectionWord => Sys2Proof.Machine.execDeflectionWord s
  | .pathHoldTimeout => Sys2Proof.Machine.execPathHoldTimeout s
  | .homeX party => Sys2Proof.Machine.execHomeX party s
  | .homeY party => Sys2Proof.Machine.execHomeY party s
  | .movePlanner party => Sys2Proof.Machine.execMovePlanner party s
  | .stopPlanner party => Sys2Proof.Machine.execStopPlanner party s
  | .plannerMoveDone x y => Sys2Proof.Machine.execPlannerMoveDone x y s
  | .turnDwellEnd => Sys2Proof.Machine.execTurnDwellEnd s
  | .writingSegmentStart => Sys2Proof.Machine.execWritingSegmentStart s
  | .switchRawEdge sw was level => Sys2Proof.Machine.execSwitchRawEdge sw was level s
  | .switchFilteredEdge sw => Sys2Proof.Machine.execSwitchFilteredEdge sw s
  | .latchRearm party mask => Sys2Proof.Machine.execLatchRearm party mask s
  | .trippedAck party mask => Sys2Proof.Machine.execTrippedAck party mask s
  | .stoppedAck party => Sys2Proof.Machine.execStoppedAck party s
  | .resumeFurrow => Sys2Proof.Machine.execResumeFurrow s
  | .repairTraverseArm => Sys2Proof.Machine.execRepairTraverseArm s
  | .repairSkip party => Sys2Proof.Machine.execRepairSkip party s
  | .bankSwapRequest party microcodeOk => Sys2Proof.Machine.execBankSwapRequest party microcodeOk s
  | .dmaClaim party ch => Sys2Proof.Machine.execDmaClaim party ch s
  | .dmaRelease party ch => Sys2Proof.Machine.execDmaRelease party ch s
  | .dmaStart party ch => Sys2Proof.Machine.execDmaStart party ch s
  | .dmaAbort party ch => Sys2Proof.Machine.execDmaAbort party ch s
  | .dmaDescriptorFetch ch ok host => Sys2Proof.Machine.execDmaDescriptorFetch ch ok host s
  | .dmaBurstDone ch ok host => Sys2Proof.Machine.execDmaBurstDone ch ok host s
  | .dmaAccessRetry ch ok host => Sys2Proof.Machine.execDmaAccessRetry ch ok host s
  | .dmaTimerTick ch => Sys2Proof.Machine.execDmaTimerTick ch s
  | .smbusAddress addr pecOk => Sys2Proof.Machine.execSmbusAddress addr pecOk s
  | .smbusRead pecOk => Sys2Proof.Machine.execSmbusRead pecOk s
  | .smbusWrite value pecOk => Sys2Proof.Machine.execSmbusWrite value pecOk s
  | .smbusReadTimeout => Sys2Proof.Machine.execSmbusReadTimeout s
  | .usbRead space seq length addr => Sys2Proof.Machine.execUsbRead space seq length addr s
  | .usbWrite space seq length addr data => Sys2Proof.Machine.execUsbWrite space seq length addr data s
  | .memMapCfgWrite party value => Sys2Proof.Machine.execMemMapCfgWrite party value s
  | .memInvalidate party => Sys2Proof.Machine.execMemInvalidate party s
  | .memScrub party => Sys2Proof.Machine.execMemScrub party s
  | .scrubPassEnd us => Sys2Proof.Machine.execScrubPassEnd us s
  | .patrolPassEnd upsets => Sys2Proof.Machine.execPatrolPassEnd upsets s
  | .memRetire party phys => Sys2Proof.Machine.execMemRetire party phys s
  | .pcCopyDone => Sys2Proof.Machine.execPcCopyDone s
  | .refreshReadingStale stack => Sys2Proof.Machine.execRefreshReadingStale stack s
  | .retrainBurst stack => Sys2Proof.Machine.execRetrainBurst stack s
  | .selfRefreshEnter party stack => Sys2Proof.Machine.execSelfRefreshEnter party stack s
  | .selfRefreshExit party stack => Sys2Proof.Machine.execSelfRefreshExit party stack s
  | .selfRefreshAuto stack => Sys2Proof.Machine.execSelfRefreshAuto stack s
  | .memFreqChange party freq => Sys2Proof.Machine.execMemFreqChange party freq s
  | .freqChangeDone => Sys2Proof.Machine.execFreqChangeDone s
  | .flipArm party check => Sys2Proof.Machine.execFlipArm party check s
  | .fenceNop seq off data => Sys2Proof.Machine.execFenceNop seq off data s
  | .fenceRead seq off data => Sys2Proof.Machine.execFenceRead seq off data s
  | .fenceWrite seq off data => Sys2Proof.Machine.execFenceWrite seq off data s
  | .fenceBadFrame cycles bytes => Sys2Proof.Machine.execFenceBadFrame cycles bytes s
  | .fenceWatchdogExpiry => Sys2Proof.Machine.execFenceWatchdogExpiry s
  | .fenceFallow on => Sys2Proof.Machine.execFenceFallow on s
  | .revokeLease => Sys2Proof.Machine.execRevokeLease s
  | .leaseLock on => Sys2Proof.Machine.execLeaseLock on s
  | .thermtripRelease => Sys2Proof.Machine.execThermtripRelease s
  | .fenceTripClear mask => Sys2Proof.Machine.execFenceTripClear mask s
  | .txEnableWrite value => Sys2Proof.Machine.execTxEnableWrite value s
  | .limitForceWrite value => Sys2Proof.Machine.execLimitForceWrite value s
  | .serviceEnableWrite on => Sys2Proof.Machine.execServiceEnableWrite on s
  | .doseCeilingWrite value => Sys2Proof.Machine.execDoseCeilingWrite value s
  | .ledgerAuthorise key => Sys2Proof.Machine.execLedgerAuthorise key s
  | .holdReqEdge => Sys2Proof.Machine.execHoldReqEdge s
  | .doorOkEdge => Sys2Proof.Machine.execDoorOkEdge s
  | .interlockRelease door => Sys2Proof.Machine.execInterlockRelease door s
  | .hkRound readings taken => Sys2Proof.Machine.execHkRound readings taken s
  | .aonComparatorRead readings => Sys2Proof.Machine.execAonComparatorRead readings s
  | .thermalStopLimit => Sys2Proof.Machine.execThermalStopLimit s
  | .thermalShutdown heldMs stopMs => Sys2Proof.Machine.execThermalShutdown heldMs stopMs s
  | .calRun party item => Sys2Proof.Machine.execCalRun party item s
  | .calDueAge item inst => Sys2Proof.Machine.execCalDueAge item inst s
  | .calInstanceStart => Sys2Proof.Machine.execCalInstanceStart s
  | .calInstanceDone choice => Sys2Proof.Machine.execCalInstanceDone choice s
  | .calRetryEligible item inst => Sys2Proof.Machine.execCalRetryEligible item inst s
  | .calOverdue item inst => Sys2Proof.Machine.execCalOverdue item inst s
  | .calTestCompose party => Sys2Proof.Machine.execCalTestCompose party s
  | .calTestDone => Sys2Proof.Machine.execCalTestDone s
  | .tilthEncode party => Sys2Proof.Machine.execTilthEncode party s
  | .tilthDecode party => Sys2Proof.Machine.execTilthDecode party s
  | .tilthResume party => Sys2Proof.Machine.execTilthResume party s
  | .tilthSave party => Sys2Proof.Machine.execTilthSave party s
  | .tilthRestore party => Sys2Proof.Machine.execTilthRestore party s
  | .tilthAbort party => Sys2Proof.Machine.execTilthAbort party s
  | .tilthJobTileDone => Sys2Proof.Machine.execTilthJobTileDone s
  | .ledgerHoldExpiry => Sys2Proof.Machine.execLedgerHoldExpiry s
  | .ledgerCommit => Sys2Proof.Machine.execLedgerCommit s
  | .ledgerFreeze party => Sys2Proof.Machine.execLedgerFreeze party s
  | .ledgerUnfreeze party => Sys2Proof.Machine.execLedgerUnfreeze party s
  | .freezeTimeout => Sys2Proof.Machine.execFreezeTimeout s
  | .ldgReadData party => Sys2Proof.Machine.execLdgReadData party s
  | .clearRequest party => Sys2Proof.Machine.execClearRequest party s
  | .clearConfirm party => Sys2Proof.Machine.execClearConfirm party s
  | .authorisationExpiry => Sys2Proof.Machine.execAuthorisationExpiry s
  | .telemetryRecord => Sys2Proof.Machine.execTelemetryRecord s
  | .usageClear party => Sys2Proof.Machine.execUsageClear party s
  | .chkClaim party => Sys2Proof.Machine.execChkClaim party s
  | .chkRelease party => Sys2Proof.Machine.execChkRelease party s
  | .chkInit party unit => Sys2Proof.Machine.execChkInit party unit s
  | .chkFeed8 party unit value => Sys2Proof.Machine.execChkFeed8 party unit value s
  | .chkFeed16 party unit value => Sys2Proof.Machine.execChkFeed16 party unit value s
  | .chkFeed32 party unit value => Sys2Proof.Machine.execChkFeed32 party unit value s
  | .chkResult party unit => Sys2Proof.Machine.execChkResult party unit s
  | .nvlUpdate party => Sys2Proof.Machine.execNvlUpdate party s
  | .nvlAbort party => Sys2Proof.Machine.execNvlAbort party s
  | .nvlConfirm party => Sys2Proof.Machine.execNvlConfirm party s
  | .nvlAdopt party => Sys2Proof.Machine.execNvlAdopt party s
  | .nvlVerify party target => Sys2Proof.Machine.execNvlVerify party target s
  | .flashOperationDone => Sys2Proof.Machine.execFlashOperationDone s
  | .vddAonLoss => Sys2Proof.Machine.execVddAonLoss s
  | .xtal32Start running => Sys2Proof.Machine.execXtal32Start running s
  | .sysclkRestored => Sys2Proof.Machine.execSysclkRestored s
  | .jtagInstruction bypassOrIdcode => Sys2Proof.Machine.execJtagInstruction bypassOrIdcode s
  | .keyProgram which key => Sys2Proof.Machine.execKeyProgram which key s
  | .keyRevoke which => Sys2Proof.Machine.execKeyRevoke which s
  | .pcieLinkUp party width speed => Sys2Proof.Machine.execPcieLinkUp party width speed s
  | .gateReply island requester => Sys2Proof.Machine.execGateReply island requester s
  | .switchFilteredInactive sw => Sys2Proof.Machine.execSwitchFilteredInactive sw s
  | .memInvalidateDone => Sys2Proof.Machine.execMemInvalidateDone s
  | .retrainBurstDone stack => Sys2Proof.Machine.execRetrainBurstDone stack s
  | .sramPatrolPass island data check => Sys2Proof.Machine.execSramPatrolPass island data check s
  | .usageClearDone => Sys2Proof.Machine.execUsageClearDone s

end Sys2Proof.Machine
end

