-- ==== Sys2Proof/Safety.lean ====
section
/-! DEFINITION. The terms in which claims about the block are stated: what it means for a command to answer, for a party
to reach a register and to hold the lease, and what a command leaves as it was. -/

namespace Sys2Proof.Machine

/-- The command answers a next state, and that state has a property. -/
def Answers (c : Instr) (s : State) (P : State → Prop) : Prop := ∃ t, exec c s = .next t ∧ P t

/-- A party's access to a register is carried out at once: the party reaches the register map (R9, R268, R295, R296),
the register's island is bonded and its gate open (R24, R28), and no earlier access of the party waits (R31, R32). What
the gate keeps is the reply to the party's last numbered request, not to the next one (R33). -/
structure Reaches (p off : Nat) (s : State) : Prop where
  party : s.reaches p = true
  bonded : islandFused s.cls (islandOf off) = false
  gate : islandOf off = 0 ∨ ((s.gate (islandOf off)).st = .opened ∧ (s.gate (islandOf off)).outOfService = false)
  first : (s.retrying.any fun e => e.2.requester == p) = false
  answered : ((s.gate (islandOf off)).accepted.any fun e => e.1.requester == p && e.1.nonIdem) = false
  fresh : ((alGet (s.gate (islandOf off)).kept p).any fun k => k.seq == (s.gate (islandOf off)).nextNum p) = false

/-- The party holds the lease and reaches the register, so its writes of LW fields are allowed (R8, R12, R439). -/
structure Commands (p off : Nat) (s : State) : Prop extends Reaches p off s where
  holds : s.holder = p
  host : p ≠ 3

/-- The state in which a party's access is carried out: a non-idempotent one has taken its number (R32). -/
def State.numbered (s : State) (p off : Nat) (write : Bool) : State := (request p off false write true 0 s).2

/-- A state `t` that a party's access in `s` leads to, with the reply kept where the access is non-idempotent (R33). -/
def State.replied (s : State) (p off : Nat) (write : Bool) (v : Nat) (t : State) : State :=
  keepReply (islandOf off) (request p off false write true 0 s).1 v t

/-- A party's write of a register is carried out by `f`, between its numbering and the keeping of its reply. -/
def State.written (s : State) (p off : Nat) (f : State → State) : State :=
  s.replied p off true 0 (f (s.numbered p off true))

/-- Everything beyond AON is held in reset, as a fall of CORE_PWRGD leaves it and as it is before the first start (R39,
R428). -/
def CoreOff (s : State) : Prop := s.gates = [] ∧ s.cal = Cal.empty ∧ ∀ g ∈ s.groups, s.groupState g = 0

/-- DRAM, flash and the registers are in the one canonical form that State keeps them in. -/
abbrev InForm (s : State) : Prop :=
  Memory.wf dramDefault s.mem.cells = true ∧ Memory.wf flashDefault s.nvl.flash = true ∧ alSorted s.regs = true

/-- The parts of the state, but for the queue, the fuses and what every command sets anew (its messages and its free
values). -/
inductive Part where
  | pins | ret | regs | gates | gateCmd | retrying | leaseCmd | leaseResult | evPending | evEnable | ctx | smbusAddr
  | smbusStatus | jobs | path | link | head | cal | dma | mem | ledger | chk | nvl | usage
  | bankA | bankB | headPlane | now | enc | zX | zY | yawX | yawY | shot | pln | fence | usb
deriving DecidableEq, Repr

/-- A part is the same in two states. -/
def Part.same : Part → State → State → Prop
  | .pins, s, t => t.pins = s.pins
  | .ret, s, t => t.ret = s.ret
  | .regs, s, t => t.regs = s.regs
  | .gates, s, t => t.gates = s.gates
  | .gateCmd, s, t => t.gateCmd = s.gateCmd
  | .retrying, s, t => t.retrying = s.retrying
  | .leaseCmd, s, t => t.leaseCmd = s.leaseCmd
  | .leaseResult, s, t => t.leaseResult = s.leaseResult
  | .evPending, s, t => t.evPending = s.evPending
  | .evEnable, s, t => t.evEnable = s.evEnable
  | .ctx, s, t => t.ctx = s.ctx
  | .smbusAddr, s, t => t.smbusAddr = s.smbusAddr
  | .smbusStatus, s, t => t.smbusStatus = s.smbusStatus
  | .jobs, s, t => t.jobs = s.jobs
  | .path, s, t => t.path = s.path
  | .link, s, t => t.link = s.link
  | .head, s, t => t.head = s.head
  | .cal, s, t => t.cal = s.cal
  | .dma, s, t => t.dma = s.dma
  | .mem, s, t => t.mem = s.mem
  | .ledger, s, t => t.ledger = s.ledger
  | .chk, s, t => t.chk = s.chk
  | .nvl, s, t => t.nvl = s.nvl
  | .usage, s, t => t.usage = s.usage
  | .bankA, s, t => t.bankA = s.bankA
  | .bankB, s, t => t.bankB = s.bankB
  | .headPlane, s, t => t.headPlane = s.headPlane
  | .now, s, t => t.now = s.now
  | .enc, s, t => t.enc = s.enc
  | .zX, s, t => t.zX = s.zX
  | .zY, s, t => t.zY = s.zY
  | .yawX, s, t => t.yawX = s.yawX
  | .yawY, s, t => t.yawY = s.yawY
  | .shot, s, t => t.shot = s.shot
  | .pln, s, t => t.pln = s.pln
  | .fence, s, t => t.fence = s.fence
  | .usb, s, t => t.usb = s.usb

/-- A command changes these parts at most: every other one is as the command found it (State.begin). -/
def OnlyParts (l : List Part) (s t : State) : Prop := ∀ x, x ∉ l → x.same s.begin t

/-- The gates are as they were, but for the number of a party's last request and the reply kept for it (R32, R33). -/
def SameGates (p : Nat) (s t : State) : Prop :=
  ∀ i, let g := s.gate i
    let h := t.gate i
    h.st = g.st ∧ h.outOfService = g.outOfService ∧ h.accepted = g.accepted ∧ h.discarded = g.discarded ∧
      ∀ q, q ≠ p → alGet h.nums q = alGet g.nums q ∧ alGet h.kept q = alGet g.kept q

/-- A party's register access changes these parts at most, and of the gates nothing else than that access's number and
kept reply. -/
def AccessOnly (p : Nat) (l : List Part) (s t : State) : Prop := OnlyParts (.gates :: l) s t ∧ SameGates p s t

/-- Every part. -/
def Part.all : List Part :=
  [.pins, .ret, .regs, .gates, .gateCmd, .retrying, .leaseCmd, .leaseResult, .evPending, .evEnable, .ctx,
   .smbusAddr, .smbusStatus, .jobs, .path, .link, .head, .cal, .dma, .mem, .ledger, .chk, .nvl, .usage, .bankA,
   .bankB, .headPlane, .now, .enc, .zX, .zY, .yawX, .yawY, .shot, .pln, .fence, .usb]

/-- The parts a command may change. A register access of a party may reach any of them; every other command has its
own. -/
def mayChange : Instr → List Part
  | .aonPowerUp _ =>
    [.pins, .regs, .smbusAddr, .smbusStatus, .fence]
  | .corePwrgdRise _ =>
    [.pins, .ret, .regs, .gates, .retrying, .evPending, .evEnable, .usb, .jobs, .path, .link, .head, .cal, .dma,
      .ledger, .nvl, .bankA, .bankB, .fence]
  | .startStepTimeout _ | .jtagInstruction _ | .keyProgram _ _ | .keyRevoke _ =>
    [.pins, .regs]
  | .corePwrgdFall | .sysclkLoss | .hkRound _ _ | .aonComparatorRead _ | .thermalShutdown _ _ =>
    Part.all.filter fun x => !([.leaseCmd, .leaseResult, .evEnable, .smbusAddr] : List Part).contains x
  | .ref10mLoss =>
    [.pins, .ret, .regs, .evPending, .jobs, .path, .ledger, .shot, .pln]
  | .ref10mRestored | .xtal32Start _ | .sysclkRestored =>
    [.pins]
  | .operatingSecondTick =>
    [.ret, .cal]
  | .leaseWatchdogExpiry | .revokeLease =>
    [.ret, .regs, .evPending, .ledger]
  | .servicePodPresent | .servicePodRemoved =>
    [.pins, .ret, .regs, .gates, .retrying, .evPending, .evEnable, .usb, .dma, .ledger, .nvl]
  | .islandResetDone _ =>
    [.ret, .regs, .gates, .gateCmd, .evPending, .jobs, .path, .link, .head, .cal, .ledger]
  | .gateDrainDone _ | .gateDrainLimit _ =>
    Part.all.filter fun x => !([.pins, .leaseCmd, .leaseResult, .evEnable, .smbusAddr, .smbusStatus, .fence] :
      List Part).contains x
  | .requesterTimeout _ _ =>
    [.ret, .regs, .gates, .evPending, .jobs, .path, .cal, .dma, .ledger, .shot, .pln]
  | .hostReadExpiry _ =>
    [.regs, .retrying, .evPending, .smbusStatus]
  | .pcieFunctionReset _ =>
    Part.all.filter fun x => !([.pins, .gateCmd, .leaseCmd, .leaseResult, .evEnable, .smbusAddr, .smbusStatus,
      .fence] : List Part).contains x
  | .takeDescriptor =>
    [.regs, .evPending, .ctx, .jobs]
  | .admissionStart =>
    [.jobs]
  | .admissionEnd =>
    [.ret, .regs, .evPending, .jobs, .path, .mem, .ledger]
  | .armFurrow =>
    [.ret, .regs, .evPending, .ctx, .jobs, .path, .link, .cal, .mem, .ledger, .shot, .pln]
  | .preRunStart =>
    [.regs, .path]
  | .furrowComplete _ | .shotTrigger | .resumeFurrow =>
    [.pins, .ret, .regs, .evPending, .ctx, .jobs, .path, .link, .head, .cal, .mem, .ledger, .shot, .pln, .fence]
  | .tilthTileDecode _ | .madderMultRow _ =>
    [.ret, .regs, .evPending, .jobs, .path, .mem, .ledger, .shot, .pln]
  | .harrowSegmentDone _ _ =>
    [.ret, .regs, .evPending, .ctx, .jobs, .path, .cal, .mem, .ledger, .shot, .pln]
  | .harrowSecondOpinionDone _ | .sowAuditorSelfTestDone _ =>
    [.ret, .regs, .evPending, .jobs, .path, .cal, .ledger, .shot, .pln]
  | .madderRowConvert _ | .tilthJobTileDone =>
    [.ret, .regs, .evPending, .path, .mem, .ledger]
  | .sowShotCompute _ _ | .sramPatrolPass _ _ _ =>
    [.ret, .regs, .evPending, .jobs, .path, .cal, .mem, .ledger, .shot, .pln]
  | .checkpointWriteDone =>
    [.ret, .regs, .evPending, .jobs, .mem, .ledger]
  | .laneFrameBoundary _ _ | .statusWord _ _ =>
    [.pins, .ret, .regs, .evPending, .jobs, .path, .link, .head, .cal, .mem, .ledger, .shot, .pln, .fence]
  | .ackShot _ _ _ | .ackFrame _ _ | .nak _ _ _ | .laneState _ _ _ | .bkLost _ | .attemptTimeout _ _ _ |
  .commandAttemptTimeout _ | .repairTraverseArm =>
    [.ret, .regs, .evPending, .jobs, .path, .link, .head, .cal, .mem, .ledger, .shot, .pln]
  | .shotReport _ _ _ _ =>
    [.ret, .regs, .evPending, .jobs, .path, .link, .cal, .mem, .ledger, .usage, .shot, .pln]
  | .fom _ _ _ | .fomTimeout _ _ =>
    [.regs, .evPending, .link, .head, .cal]
  | .memData _ _ =>
    [.pins, .ret, .regs, .evPending, .jobs, .path, .link, .head, .cal, .mem, .ledger, .headPlane, .shot, .pln,
      .fence]
  | .idleBk _ =>
    [.regs, .link]
  | .bkWordError _ =>
    [.pins, .ret, .regs, .evPending, .jobs, .path, .link, .head, .cal, .mem, .ledger, .usage, .headPlane, .shot,
      .pln, .fence]
  | .linkAccountClose =>
    [.ret, .regs, .evPending, .jobs, .link, .cal, .ledger, .usage]
  | .trainingTimeout _ =>
    [.ret, .regs, .evPending, .jobs, .link, .head, .cal, .ledger]
  | .bkAlignSlipTest _ _ =>
    [.regs, .evPending, .link, .cal]
  | .blankAllCheck =>
    [.ret, .regs, .evPending, .ledger, .fence]
  | .encSample _ =>
    [.ret, .regs, .evPending, .jobs, .path, .ledger, .now, .enc, .yawX, .yawY, .shot, .pln]
  | .encTrackingQualified _ =>
    [.regs, .enc]
  | .encAmplitudeFault _ =>
    [.ret, .regs, .evPending, .jobs, .path, .ledger, .enc, .yawX, .yawY, .shot, .pln]
  | .encYawFault _ | .pathHoldTimeout | .switchFilteredEdge _ =>
    [.ret, .regs, .evPending, .jobs, .path, .ledger, .shot, .pln]
  | .encSpeedRestart _ =>
    [.regs, .enc, .pln]
  | .encIndexEdge _ _ _ =>
    [.ret, .regs, .evPending, .jobs, .path, .ledger, .enc, .zX, .zY, .yawX, .yawY, .shot, .pln]
  | .deflectionWord =>
    [.shot]
  | .plannerMoveDone _ _ =>
    [.ret, .regs, .evPending, .jobs, .path, .link, .cal, .mem, .ledger, .shot, .pln]
  | .turnDwellEnd | .thermalStopLimit | .switchFilteredInactive _ =>
    [.regs, .evPending, .pln]
  | .writingSegmentStart =>
    [.regs, .evPending, .jobs, .pln]
  | .switchRawEdge _ _ _ =>
    [.pins, .regs, .pln]
  | .dmaDescriptorFetch _ _ _ =>
    [.ret, .regs, .evPending, .dma, .mem, .ledger]
  | .dmaBurstDone _ _ _ | .dmaAccessRetry _ _ _ =>
    [.ret, .regs, .evPending, .dma, .mem, .ledger, .bankA, .bankB]
  | .dmaTimerTick _ =>
    [.regs, .dma]
  | .smbusAddress _ _ =>
    [.smbusAddr]
  | .smbusReadTimeout =>
    [.retrying, .smbusStatus]
  | .scrubPassEnd _ | .patrolPassEnd _ | .pcCopyDone | .telemetryRecord =>
    [.ret, .regs, .evPending, .mem, .ledger]
  | .refreshReadingStale _ | .selfRefreshAuto _ | .leaseLock _ | .limitForceWrite _ | .ledgerAuthorise _ |
  .calTestDone | .authorisationExpiry | .pcieLinkUp _ _ _ =>
    [.regs]
  | .retrainBurst _ | .memInvalidateDone =>
    [.regs, .mem]
  | .freqChangeDone | .retrainBurstDone _ =>
    [.regs, .gates, .mem]
  | .fenceNop _ _ _ | .fenceRead _ _ _ | .fenceWrite _ _ _ | .fenceBadFrame _ _ =>
    [.pins, .ret, .regs, .gates, .retrying, .evPending, .evEnable, .usb, .jobs, .path, .link, .head, .cal, .dma,
      .mem, .ledger, .nvl, .shot, .pln, .fence]
  | .fenceWatchdogExpiry | .fenceFallow _ | .fenceTripClear _ | .doseCeilingWrite _ | .holdReqEdge | .doorOkEdge =>
    [.pins, .ret, .regs, .evPending, .jobs, .path, .ledger, .shot, .pln, .fence]
  | .thermtripRelease | .interlockRelease _ =>
    [.pins, .regs, .fence]
  | .txEnableWrite _ =>
    [.ret, .regs, .gates, .evPending, .jobs, .path, .link, .head, .cal, .mem, .ledger, .shot, .pln]
  | .serviceEnableWrite _ =>
    [.ret, .regs, .gates, .retrying, .evPending, .evEnable, .usb, .dma, .ledger, .nvl]
  | .calDueAge _ _ | .calRetryEligible _ _ =>
    [.cal]
  | .calInstanceStart =>
    [.ret, .regs, .evPending, .path, .link, .cal, .ledger]
  | .calInstanceDone _ =>
    [.ret, .regs, .evPending, .path, .cal, .ledger]
  | .calOverdue _ _ =>
    [.ret, .regs, .evPending, .cal, .ledger]
  | .ledgerHoldExpiry =>
    [.ret, .regs]
  | .ledgerCommit =>
    [.ret, .regs, .ledger, .nvl]
  | .freezeTimeout =>
    [.regs, .ledger]
  | .flashOperationDone =>
    [.ret, .regs, .evPending, .mem, .ledger, .nvl]
  | .usageClearDone =>
    [.ledger, .usage]
  | _ => Part.all

/-- Every byte of DRAM reads as before, and so does every byte of flash. -/
def SameMemory (s t : State) : Prop :=
  (∀ a, t.dramByte a = s.dramByte a) ∧ ∀ a n, t.flashBytes a n = s.flashBytes a n

/-- Every register outside a list holds what it held. -/
def SameRegsBut (l : List Nat) (s t : State) : Prop := ∀ off, off ∉ l → t.rd off = s.rd off

/-- A register whose stored fields take what is written and nothing else happens with them. -/
def plainReg (off : Nat) : Bool :=
  off != F.GLB_LEASE.off && off != 0xC4 && off != 0x90004 && off != 0x90104 && off != F.LDG_READ_ADDR.off &&
    off != F.MEM_MAP_CFG.off && off != 0x400000 && off != 0x400004 && !jobFrozen off && (stageFrozen off).isNone &&
    off != F.CAL_CTRL.off && off != F.HRW_AUDIT_CTRL.off && off != F.SOW_AUDIT_CTRL.off &&
    !(decide (0x60000 ≤ off) && decide (off < 0x70000)) && off != F.JOB_BANK_CTRL.off && decide (off < 0x1000000)

/-- A row of LW and reserved fields alone, apart from each other: a setting that the lease holder writes. -/
def RegRow.settings (row : RegRow) : Bool :=
  row.fields.all fun x => (x.acc == .lw || x.acc == .reserved) && decide (x.lo ≤ x.hi) && decide (x.hi < 32) &&
    row.fields.all fun y => x == y || decide (x.hi < y.lo) || decide (y.hi < x.lo)

/-- The count of a party's refused writes (R441). -/
def refusedCount (p : Nat) : Fld :=
  if p = 1 then F.GLB_REFUSED_COUNT_HOST_A else if p = 2 then F.GLB_REFUSED_COUNT_HOST_B
  else if p = 3 then F.GLB_REFUSED_COUNT_MANAGEMENT else F.GLB_REFUSED_COUNT_SERVICE

end Sys2Proof.Machine
end

