-- ==== Sys2Proof/Certificates/Slice0/Obligations.lean ====
section
/-! DEFINITION. The statements for the provers, family by family of the opcode table. -/

open Sys2Proof Sys2Proof.Machine

/-! ### The queue -/

/-- A step takes the command at the front of the queue: it is exec of that command on the state with the queue's
rest. On an empty queue the block idles: the step answers the state as it is (log entry 22). -/
def Obligations.StepRunsFrontCommand : Prop :=
  (∀ (c : Instr) (rest : List Instr) (s : State),
    step { s with pending := c :: rest } = exec c { s with pending := rest }) ∧
  ∀ s : State, s.pending = [] → step s = .next s

/-- Every command answers a next state in every state, and leaves the commands that wait as they are. -/
def Obligations.EveryCommandAnswers : Prop :=
  ∀ (c : Instr) (s : State), Answers c s fun t => t.pending = s.pending

/-! ### What every step keeps -/

/-- DRAM and flash keep their one canonical form, and so do the registers, in every step from every state that has
it. -/
def Obligations.CanonicalFormKept : Prop :=
  ∀ s t : State, InForm s → step s = .next t → InForm t

/-- The state of reset has the canonical form, its queue is empty, and no register is listed. -/
def Obligations.ResetInForm : Prop :=
  InForm State.reset ∧ State.reset.pending = [] ∧ ∀ off, State.reset.rd off = regReset State.reset.fuses off

/-- The fuses change at KEY_PROGRAM and KEY_REVOKE alone, whatever else is commanded. The operating seconds move only
with a second's tick, a loss of VDD_AON and the start that finds the retention RAM lost: every other command leaves
GLB_OPERATING_SECONDS as it is. -/
def Obligations.LifetimeStateKept : Prop :=
  (∀ (c : Instr) (s : State), (∀ w k, c ≠ .keyProgram w k) → (∀ w, c ≠ .keyRevoke w) →
     Answers c s fun t => t.fuses = s.fuses) ∧
  (∀ (c : Instr) (s : State), c ≠ .operatingSecondTick → c ≠ .vddAonLoss → (∀ e, c ≠ .corePwrgdRise e) →
     Answers c s fun t => t.ret.seconds = s.ret.seconds)

/-- The commands of engines, of the world and of the Fence change no part of the state but those that their definition
may change (mayChange): the frame of every command that is no register access of a party. -/
def Obligations.FrameOfEveryCommand : Prop :=
  ∀ (c : Instr) (s : State), Answers c s (OnlyParts (mayChange c) s)

/-! ### Power, clocks, the start, the keys -/

/-- A loss of VDD_AON and the power-up after it: everything but the fuses, the flash and the levels at the balls is as
before a first power-up; then AON is released with BLANK_ALL_L low and THERMTRIP_L released, and GLB_BOOT_STATUS shows
the sampled SMBus straps. The status LEDs are at high impedance. -/
def Obligations.AonLossThenPowerUp : Prop :=
  ∀ (s : State) (straps : Nat), ∃ t u, exec .vddAonLoss s = .next t ∧ exec (.aonPowerUp straps) t = .next u ∧
    t.pins.vddAon = false ∧ t.regs = [] ∧ t.ret = Retention.empty ∧ t.mem = Mem.empty ∧ t.gates = [] ∧
    t.fuses = s.fuses ∧ t.nvl.flash = s.nvl.flash ∧ t.pending = s.pending ∧
    u.pins.vddAon = true ∧ u.pins.thermtripL = true ∧ u.pins.blankAllL = false ∧
    u.on F.FNC_STATUS_BLANK_ALL = true ∧ u.f F.GLB_BOOT_STATUS_SMB_A = straps % 8 ∧
    u.on F.FNC_STATUS_HOLD_REQ = !s.pins.holdReqL ∧ u.on F.FNC_STATUS_DOOR_OPEN = !s.pins.doorOk ∧
    u.fuses = s.fuses ∧ u.nvl = t.nvl ∧ u.ret.seconds = 0 ∧
    u.ledLinkL = none ∧ u.ledWriteL = none ∧ u.ledFaultL = none

/-- CORE_PWRGD_RISE without SYSCLK stalls the start at step 1 with cause SYSCLK, and without REF_10M with cause
REF_10M; no gate opens or closes. CORE_PWRGD_RISE with steps 1 to 8 ending within their limits begins step 9, in which
every bonded group whose FNC_TX_ENABLE bit is 1 trains; with no such group the start ends at step 10, READY or FACTORY,
with the device in hardware mode unless it is READY, and GLB_BOOT_TIME holds free values (log entry 83). From step 6 on
the status LEDs are driven. A start that has reached an earlier step shows the next one in progress. The end of the last
group's training ends a start in step 9. START_STEP_TIMEOUT at the step in progress stalls the start there: STATE, STEP
and CAUSE say so, LED_FAULT_L goes low once the LEDs are driven, what is open stays open, and no register outside
GLB_BOOT_STATUS and FNC_STATUS changes. -/
def Obligations.StartOutcomes : Prop :=
  (∀ (env : StartEnv) (s : State), s.pins.vddAon = true → s.pins.corePwrgd = false →
     s.on F.FNC_STATUS_THERMTRIP = false → (s.pins.sysclk = false ∨ s.pins.ref10m = false) →
     Answers (.corePwrgdRise env) s fun t =>
       t.f F.GLB_BOOT_STATUS_STATE = 4 ∧ t.f F.GLB_BOOT_STATUS_STEP = 1 ∧
       t.f F.GLB_BOOT_STATUS_CAUSE = (if s.pins.sysclk then 2 else 1) ∧ ∀ i, t.islandOpen i = s.islandOpen i) ∧
  (∀ (env : StartEnv) (s : State), s.pins.vddAon = true → s.pins.corePwrgd = false →
     s.on F.FNC_STATUS_THERMTRIP = false → s.pins.sysclk = true → s.pins.ref10m = true →
     (8 ≤ env.reached → CoreOff s → Answers (.corePwrgdRise env) s fun t =>
       t.ledLinkL = some (!t.groups.all fun g => !t.txEnabled g || t.groupState g == 2 || t.groupState g == 3) ∧
       if t.groups.any t.txEnabled then
         t.f F.GLB_BOOT_STATUS_STATE = 1 ∧ t.f F.GLB_BOOT_STATUS_STEP = 9 ∧
           ∀ g ∈ t.groups, t.groupState g = if t.txEnabled g then 1 else 0
       else
         (t.f F.GLB_BOOT_STATUS_STATE = 2 ∨ t.f F.GLB_BOOT_STATUS_STATE = 3) ∧ t.f F.GLB_BOOT_STATUS_STEP = 10 ∧
           (t.f F.GLB_BOOT_STATUS_STATE = 3 → t.on F.FNC_STATUS_HW_MODE = true) ∧
           ∃ k, t.rd F.GLB_BOOT_TIME.off = (Config.bootTime k).toNat) ∧
     (env.reached < 8 → Answers (.corePwrgdRise env) s fun t =>
       t.f F.GLB_BOOT_STATUS_STATE = 1 ∧ t.f F.GLB_BOOT_STATUS_STEP = max 1 env.reached + 1)) ∧
  (∀ (g : Nat) (s : State), g < s.cls.groups → s.f F.GLB_BOOT_STATUS_STATE = 1 → s.f F.GLB_BOOT_STATUS_STEP = 9 →
     s.groupState g = 1 → (∀ h ∈ s.groups, h ≠ g → s.groupState h ≠ 1) → (s.grp g).phase ≠ 0 → (s.grp g).tries ≠ 0 →
     Answers (.trainingTimeout g) s fun t => t.f F.GLB_BOOT_STATUS_STEP = 10 ∧ t.groupState g = 5 ∧
       t.f F.GLB_BOOT_STATUS_STATE = (if s.f F.NVL_STATUS_ACTIVE = 2 then 3 else 2)) ∧
  (∀ (step : Nat) (s : State), 1 ≤ step → step ≤ 10 → s.f F.GLB_BOOT_STATUS_STATE = 1 →
     s.f F.GLB_BOOT_STATUS_STEP = step → Answers (.startStepTimeout step) s fun t =>
       t.f F.GLB_BOOT_STATUS_STATE = 4 ∧ t.f F.GLB_BOOT_STATUS_STEP = step ∧
       t.f F.GLB_BOOT_STATUS_CAUSE = nth [0, 3, 3, 3, 3, 3, 4, 5, 6, 7, 8] step ∧ t.gates = s.gates ∧
       t.ledFaultL = (if s.pins.leds then some false else none) ∧
       t.pins.loading = false ∧ t.pins.startStalled = true ∧
       SameRegsBut [F.GLB_BOOT_STATUS.off, F.FNC_STATUS.off] s t ∧ t.mem = s.mem ∧ t.nvl = s.nvl)

/-- A fall of CORE_PWRGD, and a loss of SYSCLK while it is up: every gate closes, DRAM content, the furrow queue and
every island's engines are lost, the flash, the fuses and the operating seconds stand, and no start is in progress. Of
upsets met in SRAM those of AON stand alone. The loss of SYSCLK acts as the fall, and a start after it stalls at step
1 with cause SYSCLK until SYSCLK is present. -/
def Obligations.CoreDownLosesAllButAon : Prop :=
  (∀ s : State, s.pins.corePwrgd = true → ∀ c ∈ [Instr.corePwrgdFall, Instr.sysclkLoss],
    Answers c s fun t =>
      CoreOff t ∧ t.mem = { Mem.empty with sramErrs := s.mem.sramErrs.filter fun e => e.1 >>> 32 == 0 } ∧
      t.jobs = Jobs.empty ∧ t.link = [] ∧ t.dma = [] ∧ t.pins.corePwrgd = false ∧
      t.nvl.flash = s.nvl.flash ∧ t.fuses = s.fuses ∧ t.ret.seconds = s.ret.seconds ∧ t.ret.cycles = s.ret.cycles ∧
      t.f F.GLB_BOOT_STATUS_STATE = 0 ∧ t.f F.GLB_BOOT_STATUS_STEP = 0 ∧ t.on F.FNC_STATUS_SEALED_LOADED = false ∧
      (c = .sysclkLoss → t.pins.sysclk = false)) ∧
  ∀ (env : StartEnv) (s : State), s.pins.corePwrgd = true → s.pins.vddAon = true → s.on F.FNC_STATUS_THERMTRIP = false →
    Answers .sysclkLoss s fun t =>
      exec .corePwrgdFall { s with pins := { s.pins with sysclk := false } } = .next t ∧
      Answers (.corePwrgdRise env) t fun u => u.f F.GLB_BOOT_STATUS_STATE = 4 ∧ u.f F.GLB_BOOT_STATUS_STEP = 1 ∧
        u.f F.GLB_BOOT_STATUS_CAUSE = 1 ∧
        Answers .sysclkRestored u fun w => w.pins.sysclk = true ∧ w.gates = u.gates

/-- The commands of the clocks and the TAP, each with all it changes: a clock's presence, and for the TAP the mode
that FNC_STATUS shows. REF_10M lost while a furrow is being run and a trigger is committed makes REF_LOST due at the
next shot boundary. A second's tick while VDD_AON is up adds one to GLB_OPERATING_SECONDS, which saturates; power
cycles, DRAM and flash stand. -/
def Obligations.ClockAndTapCommands : Prop :=
  (∀ s : State,
     exec .sysclkRestored s = .next { s.begin with pins := { s.pins with sysclk := true } } ∧
     exec .ref10mRestored s = .next { s.begin with pins := { s.pins with ref10m := true } } ∧
     (∀ running, exec (.xtal32Start running) s = .next { s.begin with pins := { s.pins with xtal32 := running } }) ∧
     (s.jobs.run = none → exec .ref10mLoss s = .next { s.begin with pins := { s.pins with ref10m := false } }) ∧
     (∀ r, s.jobs.run = some r → r.phase ≠ .held → s.shot.committed.isSome = true → Answers .ref10mLoss s fun t =>
       t.pins.ref10m = false ∧ t.regs = s.regs ∧
       ∃ r', t.jobs.run = some r' ∧ r'.dueCauses = r.dueCauses ||| 2 ^ 12 ∧ r'.sf = r.sf) ∧
     ∀ quiet, Answers (.jtagInstruction quiet) s fun t =>
       t.pins = { s.pins with jtagBusy := !quiet } ∧ SameRegsBut [F.FNC_STATUS.off] s t ∧
       t.on F.FNC_STATUS_HW_MODE = (s.f F.GLB_BOOT_STATUS_STATE != 2 || !quiet)) ∧
  (∀ s : State, s.pins.vddAon = true → Answers .operatingSecondTick s fun t =>
     t.ret.seconds = min (2 ^ 32 - 1) (s.ret.seconds + 1) ∧ t.ret.cycles = s.ret.cycles ∧ t.mem = s.mem ∧ t.nvl = s.nvl)

/-- A blank key is programmed and a programmed key revoked, and NVL_KEY_STATUS shows it while HK is open; the other key
and a key in any other state stand, so a revoked key stays revoked. -/
def Obligations.KeyLifecycle : Prop :=
  ∀ (s : State) (key : List Byte),
    (Answers (.keyProgram 0 key) s fun t => t.fuses.key1 = s.fuses.key1 ∧ t.fuses.key1State = s.fuses.key1State ∧
      (s.fuses.key0State = 0 → t.fuses.key0 = sliceBytes key 0 32 ∧ t.fuses.key0State = 1 ∧
        (s.islandOpen 1 = true → t.f F.NVL_KEY_STATUS_K0_STATE = 1)) ∧
      (s.fuses.key0State ≠ 0 → t.fuses = s.fuses)) ∧
    (Answers (.keyProgram 1 key) s fun t => t.fuses.key0 = s.fuses.key0 ∧ t.fuses.key0State = s.fuses.key0State ∧
      (s.fuses.key1State = 0 → t.fuses.key1 = sliceBytes key 0 32 ∧ t.fuses.key1State = 1 ∧
        (s.islandOpen 1 = true → t.f F.NVL_KEY_STATUS_K1_STATE = 1)) ∧
      (s.fuses.key1State ≠ 0 → t.fuses = s.fuses)) ∧
    (Answers (.keyRevoke 0) s fun t => t.fuses.key1State = s.fuses.key1State ∧ t.fuses.key0 = s.fuses.key0 ∧
      t.fuses.key0State = (if s.fuses.key0State = 1 then 2 else s.fuses.key0State) ∧
      (s.fuses.key0State = 1 → s.islandOpen 1 = true → t.f F.NVL_KEY_STATUS_K0_STATE = 2)) ∧
    (Answers (.keyRevoke 1) s fun t => t.fuses.key0State = s.fuses.key0State ∧ t.fuses.key1 = s.fuses.key1 ∧
      t.fuses.key1State = (if s.fuses.key1State = 1 then 2 else s.fuses.key1State) ∧
      (s.fuses.key1State = 1 → s.islandOpen 1 = true → t.f F.NVL_KEY_STATUS_K1_STATE = 2))

/-- PCIE_LINK_UP shows the link of a port whose island is open in its HST_x_LINK, and nothing else. A reset of a PCI
Express function resets its port's island alone, open or not: every gate stands as open or closed as it was, the lease
of the port's host ends, and its context is gone. The function of both ports has the device number, the class code and
the BARs of the manual, and answers configuration requests exactly while its island is open. -/
def Obligations.PcieLinkAndReset : Prop :=
  (∀ (s : State) (party width speed : Nat), (party = 1 ∨ party = 2) → s.islandOpen (party + 1) = true →
     Answers (.pcieLinkUp party width speed) s fun t =>
       t.rd (hstBase party) = 2 ^ 31 + 16 * (width % 16) + speed % 16 ∧ SameRegsBut [hstBase party] s t ∧
       t.gates = s.gates ∧ t.mem = s.mem) ∧
  ∀ (p : Nat) (s : State), (p = 1 ∨ p = 2) → (alGet s.gates (p + 1)).isSome = true →
     Answers (.pcieFunctionReset p) s fun t =>
     (∀ i, t.islandOpen i = s.islandOpen i) ∧ t.pins = s.pins ∧ t.ctx = alErase s.ctx p ∧
     t.mem = { s.mem with sramErrs := s.mem.sramErrs.filter fun e => e.1 >>> 32 != p + 1 } ∧
     (s.holder = p → t.holder = 0) ∧ (s.holder ≠ p → t.holder = s.holder) ∧
     t.jobs = s.begin.jobs ∧ t.bankA = s.bankA ∧ t.bankB = s.bankB ∧ t.pciAnswers p = s.islandOpen (p + 1) ∧
     t.pciFunction = ⟨0x120000, 0x4A04, s.rd F.GLB_VARIANT.off % 2 ^ 16, 67108864, 65536, 64, 512, 4096, 768⟩

/-! ### Register accesses, the lease, the pod -/

/-- REGISTER_WRITE by the lease holder to a register of settings stores every LW field as written, and changes no other
register and no other part of the state. -/
def Obligations.RegisterWriteStores : Prop :=
  ∀ (p off : Nat) (row : RegRow) (v : Word) (s : State), Commands p off s → regRow off = some row →
    row.settings = true → plainReg off = true → notOwner p off s = false →
    Answers (.registerWrite p false off v) s fun t =>
      (∀ x ∈ row.fields, x.acc = .lw → bits (t.rd off) x.hi x.lo = bits v.toNat x.hi x.lo) ∧
      SameRegsBut [off] s t ∧ OnlyParts [.regs] s t

/-- REGISTER_WRITE of a party that does not hold the lease to a register of settings changes none of them: where an LW
field is written with another value it is counted for the party, and GLB_REFUSED_LAST names the party, the offset and
the reason: 2, the lease, or 5 for the management party. -/
def Obligations.RegisterWriteRefused : Prop :=
  ∀ (p off : Nat) (row : RegRow) (x : RegField) (v : Word) (s : State), Reaches p off s → s.holder ≠ p →
    regRow off = some row → row.settings = true → plainReg off = true → x ∈ row.fields → x.acc = .lw →
    mgmtOpen off = false → bits v.toNat x.hi x.lo ≠ bits (s.peek p off) x.hi x.lo →
    Answers (.registerWrite p false off v) s fun t =>
      let c := refusedCount p
      t.f c = satN (c.hi + 1 - c.lo) (s.f c + 1) ∧
      t.rd F.GLB_REFUSED_LAST.off = p * 2 ^ 29 + (if p = 3 then 5 else 2) * 2 ^ 26 + off / 4 % 2 ^ 24 ∧
      SameRegsBut [c.off, F.GLB_REFUSED_LAST.off] s t ∧ OnlyParts [.regs] s t

/-- READ_CLEAR answers the register's value, and its RC fields then hold what they hold with nothing counted; no other
register changes. OPERATING_SECONDS_READ answers GLB_OPERATING_SECONDS and latches the sub-second. A register of an
island that is not bonded reads 0 and nothing changes. The reply to the management party brings the status of its last
write, which then is 0. -/
def Obligations.ReadsAnswer : Prop :=
  ∀ (p : Nat) (s : State), let st := if p = 3 then s.smbusStatus else 0
    let told := fun (t : State) => t.smbusStatus = if p = 3 then 0 else s.smbusStatus
    (∀ (off : Nat) (row : RegRow), Reaches p off s → regRow off = some row → off < 0x1000000 →
      (∀ x ∈ row.fields, x.lo ≤ x.hi ∧ x.hi < 32) →
      Answers (.readClear p off) s fun t => t.out = [.reply p st [s.begin.peek p off]] ∧ told t ∧
        (∀ x ∈ row.fields, x.acc = .rc → bits (t.rd off) x.hi x.lo = bits (regReset s.fuses off) x.hi x.lo) ∧
        SameRegsBut [off] s t ∧ AccessOnly p [.regs, .ret, .ledger, .smbusStatus] s t) ∧
    (∀ off, s.reaches p = true → islandFused s.cls (islandOf off) = true → Answers (.readClear p off) s fun t =>
      t.out = [.reply p st [0]] ∧ told t ∧ OnlyParts [.smbusStatus] s t) ∧
    (Reaches p 0x10 s → Answers (.operatingSecondsRead p) s fun t =>
      t.out = [.reply p st [s.ret.seconds]] ∧ told t ∧ t.ret = { s.begin.ret with latchedSub := s.begin.ret.sub } ∧
      OnlyParts [.ret, .smbusStatus] s t)

/-- The lease of parties 1, 2 and 4: ACQUIRE grants a free lease and answers BUSY for one held by another party,
NO_EFFECT to its holder and NOT_PERMITTED while LEASE_LOCK is 1; RELEASE and KEEPALIVE are DONE for the holder, and
RELEASE ends the lease; every other party gets NO_EFFECT and changes no holder. An ACQUIRE of the management party is
refused with NOT_PERMITTED. REVOKE_LEASE of the Fence ends any lease, and an ACQUIRE after it is granted unless
LEASE_LOCK is 1. The lease also ends when its watchdog expires, unless LEASE_TIMEOUT_MS is 0, which disables it. -/
def Obligations.LeaseCommands : Prop :=
  (∀ (p : Nat) (s : State), p = 1 ∨ p = 2 ∨ p = 4 → Reaches p F.GLB_LEASE.off s →
    let parts : List Part := [.ret, .regs, .leaseCmd, .leaseResult, .evPending, .ledger]
    (Answers (.leaseAcquire p) s fun t => OnlyParts parts s t ∧ alGet t.leaseResult p = some
        (if s.on F.FNC_CTRL_LEASE_LOCK then 3 else if s.holder = p then 4 else if s.holder ≠ 0 then 2 else 1) ∧
      t.holder = (if s.on F.FNC_CTRL_LEASE_LOCK = false ∧ s.holder = 0 then p else s.holder)) ∧
    (Answers (.leaseRelease p) s fun t => OnlyParts parts s t ∧
      alGet t.leaseResult p = some (if s.holder = p then 1 else 4) ∧
      t.holder = (if s.holder = p then 0 else s.holder)) ∧
    (Answers (.leaseKeepalive p) s fun t => OnlyParts parts s t ∧
      alGet t.leaseResult p = some (if s.holder = p then 1 else 4) ∧ t.holder = s.holder)) ∧
  (∀ s : State, Reaches 3 F.GLB_LEASE.off s → Answers (.leaseAcquire 3) s fun t =>
    alGet t.leaseResult 3 = some 3 ∧ t.holder = s.holder) ∧
  (∀ (p : Nat) (s : State), p = 1 ∨ p = 2 ∨ p = 4 → s.pins.vddAon = true → s.pins.loading = false → s.holder ≠ 0 →
    Answers .revokeLease s fun t => t.holder = 0 ∧ t.on F.FNC_CTRL_LEASE_LOCK = s.on F.FNC_CTRL_LEASE_LOCK ∧
      (Reaches p F.GLB_LEASE.off t → Answers (.leaseAcquire p) t fun u =>
        u.holder = if s.on F.FNC_CTRL_LEASE_LOCK then 0 else p)) ∧
  ∀ s : State, Answers .leaseWatchdogExpiry s fun t =>
    t.holder = (if s.f F.GLB_LEASE_LEASE_TIMEOUT_MS = 0 then s.holder else 0) ∧
    OnlyParts [.ret, .regs, .evPending, .ledger] s t

/-- SERVICE_PRESENT follows the pod and SERVICE_ENABLE; where it falls, the service party's lease ends, and none of its
requests waits or awaits a reply. -/
def Obligations.ServicePod : Prop :=
  ∀ s : State, s.pins.vddAon = true →
    (Answers .servicePodPresent s fun t => t.pins.svcSense = true ∧
      t.on F.FNC_STATUS_SERVICE_PRESENT = s.on F.FNC_INTERLOCK_CFG_SERVICE_ENABLE) ∧
    (Answers .servicePodRemoved s fun t => t.pins.svcSense = false ∧ t.on F.FNC_STATUS_SERVICE_PRESENT = false ∧
      (s.on F.FNC_STATUS_SERVICE_PRESENT = true → (s.holder = 4 → t.holder = 0) ∧ t.usb = [] ∧
        (∀ e ∈ t.retrying, e.2.requester ≠ 4) ∧ ∀ i, ∀ e ∈ (t.gate i).accepted, e.1.requester ≠ 4) ∧
      (s.holder ≠ 4 → t.holder = s.holder))

/-! ### Gates -/

/-- An accepted GATE_CLOSE, GATE_RESET or GATE_LOAD of an island whose gate is open starts closing it: GLB_GATE_STATUS
shows the island and BUSY. GATE_OPEN of an island out of service opens its gate with RESULT 0. -/
def Obligations.GateCommandsAccepted : Prop :=
  ∀ (p i : Nat) (s : State), Commands p F.GLB_GATE_CTRL.off s → s.gateCmd = none → s.f F.GLB_BOOT_STATUS_STATE ≠ 1 →
    i < 128 → islandAssigned i = true → islandFused s.cls i = false →
    (∀ c ∈ [(1, Instr.gateClose p i), (3, .gateReset p i), (4, .gateLoad p i)], s.gateAccepts i c.1 = true →
      (s.gate i).st = .opened → Answers c.2 s fun t =>
        t.gateCmd = some ⟨c.1, i, false⟩ ∧ t.gates = alSet s.gates i { s.gate i with st := .closing, outOfService := false } ∧
        t.on F.GLB_GATE_STATUS_BUSY = true ∧ t.f F.GLB_GATE_STATUS_ISLAND = i ∧
        SameRegsBut [F.GLB_GATE_CTRL.off, F.GLB_GATE_STATUS.off] s t ∧ OnlyParts [.regs, .gates, .gateCmd] s t) ∧
    (s.gateAccepts i 2 = true → (s.gate i).st = .closed → (s.gate i).outOfService = true →
      Answers (.gateOpen p i) s fun t => (t.gate i).st = .opened ∧ (t.gate i).outOfService = false ∧
        t.f F.GLB_GATE_STATUS_RESULT = 0 ∧ t.f F.GLB_GATE_STATUS_ISLAND = i ∧ t.gateCmd = none)

/-- A closing gate closes when its last reply is in, and at the drain limit in any case; CLOSE then leaves the island
out of service, with RESULT 0, or 4 where replies were outstanding, which OUTSTANDING counts and whose requests wait
to be presented again. The island held in reset by RESET or LOAD is released: where the load fails its gate stays
closed, out of service, with RESULT 5; else its gate opens with RESULT 0, or 4 after a forced close. -/
def Obligations.GateClosesAndOpens : Prop :=
  (∀ (i : Nat) (s : State), s.gateCmd = some ⟨1, i, false⟩ → (s.gate i).st = .closing →
     ((s.gate i).accepted = [] → s.issued i = 0 → Answers (.gateDrainDone i) s fun t =>
       (t.gate i).st = .closed ∧ (t.gate i).outOfService = true ∧ t.gateCmd = none ∧
       t.f F.GLB_GATE_STATUS_RESULT = 0 ∧ t.retrying = s.retrying) ∧
     (Answers (.gateDrainLimit i) s fun t =>
       let n := (s.gate i).accepted.length + s.issued i
       (t.gate i).st = .closed ∧ (t.gate i).outOfService = true ∧ (t.gate i).accepted = [] ∧ t.gateCmd = none ∧
       t.f F.GLB_GATE_STATUS_RESULT = (if 0 < n then 4 else 0) ∧ t.f F.GLB_GATE_STATUS_OUTSTANDING = min 255 n ∧
       t.retrying = (s.gate i).accepted.map (fun e => (i, e.1)) ++ s.retrying)) ∧
  (∀ (c : GateCmd) (s : State), s.gateCmd = some c → c.cmd ≠ 1 → (s.gate c.island).st = .closed →
     (reloadFail c.island (c.cmd == 4) s.begin ≠ none → Answers (.islandResetDone true) s fun t =>
       (t.gate c.island).st = .closed ∧ (t.gate c.island).outOfService = true ∧ t.gateCmd = none ∧
       t.f F.GLB_GATE_STATUS_RESULT = 5) ∧
     (reloadFail c.island (c.cmd == 4) s.begin = none → Answers (.islandResetDone true) s fun t =>
       (t.gate c.island).st = .opened ∧ (t.gate c.island).outOfService = false ∧ t.gateCmd = none ∧
       t.f F.GLB_GATE_STATUS_RESULT = (if c.forced then 4 else 0)))

/-- A request that its requester can send, presented to an island with a gate: an open gate takes it to await its
reply, a non-idempotent one with the number after the requester's last, but answers a reissue of one it has answered
with the reply it kept; a closed or closing gate answers RETRY and the request waits; an island out of service answers
3 with ones, and a host's expiry flag sets. A requester that cannot send changes nothing, nor does a request
that no requester sends so: to another island, tagged otherwise or with another number. An accepted read is answered
with the register's value and leaves the gate; where the requester's own gate has closed its reply is discarded and
counted there. -/
def Obligations.GateRequests : Prop :=
  (∀ (q off : Nat) (write : Bool) (v : Word) (s : State), let i := islandOf off
    let g := s.gate i
    (∀ j n tag, s.canRequest q = false ∨ s.numberedSo j q n tag write off = false →
      exec (.gateRequest j q n tag write off v) s = .next s.begin) ∧
    (s.canRequest q = true → s.gated i = true → (s.retrying.any fun e => e.2.requester == q && e.1 == i) = false →
      (∀ n, nonIdem off write = false →
        (g.outOfService = false → g.st = .opened → Answers (.gateRequest i q n false write off v) s fun t =>
          (t.gate i).accepted = g.accepted ++ [(⟨q, 0, false, write, off, v, false⟩, 0)] ∧ t.out = [] ∧
          OnlyParts [.gates] s t) ∧
        (g.outOfService = false → g.st ≠ .opened → (write = true → (q = 1 ∨ q = 2) →
          (s.retrying.filter fun e => e.2.requester == q && e.2.write).length < 64) →
          Answers (.gateRequest i q n false write off v) s fun t => t.out = [.reply q 2 [0]] ∧ OnlyParts [.retrying] s t ∧
            t.retrying = s.retrying ++ [(i, ⟨q, 0, false, write, off, v, false⟩)]) ∧
        (g.outOfService = true →
          (q = 3 → Answers (.gateRequest i q n false write off v) s fun t =>
            t.out = [.reply q 3 [0xFFFFFFFF]] ∧ OnlyParts [] s t) ∧
          ((q = 1 ∨ q = 2) → Answers (.gateRequest i q n false write off v) s fun t =>
            .reply q 3 [0xFFFFFFFF] ∈ t.out ∧ OnlyParts [.regs, .evPending] s t ∧
            t.on (if q = 1 then F.GLB_GATE_STATUS_HOST_A_EXPIRED else F.GLB_GATE_STATUS_HOST_B_EXPIRED) = true))) ∧
      (nonIdem off write = true → g.outOfService = false → g.st = .opened →
        (g.accepted.any fun e => e.1.requester == q && e.1.nonIdem) = false →
        ((∀ k, alGet g.kept q = some k → k.seq ≠ g.nextNum q) →
          Answers (.gateRequest i q (g.nextNum q) true write off v) s fun t => t.out = [] ∧ OnlyParts [.gates] s t ∧
            (t.gate i).accepted = g.accepted ++ [(⟨q, g.nextNum q, true, write, off, v, false⟩, 0)] ∧
            alGet (t.gate i).nums q = some (g.nextNum q)) ∧
        (∀ k, alGet g.kept q = some k → alGet g.nums q = some k.seq →
          Answers (.gateRequest i q k.seq true write off v) s fun t => t.out = [.reply q k.status [k.data]] ∧
            (t.gate i).accepted = g.accepted ∧ OnlyParts [.gates] s t)))) ∧
  ∀ (i k : Nat) (r : Req) (rest : List (Req × Nat)) (s : State), (s.gate i).accepted = (r, k) :: rest →
    r.write = false → r.nonIdem = false → r.direct = false → engineIsland r.requester ≠ i →
    (engineIsland r.requester = 0 ∨ (s.gate (engineIsland r.requester)).st ≠ .closed →
      Answers (.gateReply i r.requester) s fun t => (t.gate i).accepted = rest ∧
        t.out = [.reply r.requester 0
          [(s.begin.setGate i { s.gate i with accepted := rest }).peek r.requester r.off]]) ∧
    (engineIsland r.requester ≠ 0 → (s.gate (engineIsland r.requester)).st = .closed →
      Answers (.gateReply i r.requester) s fun t => (t.gate i).accepted = rest ∧ t.out = [] ∧
        (t.gate (engineIsland r.requester)).discarded = (s.gate (engineIsland r.requester)).discarded + 1)

/-- A waiting request presented again to an open gate is taken; one accepted and unanswered is reissued up to three
times and then given up; a host's read that has waited 32 µs completes with ones and sets its port's expiry flag; a
read of the SMBus that waited 1 ms ends with RETRY. -/
def Obligations.WaitingRequests : Prop :=
  ∀ (i : Nat) (r : Req) (s : State),
    (∀ rest, s.retrying = (i, r) :: rest → r.direct = false → r.nonIdem = false → (s.gate i).st = .opened →
      (s.gate i).outOfService = false → (r.requester = 4 → s.usb = []) →
      Answers (.retryRepresent r.requester i) s fun t =>
        t.retrying = rest ∧ (t.gate i).accepted = (s.gate i).accepted ++ [(r, 0)] ∧ OnlyParts [.gates, .retrying] s t) ∧
    (∀ n, (s.gate i).accepted = [(r, n)] → n < 3 → Answers (.requesterTimeout i r.requester) s fun t =>
      (t.gate i).accepted = [(r, n + 1)] ∧ OnlyParts [.gates] s t) ∧
    (∀ n, (s.gate i).accepted = [(r, n)] → 3 ≤ n → r.requester < 8 →
      Answers (.requesterTimeout i r.requester) s fun t => (t.gate i).accepted = []) ∧
    (∀ rest, s.retrying = (i, r) :: rest → r.write = false → (r.requester = 1 ∨ r.requester = 2) →
      Answers (.hostReadExpiry r.requester) s fun t => t.retrying = rest ∧
        Out.reply r.requester 0 [0xFFFFFFFF] ∈ t.out ∧ OnlyParts [.regs, .retrying, .evPending] s t ∧
        t.on (if r.requester = 1 then F.GLB_GATE_STATUS_HOST_A_EXPIRED else F.GLB_GATE_STATUS_HOST_B_EXPIRED) = true) ∧
    (∀ rest, s.retrying = (i, r) :: rest → r.requester = 3 → r.direct = true → Answers .smbusReadTimeout s fun t =>
      t.retrying = rest ∧ t.out = [.reply 3 2 [0xFFFFFFFF]] ∧ OnlyParts [.retrying] s t)

/-! ### SMBus and USB -/

/-- SMBus with a good PEC: ADDRESS sets the address; READ answers the register there and WRITE writes it for the
management party, each with the address four further; a write behind a closed gate is not applied, and its status is
RETRY, or OUT_OF_SERVICE. -/
def Obligations.SmbusAccesses : Prop :=
  ∀ (v : Word) (a : Nat) (s : State), s.pins.vddAon = true →
    let off := s.smbusAddr
    let s1 : State := { s.begin with smbusAddr := (off + 4) % 2 ^ 32 }
    (Answers (.smbusAddress a true) s fun t => t.smbusAddr = a % 2 ^ 32 ∧ OnlyParts [.smbusAddr] s t) ∧
    (Reaches 3 off s → Answers (.smbusRead true) s fun t =>
      t.out = [.reply 3 s.smbusStatus [s1.peek 3 off]] ∧ t.smbusAddr = (off + 4) % 2 ^ 32 ∧ t.smbusStatus = 0) ∧
    (Reaches 3 off s → exec (.smbusWrite v true) s =
      .next { s1.written 3 off (regWrite 3 off v.toNat) with
        smbusStatus := bitOf (writeRefused 3 off v.toNat s1) }) ∧
    (s.reachable off = false → Answers (.smbusWrite v true) s fun t =>
      t.smbusStatus = (if (s.gate (islandOf off)).outOfService then 3 else 2) ∧ t.regs = s.regs ∧
      t.smbusAddr = (off + 4) % 2 ^ 32 ∧ OnlyParts [.smbusAddr, .smbusStatus] s t)

/-- USB while the pod is present, its island open and no earlier request unanswered: REFUSED without SERVICE_ENABLE,
MALFORMED where a field is out of range; a read of one register answers its bytes, and waits while that register's
gate is closed; a write of DRAM that meets no locked stream is done and answered, and one of a settings register by
the lease holder is stored. Without the pod, or with its island closed, nothing happens. -/
def Obligations.UsbRequests : Prop :=
  (∀ (sp q n a : Nat) (b : List Byte) (s : State), s.pins.svcSense = false ∨ s.islandOpen 4 = false →
    exec (.usbRead sp q n a) s = .next s.begin ∧ exec (.usbWrite sp q n a b) s = .next s.begin) ∧
  ∀ (sp q n a : Nat) (b : List Byte) (s : State), s.pins.svcSense = true → s.islandOpen 4 = true → s.usb = [] →
    (s.on F.FNC_STATUS_SERVICE_PRESENT = false →
      exec (.usbRead sp q n a) s = .next { s.begin with out := [.usb 0x81 1 (q % 65536) n a []] } ∧
      exec (.usbWrite sp q n a b) s = .next { s.begin with out := [.usb 0x82 1 (q % 65536) n a []] }) ∧
    (s.on F.FNC_STATUS_SERVICE_PRESENT = true →
      (UsbReq.bad ⟨1, sp, q, n, a, [], 0, [], 0⟩ = true →
        exec (.usbRead sp q n a) s = .next { s.begin with out := [.usb 0x81 4 (q % 65536) n a []] } ∧
        exec (.usbWrite sp q n a b) s = .next { s.begin with out := [.usb 0x82 4 (q % 65536) n a []] }) ∧
      (a % 4 = 0 → s.reachable a = true → Answers (.usbRead 0 q 4 a) s fun t =>
        t.out = [.usb 0x81 0 (q % 65536) 4 a (leBytes 4 (s.begin.peek 4 a))] ∧ t.usb = []) ∧
      (a % 4 = 0 → s.reachable a = false → (s.gate (islandOf a)).outOfService = false →
        Answers (.usbRead 0 q 4 a) s fun t => t.out = [] ∧ t.usb = [⟨1, 0, q, 4, a, [], 0, [], 0⟩] ∧
          OnlyParts [.usb] s t) ∧
      (∀ s1, n % 4 = 0 → n ≤ 65536 → a % 4 = 0 → s.begin.memWaits a n = false → s.begin.meetsLocked a n = false →
        memWrite 4 a (sliceBytes b 0 n) s.begin = (true, s1) →
        exec (.usbWrite 2 q n a b) s = .next (s1.emit (.usb 0x82 0 (q % 65536) n a []))) ∧
      (∀ row, a % 4 = 0 → Commands 4 a s → regRow a = some row → row.settings = true → plainReg a = true →
        notOwner 4 a s = false → Answers (.usbWrite 0 q 4 a b) s fun t =>
          (∀ x ∈ row.fields, x.acc = .lw → bits (t.rd a) x.hi x.lo = bits (ofLe (sliceBytes b 0 4)) x.hi x.lo) ∧
          t.out = [.usb 0x82 0 (q % 65536) 4 a []]))

/-! ### Descriptors, streams and admission -/

/-- A JOB_TAIL write through a party's window moves the tail, or sets the ring error where it would name more than 64
descriptors; nothing else changes. TAKE_DESCRIPTOR with the lease held, room in the queue and a slot for its
completion, and no job being refused: a descriptor that passes the checks joins the furrow queue, and one that fails a
check completes at once with that check's status; the ring's head moves either way. A furrow descriptor is the last
taken that the next is held against, a density-only one is not. (For a furrow descriptor no density-only one is
queued; the descriptors of its ring count as followed from then on.) -/
def Obligations.DescriptorsTaken : Prop :=
  (∀ (p v : Nat) (s : State), (p = 1 ∨ p = 2 ∨ p = 4) → s.reaches p = true →
     let c := s.ctxOf p
     let far := 64 < (v % 65536 + 65536 - c.jobHead) % 65536
     exec (.jobTailWrite p v) s = .next { s.begin with
       ctx := alSet s.ctx p (if far then { c with ringError := true } else { c with jobTail := v % 65536 }) }) ∧
  (∀ (s : State), let p := s.holder
     let c := s.ctxOf p
     let b := (List.range 128).map fun i => cellGet 0 c.jobRing (128 * (c.jobHead % 64) + i)
     let d := parseDesc p c.jobHead b
     let q := if d.density then s.jobs.queue
       else s.jobs.queue.map fun e => if e.party == p then { e with followed := true } else e
     let first := match s.jobs.last with | some l => l.job != d.job | none => true
     let n := if first && !d.density then s.jobs.jobNo + 1 else s.jobs.jobNo
     (p = 1 ∨ p = 2 ∨ p = 4) → s.islandOpen 5 = true → s.mayTake p = true → s.jobs.cancelJob = none →
     (d.density = false → (s.jobs.queue.all fun e => !e.density) = true) →
     (descStatus b d s.begin = none → Answers .takeDescriptor s fun t =>
       t.jobs.queue = q ++ [{ d with jobNo := n }] ∧ t.jobs.jobNo = n ∧ (t.ctxOf p).jobHead = (c.jobHead + 1) % 65536 ∧
       (t.ctxOf p).cplTail = c.cplTail ∧
       t.jobs.last = (if d.density then s.jobs.last else some ⟨d.job, d.pass, d.furrow, d.lastInPass, d.rows⟩) ∧
       OnlyParts [.regs, .ctx, .jobs] s t) ∧
     (∀ st, descStatus b d s.begin = some st → Answers .takeDescriptor s fun t =>
       t.jobs.queue = q ∧ (t.ctxOf p).jobHead = (c.jobHead + 1) % 65536 ∧
       (t.ctxOf p).cplTail = (c.cplTail + 1) % 65536 ∧
       (t.ctxOf p).cplRing = cellsPut 0 c.cplRing (128 * (c.cplTail % 64)) (wordsLe
         ([(1 - c.cplTail / 64 % 2) * 2 ^ 31 + st * 2 ^ 16 + c.jobHead, d.job, d.pass * 2 ^ 16 + d.furrow, d.hostTag,
           0, 0, s.ret.seconds, 0] ++ List.replicate 24 0)) ∧ t.jobs.cancelJob = some d.job ∧
       OnlyParts [.regs, .ctx, .jobs] s t))

/-- The stream-ready doorbell: a feeder's post of a queued descriptor waits for admission, and the port's report says
so; a doorbell that names none is refused with 14h. Admission begins with the oldest post. -/
def Obligations.StreamPosted : Prop :=
  ∀ (p v : Nat) (s : State),
    ((p = 1 ∨ p = 2) → s.reaches p = true → let job := (s.ctxOf p).streamJob
      (∀ d, doorbellDesc job (bits v 17 16) (bits v 15 0) s.begin = some d → d.feeder = p → d.locked = false →
        (s.jobs.posts.filter fun q => q.1 == p).length < 16 → Answers (.streamReady p v) s fun t =>
          t.jobs.posts = s.jobs.posts ++ [(p, d.party, d.ringSeq)] ∧
          t.rd (admitBase p) = 2 ^ 30 + bits v 17 16 * 2 ^ 24 + bits v 15 0 ∧
          OnlyParts [.regs, .jobs] s t) ∧
      (doorbellDesc job (bits v 17 16) (bits v 15 0) s.begin = none → Answers (.streamReady p v) s fun t =>
        t.rd (admitBase p) = 3 * 2 ^ 30 + bits v 17 16 * 2 ^ 24 + 0x14 * 2 ^ 16 + bits v 15 0 ∧
        t.rd (admitBase p + 4) = job % 2 ^ 32 ∧ OnlyParts [.regs] s t)) ∧
    (∀ q rest, s.islandOpen 5 = true → s.jobs.admitting = none → s.jobs.posts = q :: rest →
      Answers .admissionStart s fun t => t.jobs.admitting = some q ∧ t.jobs.posts = rest ∧
        (∀ e ∈ t.jobs.queue, e.party = q.2.1 → e.ringSeq = q.2.2 → e.stream = .admitting) ∧
        OnlyParts [.jobs] s t)

/-- The end of an admission whose stream's memory answers: a stream that passes is ready for the data path, its
descriptor admitted and the port's report 2; one that fails a check unlocks, and the report is 3 with the check's
code. -/
def Obligations.AdmissionEnds : Prop :=
  ∀ (port party seq : Nat) (d : Desc) (s : State), s.jobs.admitting = some (port, party, seq) → (port = 1 ∨ port = 2) →
    (s.jobs.queue.find? fun e => e.party == party && e.ringSeq == seq) = some d →
    s.begin.memWaits d.addr d.size = false →
    let s1 := { s.begin with jobs := { s.begin.jobs with admitting := none } }
    (∀ i s2, admitDesc d s1 = (.inr i, s2) → Answers .admissionEnd s fun t =>
      t.path.streams = i :: s2.path.streams ∧ t.jobs.admitting = s2.jobs.admitting ∧
      (∀ e ∈ t.jobs.queue, e.same d = true → e.stream = .admitted) ∧
      t.rd (admitBase port) = (2 * 2 ^ 30 + d.pass * 2 ^ 24 + d.furrow) % 2 ^ 32) ∧
    (∀ f s2, admitDesc d s1 = (.inl f, s2) → Answers .admissionEnd s fun t =>
      (∀ e ∈ t.jobs.queue, e.same d = true → e.stream = .none) ∧
      t.rd (admitBase port) = (3 * 2 ^ 30 + d.pass * 2 ^ 24 + f.code * 2 ^ 16 + d.furrow) % 2 ^ 32)

/-! ### Furrows -/

/-- ARM_FURROW at the queue's head, whose job's first furrow makes every map invalid: the lowest blocking condition
shows in JOB_STATUS; with none the furrow waits, or arms with its shot count, from shot 0 or from where a loss of
power left it, with the ceilings of that moment, and LED_WRITE_L goes low. -/
def Obligations.ArmFurrow : Prop :=
  ∀ (d : Desc) (s : State), s.head? = some d → s.furrowArmed = false → s.islandOpen 5 = true →
    s.f F.GLB_BOOT_STATUS_STATE ≠ 1 →
    let s0 := jobBegins d s.begin
    (∀ c, s0.blockCode d = some c → Answers .armFurrow s fun t =>
      t.f F.JOB_STATUS_STATE = 2 ∧ t.f F.JOB_STATUS_CODE = c ∧ t.jobs = s.begin.jobs ∧ t.path = s0.path ∧
      OnlyParts [.regs, .evPending, .path] s t) ∧
    (s0.blockCode d = none → s0.headWaits d = true → Answers .armFurrow s fun t =>
      t.f F.JOB_STATUS_STATE = 1 ∧ t.f F.JOB_STATUS_CODE = 0 ∧ t.jobs = s.begin.jobs ∧ t.path = s0.path ∧
      OnlyParts [.regs, .evPending, .path] s t) ∧
    (s0.blockCode d = none → s0.headWaits d = false → (∀ g ∈ s.groups, s.groupState g = 2) →
      Answers .armFurrow s fun t => t.f F.JOB_STATUS_STATE = 3 ∧ t.f F.SHT_STATUS_STATE = 1 ∧
        t.ledWriteL = (if s.pins.leds then some false else none) ∧
        ∃ r, t.jobs.run = some r ∧ r.phase = .armed ∧ r.nShot = s.nShot d ∧ r.sf = (s.powerLost? d).getD 0 ∧
          (r.mc, r.cp, r.maxQuanta) = s.ceilings ∧ r.causes = 0 ∧ r.begun = false)

/-- PRE_RUN_START for a head that may arm but for its own density map: the expansion of its stream for that map begins,
into the map that holds its rows already, or else into a free one. -/
def Obligations.PreRunStart : Prop :=
  ∀ (d : Desc) (i : StreamInfo) (k : Nat) (s : State), s.head? = some d → s.jobs.run = none → s.islandOpen 12 = true →
    let s0 := jobBegins d s.begin
    let ident := (i.job, i.pass, i.furrow)
    s0.readyToArm d = true → s0.path.preWork = none → s0.mapNeed d = 1 → s.streamOf d = some i →
    (s0.mapIndex ident).or (s0.freeMap d) = some k → Answers .preRunStart s fun t =>
      t.path.preWork = some (Work.start i true 0 []) ∧ t.path.preMap = k ∧
      (t.path.maps.getD k ⟨none, []⟩).ident = some ident ∧ OnlyParts [.regs, .path] s t

/-- ACK by the lease holder clears every cause's need of an acknowledgement while the furrow is held, and changes
nothing else of it. The cancels by the lease holder while no furrow is armed take their descriptors out of the queue:
the head, the head's job, or all. While a trigger of an armed furrow is committed, a cancel of the head waits for that
shot. -/
def Obligations.AckAndCancels : Prop :=
  ∀ (p : Nat) (h : Desc) (s : State), Commands p F.JOB_CTRL.off s → s.head? = some h →
    (∀ r, s.begin.jobs.run = some r → r.phase = .held → Answers (.jobAck p) s fun t =>
      t.jobs = { s.begin.jobs with run := some { r with unacked := 0 } } ∧ t.on F.JOB_STATUS_NEEDS_ACK = false ∧
      SameRegsBut [F.JOB_CTRL.off, F.JOB_STATUS.off] s t ∧ AccessOnly p [.regs, .jobs] s t) ∧
    (s.jobs.run = none →
      (Answers (.jobCancelHead p) s fun t => ∀ e ∈ t.jobs.queue, e ∈ s.jobs.queue ∧ e.same h = false) ∧
      (Answers (.jobCancelJob p) s fun t => ∀ e ∈ t.jobs.queue, e ∈ s.jobs.queue ∧ e.job ≠ h.job) ∧
      (Answers (.jobCancelAll p) s fun t => t.jobs.queue = [] ∧ t.f F.JOB_STATUS_STATE = 0 ∧
        t.f F.JOB_QUEUE_ENTRIES = 0)) ∧
    (∀ r, s.begin.jobs.run = some r → r.phase ≠ .held → s.shot.committed.isSome = true →
      Answers (.jobCancelHead p) s fun t =>
        t.jobs = { s.begin.jobs with run := some { r with cancelled := true } } ∧ AccessOnly p [.regs, .jobs] s t)

/-- CHECKPOINT_WRITE_DONE: the checkpoint written joins the kept ones, the checkpoint notice ends, and the resume
record names the furrow and its first unfired shot; the queue, the run and every other thing of the sequencer stand.
FURROW_COMPLETE once the furrow is over: no run is left, the furrow leaves the queue, a completion record DONE with
its flags, counts and signatures is in its party's ring, the resume record, its checkpoints and its repair list are
gone, LED_WRITE_L goes high, and JOB_STATUS shows the queue empty or its head waiting. -/
def Obligations.CheckpointAndCompletion : Prop :=
  ∀ (d : Desc) (r : Run) (s : State), s.head? = some d → s.jobs.run = some r →
    (∀ ck, s.jobs.writing = some ck → s.mem.ckptWaiting = false → Answers .checkpointWriteDone s fun t =>
      t.jobs = { s.begin.jobs with writing := none, ckpts := s.jobs.ckpts ++ [ck] } ∧ t.mem.notice = false ∧
      t.ret.resume = some ⟨d.job, d.pass, d.furrow, if r.trav then r.mainSf else r.sf, false⟩) ∧
    (∀ ok, s.begin.furrowOver = true → Answers (.furrowComplete ok) s fun t =>
      let c := s.ctxOf d.party
      let queue := s.jobs.queue.filter fun e => !e.same d
      t.jobs.run = none ∧ t.jobs.queue = queue ∧ t.ret.resume = none ∧ t.shot.committed = none ∧
      t.jobs.ckpts = [] ∧ t.jobs.writing = none ∧ t.jobs.repair = [] ∧ t.jobs.overflow = [] ∧
      (t.ctxOf d.party).cplTail = (c.cplTail + 1) % 65536 ∧
      (t.ctxOf d.party).cplRing = cellsPut 0 c.cplRing (128 * (c.cplTail % 64)) (wordsLe
        ([(1 - c.cplTail / 64 % 2) * 2 ^ 31 + d.ringSeq, d.job, d.pass * 2 ^ 16 + d.furrow, d.hostTag, r.flags,
          satN 16 r.resumes * 2 ^ 16 + satN 16 r.entries, s.ret.seconds, 0] ++
          (List.range 24).map fun g => nth (r.sig.map fun q => q.1 ^^^ 0xFFFFFFFF) g)) ∧
      t.ledWriteL = (if s.pins.leds then some true else none) ∧
      t.f F.JOB_STATUS_STATE = if queue.isEmpty then 0 else 1)

/-- RESUME of a held furrow that nothing holds any more, every place being served again: with shots left it is armed
again from its next shot, with the RESUMED flag, and with CEILING_CHANGED where a ceiling was lowered; with none left it
goes on to its end. A traverse resumes at the first unfired shot of its run. A furrow that has resumed 4,096 times is
cancelled. -/
def Obligations.Resume : Prop :=
  ∀ (d : Desc) (i : StreamInfo) (r : Run) (s : State), let s0 := refitHeld s.begin
    s.head? = some d → s0.jobs.run = some r → s0.mayResume = true → s.streamOf d = some i →
    (r.segLast < r.sf → Answers .resumeFurrow s fun t => t.f F.JOB_STATUS_STATE = (if r.trav then 6 else 4) ∧
      t.jobs.run = some { r with
        phase := if r.trav then .traverse else .writing, causes := 0, unacked := 0, dueCauses := 0
        flags := r.flags ||| if r.lowered then 0x21 else 1 }) ∧
    (r.sf ≤ r.segLast → r.trav = false → r.resumeTable.length < 4096 → Answers .resumeFurrow s fun t =>
      t.f F.JOB_STATUS_STATE = 3 ∧ ∃ r', t.jobs.run = some r' ∧ r'.phase = .armed ∧ r'.sf = r.sf ∧ r'.segFirst = r.sf ∧
        r'.causes = 0 ∧ r'.flags = r.flags ||| (if r.lowered then 0x21 else 1) ∧ r'.resumeDue = true) ∧
    (r.sf ≤ r.segLast → r.trav = true → Answers .resumeFurrow s fun t =>
      t.f F.JOB_STATUS_STATE = 6 ∧ ∃ r', t.jobs.run = some r' ∧ r'.phase = .traverse ∧ r'.sf = r.sf ∧ r'.segFirst = r.sf ∧
        r'.causes = 0 ∧ r'.flags = r.flags ||| (if r.lowered then 0x21 else 1)) ∧
    (r.sf ≤ r.segLast → r.trav = false → 4096 ≤ r.resumeTable.length → Answers .resumeFurrow s fun t =>
      t.jobs.run = none ∧ t.jobs.queue = s.jobs.queue.filter (fun e => !e.same d) ∧ t.ret.resume = none)

/-- The repair traverse arms when it is due, no group that went out of service has still to train, and nothing blocks
it: its first round is open. A blocking condition shows in JOB_STATUS. REPAIR_SKIP before the traverse drops the
entries that are left and counts them. -/
def Obligations.RepairTraverse : Prop :=
  ∀ (d : Desc) (r : Run) (s : State), s.head? = some d → s.jobs.run = some r → r.trav = false →
    (s.begin.traverseDue = true → s.islandOpen 5 = true →
      (s.groups.all fun g => !s.outBefore g && s.groupState g != 1) = true →
      (∀ c, lowestCode s.begin.blocksAgain = some c → Answers .repairTraverseArm s fun t =>
        t.f F.JOB_STATUS_STATE = 2 ∧ t.f F.JOB_STATUS_CODE = c ∧ t.f F.JOB_REPAIR_STATUS_STATE = 4 ∧
        t.jobs = s.begin.jobs) ∧
      (lowestCode s.begin.blocksAgain = none → Answers .repairTraverseArm s fun t => t.f F.JOB_STATUS_STATE = 6 ∧
        ∃ r', t.jobs.run = some r' ∧ r'.trav = true ∧ r'.roundOpen = true ∧ r'.mid = (r.phase == .held) ∧
          r'.mainSf = r.sf)) ∧
    (∀ p, Commands p F.JOB_REPAIR_CTRL.off s → r.nShot ≤ r.sf → Answers (.repairSkip p) s fun t =>
      t.jobs.repair = [] ∧ t.jobs.overflow = [] ∧
        ∃ r', t.jobs.run = some r' ∧
          r'.unrepaired = r.unrepaired + (liveEntries (s.jobs.repair ++ s.jobs.overflow)).length)

/-- SWAP by the lease holder: refused with 3 while one is pending or a table transfer runs; pending with 1 while a
furrow is armed or held; else both banks change over, the next table set is active and RESULT is 2, or RESULT is 4
where the microcode fails its check. -/
def Obligations.BankSwap : Prop :=
  ∀ (p : Nat) (ok : Bool) (s : State), Commands p F.JOB_BANK_CTRL.off s →
    ((s.jobs.swapPending = true ∨ s.tableDma = true) → Answers (.bankSwapRequest p ok) s fun t =>
      t.f F.JOB_BANK_CTRL_RESULT = 3 ∧ SameRegsBut [F.JOB_BANK_CTRL.off] s t ∧ AccessOnly p [.regs] s t) ∧
    (s.jobs.swapPending = false → s.tableDma = false → s.furrowArmed = true → Answers (.bankSwapRequest p ok) s fun t =>
      t.f F.JOB_BANK_CTRL_RESULT = 1 ∧ t.jobs.swapPending = true ∧
      t.f F.JOB_BANK_CTRL_TABLE_BANK = s.f F.JOB_BANK_CTRL_TABLE_BANK ∧ AccessOnly p [.regs, .jobs] s t) ∧
    (s.jobs.swapPending = false → s.tableDma = false → s.furrowArmed = false → Answers (.bankSwapRequest p ok) s fun t =>
      (ok = true → t.f F.JOB_BANK_CTRL_RESULT = 2 ∧
        t.f F.JOB_BANK_CTRL_TABLE_BANK = 1 - s.f F.JOB_BANK_CTRL_TABLE_BANK ∧
        t.f F.JOB_BANK_CTRL_MICROCODE_BANK = 1 - s.f F.JOB_BANK_CTRL_MICROCODE_BANK ∧
        t.rd F.JOB_TABLE_SET_ACTIVE.off = s.rd F.JOB_TABLE_SET_NEXT.off) ∧
      (ok = false → t.f F.JOB_BANK_CTRL_RESULT = 4 ∧
        t.f F.JOB_BANK_CTRL_TABLE_BANK = s.f F.JOB_BANK_CTRL_TABLE_BANK) ∧ AccessOnly p [.regs, .jobs, .path] s t)

/-! ### Tilth, Harrow, Madder and Sow -/

/-- The decode of one tile by a Tilth instance: it goes on with the tile row it has, or takes the first open one of
the furrow's stream; once the tile above is done, the next tile of the row, of a slot that is not raw, joins the
work's tiles, and the instance leaves the row with its last tile. A segment finished by an active tile while the
Harrow lead is below 1,024 rows: its records are delivered and the position goes on to its next segment. -/
def Obligations.TilthAndHarrowAdvance : Prop :=
  ∀ (s : State),
    (∀ inst pre k j ty s1 w g, let row := (pre, k, j, ty)
      let sf := match s.jobs.run with | some r => r.sf | none => 0
      (alGet s.path.tilth inst = some row ∧ s1 = s.begin ∨
        alGet s.path.tilth inst = none ∧
          ∃ w0, s.path.cur = some w0 ∧ seekRow false (sf + 1024) (w0.len + 1) w0.decAt s.begin = (some row, s1)) →
      s1.work pre = some w → (w.regions k)[j]? = some g →
      let tx := w.rowTiles k j g ty
      let i := g.ntx * ty + tx
      let slot := (g.slots.drop (slotWords w.info.slot * i)).take (slotWords w.info.slot)
      tx < g.ntx → w.above k j g tx ty = true → s1.memWaits w.info.addr w.info.size = false → slotRaw slot = none →
      Answers (.tilthTileDecode inst) s fun t =>
        let tile := decodeTile (w.context k j g tx ty) (slotResiduals slot).1
        t.work pre = some ({ w with tiles := (k, j, i, tile) :: w.tiles }.regionDone k j g) ∧
        t.path.tilth = (if tx + 1 = g.ntx then alErase s1.path.tilth inst else alSet s1.path.tilth inst row)) ∧
    (∀ tile bad w s1 w1, let a := s.place tileBase tile
      s.role tileBase tile = 0 → s.tileOf a = tile → s.path.cur = some w → a < w.posDone.length → w.posDone.getD a 0 < w.len →
      s.begin.harrowLead < 1024 → let k := w.seg (w.posDone.getD a 0)
      loadSegs false (min k 16 + 1) (k - min k 16) s.begin = (true, s1) → s1.work false = some w1 → w1.decoded k = true →
      Answers (.harrowSegmentDone tile bad) s fun t =>
        alGet t.path.recs (a + 32 * k) = some (spoil bad ((w1.records a k).map Prod.fst)) ∧
        ∃ w', t.path.cur = some w' ∧ w'.posDone = w1.posDone.set a (w.posDone.getD a 0 + 1))

/-- A second opinion's outcome, by its CRC over the unit's records: 1 where it agrees with the live tile, 2 where with
the auditor, 3 where with neither; HRW_MISMATCH_0 shows it with the tile that gave it. The auditor slice's self-test
likewise decides between the slices. -/
def Obligations.AuditOutcomes : Prop :=
  ∀ (s : State),
    (∀ h t2 bad, s.path.harrowAudit = some h → h.second = some t2 → t2 < 64 →
       Answers (.harrowSecondOpinionDone bad) s fun t =>
        let c := some (recordsCrc (spoil bad h.recs))
        t.f F.HRW_MISMATCH_0_OUTCOME = (if c = h.live then 1 else if c = h.aud then 2 else 3) ∧
        t.f F.HRW_MISMATCH_0_SECOND_TILE = t2 ∧ t.path.harrowNext = nextUnit s.path.harrowNext) ∧
    (∀ u pass, s.path.sowAudit = some u → u.testing = true → Answers (.sowAuditorSelfTestDone pass) s fun t =>
      t.f F.SOW_MISMATCH_0_OUTCOME = (if pass then 2 else 1) ∧ t.path.sowNext = (u.group + 1) % s.cls.groups)

/-- HRW_RETIRE and SOW_RETIRE by the lease holder: a unit in standby, with no swap pending, is retired with RESULT 1;
one retired already is left as it is, RESULT 3. The audits' enables: off ends the audit and shows 3; on with no
auditor makes the lowest unit in standby one. -/
def Obligations.RetireAndAudits : Prop :=
  ∀ (p u : Nat) (s : State), s.path.tileSwaps = [] → s.path.sliceSwaps = [] →
    (Commands p F.HRW_RETIRE_CTRL.off s → u < 34 →
      (s.role tileBase u = 1 → Answers (.harrowRetire p u) s fun t =>
        t.role tileBase u = 4 ∧ t.f F.HRW_RETIRE_CTRL_RESULT = 1) ∧
      (s.role tileBase u = 4 → Answers (.harrowRetire p u) s fun t => t.f F.HRW_RETIRE_CTRL_RESULT = 3 ∧
        SameRegsBut [F.HRW_RETIRE_CTRL.off] s t ∧ AccessOnly p [.regs] s t)) ∧
    (Commands p F.SOW_RETIRE_CTRL.off s → u < 25 → islandFused s.cls (64 + u) = false →
      (s.role sliceBase u = 1 → Answers (.sowRetire p u) s fun t =>
        t.role sliceBase u = 4 ∧ t.f F.SOW_RETIRE_CTRL_RESULT = 1) ∧
      (s.role sliceBase u = 4 → Answers (.sowRetire p u) s fun t => t.f F.SOW_RETIRE_CTRL_RESULT = 3)) ∧
    (Commands p F.HRW_AUDIT_CTRL.off s →
      (Answers (.harrowAuditEnable p false) s fun t => t.on F.HRW_AUDIT_CTRL_ENABLE = false ∧
        t.f F.HRW_AUDIT_STATUS_STATE = 3 ∧ t.path.harrowAudit = none ∧ OnlyParts [.regs, .path] s t) ∧
      (∀ b, s.path.harrowAudit = none → s.path.harrowNext.1 < 32 →
        ((List.range 34).find? fun x => s.role tileBase x == 1) = some b →
        Answers (.harrowAuditEnable p true) s fun t => t.on F.HRW_AUDIT_CTRL_ENABLE = true ∧ t.role tileBase b = 2 ∧
          t.f F.HRW_AUDIT_STATUS_AUDITOR = b ∧ t.f F.HRW_AUDIT_STATUS_STATE = 0 ∧ OnlyParts [.regs, .path] s t)) ∧
    (Commands p F.SOW_AUDIT_CTRL.off s →
      (Answers (.sowAuditEnable p false) s fun t => t.on F.SOW_AUDIT_CTRL_ENABLE = false ∧
        t.f F.SOW_AUDIT_STATUS_STATE = 3 ∧ t.path.sowAudit = none ∧ OnlyParts [.regs, .path] s t) ∧
      (∀ b, s.path.sowAudit = none → s.path.sowNext < 32 → ((List.range 25).find? fun x => s.role sliceBase x == 1) = some b →
        Answers (.sowAuditEnable p true) s fun t => t.on F.SOW_AUDIT_CTRL_ENABLE = true ∧ t.role sliceBase b = 2 ∧
          t.f F.SOW_AUDIT_STATUS_AUDITOR = b ∧ t.f F.SOW_AUDIT_STATUS_STATE = 0 ∧ OnlyParts [.regs, .path] s t))

/-- Madder: a row of multipliers is computed from its window and the next row is due; a row of target doses joins the
field. Sow: a group's codes for its next shot are computed. MDR_MAP_BASE written while no furrow is armed clears the
maps, and is refused with BASE_REFUSED while one is. -/
def Obligations.MadderAndSowAdvance : Prop :=
  (∀ (d : Desc) (r : Run) (s : State), s.head? = some d → s.begin.jobs.run = some r →
    (∀ m win s1, let n := d.rows / 64
      let j := jobRow d.furrow n m
      let lo := j - min j 166
      alGet s.path.mult m = none → s.madBypass = false → m < n → m = s.path.multNext → s.begin.multReady d m = true →
      s.islandOpen 12 = true → windowRows d (min n (j + 167) - lo) lo s.begin = ((win, true), s1) →
      Answers (.madderMultRow m) s fun t =>
        alGet t.path.mult m = some ((multipliers s1 win j).map Prod.fst) ∧ t.path.multNext = m + 1) ∧
    (∀ y w, s.path.cur = some w → y = s.path.fieldNext → y < d.rows → y < s.harrowRows → y < 4096 →
      s.islandOpen 12 = true → s.madBypass = true → Answers (.madderRowConvert y) s fun t =>
        t.path.fieldNext = y + 1 ∧ alGet t.path.field y = some ((s.recRow y).map fun x =>
          fieldEntry (nth w.info.doses (recClass x) % 65536) 16384 x)) ∧
    (∀ g bad, g < s.cls.groups → r.computed.length = s.cls.groups → s.begin.mayCompute d r (r.computed.getD g 0) = true →
      s.islandOpen (64 + s.sliceOf g) = true → s.islandOpen 13 = true → Answers (.sowShotCompute g bad) s fun t =>
        ∃ r', t.jobs.run = some r' ∧ r'.computed.getD g 0 = r.computed.getD g 0 + 1 ∧ r'.nShot = r.nShot)) ∧
  (∀ (p : Nat) (hi : Bool) (v : Word) (s : State), let off := if hi then F.MDR_MAP_BASE_HI.off else F.MDR_MAP_BASE_LO.off
    Commands p off s →
    (s.furrowArmed = true → Answers (.mdrMapBaseWrite p hi v) s fun t => t.on F.MDR_STATUS_BASE_REFUSED = true ∧
      t.rd off = s.rd off ∧ OnlyParts [.regs] s t) ∧
    (s.furrowArmed = false → Answers (.mdrMapBaseWrite p hi v) s fun t =>
      bits (t.rd off) 3 0 = bits v.toNat 3 0 ∧ (hi = false → t.rd off = v.toNat) ∧
      t.path.maps = List.replicate 3 ⟨none, []⟩ ∧ t.path.preWork = none ∧ OnlyParts [.regs, .path] s t))

/-! ### Tilth jobs -/

/-- The commands of a Tilth job by the lease holder: ENCODE and DECODE start a job of the geometry given, or show
BAD_GEOMETRY; RESUME goes on with the buffers as they are then; ABORT is noted for the next tile; SAVE writes the
context record; RESTORE reads an intact one into a stopped job. A tile of a running Tilth job: the job ends after its
last tile, stops for an abort or a full destination, and else decodes or encodes the next tile, whose counts and context
advance.
-/
def Obligations.TilthJobs : Prop :=
  (∀ (p : Nat) (s : State), Commands p F.TLT_JOB_CTRL.off s →
     (∀ c ∈ [(false, Instr.tilthEncode p), (true, .tilthDecode p)], s.f F.TLT_JOB_STATUS_STATE ≠ 1 →
       s.on F.TLT_JOB_CTRL_CONTINUE = false →
       let ntx := s.f F.TLT_JOB_GEOMETRY_NTX
       let nty := s.f F.TLT_JOB_GEOMETRY_NTY
       (0 < ntx → ntx ≤ 672 → 0 < nty → ntx * nty ≤ 2 ^ 22 → Answers c.2 s fun t =>
         t.f F.TLT_JOB_STATUS_STATE = 1 ∧ t.f F.TLT_JOB_STATUS_REASON = 0 ∧ t.rd F.TLT_JOB_TILE_COUNT.off = 0 ∧
         t.rd F.TLT_JOB_SLOT_COUNT.off = 0 ∧ t.rd F.TLT_JOB_OVF_BITS.off = 0 ∧ AccessOnly p [.regs, .path] s t ∧
         ∃ j, t.path.job = some j ∧ j.decode = c.1 ∧ j.ntx = ntx ∧ j.nty = nty ∧ j.slot = s.f F.TLT_JOB_CTRL_SLOT ∧
           j.line = List.replicate (8 * ntx) 0) ∧
       ((ntx = 0 ∨ 672 < ntx ∨ nty = 0) → Answers c.2 s fun t => t.f F.TLT_JOB_STATUS_REASON = 5 ∧
         t.f F.TLT_JOB_STATUS_STATE = s.f F.TLT_JOB_STATUS_STATE ∧ AccessOnly p [.regs] s t)) ∧
     (∀ j, s.path.job = some j → s.f F.TLT_JOB_STATUS_STATE = 2 → Answers (.tilthResume p) s fun t =>
       t.f F.TLT_JOB_STATUS_STATE = 1 ∧ t.f F.TLT_JOB_STATUS_REASON = 0 ∧ AccessOnly p [.regs, .path] s t ∧
       ∃ j', t.path.job = some j' ∧ j'.dst = s.rd F.TLT_JOB_DST.off ∧ j'.dstLimit = s.rd F.TLT_JOB_DST_LIMIT.off ∧
         j'.ovf = s.rd F.TLT_JOB_OVF.off ∧ j'.dstBase = s.rd F.TLT_JOB_TILE_COUNT.off ∧ j'.line = j.line ∧
         j'.left = j.left ∧ j'.corner = j.corner ∧ j'.abort = false) ∧
     (∀ j, s.path.job = some j → s.f F.TLT_JOB_STATUS_STATE = 1 → Answers (.tilthAbort p) s fun t =>
       t.path.job = some { j with abort := true } ∧ SameRegsBut [F.TLT_JOB_CTRL.off] s t ∧ AccessOnly p [.regs, .path] s t) ∧
     (∀ j, s.path.job = some j → s.tiltHeld = true → exec (.tilthSave p) s =
       .next (s.begin.written p F.TLT_JOB_CTRL.off fun u =>
         engineWrite 34 (64 * s.rd F.TLT_JOB_CTX.off) (s.tiltRecord j) (u.set F.TLT_JOB_CTRL_CMD 4))) ∧
     (∀ b s1, s.tiltHeld = true →
       memRead 34 (64 * s.rd F.TLT_JOB_CTX.off) 5440
         ((s.begin.numbered p F.TLT_JOB_CTRL.off true).set F.TLT_JOB_CTRL_CMD 5) = ((b, true), s1) →
       leAt b 0 4 = 0x544C5431 → leAt b 60 4 = crc32c (b.take 60 ++ b.drop 64) → Answers (.tilthRestore p) s fun t =>
         t.f F.TLT_JOB_STATUS_STATE = 2 ∧ t.rd F.TLT_JOB_TILE_COUNT.off = leAt b 16 4 % 2 ^ 32 ∧
         t.rd F.TLT_JOB_SLOT_COUNT.off = leAt b 12 4 % 2 ^ 32 ∧
         ∃ j, t.path.job = some j ∧ j.ntx = bits (leAt b 4 4) 25 16 ∧ j.decode = (leAt b 4 4).testBit 31 ∧
           j.left = sliceBytes b 24 8)) ∧
  (∀ (j : TilthJob) (s : State), s.path.job = some j → s.f F.TLT_JOB_STATUS_STATE = 1 → s.islandOpen 11 = true →
     let n := s.rd F.TLT_JOB_TILE_COUNT.off
     (j.ntx * j.nty ≤ n → Answers .tilthJobTileDone s fun t =>
       t.f F.TLT_JOB_STATUS_STATE = 3 ∧ t.f F.TLT_JOB_STATUS_REASON = 0 ∧ OnlyParts [.regs, .evPending] s t) ∧
     (n < j.ntx * j.nty → j.abort = true → Answers .tilthJobTileDone s fun t =>
       t.f F.TLT_JOB_STATUS_STATE = 2 ∧ t.f F.TLT_JOB_STATUS_REASON = 6 ∧ OnlyParts [.regs, .evPending] s t) ∧
     (n < j.ntx * j.nty → j.abort = false → j.dstLimit ≤ n - j.dstBase → Answers .tilthJobTileDone s fun t =>
       t.f F.TLT_JOB_STATUS_STATE = 2 ∧ t.f F.TLT_JOB_STATUS_REASON = 1 ∧ OnlyParts [.regs, .evPending] s t) ∧
     (∀ b s1, let w := slotWords j.slot
       let ws := (List.range w).map fun i => leAt b (4 * i) 4
       n + 1 < j.ntx * j.nty → j.abort = false → n - j.dstBase < j.dstLimit → s.begin.tiltWaits j n = false →
       j.decode = true →
       memRead 34 (64 * s.rd F.TLT_JOB_SRC.off + 4 * w * n) (4 * w) s.begin = ((b, true), s1) → slotRaw ws = none →
       Answers .tilthJobTileDone s fun t =>
         t.path.job = some (j.advance (n % j.ntx) (decodeTile (j.ctx (n % j.ntx)) (slotResiduals ws).1)) ∧
         t.f F.TLT_JOB_STATUS_STATE = 1 ∧ t.rd F.TLT_JOB_TILE_COUNT.off = (n + 1) % 2 ^ 32) ∧
     (∀ b s1 ws, n + 1 < j.ntx * j.nty → j.abort = false → n - j.dstBase < j.dstLimit → s.begin.tiltWaits j n = false →
       j.decode = false → memRead 34 (64 * s.rd F.TLT_JOB_SRC.off + 64 * n) 64 s.begin = ((b, true), s1) →
       encodeSlot (slotWords j.slot) (j.ctx (n % j.ntx)) b = some ws → Answers .tilthJobTileDone s fun t =>
         t.path.job = some (j.advance (n % j.ntx) b) ∧ t.f F.TLT_JOB_STATUS_STATE = 1 ∧
         t.rd F.TLT_JOB_TILE_COUNT.off = (n + 1) % 2 ^ 32 ∧
         t.mem = (engineWrite 34 (64 * j.dst + 4 * slotWords j.slot * (n - j.dstBase)) (wordsLe ws) s1).mem))


/-! ### The Drill Link -/

/-- A lane of a ready group at its frame boundary, with no furrow armed and no command due, sends an idle frame. In a
furrow being written, with nothing to repeat, it sends the next dose frame of the logical lane it carries, and the
lane's count of frames sent moves on. The marker follows the fewest idle bits there may be. -/
def Obligations.FramesSent : Prop :=
  ∀ (g p : Nat) (s : State), s.linkUp g = true → p ≤ 8 → s.laneOut g p = false → (s.grp g).phase = 0 →
    (s.grp g).training = [] → s.dueCmd g p true = none → s.dueCmd g p false = none →
    let ln := (s.grp g).lane p
    (s.groupState g = 2 → s.furrowArmed = false → Answers (.laneFrameBoundary g p) s fun t =>
      t.out = [.lane g p (idleBits minGap ++ lineBits g (s.seedLane g p) ln.alive
        (frameHeader 4 ln.alive 0 false false false false) zeroPayload)] ∧ OnlyParts [.link] s t) ∧
    (∀ r, let l := s.logical g p
      let f := (s.grp g).sentTo.getD l 0
      s.groupState g = 3 → s.begin.jobs.run = some r → r.phase ≠ .held → l < 8 → s.begin.dueFrame g l r = none →
      s.begin.mayNew g l r = true → s.begin.isHold g f r = false → (s.grp g).sentTo.length = 8 →
      Answers (.laneFrameBoundary g p) s fun t =>
        t.out = [.lane g p (idleBits minGap ++ lineBits g (s.seedLane g p) ln.alive
          (frameHeader 0 ln.alive f false (!r.mayRetry f) r.trav (p == 8))
          (((alGet s.path.pay (g + 32 * f)).getD []).getD l zeroPayload))] ∧
        (t.grp g).sentTo.getD l 0 = f + 1 ∧ OnlyParts [.link] s t)

/-- What answers bring on a group whose back-channel is heard: an acknowledged shot's frame is done on its lane, an
acknowledged command leaves the queue, and a NAK or a time-out of the latest attempt is counted and, with fewer
failures than lose a lane, makes the next attempt due. The link account: a report of a fired shot settles it, and the
account's close settles whatever is left. -/
def Obligations.LinkAnswers : Prop :=
  (∀ (g : Nat) (s : State), s.linkUp g = true → s.on (F.DRL_Gnn_STATUS_BK_ALIGNED g) = true →
     let x := { s.grp g with bkLost := false }
     let s1 := setGrp g x s.begin
     let few := fun (p alive : Nat) => let fails := setOutcome alive true ((s.grp g).lane p).fails
       fourFailed fails = false ∧ (fails.filter fun a => a.2 == some true).length < 16
     let isDue := fun (f : SentFrame) (e : RingFrame) => if e.shot = f.key then { e with due := true } else e
     (∀ seq c, (x.cmds.find? fun c => c.seq == seq && c.last.isSome) = some c → Answers (.ackFrame g seq) s fun t =>
       (t.grp g).cmds = x.cmds.filter fun e => e.seq != seq) ∧
     (∀ p low f e, p < 9 → (((s.grp g).lane p).sent.find? fun q => q.kind == 1 && q.key % 65536 == low % 65536) = some f →
       ((x.ring f.logical).find? fun e => e.shot == f.key) = some e → e.acked = false → f.logical < 8 →
       (s.grp g).rings.length = 8 → Answers (.ackShot g low (1 <<< p)) s fun t =>
         (t.grp g).ring f.logical = (x.ring f.logical).map fun q =>
           if q.shot = e.shot then { q with acked := true, due := false } else q) ∧
     (∀ p alive f, s1.latest g p alive = some f → f.kind = 1 → f.logical < 8 → (s.grp g).rings.length = 8 →
       few p alive → Answers (.nak g p alive) s fun t =>
         t.f (F.DRL_Gnn_NAKS_NAKS g) = min 65535 (s.f (F.DRL_Gnn_NAKS_NAKS g) + 1) ∧
         (t.grp g).ring f.logical = (x.ring f.logical).map (isDue f)) ∧
     (∀ p alive f, s.begin.latest g p alive = some f → f.kind = 1 → f.logical < 8 → (s.grp g).rings.length = 8 →
       few p alive → Answers (.attemptTimeout g p alive) s fun t =>
         t.f (F.DRL_Gnn_NAKS_TIMEOUTS g) = min 65535 (s.f (F.DRL_Gnn_NAKS_TIMEOUTS g) + 1) ∧
         (t.grp g).ring f.logical = (x.ring f.logical).map (isDue f)) ∧
     (∀ seq c p alive, ((s.grp g).cmds.find? fun c => c.seq == seq && !c.due && c.last.isSome) = some c →
       c.last = some (p, alive) → few p alive → (x.cmds.all fun e => e.seq != seq || decide (e.attempts < 16)) = true →
       Answers (.commandAttemptTimeout ⟨g, seq⟩) s fun t =>
         t.f (F.DRL_Gnn_NAKS_TIMEOUTS g) = min 65535 (s.f (F.DRL_Gnn_NAKS_TIMEOUTS g) + 1) ∧
         (t.grp g).cmds = x.cmds.map fun e => if e.seq = seq then { e with due := true } else e)) ∧
  (∀ (s : State),
     (∀ g first lanes q, s.linkUp g = true → s.on (F.DRL_Gnn_STATUS_BK_ALIGNED g) = true → (s.grp g).resolved = [q] →
       q.1 % 65536 = first % 65536 → Answers (.shotReport g first 8 lanes) s fun t => (t.grp g).resolved = []) ∧
     (∀ r, s.jobs.run = some r → r.segLast < r.sf → Answers .linkAccountClose s fun t =>
       ∀ g ∈ s.groups, (t.grp g).resolved = []))

/-- Words of the back-channel: one that asks nothing ends a loss of the back-channel; 50 bits that are no word are
counted, and those that are one act as it does, as STATUS and an idle word show; 1 µs without one makes a group train
again outside a furrow, as a bad clock does. LANE_STATE shows the locks, STATUS is held for its group and shows
BLANK_ALL_L seen, and MEM_DATA puts its half-word into the reading under way. -/
def Obligations.LinkWords : Prop :=
  ∀ (g : Nat) (s : State), s.linkUp g = true → s.on (F.DRL_Gnn_STATUS_BK_ALIGNED g) = true →
    (Answers (.idleBk g) s fun t => t.grp g = { s.grp g with bkLost := false } ∧ OnlyParts [.link] s t) ∧
    (∀ rd raw,
      (bkDecode rd raw = none → Answers (.bkWordError ⟨g, rd, raw⟩) s fun t =>
        t.f (F.DRL_Gnn_RETRANSMITS_BK_WORD_ERRORS g) = min 65535 (s.f (F.DRL_Gnn_RETRANSMITS_BK_WORD_ERRORS g) + 1) ∧
        SameRegsBut [(F.DRL_Gnn_RETRANSMITS g).off] s t ∧ OnlyParts [.regs] s t) ∧
      ∀ body, (bkDecode rd raw = some (0, body) → exec (.bkWordError ⟨g, rd, raw⟩) s = exec (.idleBk g) s) ∧
        (bkDecode rd raw = some (5, body) → exec (.bkWordError ⟨g, rd, raw⟩) s = exec (.statusWord g body) s)) ∧
    (s.groupState g = 2 → s.furrowArmed = false →
      (Answers (.bkLost g) s fun t => t.groupState g = 1 ∧ (t.grp g).phase = 1 ∧
        t.on (F.DRL_Gnn_STATUS_BK_ALIGNED g) = false) ∧
      (∀ locks, Answers (.laneState g locks false) s fun t => t.groupState g = 1 ∧ (t.grp g).phase = 1)) ∧
    (s.groupState g = 2 ∨ s.groupState g = 3 → (s.grp g).phase = 0 → Answers (.laneState g 0x1FF true) s fun t =>
      t.f (F.DRL_Gnn_STATUS_LOCKED g) = 0x1FF ∧ t.on (F.DRL_Gnn_STATUS_CK_OK g) = true ∧
      t.groupState g = s.groupState g ∧ OnlyParts [.regs, .link] s t) ∧
    (∀ body, Answers (.statusWord g body) s fun t => (t.grp g).status = some body ∧
      (body.testBit 11 = true → s.f F.DRL_HEAD_MEMORY_RESULT = 0 → g ∉ t.fence.unseen)) ∧
    (∀ v h, alGet s.head.reads g = some h → h.defects = false → bits v 27 16 + 1 ≠ h.awaited →
      Answers (.memData g v) s fun t => OnlyParts [.link, .head] s t ∧
        let old := sliceBytes h.bytes 0 128
        let at' := h.addr + 2 * bits v 27 16
        alGet t.head.reads g = some { h with
          bytes := (old.take at' ++ leBytes 2 (v % 65536) ++ old.drop (at' + 2)).take 128 })

/-- Training of a group: TRAIN by the lease holder starts it outside a furrow; a time-out starts it once more and then
loses the group; BK is slipped by command, or by the group until the alignment is good or the fiftieth slip loses the
group; SPARE_GO moves a lane to the ninth; a figure of merit shows in its register, and one that does not come is asked
for again. -/
def Obligations.LinkTraining : Prop :=
  ∀ (p g : Nat) (s : State), s.linkUp g = true → let x := s.grp g
    (Commands p (F.DRL_Gnn_CTRL g).off s → s.furrowArmed = false → Answers (.train p g) s fun t =>
      t.groupState g = 1 ∧ (t.grp g).phase = 1 ∧ (t.grp g).tries = 0 ∧ t.l8 g = 15) ∧
    (x.phase ≠ 0 → x.tries = 0 → Answers (.trainingTimeout g) s fun t => t.groupState g = 1 ∧ (t.grp g).tries = 1) ∧
    (x.phase ≠ 0 → x.tries ≠ 0 → Answers (.trainingTimeout g) s fun t => t.groupState g = 5 ∧ (t.grp g).phase = 0) ∧
    ((x.phase = 1 ∨ x.phase = 2) →
      (Commands p (F.DRL_Gnn_CTRL g).off s → s.on (F.DRL_Gnn_CTRL_AUTO_ALIGN g) = false → Answers (.bkSlip p g) s fun t =>
        t.grp g = { x with phase := 2, slips := x.slips + 1 }) ∧
      (s.on (F.DRL_Gnn_CTRL_AUTO_ALIGN g) = true →
        (Answers (.bkAlignSlipTest g true) s fun t => t.on (F.DRL_Gnn_STATUS_BK_ALIGNED g) = true ∧
          (t.grp g).phase = 3 ∧ (t.grp g).slips = x.slips + 1 ∧ OnlyParts [.regs, .link] s t) ∧
        (Answers (.bkAlignSlipTest g false) s fun t => if 50 ≤ x.slips + 1 then t.groupState g = 5 else
          t.grp g = { x with phase := 2, slips := x.slips + 1 } ∧ OnlyParts [.link] s t))) ∧
    (∀ l, Commands p (F.DRL_Gnn_CTRL g).off s → l < 8 → (s.groupState g = 2 ∨ s.groupState g = 3) →
      s.laneLocked g 8 = true → s.laneOut g 8 = false → s.l8 g = 15 → s.rolling g = none →
      Answers (.spareGo p g l) s fun t => t.l8 g = l ∧
        (t.grp g).cmds = x.cmds ++ [⟨x.cmdSeq, some 8, cmdBlock (spareMapCmd l), 0, true, none⟩]) ∧
    (∀ lane v, lane ≤ 8 → s.on (F.DRL_Gnn_STATUS_BK_ALIGNED g) = true → alGet x.adapt lane = none →
      Answers (.fom g lane v) s fun t => t.f (F.DRL_Gnn_FOM_TAG g lane) = bits v 23 16 ∧
        t.f (F.DRL_Gnn_FOM_H_OPEN g lane) = bits v 15 8 ∧ t.f (F.DRL_Gnn_FOM_V_OPEN g lane) = bits v 7 0 ∧
        SameRegsBut [(F.DRL_Gnn_FOM g lane).off] s t ∧ OnlyParts [.regs, .link] s t) ∧
    (∀ lane a, alGet x.adapt lane = some a → a.asked = true → a.resends < 2 → Answers (.fomTimeout g lane) s fun t =>
      (t.grp g).cmds = x.cmds ++ [⟨x.cmdSeq, none, cmdBlock (fomCmd lane a.tag s.dwell), 0, true, none⟩] ∧
      alGet (t.grp g).adapt lane = some { a with resends := a.resends + 1 } ∧ OnlyParts [.link] s t)

/-! ### Encoders, shots and the headland planner -/

/-- A sample, 20 ns after the one before, moves each channel by its phase step, and the phase is the nearest integer
to the angle or 1 off it; the amplitude shows. Qualification makes an idle channel track; an amplitude or yaw fault
sets its bit and takes a furrow being written fallow with ENC_FAULT; 10 ms without a speed edge ends the speed shown.
-/
def Obligations.EncoderSamples : Prop :=
  ∀ (k : Nat) (s : State), k < 4 → s.islandOpen 14 = true → let c := s.encCh k
    let held := fun (t : State) => ∀ r, s.jobs.run = some r → r.phase ≠ .held → s.shot.committed = none →
      ∃ r', t.jobs.run = some r' ∧ r'.phase = .held ∧ r'.sf = r.sf ∧ r'.causes.testBit 8 = true ∧
        (r.dueCauses = 0 → r'.causes = 1 <<< 8)
    (∀ codes, let z := codes.getD k (0, 0)
      let (sn, cs) := s.corrected k z.1 z.2
      Answers (.encSample codes) s fun t => let u := t.encCh k
        t.now = s.now + 20 ∧ u.pPrev = c.p ∧ t.f (F.ENC_Cnn_AMPLITUDE_NOW k) = amp2 sn cs ∧
        ((sn ≠ 0 ∨ cs ≠ 0) → ∃ e, e ≤ 2 ∧ u.ph = (phaseNearest sn cs + 4095 + e) % 4096) ∧
        let d : Int := ((u.ph : Int) - c.ph + 2048) % 4096 - 2048
        u.p = signed 40 (unsigned 40 (c.p + if u.invert then -d else d))) ∧
    (s.encState k = 0 → 50000 ≤ c.inside → Answers (.encTrackingQualified k) s fun t =>
      t.encState k = 1 ∧ t.f (F.ENC_Cnn_STATUS_DIR_KNOWN k) = 0 ∧ SameRegsBut [(F.ENC_Cnn_STATUS k).off] s t ∧
      OnlyParts [.regs, .enc] s t) ∧
    (s.ampSamples ≤ c.run → s.encFaulted (16 + k) = false → Answers (.encAmplitudeFault k) s fun t =>
      t.encFaulted (16 + k) = true ∧ t.encState k = 3 ∧ (t.encCh k).ref = none ∧
      t.f (F.ENC_Cnn_STATUS_SPEED_VALID k) = 0 ∧ held t) ∧
    (∀ axis, axis < 2 → (s.yaw axis).isSome = true →
      max 1 (s.f F.ENC_CONFIG_YAW_SAMPLES) ≤ s.yawRun axis → s.encFaulted axis = false →
      Answers (.encYawFault axis) s fun t => t.encFaulted axis = true ∧ t.enc = s.enc ∧ held t) ∧
    (∀ l, c.tLast = some l → l + 10000000 ≤ s.now → Answers (.encSpeedRestart k) s fun t =>
      t.f (F.ENC_Cnn_STATUS_SPEED_VALID k) = 0 ∧ t.f (F.ENC_Cnn_STATUS_SPEED k) = 0 ∧ (t.encCh k).tLast = none ∧
      OnlyParts [.regs, .enc, .pln] s t)

/-- An index pulse lies midway between its interpolated edges: the first valid one sets the reference, a later one
shows its difference from the nearest mark, and one far off faults. The lease holder's REREF drops the reference, and
ZERO_X and ZERO_Y latch Z, only while no furrow is armed; an acknowledged channel without a fault is idle. -/
def Obligations.EncoderReferences : Prop :=
  ∀ (p k frac : Nat) (s : State), k < 4 → let c := s.encCh k
    let at' := c.pPrev + (2 * (c.p - c.pPrev) * (min frac 20 : Nat) + 20) / 40
    let seen := fun (t : State) =>
      t.f (F.ENC_Cnn_INDEX_STATS_SEEN k) = min 65535 (s.f (F.ENC_Cnn_INDEX_STATS_SEEN k) + 1) ∧ (t.encCh k).pulse = none
    (s.islandOpen 14 = true →
      (Answers (.encIndexEdge k true frac) s fun t => (t.encCh k).pulse =
        some ⟨at', s.f (F.ENC_Cnn_STATUS_DIR k), decide (0 < c.run) || !s.encTracks k⟩ ∧ OnlyParts [.enc] s t) ∧
      ∀ u, c.pulse = some u → u.tainted = false → u.dir = s.f (F.ENC_Cnn_STATUS_DIR k) → c.run = 0 →
        s.encTracks k = true → 64 ≤ (at' - u.rise).natAbs → (at' - u.rise).natAbs < 8192 →
        let mid := rnd (u.rise + at') 1
        (c.ref = none → Answers (.encIndexEdge k false frac) s fun t => seen t ∧ (t.encCh k).ref = some mid ∧
          t.encState k = 2) ∧
        (∀ r, c.ref = some r →
          let d := indexDiff mid r (s.f (F.ENC_Cnn_INDEX_PERIOD_PERIOD k))
          Answers (.encIndexEdge k false frac) s fun t => seen t ∧ t.f (F.ENC_Cnn_INDEX_LAST_VALID k) = 1 ∧
            t.f (F.ENC_Cnn_INDEX_LAST_DIFF k) = unsigned 24 (sat d (-8388608) 8388607) ∧
            ((s.f F.ENC_CONFIG_INDEX_TOL : Int) + 1 ≤ rnd d 10 → t.encFaulted (8 + k) = true))) ∧
    (Commands p (F.ENC_Cnn_CTRL k).off s →
      (s.furrowArmed = false → s.encState k = 2 → Answers (.reref p k) s fun t =>
        (t.encCh k).ref = none ∧ t.encState k = 1 ∧ t.f (homedFld (k / 2)) = 0) ∧
      (s.furrowArmed = true → Answers (.reref p k) s fun t => t.enc = s.enc ∧ t.encState k = s.encState k)) ∧
    (Commands p F.ENC_YAW_CTRL.off s →
      (s.furrowArmed = false →
        (Answers (.zeroX p) s fun t => t.zX = (s.encCh 0).p - (s.encCh 1).p ∧ t.zY = s.zY) ∧
        (Answers (.zeroY p) s fun t => t.zY = (s.encCh 2).p - (s.encCh 3).p ∧ t.zX = s.zX)) ∧
      (s.furrowArmed = true → (Answers (.zeroX p) s fun t => t.zX = s.zX) ∧ Answers (.zeroY p) s fun t => t.zY = s.zY)) ∧
    (∀ mask, Commands p F.ENC_FAULT_STATUS.off s → mask &&& 0xFFF03 ≠ 0 → Answers (.encFaultAck p mask) s fun t =>
      (∀ b, b < 2 ∨ (8 ≤ b ∧ b < 20) → t.encFaulted b = (s.encFaulted b && !mask.testBit b)) ∧
      (s.encState k = 3 → t.encFaulted (16 + k) = false → t.encFaulted (12 + k) = false → t.encState k = 0))

/-- Shot timing. A sample at which the shot's position was passed by LATE_LIMIT with no trigger holds the furrow with
SHOT_TOO_LATE; one that predicts the crossing in time commits the trigger. At the committed instant the shot fires,
with a pulse of its width, and the next one is due, where the run has fired already or its first boundary finds the
rows it needs; where the stage left the path or its segment, the commitment ends. A hold of the path that lasts too
long holds the furrow. Each deflection word, with its bits on the line, carries its sequence number, is valid in the
writing segment alone, its run-out included, and shows no deflection outside it. -/
def Obligations.ShotTiming : Prop :=
  ∀ (s : State),
    (∀ d r m rest, s.head? = some d → s.jobs.run = some r → r.phase = .writing → r.sf ≤ r.segLast →
      s.shot.histY = m :: rest → s.onPath d = true → s.shot.pathHold = false →
      let q := s.shotPos d r.sf
      (s.late q m d.dirsign = true → ∃ r', (shotSample s).jobs.run = some r' ∧ r'.phase = .held ∧
        (r.dueCauses = 0 → r'.causes = 1 <<< 0x12) ∧ r'.sf = r.sf ∧ (shotSample s).shot.committed = none ∧
        (shotSample s).rd F.SHT_LAST_FALLOW.off = 2 <<< 30 + r.sf % 2 ^ 26) ∧
      (∀ dm t, s.late q m d.dirsign = false → travel s.shot.histY = some dm →
        2 * (s.f F.SHT_MODE_CFG_CONT_ENTER : Int) ≤ 125 * (d.dirsign * dm) → s.shot.committed = none →
        predictShot (16 * s.now) (d.dirsign * (q - m)) (d.dirsign * dm) s.fireShift = some t →
        t < 16 * (s.now : Int) + 1920 → let t' := max t (16 * (s.now : Int) + 1440)
        (shotSample s).shot.committed = some
          (match s.shot.lastTrigger with | some l => max t' (l + s.tMin) | none => t'))) ∧
    (∀ i d r, s.shot.committed = some i → s.head? = some d → s.jobs.run = some r → s.islandOpen 14 = true →
      (r.phase = .writing → r.sf ≤ r.segLast → r.cancelled = false → s.shot.pathHold = false → s.pln.motion = .segment →
        (r.fired = true ∨
          min s.runRows (r.sf + 192) ≤ s.harrowRows ∧ min s.runRows (r.sf + 128) ≤ s.path.fieldNext) →
        Answers .shotTrigger s fun t => .shot r.sf s.pulseWidth ∈ t.out ∧
          t.f F.SHT_STATUS_NEXT_SHOT = (r.sf + 1) % 2 ^ 26 ∧ t.shot.committed = none ∧
          t.shot.lastTrigger = some i ∧ ∃ r', t.jobs.run = some r' ∧ r'.sf = r.sf + 1) ∧
      (s.shot.pathHold = true ∨ s.pln.motion ≠ .segment → exec .shotTrigger s =
        .next { s.begin with shot := { s.shot with committed := none, inWindow := 0 } })) ∧
    (∀ r, s.jobs.run = some r → s.shot.pathHold = true → r.phase = .writing → r.dueCauses = 0 →
      Answers .pathHoldTimeout s fun t => t.f F.JOB_STATUS_STATE = 5 ∧ t.f F.JOB_LAST_HOLD_CAUSE = 0x13 ∧
        t.rd F.SHT_LAST_FALLOW.off = 1 <<< 30 + r.sf % 2 ^ 26 ∧
        ∃ r', t.jobs.run = some r' ∧ r'.phase = .held ∧ r'.causes = 1 <<< 0x13 ∧ r'.unacked = 0) ∧
    (s.islandOpen 14 = true → Answers .deflectionWord s fun t => t.shot.seq = (s.shot.seq + 1) % 16 ∧
      OnlyParts [.shot] s t ∧ ∃ w, t.out = [.deflection w (deflectionLine w)] ∧ bits w 7 4 = s.shot.seq % 16 ∧
        (s.jobs.run = none → w = (s.shot.seq % 16) <<< 4) ∧
        ∀ r, s.jobs.run = some r → w.testBit 3 = s.inSegment ∧ w.testBit 0 = decide (r.phase = .held) ∧
          (∀ d mx my x y, s.on F.SHT_DEFL_CFG_ENABLE = true → s.shot.fired ≠ [] → s.inSegment = true →
            s.head? = some d → s.shot.histX = mx :: x → s.shot.histY = my :: y → travel s.shot.histX = some 0 →
            bits w 47 28 = unsigned 20 (sat (4 * (s.xTarget d - mx)) (-524288) 524287)))

/-- Planner commands of the lease holder, and what the planner meets: MOVE and HOME start where no furrow is armed,
and are refused with BUSY otherwise, MOVE toward an active limit switch with LIMIT_ACTIVE and HOME of an axis that is
not tracking with NOT_TRACKING; STOP stops a move, or holds an armed furrow with PLN_STOP until STOPPED is
acknowledged. A motion whose axes are at rest with no move left ends and shows its result, or goes on to its next
part; one still under way is not done. The headland dwell leads to the writing segment, whose ramp begins once the
frames of the first shots are sent, of a furrow or of a run of its traverse. -/
def Obligations.PlannerCommands : Prop :=
  ∀ (p : Nat) (s : State),
    (Commands p F.PLN_CMD.off s →
      (s.furrowArmed = false → s.doorStops = false →
        let x := signed 32 (s.rd F.PLN_TARGET_X.off)
        let y := signed 32 (s.rd F.PLN_TARGET_Y.off)
        let limited := s.towardLimit 0 (x - s.cmdPos 0) || s.towardLimit 1 (y - s.cmdPos 1)
        let homes := fun (a : Nat) (t : State) => t.f F.PLN_STATUS_STATE = 2 ∧ t.f F.PLN_STATUS_RESULT = 0 ∧
          t.f (homedFld a) = 0 ∧ (t.encCh (2 * a)).ref = none ∧ (t.encCh (2 * a + 1)).ref = none ∧
          t.pln.motion = (if s.switchActive (4 + a) then .homeStop a else .homeSearch a) ∧
          t.pln.legs = if s.switchActive (4 + a) then [] else [(a, s.cmdPos a + s.homeDir a * 400000000)]
        (limited = false → Answers (.movePlanner p) s fun t => t.pln.motion = .move ∧ t.pln.tx = x ∧ t.pln.ty = y ∧
          t.pln.legs = s.legsTo x y ∧ t.f F.PLN_STATUS_STATE = 1 ∧ t.f F.PLN_STATUS_RESULT = 0 ∧
          AccessOnly p [.regs, .evPending, .pln] s t) ∧
        (limited = true → Answers (.movePlanner p) s fun t => t.pln = s.pln ∧ t.f F.PLN_STATUS_RESULT = 3) ∧
        (s.encTracks 0 = true → s.encTracks 1 = true → Answers (.homeX p) s (homes 0)) ∧
        (s.encTracks 2 = true → s.encTracks 3 = true → Answers (.homeY p) s (homes 1)) ∧
        (s.pln.motion.homing = none →
          (s.encTracks 0 = false → Answers (.homeX p) s fun t => t.pln = s.pln ∧ t.f F.PLN_STATUS_RESULT = 7) ∧
          (s.encTracks 2 = false → Answers (.homeY p) s fun t => t.pln = s.pln ∧ t.f F.PLN_STATUS_RESULT = 7))) ∧
      (s.furrowArmed = true → s.pln.motion.homing = none →
        ∀ c ∈ [Instr.movePlanner p, .homeX p, .homeY p], Answers c s fun t =>
          t.pln = s.pln ∧ t.enc = s.enc ∧ t.f F.PLN_STATUS_RESULT = 2) ∧
      (s.furrowArmed = false → s.pln.motion = .move → Answers (.stopPlanner p) s fun t =>
        t.pln.motion = .stopping ∧ t.pln.legs = [] ∧ t.f F.PLN_STATUS_STATE = 5 ∧
        AccessOnly p [.regs, .evPending, .pln] s t) ∧
      (∀ r, s.jobs.run = some r → r.phase ≠ .held → r.dueCauses = 0 → Answers (.stopPlanner p) s fun t =>
        t.on F.PLN_STATUS_STOPPED = true ∧ t.f F.JOB_LAST_HOLD_CAUSE = 7 ∧
        t.rd F.SHT_LAST_FALLOW.off = s.rd F.SHT_LAST_FALLOW.off ∧
        ∃ r', t.jobs.run = some r' ∧ r'.phase = .held ∧ r'.causes = 1 <<< 7 ∧ r'.unacked = 1 <<< 7)) ∧
    (Commands p F.PLN_STATUS.off s → Answers (.stoppedAck p) s fun t => t.on F.PLN_STATUS_STOPPED = false ∧
      t.f F.PLN_STATUS_STATE = s.f F.PLN_STATUS_STATE ∧ AccessOnly p [.regs, .evPending] s t) ∧
    (s.islandOpen 14 = true →
      (∀ x y, s.planAtRest = false ∨ x ≠ s.cmdPos 0 ∨ y ≠ s.cmdPos 1 →
        exec (.plannerMoveDone x y) s = .next s.begin) ∧
      (s.planAtRest = true →
        let ends := fun (m : Motion) (st result : Nat) (t : State) => t.pln.motion = m ∧ t.f F.PLN_STATUS_STATE = st ∧
          t.f F.PLN_STATUS_RESULT = result ∧ t.cmdPos 0 = s.cmdPos 0 ∧ t.cmdPos 1 = s.cmdPos 1
        (s.pln.motion = .move → Answers (.plannerMoveDone (s.cmdPos 0) (s.cmdPos 1)) s (ends .rest 0 1)) ∧
        (s.pln.motion = .stopping → Answers (.plannerMoveDone (s.cmdPos 0) (s.cmdPos 1)) s
          (ends .rest 0 (if s.f F.PLN_STATUS_RESULT = 0 then 1 else s.f F.PLN_STATUS_RESULT))) ∧
        (s.pln.motion = .toStart → Answers (.plannerMoveDone (s.cmdPos 0) (s.cmdPos 1)) s fun t => t.pln.motion = .dwell) ∧
        (∀ a, s.pln.motion = .homeSearch a → Answers (.plannerMoveDone (s.cmdPos 0) (s.cmdPos 1)) s (ends .stopping 5 5)) ∧
        (∀ a, s.pln.motion = .homeBack a → Answers (.plannerMoveDone (s.cmdPos 0) (s.cmdPos 1)) s (ends .stopping 5 6)) ∧
        (∀ a, s.pln.motion = .homeStop a → s.switchActive (4 + a) = true → Answers (.plannerMoveDone (s.cmdPos 0) (s.cmdPos 1)) s fun t =>
          t.pln.motion = .homeBack a ∧ t.pln.legs = [(a, s.cmdPos a - s.homeDir a * 4000000)]) ∧
        (∀ a m, a < 2 → s.pln.motion = .homeRest a → s.pairMean a = some m → Answers (.plannerMoveDone (s.cmdPos 0) (s.cmdPos 1)) s fun t =>
          t.pln.motion = .rest ∧ t.f (homedFld a) = 1 ∧ t.f F.PLN_STATUS_RESULT = 1 ∧
          t.cmdPos a = signed 32 (unsigned 32 (rnd m 4)))) ∧
      (s.pln.motion = .dwell → Answers .turnDwellEnd s fun t => t.pln.motion = .waiting ∧
        t.f F.PLN_STATUS_STATE = 6 ∧ OnlyParts [.regs, .evPending, .pln] s t) ∧
      (∀ d r, s.head? = some d → s.begin.jobs.run = some r → r.ending = false →
        (r.phase = .armed ∧ r.trav = false ∨
          r.phase = .traverse ∧ r.trav = true ∧ r.roundOpen = true ∧ r.sf ≤ r.segLast) →
        s.pln.motion = .waiting → s.begin.framesSent r = true → s.fence.headLevel = 0 → s.doorStops = false →
        let x := (s.startPoint d r.sf).1
        let y := rnd (s.shotPos d ((r.segLast : Int) + s.leadIn)) 4
        Answers .writingSegmentStart s fun t => t.jobs.run = some { r with phase := .writing, begun := true } ∧
          t.pln.motion = .segment ∧ t.pln.tx = x ∧ t.pln.ty = y ∧ t.pln.legs = s.legsTo x y ∧
          t.f F.JOB_STATUS_STATE = (if r.trav then 6 else 4) ∧ t.f F.SHT_STATUS_STATE = 1 ∧
          OnlyParts [.regs, .evPending, .jobs, .pln] s t))

/-- Switches: an input's level against its POLARITY shows as the raw level, and one that becomes active latches the
command position of the switch's axis once; a filtered level that becomes active takes the switch's action, which sets
TRIPPED, stops the stage, hard or by a ramp, and holds a furrow being written; LATCHED and TRIPPED written 1 clear. -/
def Obligations.SwitchEvents : Prop :=
  ∀ (p i mask : Nat) (s : State), i < 6 → let off := F.PLN_SWITCH_STATUS.off
    let bit := fun (t : State) (b : Nat) => (t.rd off).testBit b
    (s.islandOpen 14 = true →
      (∀ level, s.pins.switches.testBit i = (!level) →
        let active := level == s.on (F.PLN_SWITCH_CFG_POLARITY i)
        let axis := if i < 4 then i / 2 else i - 4
        (bit s (8 + i) = active → Answers (.switchRawEdge i (!level) level) s fun t =>
          t.pins.switches.testBit i = level ∧ OnlyParts [.pins] s t) ∧
        (bit s (8 + i) ≠ active → Answers (.switchRawEdge i (!level) level) s fun t =>
          t.pins.switches.testBit i = level ∧ bit t (8 + i) = active ∧ bit t (16 + i) = bit s (16 + i) ∧
          OnlyParts [.pins, .regs, .pln] s t ∧ SameRegsBut [off, F.PLN_CHATTER.off, (F.PLN_LATCH i).off] s t ∧
          t.rd (F.PLN_LATCH i).off =
            (if active && !bit s (24 + i) then unsigned 32 (s.cmdPos axis) else s.rd (F.PLN_LATCH i).off) ∧
          bit t (24 + i) = (bit s (24 + i) || active))) ∧
      (bit s (8 + i) = true → bit s (16 + i) = false → s.pln.motion.homing = none →
        (s.switchAction i = 0 → Answers (.switchFilteredEdge i) s fun t => bit t (16 + i) = true ∧
          SameRegsBut [off] s t ∧ OnlyParts [.regs, .pln] s t) ∧
        (s.switchAction i ≠ 0 → Answers (.switchFilteredEdge i) s fun t => bit t (16 + i) = true ∧ bit t i = true ∧
          (s.switchAction i = 2 → t.pln.hard = true ∧ t.pln.motion = .rest) ∧
          (s.switchAction i = 1 → s.pln.motion = .move → t.pln.motion = .stopping) ∧
          ∀ r, s.jobs.run = some r → r.phase ≠ .held → r.dueCauses = 0 →
            t.rd F.SHT_LAST_FALLOW.off = 3 <<< 30 + r.sf % 2 ^ 26 ∧
            ∃ r', t.jobs.run = some r' ∧ r'.phase = .held ∧ r'.causes = 1 <<< 6 ∧ r'.unacked = 1 <<< 6)) ∧
      (bit s (8 + i) = false → bit s (16 + i) = true →
        (s.pln.motion.homing = none → Answers (.switchFilteredInactive i) s fun t => bit t (16 + i) = false ∧
          SameRegsBut [off] s t ∧ OnlyParts [.regs, .pln] s t) ∧
        (∀ a, i = 4 + a → s.pln.motion = .homeBack a → s.encState (2 * a) = 2 → s.encState (2 * a + 1) = 2 →
          Answers (.switchFilteredInactive i) s fun t => t.pln.motion = .homeRest a))) ∧
    (Commands p off s →
      (Answers (.latchRearm p mask) s fun t => (∀ b, b < 32 → bit t b =
        (bit s b && !(decide (24 ≤ b) && decide (b < 30) && mask.testBit (b - 24)))) ∧ SameRegsBut [off] s t) ∧
      (Answers (.trippedAck p mask) s fun t => (∀ b, b < 32 → bit t b =
        (bit s b && !(decide (b < 6) && mask.testBit b))) ∧ SameRegsBut [off] s t))

/-! ### Memory and DMA -/

/-- DRAM words of stacks in service. A word written reads back, its block turns valid, and the rest of a block that
was not valid reads as zeros; a block never written reads as zeros with good status. One wrong bit of a word reads
corrected and two read as uncorrectable, which MEM_UE_LAST shows. At or beyond the capacity a read returns zeros with
uncorrectable status. A word of a stack out of service is not stored and does not read. -/
def Obligations.DramWords : Prop :=
  ∀ (r r' a : Nat) (s : State), a % 8 = 0 →
    (∀ l : List Byte, l.length = 8 → a < s.capacity → s.memGone a 8 = none → InForm s → alSorted s.mem.errs = true →
      s.on F.MEM_FLIP_CTRL_ARMED = false → let t := (memWrite r a l s).2
      (memRead r' a 8 t).1 = (l, true) ∧ t.blockValid a = true ∧
      (∀ x, (x < a ∨ a + 8 ≤ x) → t.dramByte x =
        if x / 4096 = a / 4096 ∧ s.blockValid a = false then 0 else s.dramByte x)) ∧
    (∀ n, s.blockValid a = false → a / 4096 = (a + n - 1) / 4096 → a + n ≤ s.capacity → s.memGone a n = none →
      memRead r a n s = ((List.replicate n 0, true), s)) ∧
    (∀ m, a < s.capacity → s.memGone a 8 = none → s.blockValid a = true → alGet s.mem.errs (a / 8) = some m →
      (popCount m 72 = 1 → (memRead r a 8 s).1 = (s.wordBytes (a / 8), true)) ∧
      (popCount m 72 = 2 → (memRead r a 8 s).1 = (List.replicate 8 0, false) ∧
        let t := (memRead r a 8 s).2
        t.rd F.MEM_UE_LAST_LO.off = a % 2 ^ 32 ∧ t.on F.MEM_UE_LAST_HI_VALID = true ∧
        t.f F.MEM_UE_LAST_HI_SOURCE = r % 64)) ∧
    (s.capacity ≤ a → s.memGone a 8 = none → (memRead r a 8 s).1 = (List.replicate 8 0, false) ∧
      (memRead r a 8 s).2.f F.MEM_ERRORS_OUT_OF_RANGE = min 65535 (s.f F.MEM_ERRORS_OUT_OF_RANGE + 1)) ∧
    (∀ l : List Byte, ∀ i, l.length = 8 → s.memGone a 8 = some i → (memRead r a 8 s).1.2 = false ∧
      (memWrite r a l s).1 = false ∧ (memWrite r a l s).2.mem = s.mem)

/-- The map and the ranges. An accepted write of MEM_MAP_CFG sets grain and reserve, resets the map and clears every
valid bit; one at a wrong time sets MAP_REFUSED. INVALIDATE clears the valid bits of its range when done; a scrub pass
writes back what it corrects and leaves its summary, as a patrol pass does without one, once the stacks it reads accept
requests. -/
def Obligations.MemoryRanges : Prop :=
  ∀ (p : Nat) (s : State),
    (∀ v : Word, Commands p F.MEM_MAP_CFG.off s → v.toNat.testBit 31 = false →
      (s.furrowArmed = false → s.lockedStreams = [] → (∀ ch, ch < 16 → s.dmaState ch ≠ 2 ∧ s.dmaState ch ≠ 3) →
        s.path.job = none → Answers (.memMapCfgWrite p v) s fun t => t.mem.cells = [] ∧ t.mem.valid = [] ∧
          t.mem.retire = none ∧ t.f F.MEM_MAP_CFG_GRAIN = bits v.toNat 19 16 ∧
          t.f F.MEM_MAP_CFG_RESERVE = bits v.toNat 3 0 ∧ t.f F.MEM_CAPACITY_CAPACITY_MIB = 512 * t.nPc ∧
          ∀ i, i < 32 * s.cls.stacks → t.pcMap i = resetMap s.cls i) ∧
      (s.furrowArmed = true → Answers (.memMapCfgWrite p v) s fun t =>
        t.on F.MEM_MAP_CFG_MAP_REFUSED = true ∧ t.mem = s.mem ∧ t.f F.MEM_MAP_CFG_GRAIN = s.f F.MEM_MAP_CFG_GRAIN ∧
        t.f F.MEM_MAP_CFG_RESERVE = s.f F.MEM_MAP_CFG_RESERVE)) ∧
    (Commands p F.MEM_RANGE_CTRL.off s → let a := 4096 * s.f F.MEM_RANGE_FIRST_ADDR_4K
      let b := 4096 * s.f F.MEM_RANGE_END_ADDR_4K
      (s.mem.scrub = none →
        (Answers (.memScrub p) s fun t => t.mem.scrub = some (a, b) ∧ t.mem.invalidating = false ∧
          t.f F.MEM_RANGE_CTRL_RESULT = 1) ∧
        (s.furrowArmed = false → s.meetsLocked a (b - a) = false → Answers (.memInvalidate p) s fun t =>
          t.mem.scrub = some (a, b) ∧ t.mem.invalidating = true ∧ t.f F.MEM_RANGE_CTRL_RESULT = 1) ∧
        (s.meetsLocked a (b - a) = true → Answers (.memInvalidate p) s fun t =>
          t.mem = s.mem ∧ t.f F.MEM_RANGE_CTRL_RESULT = 4)) ∧
      (∀ q, s.mem.scrub = some q →
        (Answers (.memScrub p) s fun t => t.mem = s.mem ∧ t.f F.MEM_RANGE_CTRL_RESULT = 3) ∧
        (Answers (.memInvalidate p) s fun t => t.mem = s.mem ∧ t.f F.MEM_RANGE_CTRL_RESULT = 3))) ∧
    (∀ a b, s.mem.scrub = some (a, b) → InForm s →
      (s.mem.invalidating = true → Answers .memInvalidateDone s fun t => t.f F.MEM_RANGE_CTRL_RESULT = 2 ∧
        t.mem.scrub = none ∧ (∀ k, k ∈ t.mem.valid ↔ k ∈ s.mem.valid ∧ (4096 * k < a ∨ b ≤ 4096 * k)) ∧
        (∀ x, t.dramByte x = if a ≤ x ∧ x < b then 0 else s.dramByte x) ∧ OnlyParts [.regs, .mem] s t) ∧
      (∀ us w m, s.mem.invalidating = false → (s.stacksIn a b).any s.shutStacks.contains = false →
        s.mem.errs = [(w, m)] → popCount m 72 = 1 → a ≤ 8 * w → 8 * w < b →
        Answers (.scrubPassEnd us) s fun t => t.mem.errs = [] ∧ t.mem.scrub = none ∧
          t.f F.MEM_RANGE_CTRL_RESULT = 2 ∧ t.rd F.MEM_SCRUB_CORRECTED.off = 1 ∧
          t.rd F.MEM_SCRUB_UNCORRECTABLE.off = 0 ∧ t.rd F.MEM_SCRUB_TIME.off = min (2 ^ 32 - 1) us ∧
          t.mem.cells = s.mem.cells)) ∧
    (∀ w m, s.mem.scrub = none → s.on F.MEM_PATROL_CFG_ENABLE = true → s.mem.errs = [(w, m)] → popCount m 72 = 1 →
      let n := s.physOf (8 * w) / 32
      s.f (F.MEM_Snn_STATUS_STATE n) ≠ 2 → s.islandOpen (7 + n) = true → Answers (.patrolPassEnd []) s fun t =>
        t.mem.errs = [] ∧ t.mem.cells = s.mem.cells ∧
        t.f F.MEM_PATROL_STATUS_PASSES = min 65535 (s.f F.MEM_PATROL_STATUS_PASSES + 1))

/-- Upkeep of the stacks: a pseudo-channel nominated is copied and swapped in at once, or at the furrow boundary;
refresh rises to ×4 without a reading; retraining, which waits and is counted under a checkpoint's notice; self-refresh
and frequency steps; the flip mask; and SRAM patrols, which correct one wrong bit of a word, and whose word with two
retires a tile or, in the field window, costs a fallow. -/
def Obligations.MemoryUpkeep : Prop :=
  ∀ (p n : Nat) (s : State),
    (∀ i k, let phys := s.pcMap i
      Commands p F.MEM_RETIRE_CTRL.off s → i < s.nPc → phys < 32 * s.cls.stacks →
      (s.mem.retire = none → s.nPc ≤ k → k < 32 * s.cls.stacks → s.pcRetired k = false →
        Answers (.memRetire p phys) s fun t => t.f F.MEM_RETIRE_CTRL_RESULT = 1 ∧
          ∃ j, t.mem.retire = some j ∧ j.phys = phys ∧ j.copied = false) ∧
      (∀ j, s.mem.retire = some j → Answers (.memRetire p phys) s fun t => t.f F.MEM_RETIRE_CTRL_RESULT = 6 ∧
        t.mem = s.mem)) ∧
    (∀ j, s.mem.retire = some j → j.copied = false → j.slot < 128 → j.phys < 128 →
      s.islandOpen (7 + j.phys / 32) = true → s.islandOpen (7 + s.pcMap j.slot / 32) = true →
      (s.furrowArmed = true → Answers .pcCopyDone s fun t => t.f F.MEM_RETIRE_CTRL_RESULT = 2 ∧
        ∃ j', t.mem.retire = some j' ∧ j'.copied = true ∧ j'.slot = j.slot) ∧
      (s.furrowArmed = false → Answers .pcCopyDone s fun t => t.f F.MEM_RETIRE_CTRL_RESULT = 3 ∧
        t.mem.retire = none ∧ t.pcMap j.slot = j.phys ∧ t.pcRetired j.slot = true)) ∧
    (n < s.cls.stacks →
      (Answers (.refreshReadingStale n) s fun t => t.f (F.MEM_Snn_STATUS_REFRESH n) = 2 ∧
        SameRegsBut [(F.MEM_Snn_STATUS n).off] s t ∧ OnlyParts [.regs] s t) ∧
      (s.islandOpen (7 + n) = true → s.f (F.MEM_Snn_STATUS_STATE n) = 1 → n ∉ s.mem.burst →
        s.mem.freqWaiting = false →
        (s.mem.notice = false → Answers (.retrainBurst n) s fun t => n ∈ t.mem.burst ∧
          t.f (F.MEM_Snn_RETRAIN_STATS_BURSTS n) = min 65535 (s.f (F.MEM_Snn_RETRAIN_STATS_BURSTS n) + 1)) ∧
        (s.mem.notice = true → Answers (.retrainBurst n) s fun t => OnlyParts [.regs, .mem] s t ∧
          t.mem = { s.mem with burstDue := setInsert s.mem.burstDue n } ∧
          t.f (F.MEM_Snn_RETRAIN_STATS_DEFERRED n) = min 65535 (s.f (F.MEM_Snn_RETRAIN_STATS_DEFERRED n) + 1))) ∧
      (s.mem.burst = [n] → Answers (.retrainBurstDone n) s fun t => t.mem.burst = [] ∧ t.mem.ckptWaiting = false ∧
        (s.mem.freqWaiting = true → t.mem.freqWaiting = false ∧ t.f (F.MEM_Snn_STATUS_STATE n) = 3)) ∧
      (Commands p (F.MEM_Snn_SR_CTRL n).off s →
        (s.f (F.MEM_Snn_STATUS_STATE n) = 1 → Answers (.selfRefreshEnter p n) s fun t =>
          t.f (F.MEM_Snn_STATUS_STATE n) = 2 ∧ t.mem = s.mem) ∧
        (s.f (F.MEM_Snn_STATUS_STATE n) = 2 → Answers (.selfRefreshExit p n) s fun t =>
          t.f (F.MEM_Snn_STATUS_STATE n) = 1 ∧ t.mem = s.mem)) ∧
      (s.f (F.MEM_Snn_STATUS_STATE n) = 1 → s.f (F.MEM_Snn_SR_CTRL_AUTO_IDLE_US n) ≠ 0 →
        (s.furrowArmed = false → Answers (.selfRefreshAuto n) s fun t => t.f (F.MEM_Snn_STATUS_STATE n) = 2 ∧
          OnlyParts [.regs] s t) ∧
        (s.furrowArmed = true → exec (.selfRefreshAuto n) s = .next s.begin)) ∧
      (∀ f, f ≤ 2 → Commands p F.MEM_FREQ_CTRL.off s → s.mem.freqChange = none → s.mem.retire = none →
        (∀ k, k < s.cls.stacks → s.islandOpen (7 + k) = true) →
        (s.furrowArmed = false → s.mem.burst = [] → Answers (.memFreqChange p f) s fun t =>
          t.f F.MEM_FREQ_CTRL_RESULT = 1 ∧ t.mem.freqChange = some f ∧ t.islandOpen (7 + n) = false ∧
          t.f (F.MEM_Snn_STATUS_STATE n) = 3) ∧
        (s.furrowArmed = true → Answers (.memFreqChange p f) s fun t => t.f F.MEM_FREQ_CTRL_RESULT = 3 ∧
          t.mem = s.mem)) ∧
      (∀ f, f ≤ 2 → s.mem.freqChange = some f → s.mem.freqWaiting = false → Answers .freqChangeDone s fun t =>
        t.f F.MEM_FREQ_CTRL_RESULT = 2 ∧ t.mem.freqChange = none ∧ (t.gate (7 + n)).st = .opened ∧
        t.f (F.MEM_Snn_STATUS_STATE n) = 1 ∧ t.f (F.MEM_Snn_STATUS_FREQ n) = f)) ∧
    (∀ check, Commands p F.MEM_FLIP_CTRL.off s →
      let a := s.rd F.MEM_FLIP_ADDR_LO.off / 8 * 8 + s.f F.MEM_FLIP_ADDR_HI_ADDR_HI <<< 32
      (s.furrowArmed = false → s.meetsLocked a 8 = false → Answers (.flipArm p check) s fun t =>
        t.on F.MEM_FLIP_CTRL_ARMED = true ∧ t.f F.MEM_FLIP_CTRL_CHECK = check % 256 ∧ t.mem = s.mem) ∧
      (s.furrowArmed = true → Answers (.flipArm p check) s fun t => t.on F.MEM_FLIP_CTRL_REFUSED = true ∧
        t.on F.MEM_FLIP_CTRL_ARMED = s.on F.MEM_FLIP_CTRL_ARMED)) ∧
    (∀ w b b', w < 2 ^ 32 → b < 64 → b' < 8 → s.mem.sramErrs = [] →
      (n < 34 → s.islandOpen (16 + n) = true →
        (∀ data check, (data = [(w, b)] ∧ check = [] ∨ data = [] ∧ check = [(w, b')]) →
          Answers (.sramPatrolPass (16 + n) data check) s fun t => t.mem = s.mem ∧
          t.f (F.HRW_Tnn_ECC_CORRECTED n) = min 65535 (s.f (F.HRW_Tnn_ECC_CORRECTED n) + 1) ∧
          t.f (F.HRW_Tnn_ECC_UNCORRECTABLE n) = s.f (F.HRW_Tnn_ECC_UNCORRECTABLE n) ∧
          OnlyParts [.regs, .ledger] s t) ∧
        (s.role tileBase n = 1 → s.path.tileSwaps = [] → Answers (.sramPatrolPass (16 + n) [(w, b)] [(w, b')]) s fun t =>
          t.f (F.HRW_Tnn_ECC_UNCORRECTABLE n) = min 65535 (s.f (F.HRW_Tnn_ECC_UNCORRECTABLE n) + 1) ∧
          t.role tileBase n = 4)) ∧
      (s.sramHolds 12 w = true → s.islandOpen 12 = true →
        (∀ data check, (data = [(w, b)] ∧ check = [] ∨ data = [] ∧ check = [(w, b')]) →
          Answers (.sramPatrolPass 12 data check) s fun t => t.mem = s.mem ∧ t.jobs = s.begin.jobs ∧
          t.f F.MEM_SRAM_ECC_CORRECTED = min 65535 (s.f F.MEM_SRAM_ECC_CORRECTED + 1)) ∧
        (∀ r, s.jobs.run = some r → r.phase ≠ .held → r.dueCauses = 0 → s.shot.committed = none →
          Answers (.sramPatrolPass 12 [(w, b)] [(w, b')]) s fun t =>
            t.f F.MEM_SRAM_ECC_UNCORRECTABLE = min 65535 (s.f F.MEM_SRAM_ECC_UNCORRECTABLE + 1) ∧
            ∃ r', t.jobs.run = some r' ∧ r'.phase = .held ∧ r'.causes = 1 <<< 0x14)))

/-- DMA channels: a free channel is claimed, and its owner starts, aborts, resumes and releases it. A fetched descriptor
that passes its checks is taken, waiting for its pace where it has one, and one that fails halts the channel with the
error. A burst moves its bytes, the last one ends its descriptor, and the last descriptor the chain; one that an ABORT
meets without KEEP_PARTIAL writes nothing; and a failed access is tried again as often as RETRY_COUNT says. The timer's
ticks pace a descriptor that waits for them. -/
def Obligations.DmaChannels : Prop :=
  ∀ (p ch : Nat) (s : State), ch < 16 → let c := s.chan ch
    let st := s.dmaState ch
    let frame := fun (t : State) => OnlyParts [.ret, .regs, .evPending, .dma, .mem, .ledger] s t
    let halted := fun (e : Nat) (t : State) => t.dmaState ch = 4 ∧ t.f (F.DMA_CH_nn_STATUS_ERROR ch) = e
    (Reaches p (F.DMA_CH_nn_CTRL ch).off s → (p = 1 ∨ p = 2 ∨ p = 4) →
      (st = 0 → Answers (.dmaClaim p ch) s fun t => t.dmaState ch = 1 ∧ t.dmaOwner ch = p ∧ t.chan ch = DmaChan.idle) ∧
      (st ≠ 0 → s.dmaOwner ch = p →
        (st ≠ 2 → Answers (.dmaRelease p ch) s fun t => t.dmaState ch = 0 ∧ t.dmaOwner ch = 0 ∧
          t.chan ch = DmaChan.idle) ∧
        (st = 2 → Answers (.dmaRelease p ch) s fun t => t.chan ch = { c with abort := true, release := true } ∧
          t.dmaState ch = 2) ∧
        (st = 1 ∨ st = 5 → Answers (.dmaStart p ch) s fun t => t.dmaState ch = 2 ∧ t.dmaCur ch = s.dmaDescAddr ch ∧
          (t.chan ch).desc = none ∧ t.f (F.DMA_CH_nn_STATUS_DESCRIPTORS ch) = 0) ∧
        (∀ d, st = 4 → c.desc = some d → Answers (.dmaStart p ch) s fun t => (t.chan ch).desc = some d ∧
          (t.chan ch).read = c.written ∧ (c.paced = true → t.dmaState ch = 2) ∧
          (c.paced = false → d.pace = 1 → c.timerEvents = 0 → t.dmaState ch = 3)) ∧
        (st = 2 → Answers (.dmaAbort p ch) s fun t => t.chan ch = { c with abort := true } ∧ t.dmaState ch = 2) ∧
        (st = 3 → Answers (.dmaAbort p ch) s (halted 6))) ∧
      (st ≠ 0 → s.dmaOwner ch ≠ p → Answers (.dmaStart p ch) s fun t => t.dma = s.dma ∧ t.dmaState ch = st)) ∧
    (∀ host, st = 2 → c.desc = none → c.abort = false → s.dmaCur ch % 32 = 0 → space (s.dmaCur ch) = 0 →
      s.dmaOwner ch ≠ 4 → let b := sliceBytes host 0 32
      let d := parseDma b
      let e := dmaCheck ch b d s.begin
      (e = 0 → d.pace = 0 → Answers (.dmaDescriptorFetch ch true host) s fun t => frame t ∧ (t.chan ch).desc = some d ∧
        (t.chan ch).read = 0 ∧ t.dmaState ch = 2 ∧ t.rd (F.DMA_CH_nn_BYTES_READ ch).off = 0) ∧
      (e = 0 → d.pace = 1 → c.timerEvents = 0 → Answers (.dmaDescriptorFetch ch true host) s fun t => frame t ∧
        (t.chan ch).desc = some d ∧ (t.chan ch).paced = false ∧ t.dmaState ch = 3) ∧
      (e ≠ 0 → Answers (.dmaDescriptorFetch ch true host) s fun t => frame t ∧ halted e t) ∧
      (c.retries < s.f (F.DMA_CH_nn_CTRL_RETRY_COUNT ch) → Answers (.dmaDescriptorFetch ch false host) s fun t =>
        t.chan ch = { c with retries := c.retries + 1, retryWait := true } ∧ t.dmaState ch = 2)) ∧
    (∀ host d, st = 2 → c.desc = some d → d.op = 0 → space d.src = 0 → space (d.src + c.read) = 0 → space d.dst = 1 →
      space (d.dst + c.written) = 1 → let n := (burstOf d c.read).2
      let b := sliceBytes host 0 n
      let a := (d.dst + c.written) % 2 ^ 62
      let w := memWrite (16 + ch) a b s.begin
      let moved := fun (t : State) => frame t ∧ (t.chan ch).read = c.read + n ∧ (t.chan ch).written = c.written + b.length ∧
        (t.chan ch).desc = some d ∧ (t.chan ch).retries = 0 ∧ (t.chan ch).retryWait = false
      let ended := fun (t : State) => frame t ∧ (t.chan ch).desc = none ∧
        t.f (F.DMA_CH_nn_STATUS_DESCRIPTORS ch) = min 65535 (s.f (F.DMA_CH_nn_STATUS_DESCRIPTORS ch) + 1) ∧
        (d.last = true → t.dmaState ch = 5) ∧ (d.last = false → d.next < 2 ^ 64 → t.dmaState ch = 2 ∧ t.dmaCur ch = d.next)
      s.memWaits a n = false →
      (c.abort = false →
        (s.writeLocked (s.dmaOwner ch) a b.length = false → w.1 = true →
          (c.read + n < d.length → (Answers (.dmaBurstDone ch true host) s fun t => moved t ∧
              t.mem.cells = w.2.mem.cells) ∧
            (c.retryWait = true → Answers (.dmaAccessRetry ch true host) s moved)) ∧
          (d.length ≤ c.read + n → (Answers (.dmaBurstDone ch true host) s fun t => ended t ∧
              t.mem.cells = w.2.mem.cells) ∧
            (c.retryWait = true → Answers (.dmaAccessRetry ch true host) s ended))) ∧
        (c.release = false → s.writeLocked (s.dmaOwner ch) a b.length = true →
          Answers (.dmaBurstDone ch true host) s fun t => t.mem = s.mem ∧ halted 4 t) ∧
        (s.f (F.DMA_CH_nn_CTRL_RETRY_COUNT ch) ≤ c.retries →
          (c.retryWait = true → Answers (.dmaAccessRetry ch false host) s fun t => t.mem = s.mem ∧ halted 1 t) ∧
          (∀ i, s.writeLocked (s.dmaOwner ch) a b.length = false → s.memGone a b.length = some i →
            Answers (.dmaBurstDone ch true host) s fun t => t.mem = s.mem ∧ halted 1 t))) ∧
      (c.abort = true → s.on (F.DMA_CH_nn_CTRL_KEEP_PARTIAL ch) = false → Answers (.dmaBurstDone ch true host) s fun t =>
        t.mem = s.mem ∧ t.dmaState ch = if c.release then 0 else 4)) ∧
    (s.f (F.DMA_CH_nn_TIMER_PERIOD_US ch) ≠ 0 → st ≠ 0 → st ≠ 1 →
      (c.desc = none → Answers (.dmaTimerTick ch) s fun t => OnlyParts [.dma] s t ∧
        t.chan ch = { c with timerEvents := min 255 (c.timerEvents + 1) }) ∧
      (∀ d, c.desc = some d → st = 3 → d.pace = 1 → Answers (.dmaTimerTick ch) s fun t => t.dmaState ch = 2 ∧
        (t.chan ch).timerEvents = min 255 (c.timerEvents + 1) - 1 ∧ OnlyParts [.regs, .dma] s t))

/-! ### The Fence, interlocks and thermal trips -/

/-- Frames of the Fence while AON has power: each sends the response that was pending and leaves its own, counted as
good, as a CRC error or as a length error. NOP answers FNC_STATUS, READ and WRITE the register after the frame, and a
WRITE that arrives during loading is answered BUSY and writes nothing. -/
def Obligations.FenceFrames : Prop :=
  ∀ (seq off data : Nat) (s : State), s.pins.vddAon = true →
    let good := min 65535 (s.f F.FNC_SPI_STATS_GOOD + 1)
    let counted := fun (t : State) => t.f F.FNC_SPI_STATS_GOOD = good ∧ .fence s.fence.response ∈ t.out
    let quiet := fun (t : State) => SameRegsBut [F.FNC_SPI_STATS.off] s t ∧ OnlyParts [.regs, .fence] s t
    (off % 4 = 0 → off ∈ fncOffs →
      (Answers (.fenceNop seq off data) s fun t => counted t ∧ quiet t ∧
        t.fence.response = fenceResponse 0 seq off (s.rd F.FNC_STATUS.off)) ∧
      (Answers (.fenceRead seq off data) s fun t => counted t ∧ quiet t ∧
        t.fence.response = fenceResponse 0 seq off (fncRead off t)) ∧
      (s.pins.loading = true → Answers (.fenceWrite seq off data) s fun t => counted t ∧ quiet t ∧
        t.fence.response = fenceResponse 5 seq off (fncRead off t)) ∧
      (s.pins.loading = false →
        (off = 0x1C → Answers (.fenceWrite seq off data) s fun t => counted t ∧
          t.fence.response = fenceResponse 0 seq off (fncRead off t) ∧ t.f F.FNC_LIMIT_FORCE_FORCE = data % 16 ∧
          SameRegsBut [F.FNC_SPI_STATS.off, F.FNC_LIMIT_FORCE.off] s t) ∧
        (off = 0x10 → Answers (.fenceWrite seq off data) s fun t => counted t ∧
          t.fence.response = fenceResponse 0 seq off (data % 2 ^ 27) ∧ t.rd F.FNC_DIE_THERMAL.off = data % 2 ^ 27))) ∧
    (off % 4 ≠ 0 ∨ off ∉ fncOffs → ∀ c ∈ [Instr.fenceNop seq off data, .fenceRead seq off data, .fenceWrite seq off data],
      Answers c s fun t => counted t ∧ quiet t ∧ t.fence.response = fenceResponse 4 0 0 0) ∧
    (∀ cycles bytes, let b := sliceBytes bytes 0 9
      (cycles ≠ 72 → Answers (.fenceBadFrame cycles bytes) s fun t => quiet t ∧ t.out = [.fence s.fence.response] ∧
        t.fence.response = fenceResponse 2 0 0 0 ∧
        t.f F.FNC_SPI_STATS_LENGTH_ERRORS = min 255 (s.f F.FNC_SPI_STATS_LENGTH_ERRORS + 1)) ∧
      (cycles = 72 → crc8 (b.take 8) ≠ leAt b 8 1 → Answers (.fenceBadFrame cycles bytes) s fun t => quiet t ∧
        t.out = [.fence s.fence.response] ∧ t.fence.response = fenceResponse 1 0 0 0 ∧
        t.f F.FNC_SPI_STATS_CRC_ERRORS = min 255 (s.f F.FNC_SPI_STATS_CRC_ERRORS + 1)))

/-- What the Fence writes: FALLOW and the watchdog trip, and a trip that begins holds the furrow with FENCE_TRIP and
drives BLANK_ALL_L; the lease is revoked and locked; a trip bit clears as far as it may; transmit enables, forced limit
switches, the service pod, the dose ceiling, whose lowering holds an armed furrow, and the ledger key act. -/
def Obligations.FenceControls : Prop :=
  ∀ (s : State), s.pins.vddAon = true → s.pins.loading = false →
    let held := fun (code : Nat) (t : State) => ∀ r, s.jobs.run = some r → r.phase ≠ .held → r.dueCauses = 0 →
      ∃ r', t.jobs.run = some r' ∧ r'.phase = .held ∧ r'.causes = 1 <<< code ∧ r'.sf = r.sf
    let blanks := fun (t : State) => t.on F.FNC_STATUS_BLANK_ALL = t.blanking
    (Answers (.fenceFallow true) s fun t => t.on F.FNC_CTRL_FALLOW = true ∧ t.on F.FNC_STATUS_BLANK_ALL = true ∧
      (s.fenceTrip = false → held 3 t)) ∧
    (Answers (.fenceFallow false) s fun t => t.on F.FNC_CTRL_FALLOW = false ∧ blanks t ∧ t.jobs = s.begin.jobs) ∧
    (s.f F.FNC_INTERLOCK_CFG_WATCHDOG_MS ≠ 0 → Answers .fenceWatchdogExpiry s fun t =>
      t.on F.FNC_TRIP_STATUS_WATCHDOG = true ∧ t.on F.FNC_STATUS_BLANK_ALL = true ∧ (s.fenceTrip = false → held 3 t)) ∧
    (s.holder ≠ 0 → Answers .revokeLease s fun t => t.holder = 0) ∧
    (∀ on, Answers (.leaseLock on) s fun t => t.on F.FNC_CTRL_LEASE_LOCK = on ∧ SameRegsBut [F.FNC_CTRL.off] s t ∧
      OnlyParts [.regs] s t) ∧
    (∀ mask, Answers (.fenceTripClear mask) s fun t => blanks t ∧ ∀ b, b < 4 →
      (t.rd F.FNC_TRIP_STATUS.off).testBit b = ((s.rd F.FNC_TRIP_STATUS.off).testBit b && !(mask.testBit b &&
        (b != 2 || s.on F.FNC_STATUS_COOLED) && (b != 1 || s.stacksCool)))) ∧
    (∀ v g, g ∈ s.groups → let old := s.rd F.FNC_TX_ENABLE.off
      (old.testBit g = true → v.testBit g = false → Answers (.txEnableWrite v) s fun t => t.groupState g = 0 ∧
        t.rd F.FNC_TX_ENABLE.off = v % 2 ^ s.cls.groups) ∧
      (old.testBit g = false → v.testBit g = true → s.furrowArmed = false → s.islandOpen (96 + g) = true →
        Answers (.txEnableWrite v) s fun t => t.groupState g = 1 ∧ (t.grp g).phase = 1)) ∧
    (∀ v, Answers (.limitForceWrite v) s fun t => t.f F.FNC_LIMIT_FORCE_FORCE = v % 16 ∧
      SameRegsBut [F.FNC_LIMIT_FORCE.off] s t ∧ OnlyParts [.regs] s t) ∧
    (∀ on, Answers (.serviceEnableWrite on) s fun t => t.on F.FNC_INTERLOCK_CFG_SERVICE_ENABLE = on ∧
      t.on F.FNC_STATUS_SERVICE_PRESENT = (s.pins.svcSense && on) ∧
      (s.on F.FNC_STATUS_SERVICE_PRESENT = true → on = false → s.holder = 4 → t.holder = 0)) ∧
    (∀ v, let w := v &&& 0x03FF000F
      let lower := decide (bits w 3 0 < s.ceilings.1) || decide (min 720 (bits w 25 16) < s.ceilings.2.2)
      Answers (.doseCeilingWrite v) s fun t => t.rd F.FNC_DOSE_CEILING.off = w ∧
        (lower = true → s.furrowArmed = true → t.fence.ceilingDriver = true ∧ t.on F.FNC_STATUS_BLANK_ALL = true ∧
          held 4 t) ∧
        (lower = false → OnlyParts [.regs] s t)) ∧
    (∀ key, key < 65536 → s.f F.LDG_CLEAR_STATE = 1 → Answers (.ledgerAuthorise key) s fun t =>
      OnlyParts [.regs] s t ∧ if key = s.f F.LDG_CLEAR_NONCE then t.f F.LDG_CLEAR_STATE = 2
        else t.f F.LDG_CLEAR_STATE = 6 ∧ t.f F.LDG_CLEAR_REASON = 2)

/-- Interlocks and heat. HOLD_REQ_L and DOOR_OK hold the furrow and blank the head, until RELEASE_MS after they are
released; groups that have not shown BLANK_ALL_L set BLANK_UNSEEN. Comparators at TRIP begin a trip, in hardware mode at
once; the stage's stop ends as a hard stop, and the shutdown drives THERMTRIP_L with its record kept. The device cools
below RESTART, and the Fence releases THERMTRIP_L. -/
def Obligations.InterlocksAndTrips : Prop :=
  ∀ (s : State), s.pins.vddAon = true →
    let held := fun (code : Nat) (t : State) => ∀ r, s.jobs.run = some r → r.phase ≠ .held → r.dueCauses = 0 →
      ∃ r', t.jobs.run = some r' ∧ r'.phase = .held ∧ r'.causes = 1 <<< code ∧ r'.sf = r.sf
    (s.pins.holdReqL = true → Answers .holdReqEdge s fun t => t.pins.holdReqL = false ∧
      t.on F.FNC_STATUS_HOLD_REQ = true ∧ t.fence.holdDriver = true ∧ t.on F.FNC_STATUS_BLANK_ALL = true ∧ held 1 t) ∧
    (s.pins.holdReqL = false → Answers .holdReqEdge s fun t => t.pins.holdReqL = true ∧
      t.on F.FNC_STATUS_HOLD_REQ = false ∧ t.fence = s.fence ∧ OnlyParts [.pins, .regs] s t) ∧
    (s.pins.doorOk = true → Answers .doorOkEdge s fun t => t.pins.doorOk = false ∧
      t.on F.FNC_STATUS_DOOR_OPEN = true ∧ t.fence.doorDriver = true ∧ t.on F.FNC_STATUS_BLANK_ALL = true ∧ held 2 t ∧
      (s.on F.FNC_INTERLOCK_CFG_DOOR_STOPS_STAGE = true → s.pln.motion = .move → t.pln.motion = .stopping)) ∧
    (s.pins.doorOk = false → Answers .doorOkEdge s fun t => t.pins.doorOk = true ∧
      t.on F.FNC_STATUS_DOOR_OPEN = false ∧ t.fence = s.fence ∧ OnlyParts [.pins, .regs] s t) ∧
    (∀ door, (if door then s.pins.doorOk else s.pins.holdReqL) = true → Answers (.interlockRelease door) s fun t =>
      (if door then t.fence.doorDriver else t.fence.holdDriver) = false ∧ t.on F.FNC_STATUS_BLANK_ALL = t.blanking ∧
      OnlyParts [.pins, .regs, .fence] s t) ∧
    (s.fence.unseen ≠ [] → Answers .blankAllCheck s fun t => t.on F.FNC_TRIP_STATUS_BLANK_UNSEEN = true ∧
      t.fence.unseen = []) ∧
    (∀ l i v, highest (l.take 4) = some (i, v) →
      (8 * s.tripLevel false ≤ v → s.fence.trip = 0 → Answers (.aonComparatorRead l) s fun t =>
        t.fence.comparators = l.take 4 ∧ t.on F.FNC_TRIP_STATUS_DIE_TRIP = true ∧ t.on F.FNC_STATUS_COOLED = false ∧
        t.fence.tripReading = v ∧ t.on F.FNC_STATUS_BLANK_ALL = true ∧
        (s.on F.FNC_STATUS_HW_MODE = false → t.fence.trip = 1 ∧ (s.fenceTrip = false → held 3 t)) ∧
        (s.on F.FNC_STATUS_HW_MODE = true → t.fence.trip = 2 ∧ t.jobs = Jobs.empty ∧ t.gates = [])) ∧
      (v < 8 * s.tripLevel false → s.on F.FNC_STATUS_THERMTRIP = true →
        (s.fence.trip = 1 → Answers (.aonComparatorRead l) s fun t => t.on F.FNC_STATUS_THERMTRIP = true ∧
          t.on F.FNC_STATUS_COOLED = decide (v < 8 * s.restartLevel false)) ∧
        (s.fence.trip = 2 → v < 8 * s.restartLevel false → Answers (.aonComparatorRead l) s fun t =>
          t.on F.FNC_STATUS_THERMTRIP = false ∧ t.pins.thermtripL = true ∧
          t.on F.FNC_TRIP_STATUS_DIE_TRIP = false ∧ t.fence.trip = 0))) ∧
    (s.fence.trip = 1 →
      (s.pln.motion ≠ .rest → Answers .thermalStopLimit s fun t => t.pln.motion = .rest ∧ t.pln.hard = true ∧
        OnlyParts [.regs, .evPending, .pln] s t) ∧
      (s.pln.motion = .rest → s.on F.FNC_STATUS_THERMTRIP = false → ∀ heldMs stopMs,
        Answers (.thermalShutdown heldMs stopMs) s fun t => t.on F.FNC_STATUS_THERMTRIP = true ∧
          t.pins.thermtripL = false ∧ t.ret.shutdown = some (shutdownRecord heldMs stopMs s.begin) ∧ t.gates = [] ∧
          t.jobs = Jobs.empty ∧ t.mem.cells = [] ∧ t.mem.valid = [] ∧ t.nvl.flash = s.nvl.flash)) ∧
    (s.pins.loading = false →
      (s.on F.FNC_STATUS_COOLED = true → s.on F.FNC_STATUS_THERMTRIP = true → Answers .thermtripRelease s fun t =>
        t.on F.FNC_STATUS_THERMTRIP = false ∧ t.pins.thermtripL = true ∧ t.fence.trip = 0 ∧
        OnlyParts [.pins, .regs, .fence] s t) ∧
      (s.on F.FNC_STATUS_COOLED = false → exec .thermtripRelease s = .next s.begin))

/-! ### Housekeeping, calibration, the ledger, check units and the loader -/

/-- A housekeeping round that is taken counts, shows every reading, and lets the flash be written while the readings
allow it; one that is not taken is counted missed. (No reading of the round is at or above TRIP.) A telemetry period
that ends forms its record, shows it and writes its slot; the usage counters are cleared by the lease holder, and what
landed in the meantime is applied when the clear ends. -/
def Obligations.RoundsAndTelemetry : Prop :=
  ∀ (p : Nat) (s : State),
    (∀ readings, s.islandOpen 1 = true →
      ((∀ i, i < 28 → ∀ v, roundReading readings i s = some v → v < 8 * s.tripLevel (decide (24 ≤ i))) →
        Answers (.hkRound readings true) s fun t =>
          t.f F.HK_ROUND_ROUND = (s.f F.HK_ROUND_ROUND + 1) % 65536 ∧ t.ledger.tRounds = s.ledger.tRounds + 1 ∧
          (∀ i v, i < 64 → roundReading readings i s = some v → t.on (F.HK_CHANNEL_VALID i) = true ∧
            t.f (F.HK_CHANNEL_VALUE i) = unsigned 16 v) ∧
          t.on F.HK_FLAGS_FLASH_WINDOW = (match t.dieReading, t.coldest with
            | some hi, some lo => inFlashWindow s.fuses.gradeC hi && inFlashWindow s.fuses.gradeC lo
            | _, _ => false)) ∧
      Answers (.hkRound readings false) s fun t => OnlyParts [.regs, .ledger] s t ∧
        SameRegsBut [F.HK_ROUND.off] s t ∧ t.ledger.tMissed = s.ledger.tMissed + 1 ∧
        t.f F.HK_ROUND_MISSED = min 65535 (s.f F.HK_ROUND_MISSED + 1)) ∧
    (s.islandOpen 1 = true → max 1 (s.f F.LDG_TELEM_CFG_ROUNDS) ≤ s.ledger.tRounds →
      let b := telemetryBytes s.begin ++ leBytes 4 (crc32c (telemetryBytes s.begin))
      let slots := s.f F.LDG_TELEM_CFG_SLOTS
      let base := s.addr F.LDG_TELEM_BASE_LO.off F.LDG_TELEM_BASE_HI.off
      let a := base + 256 * (s.ledger.tSeq % slots)
      Answers .telemetryRecord s fun t => t.ledger.tRounds = 0 ∧ t.ledger.tSeq = min 0xFFFFFFFE (s.ledger.tSeq + 1) ∧
        (∀ i, i < 64 → t.rd (F.LDG_TELEM_LAST_WORD i).off = leAt b (4 * i) 4) ∧
        (slots = 0 → t.mem = s.mem) ∧
        (slots ≠ 0 → base % 4096 = 0 → s.inDram base (256 * slots) = true → s.lockedStreams = [] →
          s.memGone a 256 = none → s.on F.MEM_FLIP_CTRL_ARMED = false → InForm s →
          ∀ i, i < 256 → t.dramByte (a + i) = b.getD i 0) ∧
        (slots ≠ 0 → base % 4096 ≠ 0 → t.mem = s.mem ∧ t.on F.LDG_TELEM_CFG_TELEM_REFUSED = true)) ∧
    (Commands p F.LDG_USAGE_CTRL.off s → Answers (.usageClear p) s fun t => t.usage = [] ∧
      t.ledger.usageClearing = true) ∧
    (s.ledger.usageClearing = true → Answers .usageClearDone s fun t => t.usage = s.ledger.usageLate ∧
      t.ledger.usageClearing = false ∧ t.ledger.usageLate = [] ∧ OnlyParts [.ledger, .usage] s t)

/-- Calibration. RUN and age make instances due; the engine starts the first due instance that can run, and its
completion stores the choice as its item takes it; an instance may be tried again after its wait, and one due for too
long is recorded. The composer of test furrows refuses bad parameters, a locked area and one out of range, and
otherwise writes the pattern's stream, whose size shows when it is done. -/
def Obligations.Calibration : Prop :=
  ∀ (p item inst : Nat) (s : State), let key := 256 * item + inst
    let c := s.calInst key
    (Commands p F.CAL_CTRL.off s → inst < 256 → s.calExists item inst = true → Answers (.calRun p item) s fun t =>
      t.calInst key = { c with due := true, asked := c.asked || !s.furrowArmed }) ∧
    (s.calExists item inst = true → c.valid = true → Answers (.calDueAge item inst) s fun t =>
      t.calInst key = { c with due := true } ∧ OnlyParts [.cal] s t) ∧
    (Answers (.calRetryEligible item inst) s fun t => t.calInst key = { c with waiting := false } ∧
      OnlyParts [.cal] s t) ∧
    (s.calExists item inst = true → c.due = true → c.overdue = false → s.on F.CAL_CTRL_ENABLE = true →
      Answers (.calOverdue item inst) s fun t => t.calInst key = { c with overdue := true } ∧
        OnlyParts [.ret, .regs, .evPending, .cal, .ledger] s t) ∧
    (s.islandOpen 1 = true → s.on F.CAL_CTRL_ENABLE = true → s.cal.running = none →
      (∀ k, s.calAll.find? s.calRunnable = some k → Answers .calInstanceStart s fun t => t.cal.running = some k ∧
        t.f F.CAL_STATUS_STATE = 1 ∧ t.f F.CAL_STATUS_ITEM = k / 256 ∧ t.f F.CAL_STATUS_INSTANCE = k % 256) ∧
      (s.calAll.find? s.calRunnable = none → Answers .calInstanceStart s fun t => t.cal = s.cal ∧
        t.f F.CAL_STATUS_STATE = (if s.calAll.any fun k => (s.calInst k).due && [4, 7, 8].contains (k / 256) then 2
          else 0))) ∧
    (∀ k choice, s.cal.running = some k → ¬(k / 256 = 4 ∧ s.cal.spare = some 8 ∧ s.cal.step ≠ 5) →
      Answers (.calInstanceDone choice) s fun t => t.cal.running = none ∧ t.f F.CAL_STATUS_STATE = 0 ∧
        (t.calInst k).valid = true ∧ (t.calInst k).due = false ∧ (t.calInst k).age = 0 ∧
        (t.calInst k).choice = choiceOf (k / 256) (if (s.calInst k).valid then some (s.calInst k).choice else none) choice ∧
        (t.calInst k).tap = (t.calInst k).choice ∧ (t.calInst k).preSince = 0) ∧
    (Commands p F.CAL_TEST_CTRL.off s → s.f F.CAL_TEST_CTRL_RESULT ≠ 1 →
      let step := s.f F.CAL_TEST_PARAM_DOSE_STEP
      let band := s.f F.CAL_TEST_PARAM_BAND
      let feeder := s.f F.CAL_TEST_FURROW_FEEDER
      let a := s.addr F.CAL_TEST_ADDR_LO.off F.CAL_TEST_ADDR_HI.off
      let b := testStream (s.f F.CAL_TEST_CTRL_PATTERN) band (s.rd F.CAL_TEST_JOB.off) (s.f F.CAL_TEST_FURROW_FURROW)
        (s.f F.CAL_TEST_FURROW_PASS) feeder step
      (46080 < 16 * step ∨ s.cls.exposures ≤ band ∨ (feeder ≠ 1 ∧ feeder ≠ 2) → Answers (.calTestCompose p) s fun t =>
        t.f F.CAL_TEST_CTRL_RESULT = 5 ∧ t.mem = s.mem) ∧
      (16 * step ≤ 46080 → band < s.cls.exposures → feeder = 1 ∨ feeder = 2 →
        (s.meetsLocked a b.length = true → Answers (.calTestCompose p) s fun t =>
          t.f F.CAL_TEST_CTRL_RESULT = 3 ∧ t.mem = s.mem) ∧
        (s.lockedStreams = [] → a % 4096 = 0 → s.inDram a b.length = true → Answers (.calTestCompose p) s fun t =>
          t.f F.CAL_TEST_CTRL_RESULT = 1 ∧ t.cal.testBytes = b.length ∧
          (s.memGone a b.length = none → s.on F.MEM_FLIP_CTRL_ARMED = false → InForm s →
            ∀ i, i < b.length → t.dramByte (a + i) = b.getD i 0)))) ∧
    (s.f F.CAL_TEST_CTRL_RESULT = 1 → Answers .calTestDone s fun t => t.f F.CAL_TEST_CTRL_RESULT = 2 ∧
      t.rd F.CAL_TEST_BYTES.off = s.cal.testBytes % 2 ^ 32 ∧ OnlyParts [.regs] s t)

/-- The ledger's log. An open record closes after HOLD_S seconds; the oldest closed record is programmed at the log's
end while the flash may be written; a freeze lasts until UNFREEZE or its time-out; reads follow each party's pointer. A
clear is requested, authorised and confirmed, in that order and in time. -/
def Obligations.LedgerLog : Prop :=
  ∀ (p : Nat) (s : State), let log := fun (t : State) => t.nvl.flash = s.nvl.flash ∧ t.nvl.store = s.nvl.store
    (∀ r, s.ret.openRec = some r → Answers .ledgerHoldExpiry s fun t => t.ret.openRec = none ∧
      OnlyParts [.ret, .regs] s t ∧
      (s.ledgerStopped = false → s.flashPresent = true →
        queueBytes s.ret.queue + 64 * bitOf s.ret.loaderConfirm.isSome + r.bytes ≤ 49152 →
        t.ret.queue = s.ret.queue ++ [r])) ∧
    (∀ r rest, s.mayCommit = true → s.ret.queue = r :: rest → s.ledgerStopped = false →
      s.f F.LDG_USED_BYTES + r.bytes ≤ ledgerSize - 32 → Answers .ledgerCommit s fun t =>
        t.ret.queue = rest ∧ t.f F.LDG_USED_BYTES = s.f F.LDG_USED_BYTES + r.bytes ∧
        t.f F.LDG_RECORDS_COUNT = min (2 ^ 32 - 1) (s.f F.LDG_RECORDS_COUNT + 1) ∧
        t.nvl.flash = (flashProgram (ledgerBase + s.f F.LDG_USED_BYTES) (recordBytes r) s).nvl.flash) ∧
    (Reaches p F.LDG_CTRL.off s → (p = 1 ∨ p = 2 ∨ p = 4) →
      (s.ledger.mode = 0 → Answers (.ledgerFreeze p) s fun t => log t ∧ t.f F.LDG_STATUS_FREEZER = p ∧
        t.ret.openRec = none ∧ t.ledger.freezeLeft = t.ret.queue.length ∧
        t.ledger.mode = if t.ret.queue = [] then 2 else 1) ∧
      (s.ledger.mode = 1 ∨ s.ledger.mode = 2 →
        (s.f F.LDG_STATUS_FREEZER = p ∨ s.holder = p → Answers (.ledgerUnfreeze p) s fun t => log t ∧
          t.ledger.mode = 0 ∧ t.f F.LDG_STATUS_FREEZER = 0) ∧
        (s.f F.LDG_STATUS_FREEZER ≠ p → s.holder ≠ p → Answers (.ledgerUnfreeze p) s fun t => log t ∧
          t.ledger = s.ledger)) ∧
      (s.f F.LDG_CLEAR_STATE ≠ 1 → s.f F.LDG_CLEAR_STATE ≠ 3 → s.f F.LDG_CLEAR_STATE ≠ 4 →
        s.f F.LDG_STATUS_FREEZER = 0 → Answers (.clearRequest p) s fun t => log t ∧ t.f F.LDG_CLEAR_STATE = 1 ∧
          t.f F.LDG_CLEAR_REQUESTER = p ∧ t.f F.LDG_CLEAR_REASON = 0) ∧
      (s.f F.LDG_CLEAR_STATE = 2 → s.f F.LDG_CLEAR_REQUESTER = p → Answers (.clearConfirm p) s fun t =>
        t.ledger.mode = 3 ∧ (s.windowHolds = false → t.f F.LDG_CLEAR_STATE = 3 ∧ log t) ∧
        (s.windowHolds = true → s.nvl.flashBusy = 0 → s.nvl.update = none → s.fence.trip = 0 →
          t.f F.LDG_CLEAR_STATE = 4 ∧ t.nvl.flashBusy = 2 ∧ t.ledger.eraseNext = 0)) ∧
      (s.f F.LDG_CLEAR_STATE ≠ 2 → Answers (.clearConfirm p) s fun t => log t ∧ t.f F.LDG_CLEAR_REASON = 3 ∧
        t.f F.LDG_CLEAR_STATE = s.f F.LDG_CLEAR_STATE)) ∧
    (s.ledger.mode = 1 ∨ s.ledger.mode = 2 → Answers .freezeTimeout s fun t => t.ledger.mode = 0 ∧
      t.f F.LDG_STATUS_FREEZER = 0 ∧ OnlyParts [.regs, .ledger] s t) ∧
    (Reaches p F.LDG_READ_DATA.off s → Answers (.ldgReadData p) s fun t =>
      t.out = [.reply p (if p = 3 then s.smbusStatus else 0) [if s.f F.LDG_USED_BYTES ≤ s.ledgerPtr p then 0xFFFFFFFF
        else ofLe (s.flashBytes (ledgerBase + s.ledgerPtr p) 4)]] ∧
      t.ledgerPtr p = (s.ledgerPtr p + 4) % 0x400000 ∧ (∀ q, q ≠ p → t.ledgerPtr q = s.ledgerPtr q) ∧
      AccessOnly p [.regs, .ledger, .smbusStatus] s t) ∧
    (s.f F.LDG_CLEAR_STATE = 2 → Answers .authorisationExpiry s fun t => t.f F.LDG_CLEAR_STATE = 7 ∧
      OnlyParts [.regs] s t)

/-- Check units, for their owner: INIT starts the value, feeds take their bytes lowest first and count them, and RESULT
shows the final value; U03 is claimed and released. -/
def Obligations.CheckUnits : Prop :=
  ∀ (p u : Nat) (s : State), u < 4 → let poly := s.chkPoly u
    let count := s.f (F.CHK_Unn_COUNT_BYTES u)
    let fed := fun (n v : Nat) (t : State) => t.chkCrc u = (leBytes n v).foldl (chkByte poly) (s.chkCrc u) ∧
      t.f (F.CHK_Unn_COUNT_BYTES u) = min (2 ^ 32 - 1) (count + n) ∧
      t.rd (F.CHK_Unn_RESULT u).off = chkFinal poly (t.chkCrc u) % 2 ^ 32
    (p = 1 ∨ p = 2 ∨ p = 4) →
    (Reaches p (F.CHK_Unn_CTRL 3).off s →
      (s.chkOwner 3 = 0 → Answers (.chkClaim p) s fun t => t.chkOwner 3 = p ∧ t.chk = s.chk) ∧
      (s.chkOwner 3 = p → Answers (.chkRelease p) s fun t => t.chkOwner 3 = 0 ∧ t.chk = s.chk)) ∧
    (s.chkOwner u = p →
      (Reaches p (F.CHK_Unn_CTRL u).off s → s.on (F.CHK_Unn_CTRL_ALIVE_EN u) = false →
        Answers (.chkInit p u) s fun t => t.chkCrc u = chkInit poly ∧ t.f (F.CHK_Unn_COUNT_BYTES u) = 0 ∧
          t.rd (F.CHK_Unn_RESULT u).off = chkFinal poly (chkInit poly) % 2 ^ 32) ∧
      (Reaches p (F.CHK_Unn_CTRL u).off s → s.on (F.CHK_Unn_CTRL_ALIVE_EN u) = true →
        let alive := s.f (F.CHK_Unn_ALIVE_ALIVE u)
        Answers (.chkInit p u) s fun t => t.chkCrc u = (leBytes 1 alive).foldl (chkByte poly) (chkInit poly) ∧
          t.f (F.CHK_Unn_COUNT_BYTES u) = 1 ∧ t.f (F.CHK_Unn_ALIVE_ALIVE u) = (alive + 1) % 256) ∧
      ∀ v : Word,
        (Reaches p (F.CHK_Unn_FEED8 u).off s → Answers (.chkFeed8 p u v) s (fed 1 v.toNat)) ∧
        (Reaches p (F.CHK_Unn_FEED16 u).off s → Answers (.chkFeed16 p u v) s (fed 2 v.toNat)) ∧
        (Reaches p (F.CHK_Unn_FEED32 u).off s → Answers (.chkFeed32 p u v) s (fed 4 v.toNat))) ∧
    (Reaches p (F.CHK_Unn_RESULT u).off s → Answers (.chkResult p u) s fun t =>
      t.out = [.reply p 0 [s.rd (F.CHK_Unn_RESULT u).off]] ∧ t.chk = s.chk ∧ SameRegsBut [] s t)

/-- The loader, for the lease holder and with no CONFIRM waiting: UPDATE of a staged image that passes its checks begins
with the inactive slot, and one that fails is refused; ABORT ends it between operations; CONFIRM confirms a trial slot;
ADOPT and VERIFY act on slots; and the flash's operations take an update and a verification on to their end. -/
def Obligations.LoaderCommands : Prop :=
  ∀ (p : Nat) (s : State), s.ret.loaderConfirm = none →
    (Commands p F.NVL_CTRL.off s →
      (s.nvl.update = none → s.flashPresent = true → nth s.nvl.store.erases s.inactiveSlot < 100000 →
        let s1 := (s.begin.numbered p F.NVL_CTRL.off true).set F.NVL_CTRL_CMD 1
        (∀ b s2, stagedImage s1 = ((b, none), s2) → Answers (.nvlUpdate p) s fun t => t.f F.NVL_CTRL_RESULT = 1 ∧
          t.nvl.flash = s.nvl.flash ∧ ∃ u, t.nvl.update = some u ∧ u.target = s.inactiveSlot ∧ u.phase = .storeEmpty ∧
            u.bytes = b.length ∧ u.starter = p) ∧
        (∀ b e s2, stagedImage s1 = ((b, some e), s2) → Answers (.nvlUpdate p) s fun t =>
          t.f F.NVL_CTRL_RESULT = 4 ∧ t.nvl = s2.nvl)) ∧
      (∀ u, s.nvl.update = some u →
        (Answers (.nvlUpdate p) s fun t => t.f F.NVL_CTRL_RESULT = 3 ∧ t.nvl = s.nvl) ∧
        (u.phase = .erase → s.nvl.flashBusy = 0 → Answers (.nvlAbort p) s fun t => t.nvl.update = none ∧
          t.f F.NVL_CTRL_RESULT = 6 ∧ t.f F.NVL_STATUS_STATE = 1) ∧
        (u.phase = .erase → s.nvl.flashBusy ≠ 0 → Answers (.nvlAbort p) s fun t =>
          t.nvl.update = some { u with abort := true } ∧ t.nvl.flash = s.nvl.flash)) ∧
      (s.nvl.update = none → s.activeSlot ≠ 2 → s.nvl.store.stateOf s.activeSlot = 1 →
        (s.mayWrite = true → s.nvl.flashBusy = 0 → Answers (.nvlConfirm p) s fun t => t.f F.NVL_CTRL_RESULT = 2 ∧
          t.nvl.store.stateOf s.activeSlot = 2 ∧ t.ret.loaderConfirm = none) ∧
        (s.mayWrite = false → Answers (.nvlConfirm p) s fun t => t.f F.NVL_CTRL_RESULT = 1 ∧
          t.ret.loaderConfirm = some s.activeSlot ∧ t.nvl = s.nvl)) ∧
      (s.nvl.update = none → let k := s.inactiveSlot
        (s.activeSlot ≠ 2 → s.nvl.store.stateOf k = 1 → headerCode s.fuses (s.slotReader k) = 0 →
          (s.sealedBytes k).isSome = true → s.sealedBytes k = s.sealedBytes s.activeSlot →
          Answers (.nvlAdopt p) s fun t => t.f F.NVL_CTRL_RESULT = 2 ∧ t.f F.NVL_STATUS_ACTIVE = k ∧
            t.on F.NVL_STATUS_ADOPTED = true ∧ t.nvl = s.nvl) ∧
        (s.nvl.store.stateOf k ≠ 1 → Answers (.nvlAdopt p) s fun t => t.f F.NVL_CTRL_RESULT = 4 ∧
          t.f F.NVL_STATUS_ACTIVE = s.f F.NVL_STATUS_ACTIVE)) ∧
      (∀ target, target < 2 → s.nvl.update = none → s.flashPresent = true → s.nvl.flashBusy = 0 →
        Answers (.nvlVerify p target) s fun t => t.f F.NVL_CTRL_RESULT = 1 ∧ t.nvl.flashBusy = 3 ∧
          t.f F.NVL_STATUS_STATE = 4 ∧ ∃ u, t.nvl.update = some u ∧ u.target = target ∧ u.phase = .verify)) ∧
    (∀ u, s.nvl.update = some u → s.nvl.flashBusy ≠ 0 → s.nvl.suspended = false → s.f F.LDG_CLEAR_STATE ≠ 4 →
      u.abort = false → u.target < 2 →
      (u.phase = .verify → Answers .flashOperationDone s fun t => t.nvl.update = none ∧
        t.f F.NVL_CTRL_RESULT = (if imageCheck s.fuses (s.slotReader u.target) = none then 2 else 4)) ∧
      (u.phase = .erase → InForm s → let a := slotBase u.target + 0x10000 * u.pos
        Answers .flashOperationDone s fun t =>
          (∀ x, t.flashByte x = if a ≤ x ∧ x < a + 0x10000 then 0xFF else s.flashByte x) ∧
          t.nvl.update = some (if (u.pos + 1) * 0x10000 < u.bytes then { u with pos := u.pos + 1 }
            else { u with phase := .program, pos := 0 })) ∧
      (u.phase = .storeTrial → Answers .flashOperationDone s fun t => t.nvl.update = none ∧
        t.f F.NVL_CTRL_RESULT = 2 ∧ t.nvl.store.stateOf u.target = 1 ∧ t.nvl.store.seqOf u.target = u.seq))
end

