-- ==== Sys2Proof/Laws/State.lean ====
section
/-! SUPPORT. What the named updates of State change and leave: one lemma for each field and update, and how registers
read after a store. -/

namespace Sys2Proof.Machine

/-! ### Association lists -/

@[simp] theorem alGet_alSet_same {α : Type} (l : List (Nat × α)) (a : Nat) (x : α) : alGet (alSet l a x) a = some x := by
  induction l with
  | nil => simp [alSet, alGet]
  | cons h t ih =>
    obtain ⟨k, v⟩ := h
    by_cases h1 : a = k
    · simp [alSet, alGet, h1]
    · by_cases h2 : a < k
      · simp [alSet, alGet, h1, h2]
      · simp [alSet, alGet, h1, h2, ih]

theorem alGet_alSet_other {α : Type} (l : List (Nat × α)) (a b : Nat) (x : α) (hb : b ≠ a) :
    alGet (alSet l a x) b = alGet l b := by
  induction l with
  | nil => simp [alSet, alGet, hb]
  | cons h t ih =>
    obtain ⟨k, v⟩ := h
    by_cases h1 : a = k
    · subst h1; simp [alSet, alGet, hb]
    · by_cases h2 : a < k
      · by_cases h3 : b < a
        · have h4 : b ≠ k := by omega
          have h5 : b < k := by omega
          simp [alSet, alGet, h1, h2, h3, h4, h5, hb]
        · simp [alSet, alGet, h1, h2, h3, hb]
      · by_cases h3 : b = k
        · simp [alSet, alGet, h1, h2, h3]
        · by_cases h4 : b < k
          · simp [alSet, alGet, h1, h2, h3, h4]
          · simp [alSet, alGet, h1, h2, h3, h4, ih]

/-! ### Bit fields -/

/-- A field stored reads back, cut to its width. -/
@[simp] theorem bits_withBits_same (old hi lo v : Nat) : bits (withBits old hi lo v) hi lo = v % 2 ^ (hi + 1 - lo) := by
  simp only [bits, withBits, Nat.shiftRight_eq_div_pow, Nat.shiftLeft_eq]
  have h := Nat.div_add_mod old (2 ^ lo)
  have h2 := Nat.div_add_mod (old / 2 ^ lo) (2 ^ (hi + 1 - lo))
  have hw : 0 < 2 ^ lo := Nat.two_pow_pos lo
  generalize 2 ^ (hi + 1 - lo) = w at *
  generalize hq : old / 2 ^ lo = q at *
  have e : old - q % w * 2 ^ lo + v % w * 2 ^ lo = 2 ^ lo * (w * (q / w) + v % w) + old % 2 ^ lo := by
    have hm : q % w ≤ q := Nat.mod_le q w
    have : q % w * 2 ^ lo ≤ old := by
      calc q % w * 2 ^ lo ≤ q * 2 ^ lo := Nat.mul_le_mul_right _ hm
        _ ≤ old := by rw [← h, Nat.mul_comm]; exact Nat.le_add_right _ _
    have h3 : old = 2 ^ lo * (w * (q / w)) + 2 ^ lo * (q % w) + old % 2 ^ lo := by
      rw [← Nat.mul_add, h2]; exact h.symm
    rw [Nat.mul_add, Nat.mul_comm (q % w), Nat.mul_comm (v % w)]
    omega
  rw [e, Nat.mul_add_div hw, Nat.div_eq_of_lt (Nat.mod_lt _ hw), Nat.add_zero, Nat.mul_add_mod, Nat.mod_mod]

/-- A bit outside a field stored stands. -/
theorem testBit_withBits (old hi lo v i : Nat) (hlo : lo ≤ hi) :
    (withBits old hi lo v).testBit i = if lo ≤ i ∧ i ≤ hi then v.testBit (i - lo) else old.testBit i := by
  have key : withBits old hi lo v =
      2 ^ (hi + 1) * (old / 2 ^ (hi + 1)) + (2 ^ lo * (v % 2 ^ (hi + 1 - lo)) + old % 2 ^ lo) := by
    simp only [withBits, Nat.shiftRight_eq_div_pow, Nat.shiftLeft_eq]
    have e1 : 2 ^ (hi + 1) = 2 ^ lo * 2 ^ (hi + 1 - lo) := by rw [← Nat.pow_add]; congr 1; omega
    have h := Nat.div_add_mod old (2 ^ lo)
    have h2 := Nat.div_add_mod (old / 2 ^ lo) (2 ^ (hi + 1 - lo))
    rw [e1, ← Nat.div_div_eq_div_mul]
    generalize 2 ^ (hi + 1 - lo) = w at *
    generalize hq : old / 2 ^ lo = q at *
    have hm : q % w ≤ q := Nat.mod_le q w
    have : q % w * 2 ^ lo ≤ old := by
      calc q % w * 2 ^ lo ≤ q * 2 ^ lo := Nat.mul_le_mul_right _ hm
        _ ≤ old := by rw [← h, Nat.mul_comm]; exact Nat.le_add_right _ _
    have h3 : old = 2 ^ lo * (w * (q / w)) + 2 ^ lo * (q % w) + old % 2 ^ lo := by
      rw [← Nat.mul_add, h2]; exact h.symm
    rw [Nat.mul_comm (q % w), Nat.mul_comm (v % w), Nat.mul_assoc]
    omega
  have b1 : old % 2 ^ lo < 2 ^ lo := Nat.mod_lt _ (Nat.two_pow_pos lo)
  have b2 : 2 ^ lo * (v % 2 ^ (hi + 1 - lo)) + old % 2 ^ lo < 2 ^ (hi + 1) := by
    have : v % 2 ^ (hi + 1 - lo) < 2 ^ (hi + 1 - lo) := Nat.mod_lt _ (Nat.two_pow_pos _)
    have e1 : 2 ^ (hi + 1) = 2 ^ lo * 2 ^ (hi + 1 - lo) := by rw [← Nat.pow_add]; congr 1; omega
    rw [e1]
    have h4 : 2 ^ lo * (v % 2 ^ (hi + 1 - lo)) + 2 ^ lo ≤ 2 ^ lo * 2 ^ (hi + 1 - lo) := by
      rw [← Nat.mul_succ]; exact Nat.mul_le_mul_left _ this
    omega
  rw [key, Nat.testBit_two_pow_mul_add _ b2, Nat.testBit_two_pow_mul_add _ b1]
  by_cases h1 : i < lo
  · have : ¬ (lo ≤ i ∧ i ≤ hi) := by omega
    have h2 : i < hi + 1 := by omega
    simp [h1, h2, this, Nat.testBit_mod_two_pow]
  · by_cases h2 : i ≤ hi
    · have h3 : lo ≤ i ∧ i ≤ hi := by omega
      have h4 : i < hi + 1 := by omega
      have h5 : i - lo < hi + 1 - lo := by omega
      simp [h1, h3, h4, h5, Nat.testBit_mod_two_pow]
    · have h3 : ¬ (lo ≤ i ∧ i ≤ hi) := by omega
      have h4 : ¬ i < hi + 1 := by omega
      simp only [h4, h3, if_false]
      rw [Nat.testBit_div_two_pow]
      congr 1; omega

/-- A field apart from the one stored stands. -/
theorem bits_withBits_other (old hi lo v hi' lo' : Nat) (hlo : lo ≤ hi) (h : hi' < lo ∨ hi < lo') :
    bits (withBits old hi lo v) hi' lo' = bits old hi' lo' := by
  apply Nat.eq_of_testBit_eq
  intro i
  simp only [bits, Nat.testBit_mod_two_pow, Nat.testBit_shiftRight]
  by_cases hi2 : i < hi' + 1 - lo'
  · rw [testBit_withBits _ _ _ _ _ hlo]
    have : ¬ (lo ≤ lo' + i ∧ lo' + i ≤ hi) := by omega
    simp [this]
  · simp [hi2]

/-- A field of a 32-bit word does not see what is above it. -/
@[simp] theorem bits_mod_word (n hi lo : Nat) (h : hi < 32) : bits (n % 2 ^ 32) hi lo = bits n hi lo := by
  apply Nat.eq_of_testBit_eq
  intro i
  simp only [bits, Nat.testBit_mod_two_pow, Nat.testBit_shiftRight]
  by_cases hi2 : i < hi + 1 - lo
  · have : lo + i < 32 := by omega
    simp [this]
  · simp [hi2]

/-! ### Registers -/

/-- A register stored reads back, cut to 32 bits. -/
@[simp] theorem rd_wr_same (s : State) (off v : Nat) : (s.wr off v).rd off = v % 2 ^ 32 := by
  simp [State.rd, State.wr]

/-- A store leaves every other register. -/
theorem rd_wr_other (s : State) (off v a : Nat) (h : a ≠ off) : (s.wr off v).rd a = s.rd a := by
  simp [State.rd, State.wr, alGet_alSet_other _ _ _ _ h]

/-- A field stored reads back, cut to its width. -/
@[simp] theorem f_set_same (s : State) (x : Fld) (v : Nat) (h : x.hi < 32) : (s.set x v).f x = v % 2 ^ (x.hi + 1 - x.lo) := by
  simp only [State.f, State.set, rd_wr_same]
  rw [bits_mod_word _ _ _ h, bits_withBits_same]

/-- A field stored leaves the registers at other offsets. -/
theorem rd_set_other (s : State) (x : Fld) (v a : Nat) (h : a ≠ x.off) : (s.set x v).rd a = s.rd a :=
  rd_wr_other s x.off _ a h

/-- A field stored leaves the other fields of its register. -/
theorem f_set_apart (s : State) (x y : Fld) (v : Nat) (ho : y.off = x.off) (hx : x.lo ≤ x.hi) (hy : y.hi < 32)
    (h : y.hi < x.lo ∨ x.hi < y.lo) : (s.set x v).f y = s.f y := by
  simp only [State.f, State.set, ho, rd_wr_same]
  rw [bits_mod_word _ _ _ hy, bits_withBits_other _ _ _ _ _ _ hx h]

/-- A field stored leaves the fields of registers at other offsets. -/
theorem f_set_other (s : State) (x y : Fld) (v : Nat) (h : y.off ≠ x.off) : (s.set x v).f y = s.f y := by
  simp only [State.f, rd_set_other s x v y.off h]

/-- A register stored leaves the fields of registers at other offsets. -/
theorem f_wr_other (s : State) (off v : Nat) (y : Fld) (h : y.off ≠ off) : (s.wr off v).f y = s.f y := by
  simp only [State.f, rd_wr_other s off v y.off h]

/-- What registers hold depends on the stored words and the fuses alone. -/
theorem rd_congr (s t : State) (off : Nat) (hr : s.regs = t.regs) (hf : s.fuses = t.fuses) : s.rd off = t.rd off := by
  simp [State.rd, hr, hf]

@[simp] theorem emit_rd (s : State) (o : Out) (a : Nat) : (s.emit o).rd a = s.rd a := rfl
@[simp] theorem emit_f (s : State) (o : Out) (x : Fld) : (s.emit o).f x = s.f x := rfl
@[simp] theorem setGate_rd (s : State) (i : Nat) (g : Gate) (a : Nat) : (s.setGate i g).rd a = s.rd a := rfl
@[simp] theorem setGate_f (s : State) (i : Nat) (g : Gate) (x : Fld) : (s.setGate i g).f x = s.f x := rfl
@[simp] theorem begin_rd (s : State) (a : Nat) : s.begin.rd a = s.rd a := rfl
@[simp] theorem begin_f (s : State) (x : Fld) : s.begin.f x = s.f x := rfl
@[simp] theorem begin_on (s : State) (x : Fld) : s.begin.on x = s.on x := rfl
@[simp] theorem begin_gate (s : State) (i : Nat) : s.begin.gate i = s.gate i := rfl
@[simp] theorem begin_islandOpen (s : State) (i : Nat) : s.begin.islandOpen i = s.islandOpen i := rfl
@[simp] theorem begin_out (s : State) : s.begin.out = [] := rfl

/-! ### Gates -/

@[simp] theorem gate_setGate_same (s : State) (i : Nat) (g : Gate) : (s.setGate i g).gate i = g := by
  simp [State.gate, State.setGate]

theorem gate_setGate_other (s : State) (i j : Nat) (g : Gate) (h : j ≠ i) : (s.setGate i g).gate j = s.gate j := by
  simp [State.gate, State.setGate, alGet_alSet_other _ _ _ _ h]

/-! ### Fields each update leaves -/

@[simp] theorem wr_fuses (s : State) (off v : Nat) : (s.wr off v).fuses = s.fuses := rfl
@[simp] theorem wr_pins (s : State) (off v : Nat) : (s.wr off v).pins = s.pins := rfl
@[simp] theorem wr_ret (s : State) (off v : Nat) : (s.wr off v).ret = s.ret := rfl
@[simp] theorem wr_gates (s : State) (off v : Nat) : (s.wr off v).gates = s.gates := rfl
@[simp] theorem wr_gateCmd (s : State) (off v : Nat) : (s.wr off v).gateCmd = s.gateCmd := rfl
@[simp] theorem wr_retrying (s : State) (off v : Nat) : (s.wr off v).retrying = s.retrying := rfl
@[simp] theorem wr_leaseCmd (s : State) (off v : Nat) : (s.wr off v).leaseCmd = s.leaseCmd := rfl
@[simp] theorem wr_leaseResult (s : State) (off v : Nat) : (s.wr off v).leaseResult = s.leaseResult := rfl
@[simp] theorem wr_evPending (s : State) (off v : Nat) : (s.wr off v).evPending = s.evPending := rfl
@[simp] theorem wr_evEnable (s : State) (off v : Nat) : (s.wr off v).evEnable = s.evEnable := rfl
@[simp] theorem wr_ctx (s : State) (off v : Nat) : (s.wr off v).ctx = s.ctx := rfl
@[simp] theorem wr_smbusAddr (s : State) (off v : Nat) : (s.wr off v).smbusAddr = s.smbusAddr := rfl
@[simp] theorem wr_smbusStatus (s : State) (off v : Nat) : (s.wr off v).smbusStatus = s.smbusStatus := rfl
@[simp] theorem wr_usb (s : State) (off v : Nat) : (s.wr off v).usb = s.usb := rfl
@[simp] theorem wr_jobs (s : State) (off v : Nat) : (s.wr off v).jobs = s.jobs := rfl
@[simp] theorem wr_path (s : State) (off v : Nat) : (s.wr off v).path = s.path := rfl
@[simp] theorem wr_link (s : State) (off v : Nat) : (s.wr off v).link = s.link := rfl
@[simp] theorem wr_head (s : State) (off v : Nat) : (s.wr off v).head = s.head := rfl
@[simp] theorem wr_cal (s : State) (off v : Nat) : (s.wr off v).cal = s.cal := rfl
@[simp] theorem wr_dma (s : State) (off v : Nat) : (s.wr off v).dma = s.dma := rfl
@[simp] theorem wr_mem (s : State) (off v : Nat) : (s.wr off v).mem = s.mem := rfl
@[simp] theorem wr_ledger (s : State) (off v : Nat) : (s.wr off v).ledger = s.ledger := rfl
@[simp] theorem wr_chk (s : State) (off v : Nat) : (s.wr off v).chk = s.chk := rfl
@[simp] theorem wr_nvl (s : State) (off v : Nat) : (s.wr off v).nvl = s.nvl := rfl
@[simp] theorem wr_usage (s : State) (off v : Nat) : (s.wr off v).usage = s.usage := rfl
@[simp] theorem wr_bankA (s : State) (off v : Nat) : (s.wr off v).bankA = s.bankA := rfl
@[simp] theorem wr_bankB (s : State) (off v : Nat) : (s.wr off v).bankB = s.bankB := rfl
@[simp] theorem wr_headPlane (s : State) (off v : Nat) : (s.wr off v).headPlane = s.headPlane := rfl
@[simp] theorem wr_now (s : State) (off v : Nat) : (s.wr off v).now = s.now := rfl
@[simp] theorem wr_enc (s : State) (off v : Nat) : (s.wr off v).enc = s.enc := rfl
@[simp] theorem wr_zX (s : State) (off v : Nat) : (s.wr off v).zX = s.zX := rfl
@[simp] theorem wr_zY (s : State) (off v : Nat) : (s.wr off v).zY = s.zY := rfl
@[simp] theorem wr_yawX (s : State) (off v : Nat) : (s.wr off v).yawX = s.yawX := rfl
@[simp] theorem wr_yawY (s : State) (off v : Nat) : (s.wr off v).yawY = s.yawY := rfl
@[simp] theorem wr_shot (s : State) (off v : Nat) : (s.wr off v).shot = s.shot := rfl
@[simp] theorem wr_pln (s : State) (off v : Nat) : (s.wr off v).pln = s.pln := rfl
@[simp] theorem wr_fence (s : State) (off v : Nat) : (s.wr off v).fence = s.fence := rfl
@[simp] theorem wr_out (s : State) (off v : Nat) : (s.wr off v).out = s.out := rfl
@[simp] theorem wr_pending (s : State) (off v : Nat) : (s.wr off v).pending = s.pending := rfl
@[simp] theorem wr_freeCount (s : State) (off v : Nat) : (s.wr off v).freeCount = s.freeCount := rfl
@[simp] theorem set_fuses (s : State) (x : Fld) (v : Nat) : (s.set x v).fuses = s.fuses := rfl
@[simp] theorem set_pins (s : State) (x : Fld) (v : Nat) : (s.set x v).pins = s.pins := rfl
@[simp] theorem set_ret (s : State) (x : Fld) (v : Nat) : (s.set x v).ret = s.ret := rfl
@[simp] theorem set_gates (s : State) (x : Fld) (v : Nat) : (s.set x v).gates = s.gates := rfl
@[simp] theorem set_gateCmd (s : State) (x : Fld) (v : Nat) : (s.set x v).gateCmd = s.gateCmd := rfl
@[simp] theorem set_retrying (s : State) (x : Fld) (v : Nat) : (s.set x v).retrying = s.retrying := rfl
@[simp] theorem set_leaseCmd (s : State) (x : Fld) (v : Nat) : (s.set x v).leaseCmd = s.leaseCmd := rfl
@[simp] theorem set_leaseResult (s : State) (x : Fld) (v : Nat) : (s.set x v).leaseResult = s.leaseResult := rfl
@[simp] theorem set_evPending (s : State) (x : Fld) (v : Nat) : (s.set x v).evPending = s.evPending := rfl
@[simp] theorem set_evEnable (s : State) (x : Fld) (v : Nat) : (s.set x v).evEnable = s.evEnable := rfl
@[simp] theorem set_ctx (s : State) (x : Fld) (v : Nat) : (s.set x v).ctx = s.ctx := rfl
@[simp] theorem set_smbusAddr (s : State) (x : Fld) (v : Nat) : (s.set x v).smbusAddr = s.smbusAddr := rfl
@[simp] theorem set_smbusStatus (s : State) (x : Fld) (v : Nat) : (s.set x v).smbusStatus = s.smbusStatus := rfl
@[simp] theorem set_usb (s : State) (x : Fld) (v : Nat) : (s.set x v).usb = s.usb := rfl
@[simp] theorem set_jobs (s : State) (x : Fld) (v : Nat) : (s.set x v).jobs = s.jobs := rfl
@[simp] theorem set_path (s : State) (x : Fld) (v : Nat) : (s.set x v).path = s.path := rfl
@[simp] theorem set_link (s : State) (x : Fld) (v : Nat) : (s.set x v).link = s.link := rfl
@[simp] theorem set_head (s : State) (x : Fld) (v : Nat) : (s.set x v).head = s.head := rfl
@[simp] theorem set_cal (s : State) (x : Fld) (v : Nat) : (s.set x v).cal = s.cal := rfl
@[simp] theorem set_dma (s : State) (x : Fld) (v : Nat) : (s.set x v).dma = s.dma := rfl
@[simp] theorem set_mem (s : State) (x : Fld) (v : Nat) : (s.set x v).mem = s.mem := rfl
@[simp] theorem set_ledger (s : State) (x : Fld) (v : Nat) : (s.set x v).ledger = s.ledger := rfl
@[simp] theorem set_chk (s : State) (x : Fld) (v : Nat) : (s.set x v).chk = s.chk := rfl
@[simp] theorem set_nvl (s : State) (x : Fld) (v : Nat) : (s.set x v).nvl = s.nvl := rfl
@[simp] theorem set_usage (s : State) (x : Fld) (v : Nat) : (s.set x v).usage = s.usage := rfl
@[simp] theorem set_bankA (s : State) (x : Fld) (v : Nat) : (s.set x v).bankA = s.bankA := rfl
@[simp] theorem set_bankB (s : State) (x : Fld) (v : Nat) : (s.set x v).bankB = s.bankB := rfl
@[simp] theorem set_headPlane (s : State) (x : Fld) (v : Nat) : (s.set x v).headPlane = s.headPlane := rfl
@[simp] theorem set_now (s : State) (x : Fld) (v : Nat) : (s.set x v).now = s.now := rfl
@[simp] theorem set_enc (s : State) (x : Fld) (v : Nat) : (s.set x v).enc = s.enc := rfl
@[simp] theorem set_zX (s : State) (x : Fld) (v : Nat) : (s.set x v).zX = s.zX := rfl
@[simp] theorem set_zY (s : State) (x : Fld) (v : Nat) : (s.set x v).zY = s.zY := rfl
@[simp] theorem set_yawX (s : State) (x : Fld) (v : Nat) : (s.set x v).yawX = s.yawX := rfl
@[simp] theorem set_yawY (s : State) (x : Fld) (v : Nat) : (s.set x v).yawY = s.yawY := rfl
@[simp] theorem set_shot (s : State) (x : Fld) (v : Nat) : (s.set x v).shot = s.shot := rfl
@[simp] theorem set_pln (s : State) (x : Fld) (v : Nat) : (s.set x v).pln = s.pln := rfl
@[simp] theorem set_fence (s : State) (x : Fld) (v : Nat) : (s.set x v).fence = s.fence := rfl
@[simp] theorem set_out (s : State) (x : Fld) (v : Nat) : (s.set x v).out = s.out := rfl
@[simp] theorem set_pending (s : State) (x : Fld) (v : Nat) : (s.set x v).pending = s.pending := rfl
@[simp] theorem set_freeCount (s : State) (x : Fld) (v : Nat) : (s.set x v).freeCount = s.freeCount := rfl
@[simp] theorem inc_fuses (s : State) (x : Fld) (n : Nat) : (s.inc x n).fuses = s.fuses := rfl
@[simp] theorem inc_pins (s : State) (x : Fld) (n : Nat) : (s.inc x n).pins = s.pins := rfl
@[simp] theorem inc_ret (s : State) (x : Fld) (n : Nat) : (s.inc x n).ret = s.ret := rfl
@[simp] theorem inc_gates (s : State) (x : Fld) (n : Nat) : (s.inc x n).gates = s.gates := rfl
@[simp] theorem inc_gateCmd (s : State) (x : Fld) (n : Nat) : (s.inc x n).gateCmd = s.gateCmd := rfl
@[simp] theorem inc_retrying (s : State) (x : Fld) (n : Nat) : (s.inc x n).retrying = s.retrying := rfl
@[simp] theorem inc_leaseCmd (s : State) (x : Fld) (n : Nat) : (s.inc x n).leaseCmd = s.leaseCmd := rfl
@[simp] theorem inc_leaseResult (s : State) (x : Fld) (n : Nat) : (s.inc x n).leaseResult = s.leaseResult := rfl
@[simp] theorem inc_evPending (s : State) (x : Fld) (n : Nat) : (s.inc x n).evPending = s.evPending := rfl
@[simp] theorem inc_evEnable (s : State) (x : Fld) (n : Nat) : (s.inc x n).evEnable = s.evEnable := rfl
@[simp] theorem inc_ctx (s : State) (x : Fld) (n : Nat) : (s.inc x n).ctx = s.ctx := rfl
@[simp] theorem inc_smbusAddr (s : State) (x : Fld) (n : Nat) : (s.inc x n).smbusAddr = s.smbusAddr := rfl
@[simp] theorem inc_smbusStatus (s : State) (x : Fld) (n : Nat) : (s.inc x n).smbusStatus = s.smbusStatus := rfl
@[simp] theorem inc_usb (s : State) (x : Fld) (n : Nat) : (s.inc x n).usb = s.usb := rfl
@[simp] theorem inc_jobs (s : State) (x : Fld) (n : Nat) : (s.inc x n).jobs = s.jobs := rfl
@[simp] theorem inc_path (s : State) (x : Fld) (n : Nat) : (s.inc x n).path = s.path := rfl
@[simp] theorem inc_link (s : State) (x : Fld) (n : Nat) : (s.inc x n).link = s.link := rfl
@[simp] theorem inc_head (s : State) (x : Fld) (n : Nat) : (s.inc x n).head = s.head := rfl
@[simp] theorem inc_cal (s : State) (x : Fld) (n : Nat) : (s.inc x n).cal = s.cal := rfl
@[simp] theorem inc_dma (s : State) (x : Fld) (n : Nat) : (s.inc x n).dma = s.dma := rfl
@[simp] theorem inc_mem (s : State) (x : Fld) (n : Nat) : (s.inc x n).mem = s.mem := rfl
@[simp] theorem inc_ledger (s : State) (x : Fld) (n : Nat) : (s.inc x n).ledger = s.ledger := rfl
@[simp] theorem inc_chk (s : State) (x : Fld) (n : Nat) : (s.inc x n).chk = s.chk := rfl
@[simp] theorem inc_nvl (s : State) (x : Fld) (n : Nat) : (s.inc x n).nvl = s.nvl := rfl
@[simp] theorem inc_usage (s : State) (x : Fld) (n : Nat) : (s.inc x n).usage = s.usage := rfl
@[simp] theorem inc_bankA (s : State) (x : Fld) (n : Nat) : (s.inc x n).bankA = s.bankA := rfl
@[simp] theorem inc_bankB (s : State) (x : Fld) (n : Nat) : (s.inc x n).bankB = s.bankB := rfl
@[simp] theorem inc_headPlane (s : State) (x : Fld) (n : Nat) : (s.inc x n).headPlane = s.headPlane := rfl
@[simp] theorem inc_now (s : State) (x : Fld) (n : Nat) : (s.inc x n).now = s.now := rfl
@[simp] theorem inc_enc (s : State) (x : Fld) (n : Nat) : (s.inc x n).enc = s.enc := rfl
@[simp] theorem inc_zX (s : State) (x : Fld) (n : Nat) : (s.inc x n).zX = s.zX := rfl
@[simp] theorem inc_zY (s : State) (x : Fld) (n : Nat) : (s.inc x n).zY = s.zY := rfl
@[simp] theorem inc_yawX (s : State) (x : Fld) (n : Nat) : (s.inc x n).yawX = s.yawX := rfl
@[simp] theorem inc_yawY (s : State) (x : Fld) (n : Nat) : (s.inc x n).yawY = s.yawY := rfl
@[simp] theorem inc_shot (s : State) (x : Fld) (n : Nat) : (s.inc x n).shot = s.shot := rfl
@[simp] theorem inc_pln (s : State) (x : Fld) (n : Nat) : (s.inc x n).pln = s.pln := rfl
@[simp] theorem inc_fence (s : State) (x : Fld) (n : Nat) : (s.inc x n).fence = s.fence := rfl
@[simp] theorem inc_out (s : State) (x : Fld) (n : Nat) : (s.inc x n).out = s.out := rfl
@[simp] theorem inc_pending (s : State) (x : Fld) (n : Nat) : (s.inc x n).pending = s.pending := rfl
@[simp] theorem inc_freeCount (s : State) (x : Fld) (n : Nat) : (s.inc x n).freeCount = s.freeCount := rfl
@[simp] theorem setGate_fuses (s : State) (i : Nat) (g : Gate) : (s.setGate i g).fuses = s.fuses := rfl
@[simp] theorem setGate_pins (s : State) (i : Nat) (g : Gate) : (s.setGate i g).pins = s.pins := rfl
@[simp] theorem setGate_ret (s : State) (i : Nat) (g : Gate) : (s.setGate i g).ret = s.ret := rfl
@[simp] theorem setGate_regs (s : State) (i : Nat) (g : Gate) : (s.setGate i g).regs = s.regs := rfl
@[simp] theorem setGate_gateCmd (s : State) (i : Nat) (g : Gate) : (s.setGate i g).gateCmd = s.gateCmd := rfl
@[simp] theorem setGate_retrying (s : State) (i : Nat) (g : Gate) : (s.setGate i g).retrying = s.retrying := rfl
@[simp] theorem setGate_leaseCmd (s : State) (i : Nat) (g : Gate) : (s.setGate i g).leaseCmd = s.leaseCmd := rfl
@[simp] theorem setGate_leaseResult (s : State) (i : Nat) (g : Gate) : (s.setGate i g).leaseResult = s.leaseResult := rfl
@[simp] theorem setGate_evPending (s : State) (i : Nat) (g : Gate) : (s.setGate i g).evPending = s.evPending := rfl
@[simp] theorem setGate_evEnable (s : State) (i : Nat) (g : Gate) : (s.setGate i g).evEnable = s.evEnable := rfl
@[simp] theorem setGate_ctx (s : State) (i : Nat) (g : Gate) : (s.setGate i g).ctx = s.ctx := rfl
@[simp] theorem setGate_smbusAddr (s : State) (i : Nat) (g : Gate) : (s.setGate i g).smbusAddr = s.smbusAddr := rfl
@[simp] theorem setGate_smbusStatus (s : State) (i : Nat) (g : Gate) : (s.setGate i g).smbusStatus = s.smbusStatus := rfl
@[simp] theorem setGate_usb (s : State) (i : Nat) (g : Gate) : (s.setGate i g).usb = s.usb := rfl
@[simp] theorem setGate_jobs (s : State) (i : Nat) (g : Gate) : (s.setGate i g).jobs = s.jobs := rfl
@[simp] theorem setGate_path (s : State) (i : Nat) (g : Gate) : (s.setGate i g).path = s.path := rfl
@[simp] theorem setGate_link (s : State) (i : Nat) (g : Gate) : (s.setGate i g).link = s.link := rfl
@[simp] theorem setGate_head (s : State) (i : Nat) (g : Gate) : (s.setGate i g).head = s.head := rfl
@[simp] theorem setGate_cal (s : State) (i : Nat) (g : Gate) : (s.setGate i g).cal = s.cal := rfl
@[simp] theorem setGate_dma (s : State) (i : Nat) (g : Gate) : (s.setGate i g).dma = s.dma := rfl
@[simp] theorem setGate_mem (s : State) (i : Nat) (g : Gate) : (s.setGate i g).mem = s.mem := rfl
@[simp] theorem setGate_ledger (s : State) (i : Nat) (g : Gate) : (s.setGate i g).ledger = s.ledger := rfl
@[simp] theorem setGate_chk (s : State) (i : Nat) (g : Gate) : (s.setGate i g).chk = s.chk := rfl
@[simp] theorem setGate_nvl (s : State) (i : Nat) (g : Gate) : (s.setGate i g).nvl = s.nvl := rfl
@[simp] theorem setGate_usage (s : State) (i : Nat) (g : Gate) : (s.setGate i g).usage = s.usage := rfl
@[simp] theorem setGate_bankA (s : State) (i : Nat) (g : Gate) : (s.setGate i g).bankA = s.bankA := rfl
@[simp] theorem setGate_bankB (s : State) (i : Nat) (g : Gate) : (s.setGate i g).bankB = s.bankB := rfl
@[simp] theorem setGate_headPlane (s : State) (i : Nat) (g : Gate) : (s.setGate i g).headPlane = s.headPlane := rfl
@[simp] theorem setGate_now (s : State) (i : Nat) (g : Gate) : (s.setGate i g).now = s.now := rfl
@[simp] theorem setGate_enc (s : State) (i : Nat) (g : Gate) : (s.setGate i g).enc = s.enc := rfl
@[simp] theorem setGate_zX (s : State) (i : Nat) (g : Gate) : (s.setGate i g).zX = s.zX := rfl
@[simp] theorem setGate_zY (s : State) (i : Nat) (g : Gate) : (s.setGate i g).zY = s.zY := rfl
@[simp] theorem setGate_yawX (s : State) (i : Nat) (g : Gate) : (s.setGate i g).yawX = s.yawX := rfl
@[simp] theorem setGate_yawY (s : State) (i : Nat) (g : Gate) : (s.setGate i g).yawY = s.yawY := rfl
@[simp] theorem setGate_shot (s : State) (i : Nat) (g : Gate) : (s.setGate i g).shot = s.shot := rfl
@[simp] theorem setGate_pln (s : State) (i : Nat) (g : Gate) : (s.setGate i g).pln = s.pln := rfl
@[simp] theorem setGate_fence (s : State) (i : Nat) (g : Gate) : (s.setGate i g).fence = s.fence := rfl
@[simp] theorem setGate_out (s : State) (i : Nat) (g : Gate) : (s.setGate i g).out = s.out := rfl
@[simp] theorem setGate_pending (s : State) (i : Nat) (g : Gate) : (s.setGate i g).pending = s.pending := rfl
@[simp] theorem setGate_freeCount (s : State) (i : Nat) (g : Gate) : (s.setGate i g).freeCount = s.freeCount := rfl
@[simp] theorem emit_fuses (s : State) (o : Out) : (s.emit o).fuses = s.fuses := rfl
@[simp] theorem emit_pins (s : State) (o : Out) : (s.emit o).pins = s.pins := rfl
@[simp] theorem emit_ret (s : State) (o : Out) : (s.emit o).ret = s.ret := rfl
@[simp] theorem emit_regs (s : State) (o : Out) : (s.emit o).regs = s.regs := rfl
@[simp] theorem emit_gates (s : State) (o : Out) : (s.emit o).gates = s.gates := rfl
@[simp] theorem emit_gateCmd (s : State) (o : Out) : (s.emit o).gateCmd = s.gateCmd := rfl
@[simp] theorem emit_retrying (s : State) (o : Out) : (s.emit o).retrying = s.retrying := rfl
@[simp] theorem emit_leaseCmd (s : State) (o : Out) : (s.emit o).leaseCmd = s.leaseCmd := rfl
@[simp] theorem emit_leaseResult (s : State) (o : Out) : (s.emit o).leaseResult = s.leaseResult := rfl
@[simp] theorem emit_evPending (s : State) (o : Out) : (s.emit o).evPending = s.evPending := rfl
@[simp] theorem emit_evEnable (s : State) (o : Out) : (s.emit o).evEnable = s.evEnable := rfl
@[simp] theorem emit_ctx (s : State) (o : Out) : (s.emit o).ctx = s.ctx := rfl
@[simp] theorem emit_smbusAddr (s : State) (o : Out) : (s.emit o).smbusAddr = s.smbusAddr := rfl
@[simp] theorem emit_smbusStatus (s : State) (o : Out) : (s.emit o).smbusStatus = s.smbusStatus := rfl
@[simp] theorem emit_usb (s : State) (o : Out) : (s.emit o).usb = s.usb := rfl
@[simp] theorem emit_jobs (s : State) (o : Out) : (s.emit o).jobs = s.jobs := rfl
@[simp] theorem emit_path (s : State) (o : Out) : (s.emit o).path = s.path := rfl
@[simp] theorem emit_link (s : State) (o : Out) : (s.emit o).link = s.link := rfl
@[simp] theorem emit_head (s : State) (o : Out) : (s.emit o).head = s.head := rfl
@[simp] theorem emit_cal (s : State) (o : Out) : (s.emit o).cal = s.cal := rfl
@[simp] theorem emit_dma (s : State) (o : Out) : (s.emit o).dma = s.dma := rfl
@[simp] theorem emit_mem (s : State) (o : Out) : (s.emit o).mem = s.mem := rfl
@[simp] theorem emit_ledger (s : State) (o : Out) : (s.emit o).ledger = s.ledger := rfl
@[simp] theorem emit_chk (s : State) (o : Out) : (s.emit o).chk = s.chk := rfl
@[simp] theorem emit_nvl (s : State) (o : Out) : (s.emit o).nvl = s.nvl := rfl
@[simp] theorem emit_usage (s : State) (o : Out) : (s.emit o).usage = s.usage := rfl
@[simp] theorem emit_bankA (s : State) (o : Out) : (s.emit o).bankA = s.bankA := rfl
@[simp] theorem emit_bankB (s : State) (o : Out) : (s.emit o).bankB = s.bankB := rfl
@[simp] theorem emit_headPlane (s : State) (o : Out) : (s.emit o).headPlane = s.headPlane := rfl
@[simp] theorem emit_now (s : State) (o : Out) : (s.emit o).now = s.now := rfl
@[simp] theorem emit_enc (s : State) (o : Out) : (s.emit o).enc = s.enc := rfl
@[simp] theorem emit_zX (s : State) (o : Out) : (s.emit o).zX = s.zX := rfl
@[simp] theorem emit_zY (s : State) (o : Out) : (s.emit o).zY = s.zY := rfl
@[simp] theorem emit_yawX (s : State) (o : Out) : (s.emit o).yawX = s.yawX := rfl
@[simp] theorem emit_yawY (s : State) (o : Out) : (s.emit o).yawY = s.yawY := rfl
@[simp] theorem emit_shot (s : State) (o : Out) : (s.emit o).shot = s.shot := rfl
@[simp] theorem emit_pln (s : State) (o : Out) : (s.emit o).pln = s.pln := rfl
@[simp] theorem emit_fence (s : State) (o : Out) : (s.emit o).fence = s.fence := rfl
@[simp] theorem emit_pending (s : State) (o : Out) : (s.emit o).pending = s.pending := rfl
@[simp] theorem emit_freeCount (s : State) (o : Out) : (s.emit o).freeCount = s.freeCount := rfl
@[simp] theorem begin_fuses (s : State) : s.begin.fuses = s.fuses := rfl
@[simp] theorem begin_pins (s : State) : s.begin.pins = s.pins := rfl
@[simp] theorem begin_regs (s : State) : s.begin.regs = s.regs := rfl
@[simp] theorem begin_gates (s : State) : s.begin.gates = s.gates := rfl
@[simp] theorem begin_gateCmd (s : State) : s.begin.gateCmd = s.gateCmd := rfl
@[simp] theorem begin_retrying (s : State) : s.begin.retrying = s.retrying := rfl
@[simp] theorem begin_leaseCmd (s : State) : s.begin.leaseCmd = s.leaseCmd := rfl
@[simp] theorem begin_leaseResult (s : State) : s.begin.leaseResult = s.leaseResult := rfl
@[simp] theorem begin_evPending (s : State) : s.begin.evPending = s.evPending := rfl
@[simp] theorem begin_evEnable (s : State) : s.begin.evEnable = s.evEnable := rfl
@[simp] theorem begin_ctx (s : State) : s.begin.ctx = s.ctx := rfl
@[simp] theorem begin_smbusAddr (s : State) : s.begin.smbusAddr = s.smbusAddr := rfl
@[simp] theorem begin_smbusStatus (s : State) : s.begin.smbusStatus = s.smbusStatus := rfl
@[simp] theorem begin_usb (s : State) : s.begin.usb = s.usb := rfl
@[simp] theorem begin_path (s : State) : s.begin.path = s.path := rfl
@[simp] theorem begin_link (s : State) : s.begin.link = s.link := rfl
@[simp] theorem begin_head (s : State) : s.begin.head = s.head := rfl
@[simp] theorem begin_cal (s : State) : s.begin.cal = s.cal := rfl
@[simp] theorem begin_dma (s : State) : s.begin.dma = s.dma := rfl
@[simp] theorem begin_mem (s : State) : s.begin.mem = s.mem := rfl
@[simp] theorem begin_ledger (s : State) : s.begin.ledger = s.ledger := rfl
@[simp] theorem begin_chk (s : State) : s.begin.chk = s.chk := rfl
@[simp] theorem begin_nvl (s : State) : s.begin.nvl = s.nvl := rfl
@[simp] theorem begin_usage (s : State) : s.begin.usage = s.usage := rfl
@[simp] theorem begin_bankA (s : State) : s.begin.bankA = s.bankA := rfl
@[simp] theorem begin_bankB (s : State) : s.begin.bankB = s.bankB := rfl
@[simp] theorem begin_headPlane (s : State) : s.begin.headPlane = s.headPlane := rfl
@[simp] theorem begin_now (s : State) : s.begin.now = s.now := rfl
@[simp] theorem begin_enc (s : State) : s.begin.enc = s.enc := rfl
@[simp] theorem begin_zX (s : State) : s.begin.zX = s.zX := rfl
@[simp] theorem begin_zY (s : State) : s.begin.zY = s.zY := rfl
@[simp] theorem begin_yawX (s : State) : s.begin.yawX = s.yawX := rfl
@[simp] theorem begin_yawY (s : State) : s.begin.yawY = s.yawY := rfl
@[simp] theorem begin_shot (s : State) : s.begin.shot = s.shot := rfl
@[simp] theorem begin_pln (s : State) : s.begin.pln = s.pln := rfl
@[simp] theorem begin_fence (s : State) : s.begin.fence = s.fence := rfl
@[simp] theorem begin_pending (s : State) : s.begin.pending = s.pending := rfl

end Sys2Proof.Machine
end

