-- ==== Sys2Proof/Laws/Access.lean ====
section
/-! SUPPORT. What a register access of a party comes to: an access carried out at once is the register's read or write,
and a lease holder's write of one field of a register stores that field and acts on the bits written 1. -/

namespace Sys2Proof.Machine

/-! ### An access carried out at once -/

/-- Where a party's access is carried out at once, nothing holds it back. -/
theorem nothing_waits {p off : Nat} {s : State} (h : Reaches p off s) (r : Req) (hr : r.requester = p) (t : State)
    (ht : t.retrying = s.retrying) (ha : (t.gate (islandOf off)).accepted = (s.gate (islandOf off)).accepted) :
    t.behind (islandOf off) r = false := by
  have h1 : (s.retrying.any fun (e : Nat × Req) => e.2.requester == p && e.1 == islandOf off) = false := by
    rw [List.any_eq_false]
    intro e he hp
    have := h.first
    rw [List.any_eq_false] at this
    exact this e he (by simp only [Bool.and_eq_true] at hp; exact hp.1)
  have h2 : ((s.gate (islandOf off)).accepted.any fun (e : Req × Nat) =>
      e.1.requester == p && e.1.nonIdem && e.1.seq != r.seq) = false := by
    rw [List.any_eq_false]
    intro e he hp
    have := h.answered
    rw [List.any_eq_false] at this
    exact this e he (by simp only [Bool.and_eq_true] at hp ⊢; exact hp.1)
  simp only [State.behind, ht, ha, hr, h1, h2, Bool.and_false, Bool.or_self]

/-- A request that the gate takes at once is carried out, between its numbering and the keeping of its reply; a read is
then answered. -/
theorem present_reaches (p off : Nat) (w : Bool) (v : Word) (s : State) (h : Reaches p off s) :
    (let (r, s) := request p off false w true v s; present (islandOf off) r s) =
      let (r, t) := request p off false w true v s
      let (x, t) := perform r t
      let t := keepReply (islandOf off) r x t
      if w then t else answer r 0 x t := by
  by_cases hq : s.gated (islandOf off) = true
  · have hg : islandOf off ≠ 0 := by
      intro h0
      simp [State.gated, h0] at hq
    obtain ⟨ho, hs⟩ := h.gate.resolve_left hg
    by_cases hn : nonIdem off w = true
    · have hf := h.fresh
      simp only [request, hn, hq, Bool.and_self, if_true, Bool.false_eq_true, if_false, present]
      generalize ht : s.setGate (islandOf off) _ = t
      have hr : t.retrying = s.retrying := by rw [← ht]; rfl
      have hg2 : t.gate (islandOf off) = { s.gate (islandOf off) with
          nums := alSet (s.gate (islandOf off)).nums p ((s.gate (islandOf off)).nextNum p) } := by rw [← ht]; simp
      have hq2 : t.gated (islandOf off) = true := by rw [← ht]; exact hq
      rw [if_neg (by simp [hq2]), if_neg (by rw [hg2]; simp [hs]),
        if_pos ⟨by rw [hg2]; exact ho, by rw [nothing_waits h _ rfl t hr (by rw [hg2])]; rfl⟩]
      simp only [acceptReq, hg2, if_true]
      split
      · rename_i k hk
        rw [hk] at hf
        rw [if_neg (by simpa using hf)]
        cases w <;> simp [acceptReq.takeReq]
      · cases w <;> simp [acceptReq.takeReq]
    · have hn2 : nonIdem off w = false := by simpa using hn
      simp only [request, hn2, Bool.false_and, Bool.false_eq_true, if_false, present]
      rw [if_neg (by simp [hq]), if_neg (by simp [hs]), if_pos ⟨ho, by rw [nothing_waits h _ rfl s rfl rfl]; rfl⟩]
      cases w <;> simp [acceptReq, acceptReq.takeReq]
  · have hq2 : s.gated (islandOf off) = false := by simpa using hq
    cases w <;> simp [request, hq2, present, keepReply]

/-- A write that the gate takes at once is the register write. -/
theorem partyWrite_reaches (p off v : Nat) (s : State) (h : Reaches p off s) :
    partyWrite p off v s = s.written p off (regWrite p off (v % 2 ^ 32)) := by
  have := present_reaches p off true (BitVec.ofNat 32 v) s h
  unfold partyWrite
  rw [if_pos h.party]
  refine this.trans ?_
  unfold State.written State.replied State.numbered
  cases hn : (nonIdem off true && s.gated (islandOf off)) <;>
    simp [request, hn, perform, keepReply, BitVec.toNat_ofNat]

/-- A read that the gate takes at once is answered with the register's value. -/
theorem partyRead_reaches (p off : Nat) (s : State) (h : Reaches p off s) :
    partyRead p off s = answer (request p off false false true 0 s).1 0 (regRead p off (s.numbered p off false)).1
      (s.replied p off false (regRead p off (s.numbered p off false)).1 (regRead p off (s.numbered p off false)).2) := by
  have := present_reaches p off false 0 s h
  unfold partyRead
  rw [if_pos h.party]
  refine this.trans ?_
  unfold State.replied State.numbered
  cases hn : (nonIdem off false && s.gated (islandOf off)) <;>
    simp [request, hn, perform]

/-- The numbering of an access changes the gates alone. -/
theorem numbered_eq (s : State) (p off : Nat) (w : Bool) :
    s.numbered p off w = { s with gates := (s.numbered p off w).gates } := by
  unfold State.numbered request
  dsimp only
  split <;> rfl

/-- The keeping of a reply changes the gates alone. -/
theorem replied_eq (s t : State) (p off : Nat) (w : Bool) (v : Nat) :
    s.replied p off w v t = { t with gates := (s.replied p off w v t).gates } := by
  unfold State.replied keepReply
  dsimp only
  split <;> rfl

theorem sameGates_setGate (p i : Nat) (g : Gate) (s : State) (h1 : g.st = (s.gate i).st)
    (h2 : g.outOfService = (s.gate i).outOfService) (h3 : g.accepted = (s.gate i).accepted)
    (h4 : g.discarded = (s.gate i).discarded)
    (h5 : ∀ q, q ≠ p → alGet g.nums q = alGet (s.gate i).nums q ∧ alGet g.kept q = alGet (s.gate i).kept q) :
    SameGates p s (s.setGate i g) := by
  intro j
  by_cases h : j = i
  · subst h
    simp only [gate_setGate_same]
    exact ⟨h1, h2, h3, h4, h5⟩
  · simp only [gate_setGate_other s i j g h]
    simp

theorem SameGates.trans {p : Nat} {s t u : State} (h : SameGates p s t) (k : SameGates p t u) : SameGates p s u := by
  intro i
  obtain ⟨a1, a2, a3, a4, a5⟩ := h i
  obtain ⟨b1, b2, b3, b4, b5⟩ := k i
  exact ⟨b1.trans a1, b2.trans a2, b3.trans a3, b4.trans a4,
    fun q hq => ⟨(b5 q hq).1.trans (a5 q hq).1, (b5 q hq).2.trans (a5 q hq).2⟩⟩

theorem SameGates.of_eq {p : Nat} {s t : State} (h : t.gates = s.gates) : SameGates p s t := by
  intro i
  have hg : t.gate i = s.gate i := by unfold State.gate; rw [h]
  simp only [hg]
  simp

theorem numbered_sameGates (s : State) (p off : Nat) (w : Bool) : SameGates p s (s.numbered p off w) := by
  unfold State.numbered request
  dsimp only
  split
  · exact sameGates_setGate _ _ _ _ rfl rfl rfl rfl fun q hq => ⟨alGet_alSet_other _ _ _ _ hq, rfl⟩
  · exact SameGates.of_eq rfl

theorem replied_sameGates (s t : State) (p off : Nat) (w : Bool) (v : Nat) : SameGates p t (s.replied p off w v t) := by
  have hr : (request p off false w true 0 s).1.requester = p := by
    unfold request
    dsimp only
    split <;> rfl
  unfold State.replied keepReply
  dsimp only
  split
  · exact sameGates_setGate _ _ _ _ rfl rfl rfl rfl fun q hq => ⟨rfl, alGet_alSet_other _ _ _ _ (by rw [hr]; exact hq)⟩
  · exact SameGates.of_eq rfl

/-- A write whose effect leaves the gates leaves them but for its number and its reply. -/
theorem written_sameGates (s : State) (p off : Nat) (f : State → State)
    (hf : (f (s.numbered p off true)).gates = (s.numbered p off true).gates) : SameGates p s (s.written p off f) :=
  ((numbered_sameGates s p off true).trans (SameGates.of_eq hf)).trans (replied_sameGates s _ p off true 0)

theorem ite_some_none {α : Type} {c : Prop} [Decidable c] {x : α} {y : Option α} :
    (if c then some x else y) = none ↔ ¬ c ∧ y = none := by split <;> simp [*]

/-- What the gates hold decides nothing of whether a register is computed. -/
theorem computedReg_gates (p off : Nat) (s : State) (g : List (Nat × Gate)) (h : computedReg p off s = none) :
    computedReg p off { s with gates := g } = none := by
  simp only [computedReg, ite_some_none] at h ⊢
  exact h

theorem peek_gates (p off : Nat) (s : State) (g : List (Nat × Gate)) (h : computedReg p off s = none) :
    State.peek { s with gates := g } p off = s.peek p off := by
  have h2 := computedReg_gates p off s g h
  unfold State.peek
  rw [h, h2]
  rfl

/-! ### Masks of a register's fields -/

/-- A bit lies in some field that a test picks. -/
def inFields (l : List RegField) (p : RegField → Bool) (i : Nat) : Bool :=
  l.any fun x => p x && decide (x.lo ≤ i) && decide (i ≤ x.hi)

theorem testBit_fold (l : List RegField) (p : RegField → Bool) (m i : Nat) (hl : ∀ x ∈ l, x.lo ≤ x.hi ∧ x.hi < 32) :
    (l.foldl (fun m (x : RegField) => if p x then withBits m x.hi x.lo (2 ^ 32 - 1) else m) m).testBit i =
      (m.testBit i || inFields l p i) := by
  induction l generalizing m with
  | nil => simp [inFields]
  | cons x t ih =>
    have hx := hl x (List.mem_cons_self ..)
    rw [List.foldl_cons, ih _ (fun y hy => hl y (List.mem_cons_of_mem _ hy))]
    simp only [inFields, List.any_cons]
    cases hp : p x
    · simp
    · simp only [if_true, Bool.true_and]
      rw [testBit_withBits _ _ _ _ _ hx.1]
      by_cases h : x.lo ≤ i ∧ i ≤ x.hi
      · have h2 : i - x.lo < 32 := by omega
        rw [if_pos h, Nat.testBit_two_pow_sub_one]
        simp [h, h2]
      · by_cases h3 : x.lo ≤ i
        · have h4 : ¬ i ≤ x.hi := fun h5 => h ⟨h3, h5⟩
          simp [h, h4]
        · simp [h, h3]

/-- Every field of a row lies in its 32 bits. -/
def RegRow.fits (row : RegRow) : Bool := row.fields.all fun x => decide (x.lo ≤ x.hi) && decide (x.hi < 32)

theorem fits_mem (row : RegRow) (h : row.fits = true) : ∀ x ∈ row.fields, x.lo ≤ x.hi ∧ x.hi < 32 := by
  intro x hx
  have := List.all_eq_true.1 h x hx
  simpa using this

theorem testBit_accMask (row : RegRow) (h : row.fits = true) (p : Acc → Bool) (i : Nat) :
    (accMask row p).testBit i = inFields row.fields (fun x => p x.acc) i := by
  have := testBit_fold row.fields (fun x => p x.acc) 0 i (fits_mem row h)
  simpa [accMask] using this

theorem testBit_allowedMask (party off : Nat) (row : RegRow) (h : row.fits = true) (p : Acc → Bool) (s : State) (i : Nat) :
    (allowedMask party off row p s).testBit i =
      inFields row.fields (fun x => p x.acc && denied party off row x s == 0) i := by
  have := testBit_fold row.fields (fun x => p x.acc && denied party off row x s == 0) 0 i (fits_mem row h)
  simpa [allowedMask] using this

/-- The codes whose bits a party may write. -/
def Acc.writable : Acc → Bool
  | .rw | .lw | .w1c | .w1s => true
  | _ => false

/-- Nothing is denied to the lease holder in a register that no other party owns (R439). -/
theorem denied_commands (p off : Nat) (row : RegRow) (x : RegField) (s : State) (h : Commands p off s)
    (hn : notOwner p off s = false) (hx : x.acc.writable = true) : denied p off row x s = 0 := by
  have hp : p ≠ 0 := by
    intro h0
    have := h.party
    simp [State.reaches, h0] at this
  obtain ⟨hi, lo, acc⟩ := x
  cases acc <;> simp_all [Acc.writable, denied, h.holds, h.host]

/-- The register is bonded and the party may write every field of it that takes a write (R24, R439). -/
structure Permitted (p off : Nat) (row : RegRow) (s : State) : Prop where
  bonded : islandFused s.cls (islandOf off) = false
  allow : ∀ x ∈ row.fields, x.acc.writable = true → denied p off row x s = 0

/-- The party reaches the register and may write every field of it that takes a write. -/
structure Allowed (p off : Nat) (row : RegRow) (s : State) : Prop extends Reaches p off s where
  allow : ∀ x ∈ row.fields, x.acc.writable = true → denied p off row x s = 0

/-- The numbering of an access takes no permission away. -/
theorem Allowed.permitted {p off : Nat} {row : RegRow} {s : State} (h : Allowed p off row s) (g : List (Nat × Gate)) :
    Permitted p off row { s with gates := g } := ⟨h.bonded, h.allow⟩

theorem Commands.allowed {p off : Nat} {s : State} (row : RegRow) (h : Commands p off s)
    (hn : notOwner p off s = false) : Allowed p off row s :=
  ⟨h.toReaches, fun x _ hx => denied_commands p off row x s h hn hx⟩

theorem allowedMask_allowed (p off : Nat) (row : RegRow) (q : Acc → Bool) (s : State) (h : Permitted p off row s)
    (hf : row.fits = true) (hq : ∀ a, q a = true → a.writable = true) :
    allowedMask p off row q s = accMask row q := by
  apply Nat.eq_of_testBit_eq
  intro i
  rw [testBit_allowedMask _ _ _ hf, testBit_accMask _ hf]
  unfold inFields
  rw [Bool.eq_iff_iff, List.any_eq_true, List.any_eq_true]
  constructor
  · rintro ⟨x, hx, hy⟩
    exact ⟨x, hx, by simp only [Bool.and_eq_true] at hy ⊢; exact ⟨⟨hy.1.1.1, hy.1.2⟩, hy.2⟩⟩
  · rintro ⟨x, hx, hy⟩
    simp only [Bool.and_eq_true] at hy
    refine ⟨x, hx, ?_⟩
    simp [hy.1.1, hy.1.2, hy.2, h.allow x hx (hq _ hy.1.1)]

/-! ### A lease holder's write -/

/-- The codes of the fields that a write of others gives back as they stand. -/
def Acc.held (a : Acc) : Bool := a == .rw || a == .lw || a == .ro || a == .rc || a == .fl

/-- The codes of the fields a write stores. -/
def Acc.stored (a : Acc) : Bool := a == .rw || a == .lw

/-- A row whose fields are apart from each other, none of them write-only. -/
def RegRow.apart (row : RegRow) : Bool :=
  row.fits && row.fields.all fun x => x.acc != .wo && row.fields.all fun y => x == y || decide (x.hi < y.lo) || decide (y.hi < x.lo)

theorem apart_fits (row : RegRow) (h : row.apart = true) : row.fits = true := by
  simp only [RegRow.apart, Bool.and_eq_true] at h; exact h.1

/-- The bit of a field of an apart row is in the mask of a code exactly when the field has it. -/
theorem testBit_mask_of (row : RegRow) (h : row.apart = true) (q : Acc → Bool) (x : RegField) (hx : x ∈ row.fields)
    (i : Nat) (h1 : x.lo ≤ i) (h2 : i ≤ x.hi) : (accMask row q).testBit i = q x.acc := by
  rw [testBit_accMask row (apart_fits row h)]
  cases hq : q x.acc
  · rw [inFields, List.any_eq_false]
    intro y hy
    simp only [RegRow.apart, Bool.and_eq_true, List.all_eq_true] at h
    have := (h.2 x hx).2 y hy
    simp only [Bool.or_eq_true, beq_iff_eq, decide_eq_true_eq] at this
    rcases this with (rfl | hlt) | hlt
    · simp [hq]
    · have : ¬ y.lo ≤ i := by omega
      simp [this]
    · have : ¬ i ≤ y.hi := by omega
      simp [this]
  · rw [inFields, List.any_eq_true]
    exact ⟨x, hx, by simp [hq, h1, h2]⟩

/-- A word in which the held fields are as they stand. -/
def Keeps (row : RegRow) (old v : Nat) : Prop :=
  ∀ x ∈ row.fields, (x.acc == .ro || x.acc == .rc || x.acc == .fl) = true → bits v x.hi x.lo = bits old x.hi x.lo

/-- Such a write refuses nothing (R441). -/
theorem refusal_allowed (p off v : Nat) (row : RegRow) (s : State) (h : Permitted p off row s)
    (ha : row.apart = true) (hk : Keeps row (s.peek p off) v) : refusal p off v row s = none := by
  unfold refusal
  simp only
  rw [show (row.fields.filterMap fun (x : RegField) =>
      if denied p off row x s ≠ 0 ∧ countsRefused x (s.peek p off) v = true then some (denied p off row x s) else none) = []
    from ?_]
  · rfl
  rw [List.filterMap_eq_nil_iff]
  intro x hx
  rw [if_neg]
  rintro ⟨hd, hc⟩
  have hwo : x.acc ≠ .wo := by
    simp only [RegRow.apart, Bool.and_eq_true, List.all_eq_true] at ha
    simpa using (ha.2 x hx).1
  cases hacc : x.acc
  case wo => exact hwo hacc
  case reserved => exact hd (by unfold denied; simp [hacc])
  case ro =>
    have := hk x hx (by simp [hacc])
    simp [countsRefused, hacc, this] at hc
  case rc =>
    have := hk x hx (by simp [hacc])
    simp [countsRefused, hacc, this] at hc
  case fl =>
    have := hk x hx (by simp [hacc])
    simp [countsRefused, hacc, this] at hc
  all_goals exact hd (h.allow x hx (by simp [hacc, Acc.writable]))

/-- What an allowed write of a register comes to. -/
theorem regWriteOk_allowed (p off v : Nat) (ok : Bool) (row : RegRow) (s : State) (h : Permitted p off row s)
    (hr : regRow off = some row) (ho : off < 0x1000000) (ha : row.apart = true)
    (hk : Keeps row (s.peek p off) v) :
    regWriteOk p off v ok s = setBits' p off (accMask row (fun a => a == .w1s) &&& v) ok
      (clearBits p off (accMask row (fun a => a == .w1c) &&& v) (storeFields p off v (accMask row Acc.stored) s)) := by
  have hf := apart_fits row ha
  have hwo : allowedMask p off row (fun a => a == .wo) s = 0 := by
    apply Nat.eq_of_testBit_eq
    intro i
    rw [testBit_allowedMask _ _ _ hf, Nat.zero_testBit, inFields, List.any_eq_false]
    intro x hx
    simp only [RegRow.apart, Bool.and_eq_true, List.all_eq_true] at ha
    have := (ha.2 x hx).1
    simp only [bne_iff_ne, ne_eq] at this
    simp [this]
  have ho2 : ¬ (0x1000000 ≤ off ∧ off < 0x1500000) := by omega
  unfold regWriteOk
  simp only [h.bonded, Bool.false_eq_true, if_false, hr, ho2, hwo, if_true]
  rw [allowedMask_allowed p off row _ s h hf (by intro a; cases a <;> simp [Acc.writable]),
    allowedMask_allowed p off row _ s h hf (by intro a; cases a <;> simp [Acc.writable]),
    allowedMask_allowed p off row _ s h hf (by intro a; cases a <;> simp [Acc.writable]),
    refusal_allowed p off v row s h ha hk]
  simp only [ite_self]
  rfl

/-! ### A write of some fields -/

/-- The word a command writes: the held fields as they stand, one field given, and ones where they act. -/
theorem testBit_word (old M hi lo k acts i : Nat) (hlo : lo ≤ hi) :
    (withBits (old &&& M) hi lo k ||| acts).testBit i =
      ((if lo ≤ i ∧ i ≤ hi then k.testBit (i - lo) else old.testBit i && M.testBit i) || acts.testBit i) := by
  rw [Nat.testBit_or, testBit_withBits _ _ _ _ _ hlo]
  split <;> simp

/-- The bits of a field as a mask. -/
def Fld.mask (x : Fld) : Nat := withBits 0 x.hi x.lo (2 ^ 32 - 1)

theorem testBit_fldMask (x : Fld) (h : x.lo ≤ x.hi) (h2 : x.hi < 32) (i : Nat) :
    x.mask.testBit i = decide (x.lo ≤ i ∧ i ≤ x.hi) := by
  unfold Fld.mask
  rw [testBit_withBits _ _ _ _ _ h]
  split
  · rename_i h3
    rw [Nat.testBit_two_pow_sub_one]
    have : i - x.lo < 32 := by omega
    simp [this, h3]
  · rename_i h3
    simp [h3]

/-- A field and the acting bits that a command gives lie where its row has them: the field among the stored ones, the
ones among W1S bits. -/
def RegRow.takes (row : RegRow) (x : Fld) (acts : Nat) : Bool :=
  row.apart && decide (x.lo ≤ x.hi) && decide (x.hi < 32) && x.mask &&& accMask row Acc.stored == x.mask &&
    acts &&& accMask row (fun a => a == .w1s) == acts

theorem and_eq_left_testBit {a b : Nat} (h : a &&& b = a) (i : Nat) (hi : a.testBit i = true) : b.testBit i = true := by
  have := congrArg (fun n => Nat.testBit n i) h
  simp only [Nat.testBit_and, hi, Bool.true_and] at this
  exact this

theorem storeFields_plain (p off v m : Nat) (s : State) (h : plainReg off = true) (hm : m ≠ 0) :
    storeFields p off v m s = s.wr off ((s.rd off &&& (0xFFFFFFFF ^^^ m)) ||| (v &&& m)) := by
  simp only [plainReg, Bool.and_eq_true, bne_iff_ne, ne_eq, Bool.not_eq_true', decide_eq_true_eq,
    Bool.and_eq_false_iff, decide_eq_false_iff_not, Option.isNone_iff_eq_none] at h
  obtain ⟨⟨⟨⟨⟨⟨⟨⟨⟨⟨⟨⟨⟨⟨⟨h1, h2⟩, h3⟩, h4⟩, h5⟩, h6⟩, h7⟩, h8⟩, h9⟩, h10⟩, h11⟩, h12⟩, h13⟩, h14⟩, h15⟩, h16⟩ := h
  have h14' : ¬ (0x60000 ≤ off ∧ off < 0x70000 ∧ off % 0x100 = 0) := by omega
  unfold storeFields
  simp only [hm, if_false, h1, h2, h3, h4, h5, h6, h7, h8, h9, h10, h11, h12, h13, h14', or_self, Bool.false_and,
    Bool.false_eq_true]

/-- A register word after a command's write: the one field stored, all else as it stood. -/
theorem word_eq (row : RegRow) (x : Fld) (k acts r old : Nat) (ht : row.takes x acts = true)
    (hold : ∀ i, (accMask row Acc.stored).testBit i = true → old.testBit i = r.testBit i) :
    ((r &&& (0xFFFFFFFF ^^^ accMask row Acc.stored)) |||
      ((withBits (old &&& accMask row Acc.held) x.hi x.lo k ||| acts) &&& accMask row Acc.stored)) % 2 ^ 32 =
      withBits r x.hi x.lo k % 2 ^ 32 := by
  simp only [RegRow.takes, Bool.and_eq_true, decide_eq_true_eq, beq_iff_eq] at ht
  obtain ⟨⟨⟨⟨ha, h1⟩, h2⟩, h3⟩, h4⟩ := ht
  have hf := apart_fits row ha
  apply Nat.eq_of_testBit_eq
  intro i
  rw [Nat.testBit_mod_two_pow, Nat.testBit_mod_two_pow, Nat.testBit_or, Nat.testBit_and, Nat.testBit_and,
    testBit_word _ _ _ _ _ _ _ h1, testBit_withBits _ _ _ _ _ h1, Nat.testBit_xor,
    show (0xFFFFFFFF : Nat) = 2 ^ 32 - 1 from rfl, Nat.testBit_two_pow_sub_one]
  by_cases hge : 32 ≤ i
  · simp [Nat.not_lt.2 hge]
  have hi : i < 32 := by omega
  simp only [hi, decide_true, Bool.true_and, Bool.true_xor]
  by_cases hx : x.lo ≤ i ∧ i ≤ x.hi
  · have hm : (accMask row Acc.stored).testBit i = true :=
      and_eq_left_testBit h3 i (by rw [testBit_fldMask x h1 h2]; simp [hx])
    have hact : acts.testBit i = false := by
      cases hact : acts.testBit i
      · rfl
      · have hw := and_eq_left_testBit h4 i hact
        rw [testBit_accMask row hf] at hw hm
        simp only [inFields, List.any_eq_true, Bool.and_eq_true, decide_eq_true_eq] at hw hm
        obtain ⟨y, hy, ⟨hy1, hy2⟩, hy3⟩ := hw
        obtain ⟨z, hz, ⟨hz1, hz2⟩, hz3⟩ := hm
        have e := testBit_mask_of row ha Acc.stored y hy i hy2 hy3
        have e2 := testBit_mask_of row ha Acc.stored z hz i hz2 hz3
        rw [e2, hz1] at e
        rw [beq_iff_eq] at hy1
        rw [hy1] at e
        simp [Acc.stored] at e
    simp [hm, hx, hact]
  · rw [if_neg hx, if_neg hx]
    cases hm : (accMask row Acc.stored).testBit i
    · simp
    · have hheld : (accMask row Acc.held).testBit i = true := by
        rw [testBit_accMask row hf] at hm ⊢
        simp only [inFields, List.any_eq_true, Bool.and_eq_true, decide_eq_true_eq] at hm ⊢
        obtain ⟨z, hz, ⟨hz1, hz2⟩, hz3⟩ := hm
        refine ⟨z, hz, ⟨?_, hz2⟩, hz3⟩
        revert hz1
        cases z.acc <;> simp [Acc.stored, Acc.held]
      have hact : acts.testBit i = false := by
        cases hact : acts.testBit i
        · rfl
        · have hw := and_eq_left_testBit h4 i hact
          rw [testBit_accMask row hf] at hw hm
          simp only [inFields, List.any_eq_true, Bool.and_eq_true, decide_eq_true_eq] at hw hm
          obtain ⟨y, hy, ⟨hy1, hy2⟩, hy3⟩ := hw
          obtain ⟨z, hz, ⟨hz1, hz2⟩, hz3⟩ := hm
          have e := testBit_mask_of row ha Acc.stored y hy i hy2 hy3
          have e2 := testBit_mask_of row ha Acc.stored z hz i hz2 hz3
          rw [e2, hz1] at e
          rw [beq_iff_eq] at hy1
          rw [hy1] at e
          simp [Acc.stored] at e
      simp [hheld, hact, hold i hm]

/-- The word of a command holds every RO, RC and FL field as it stands. -/
theorem word_keeps (row : RegRow) (x : Fld) (k acts old : Nat) (ht : row.takes x acts = true) :
    Keeps row old ((withBits (old &&& accMask row Acc.held) x.hi x.lo k ||| acts) % 2 ^ 32) := by
  simp only [RegRow.takes, Bool.and_eq_true, decide_eq_true_eq, beq_iff_eq] at ht
  obtain ⟨⟨⟨⟨ha, h1⟩, h2⟩, h3⟩, h4⟩ := ht
  have hf := apart_fits row ha
  intro y hy hacc
  have hyf := fits_mem row hf y hy
  rw [bits_mod_word _ _ _ hyf.2]
  apply Nat.eq_of_testBit_eq
  intro j
  simp only [bits, Nat.testBit_mod_two_pow, Nat.testBit_shiftRight]
  by_cases hj : j < y.hi + 1 - y.lo
  · simp only [hj, decide_true, Bool.true_and]
    rw [testBit_word _ _ _ _ _ _ _ h1]
    have hl : y.lo ≤ y.lo + j := by omega
    have hh : y.lo + j ≤ y.hi := by omega
    have hheld : (accMask row Acc.held).testBit (y.lo + j) = true := by
      rw [testBit_mask_of row ha _ y hy _ hl hh]
      revert hacc
      cases y.acc <;> simp [Acc.held]
    have hst : (accMask row Acc.stored).testBit (y.lo + j) = false := by
      rw [testBit_mask_of row ha _ y hy _ hl hh]
      revert hacc
      cases y.acc <;> simp [Acc.stored]
    have hns : (accMask row (fun a => a == .w1s)).testBit (y.lo + j) = false := by
      rw [testBit_mask_of row ha _ y hy _ hl hh]
      revert hacc
      cases y.acc <;> simp
    have hx : ¬ (x.lo ≤ y.lo + j ∧ y.lo + j ≤ x.hi) := by
      intro hx
      have := and_eq_left_testBit h3 (y.lo + j) (by rw [testBit_fldMask x h1 h2]; simp [hx])
      rw [hst] at this
      exact absurd this (by simp)
    have hact : acts.testBit (y.lo + j) = false := by
      cases hact : acts.testBit (y.lo + j)
      · rfl
      · have := and_eq_left_testBit h4 _ hact
        rw [hns] at this
        exact absurd this (by simp)
    rw [if_neg hx, hact, hheld]
    simp
  · simp [hj]

/-- The word of a command has ones among W1S bits exactly where it acts. -/
theorem word_acts (row : RegRow) (x : Fld) (k acts old : Nat) (ht : row.takes x acts = true) :
    (accMask row (fun a => a == .w1s)) &&& ((withBits (old &&& accMask row Acc.held) x.hi x.lo k ||| acts) % 2 ^ 32) =
      acts := by
  simp only [RegRow.takes, Bool.and_eq_true, decide_eq_true_eq, beq_iff_eq] at ht
  obtain ⟨⟨⟨⟨ha, h1⟩, h2⟩, h3⟩, h4⟩ := ht
  have hf := apart_fits row ha
  apply Nat.eq_of_testBit_eq
  intro i
  rw [Nat.testBit_and, Nat.testBit_mod_two_pow, testBit_word _ _ _ _ _ _ _ h1]
  cases hw : (accMask row (fun a => a == .w1s)).testBit i
  · cases hact : acts.testBit i
    · simp
    · have := and_eq_left_testBit h4 i hact
      rw [hw] at this
      exact absurd this (by simp)
  · rw [testBit_accMask row hf] at hw
    simp only [inFields, List.any_eq_true, Bool.and_eq_true, decide_eq_true_eq] at hw
    obtain ⟨y, hy, ⟨hy1, hy2⟩, hy3⟩ := hw
    have hyf := fits_mem row hf y hy
    have hi : i < 32 := by omega
    have hheld : (accMask row Acc.held).testBit i = false := by
      rw [testBit_mask_of row ha _ y hy _ hy2 hy3]
      revert hy1
      cases y.acc <;> simp [Acc.held]
    have hst : (accMask row Acc.stored).testBit i = false := by
      rw [testBit_mask_of row ha _ y hy _ hy2 hy3]
      revert hy1
      cases y.acc <;> simp [Acc.stored]
    have hx : ¬ (x.lo ≤ i ∧ i ≤ x.hi) := by
      intro hx
      have := and_eq_left_testBit h3 i (by rw [testBit_fldMask x h1 h2]; simp [hx])
      rw [hst] at this
      exact absurd this (by simp)
    rw [if_neg hx, hheld]
    simp [hi]

/-- The word of a command clears no W1C bit. -/
theorem word_clears (row : RegRow) (x : Fld) (k acts old : Nat) (ht : row.takes x acts = true) :
    (accMask row (fun a => a == .w1c)) &&& ((withBits (old &&& accMask row Acc.held) x.hi x.lo k ||| acts) % 2 ^ 32) =
      0 := by
  simp only [RegRow.takes, Bool.and_eq_true, decide_eq_true_eq, beq_iff_eq] at ht
  obtain ⟨⟨⟨⟨ha, h1⟩, h2⟩, h3⟩, h4⟩ := ht
  have hf := apart_fits row ha
  apply Nat.eq_of_testBit_eq
  intro i
  rw [Nat.testBit_and, Nat.testBit_mod_two_pow, testBit_word _ _ _ _ _ _ _ h1, Nat.zero_testBit]
  cases hw : (accMask row (fun a => a == .w1c)).testBit i
  · simp
  · rw [testBit_accMask row hf] at hw
    simp only [inFields, List.any_eq_true, Bool.and_eq_true, decide_eq_true_eq] at hw
    obtain ⟨y, hy, ⟨hy1, hy2⟩, hy3⟩ := hw
    have hheld : (accMask row Acc.held).testBit i = false := by
      rw [testBit_mask_of row ha _ y hy _ hy2 hy3]
      revert hy1
      cases y.acc <;> simp [Acc.held]
    have hst : (accMask row Acc.stored).testBit i = false := by
      rw [testBit_mask_of row ha _ y hy _ hy2 hy3]
      revert hy1
      cases y.acc <;> simp [Acc.stored]
    have hns : (accMask row (fun a => a == .w1s)).testBit i = false := by
      rw [testBit_mask_of row ha _ y hy _ hy2 hy3]
      revert hy1
      cases y.acc <;> simp
    have hx : ¬ (x.lo ≤ i ∧ i ≤ x.hi) := by
      intro hx
      have := and_eq_left_testBit h3 i (by rw [testBit_fldMask x h1 h2]; simp [hx])
      rw [hst] at this
      exact absurd this (by simp)
    have hact : acts.testBit i = false := by
      cases hact : acts.testBit i
      · rfl
      · have := and_eq_left_testBit h4 _ hact
        rw [hns] at this
        exact absurd this (by simp)
    rw [if_neg hx, hact, hheld]
    simp

/-! ### The write commands of a lease holder -/

/-- The stored fields of a register that is not computed read as they stand. -/
theorem peek_stored (p off : Nat) (row : RegRow) (s : State) (h : Permitted p off row s) (hr : regRow off = some row)
    (ho : off < 0x1000000) (hc : computedReg p off s = none) (ha : row.apart = true) (i : Nat)
    (hi : (accMask row Acc.stored).testBit i = true) : (s.peek p off).testBit i = (s.rd off).testBit i := by
  have ho2 : ¬ 0x1000000 ≤ off := by omega
  have hp : s.peek p off = s.rd off &&& readMask row := by
    simp [State.peek, h.bonded, ho2, hr, hc]
  have hf := apart_fits row ha
  have hrm : (readMask row).testBit i = true := by
    unfold readMask
    rw [testBit_accMask row hf] at hi ⊢
    simp only [inFields, List.any_eq_true, Bool.and_eq_true, decide_eq_true_eq] at hi ⊢
    obtain ⟨z, hz, ⟨hz1, hz2⟩, hz3⟩ := hi
    refine ⟨z, hz, ⟨?_, hz2⟩, hz3⟩
    revert hz1
    cases z.acc <;> simp [Acc.stored]
  rw [hp, Nat.testBit_and, hrm, Bool.and_true]

theorem kept_eq (s : State) (p off : Nat) (row : RegRow) (hr : regRow off = some row) :
    s.kept p off = s.peek p off &&& accMask row Acc.held := by
  unfold State.kept
  rw [hr]
  rfl

/-- A command of a party that may write the register, which stores one field and acts on some bits: the field is stored,
all else of the register stands, nothing is refused, and the ones act. -/
theorem partyField_allowed (p : Nat) (x : Fld) (k acts : Nat) (row : RegRow) (s : State) (h : Allowed p x.off row s)
    (hr : regRow x.off = some row) (hc : computedReg p x.off s = none)
    (hpl : plainReg x.off = true) (ht : row.takes x acts = true) :
    partyField p x k acts s = s.written p x.off fun t => setBits' p x.off acts true (t.set x k) := by
  have hpl2 := hpl
  simp only [plainReg, Bool.and_eq_true, bne_iff_ne, ne_eq, decide_eq_true_eq] at hpl2
  have ho : x.off < 0x1000000 := hpl2.2
  have hb : x.off ≠ F.JOB_BANK_CTRL.off := hpl2.1.2
  have ht2 := ht
  simp only [RegRow.takes, Bool.and_eq_true, decide_eq_true_eq, beq_iff_eq] at ht2
  have ha := ht2.1.1.1.1
  have hm : accMask row Acc.stored ≠ 0 := by
    intro h0
    have := and_eq_left_testBit ht2.1.2 x.lo (by rw [testBit_fldMask x ht2.1.1.1.2 ht2.1.1.2]; simp [ht2.1.1.1.2])
    rw [h0] at this
    simp at this
  unfold partyField
  rw [partyWrite_reaches _ _ _ _ h.toReaches, kept_eq s p x.off row hr]
  unfold State.written
  congr 1
  rw [numbered_eq s p x.off true]
  generalize (s.numbered p x.off true).gates = g
  have hp := h.permitted g
  have hcg := computedReg_gates p x.off s g hc
  rw [← peek_gates p x.off s g hc]
  generalize ({ s with gates := g } : State) = t at *
  unfold regWrite
  rw [if_neg (fun hh => hb hh.1), regWriteOk_allowed p x.off _ true row t hp hr ho ha (word_keeps row x k acts _ ht),
    word_acts row x k acts _ ht, word_clears row x k acts _ ht, storeFields_plain _ _ _ _ _ hpl hm]
  have e : t.wr x.off ((t.rd x.off &&& (0xFFFFFFFF ^^^ accMask row Acc.stored)) |||
      ((withBits (t.peek p x.off &&& accMask row Acc.held) x.hi x.lo k ||| acts) % 2 ^ 32 &&& accMask row Acc.stored)) =
      t.set x k := by
    have hw := word_eq row x k acts (t.rd x.off) (t.peek p x.off) ht (peek_stored p x.off row t hp hr ho hcg ha)
    have hw2 : ((t.rd x.off &&& (0xFFFFFFFF ^^^ accMask row Acc.stored)) |||
      ((withBits (t.peek p x.off &&& accMask row Acc.held) x.hi x.lo k ||| acts) % 2 ^ 32 &&& accMask row Acc.stored)) %
        2 ^ 32 = withBits (t.rd x.off) x.hi x.lo k % 2 ^ 32 := by
      rw [← hw]
      apply Nat.eq_of_testBit_eq
      intro i
      simp only [Nat.testBit_mod_two_pow, Nat.testBit_or, Nat.testBit_and]
      by_cases hi : i < 32 <;> simp [hi]
    unfold State.set State.wr
    congr 2
    apply BitVec.eq_of_toNat_eq
    rw [BitVec.toNat_ofNat, BitVec.toNat_ofNat]
    exact hw2
  rw [e]
  simp [clearBits]

/-- A field stored with what it holds changes no bit. -/
theorem withBits_self (n hi lo : Nat) (h : lo ≤ hi) : withBits n hi lo (bits n hi lo) = n := by
  apply Nat.eq_of_testBit_eq
  intro i
  rw [testBit_withBits _ _ _ _ _ h]
  split
  · rename_i h2
    simp only [bits, Nat.testBit_mod_two_pow, Nat.testBit_shiftRight]
    have e : lo + (i - lo) = i := by omega
    have e2 : i - lo < hi + 1 - lo := by omega
    simp [e, e2]
  · rfl

/-- A command of a party that may write the register, which acts on bits of a register with a stored field `x`: the
register stands, and the ones act. -/
theorem partyAct_allowed (p : Nat) (x : Fld) (acts : Nat) (row : RegRow) (s : State) (h : Allowed p x.off row s)
    (hr : regRow x.off = some row) (hc : computedReg p x.off s = none)
    (hpl : plainReg x.off = true) (ht : row.takes x acts = true) :
    partyAct p x.off acts s = s.written p x.off fun t =>
      setBits' p x.off acts true (t.set x (bits (s.kept p x.off) x.hi x.lo)) := by
  have ht2 := ht
  simp only [RegRow.takes, Bool.and_eq_true, decide_eq_true_eq, beq_iff_eq] at ht2
  rw [← partyField_allowed p x _ acts row s h hr hc hpl ht]
  unfold partyField partyAct
  rw [withBits_self _ _ _ ht2.1.1.1.2]

/-- A row without stored fields, and ones where they act. -/
def RegRow.takesOnly (row : RegRow) (acts : Nat) : Bool :=
  row.apart && accMask row Acc.stored == 0 && acts &&& accMask row (fun a => a == .w1s || a == .w1c) == acts

/-- A command of a party that may write a register without stored fields: ones clear and act, and nothing is refused. -/
theorem partyAct_only_allowed (p off acts : Nat) (row : RegRow) (s : State) (h : Allowed p off row s) (hr : regRow off = some row)
    (hc : computedReg p off s = none) (ho : off < 0x1000000) (hb : off ≠ F.JOB_BANK_CTRL.off)
    (ht : row.takesOnly acts = true) :
    partyAct p off acts s = s.written p off fun t => setBits' p off (accMask row (fun a => a == .w1s) &&& acts) true
      (clearBits p off (accMask row (fun a => a == .w1c) &&& acts) t) := by
  simp only [RegRow.takesOnly, Bool.and_eq_true, beq_iff_eq] at ht
  obtain ⟨⟨ha, hm⟩, h4⟩ := ht
  have hf := apart_fits row ha
  have hact : ∀ y ∈ row.fields, ∀ i, y.lo ≤ i → i ≤ y.hi → (y.acc == .w1s || y.acc == .w1c) = false →
      acts.testBit i = false := by
    intro y hy i h1 h2 hq
    cases he : acts.testBit i
    · rfl
    · have := and_eq_left_testBit h4 i he
      rw [testBit_mask_of row ha _ y hy i h1 h2, hq] at this
      exact absurd this (by simp)
  have hlow : ∀ q : Acc → Bool, ∀ i, (accMask row q).testBit i = true → i < 32 := by
    intro q i hi
    rw [testBit_accMask row hf] at hi
    simp only [inFields, List.any_eq_true, Bool.and_eq_true, decide_eq_true_eq] at hi
    obtain ⟨z, hz, hz1, hz2⟩ := hi
    have := (fits_mem row hf z hz).2
    omega
  have hk : Keeps row (s.peek p off) ((s.peek p off &&& accMask row Acc.held ||| acts) % 2 ^ 32) := by
    intro y hy hacc
    have hyf := fits_mem row hf y hy
    rw [bits_mod_word _ _ _ hyf.2]
    apply Nat.eq_of_testBit_eq
    intro j
    simp only [bits, Nat.testBit_mod_two_pow, Nat.testBit_shiftRight, Nat.testBit_or, Nat.testBit_and]
    by_cases hj : j < y.hi + 1 - y.lo
    · have hl : y.lo ≤ y.lo + j := by omega
      have hh : y.lo + j ≤ y.hi := by omega
      rw [hact y hy _ hl hh (by revert hacc; cases y.acc <;> simp), testBit_mask_of row ha _ y hy _ hl hh]
      have : y.acc.held = true := by revert hacc; cases y.acc <;> simp [Acc.held]
      simp [this]
    · simp [hj]
  have hcode : ∀ q : Acc → Bool, (∀ a, q a = true → a.held = false) →
      accMask row q &&& ((s.peek p off &&& accMask row Acc.held ||| acts) % 2 ^ 32) = accMask row q &&& acts := by
    intro q hq
    apply Nat.eq_of_testBit_eq
    intro i
    simp only [Nat.testBit_and, Nat.testBit_mod_two_pow, Nat.testBit_or]
    cases hw : (accMask row q).testBit i
    · simp
    · have hi := hlow q i hw
      rw [testBit_accMask row hf] at hw
      simp only [inFields, List.any_eq_true, Bool.and_eq_true, decide_eq_true_eq] at hw
      obtain ⟨z, hz, ⟨hz1, hz2⟩, hz3⟩ := hw
      rw [testBit_mask_of row ha _ z hz i hz2 hz3, hq _ hz1]
      simp [hi]
  unfold partyAct
  rw [partyWrite_reaches _ _ _ _ h.toReaches, kept_eq s p off row hr]
  unfold State.written
  congr 1
  rw [numbered_eq s p off true]
  generalize (s.numbered p off true).gates = g
  have hp := h.permitted g
  rw [← peek_gates p off s g hc] at hk hcode ⊢
  generalize ({ s with gates := g } : State) = t at *
  unfold regWrite
  rw [if_neg (fun hh => hb hh.1), regWriteOk_allowed p off _ true row t hp hr ho ha hk,
    hcode _ (by intro a; cases a <;> simp [Acc.held]), hcode _ (by intro a; cases a <;> simp [Acc.held]), hm]
  rfl

/-! ### The lease holder's commands -/

/-- `partyField_allowed` for the lease holder. -/
theorem partyField_commands (p : Nat) (x : Fld) (k acts : Nat) (row : RegRow) (s : State) (h : Commands p x.off s)
    (hr : regRow x.off = some row) (hc : computedReg p x.off s = none) (hn : notOwner p x.off s = false)
    (hpl : plainReg x.off = true) (ht : row.takes x acts = true) :
    partyField p x k acts s = s.written p x.off fun t => setBits' p x.off acts true (t.set x k) :=
  partyField_allowed p x k acts row s (h.allowed row hn) hr hc hpl ht

/-- `partyAct_allowed` for the lease holder. -/
theorem partyAct_commands (p : Nat) (x : Fld) (acts : Nat) (row : RegRow) (s : State) (h : Commands p x.off s)
    (hr : regRow x.off = some row) (hc : computedReg p x.off s = none) (hn : notOwner p x.off s = false)
    (hpl : plainReg x.off = true) (ht : row.takes x acts = true) :
    partyAct p x.off acts s = s.written p x.off fun t =>
      setBits' p x.off acts true (t.set x (bits (s.kept p x.off) x.hi x.lo)) :=
  partyAct_allowed p x acts row s (h.allowed row hn) hr hc hpl ht

/-- `partyAct_only_allowed` for the lease holder. -/
theorem partyAct_only (p off acts : Nat) (row : RegRow) (s : State) (h : Commands p off s) (hr : regRow off = some row)
    (hc : computedReg p off s = none) (hn : notOwner p off s = false) (ho : off < 0x1000000)
    (hb : off ≠ F.JOB_BANK_CTRL.off) (ht : row.takesOnly acts = true) :
    partyAct p off acts s = s.written p off fun t => setBits' p off (accMask row (fun a => a == .w1s) &&& acts) true
      (clearBits p off (accMask row (fun a => a == .w1c) &&& acts) t) :=
  partyAct_only_allowed p off acts row s (h.allowed row hn) hr hc ho hb ht

/-- The owner of a DMA channel, or of a check unit, may write all its fields (R286, R402). -/
theorem owner_allowed (p off : Nat) (row : RegRow) (s : State) (h : Reaches p off s) (hp : p ≠ 3)
    (hn : notOwner p off s = false) (hf : row.fields.all (fun x => x.acc != .lw && (x.acc != .w1s || !holderOnly off x.lo) && (x.acc != .w1c || !holderOnly off x.lo)) = true) (hw : row.fields.any (fun x => x.acc == .rw) = true) : Allowed p off row s := by
  refine ⟨h, fun x hx ha => ?_⟩
  have hy := List.all_eq_true.1 hf x hx
  obtain ⟨hi, lo, acc⟩ := x
  cases acc <;> simp_all [Acc.writable, denied]

/-! ### A command's first state -/

theorem Reaches.begin {p off : Nat} {s : State} (h : Reaches p off s) : Reaches p off s.begin :=
  ⟨h.party, h.bonded, h.gate, h.first, h.answered, h.fresh⟩

theorem Commands.begin {p off : Nat} {s : State} (h : Commands p off s) : Commands p off s.begin :=
  ⟨h.toReaches.begin, h.holds, h.host⟩

end Sys2Proof.Machine
end

