-- ==== Sys2Proof/Laws/Memory.lean ====
section
/-! SUPPORT. The canonical form of byte memories (Memory.wf): every operation on one keeps it, a byte written reads back,
and a write leaves every other byte. -/

namespace Sys2Proof.Machine

/-! ### Sorted lists -/

/-- Every key of a list is above a bound. -/
def keysAbove {α : Type} (k : Nat) (l : List (Nat × α)) : Prop := ∀ e ∈ l, k < e.1

theorem alSorted_cons {α : Type} (k : Nat) (v : α) (l : List (Nat × α)) :
    alSorted ((k, v) :: l) = true ↔ keysAbove k l ∧ alSorted l = true := by
  induction l generalizing k v with
  | nil => simp [alSorted, keysAbove]
  | cons h t ih =>
    obtain ⟨k', v'⟩ := h
    simp only [alSorted, Bool.and_eq_true, decide_eq_true_eq]
    constructor
    · rintro ⟨h1, h2⟩
      refine ⟨?_, h2⟩
      have := ((ih k' v').1 h2).1
      intro e he
      rcases List.mem_cons.1 he with rfl | he
      · exact h1
      · exact Nat.lt_trans h1 (this e he)
    · rintro ⟨h1, h2⟩
      exact ⟨h1 (k', v') (List.mem_cons_self ..), h2⟩

theorem keysAbove_alSet {α : Type} (k : Nat) (l : List (Nat × α)) (a : Nat) (x : α) (hl : keysAbove k l) (ha : k < a) :
    keysAbove k (alSet l a x) := by
  induction l with
  | nil => intro e he; simp [alSet] at he; simp [he, ha]
  | cons h t ih =>
    obtain ⟨k', v'⟩ := h
    have hk : k < k' := hl (k', v') (List.mem_cons_self ..)
    have ht : keysAbove k t := fun e he => hl e (List.mem_cons_of_mem _ he)
    intro e he
    simp only [alSet] at he
    split at he
    · rcases List.mem_cons.1 he with rfl | he
      · exact hk
      · exact ht e he
    · split at he
      · rcases List.mem_cons.1 he with rfl | he
        · exact ha
        · exact hl e he
      · rcases List.mem_cons.1 he with rfl | he
        · exact hk
        · exact ih ht e he

theorem alSorted_alSet {α : Type} (l : List (Nat × α)) (a : Nat) (x : α) (hl : alSorted l = true) :
    alSorted (alSet l a x) = true := by
  induction l with
  | nil => simp [alSet, alSorted]
  | cons h t ih =>
    obtain ⟨k, v⟩ := h
    have hs := (alSorted_cons k v t).1 hl
    simp only [alSet]
    split
    · exact (alSorted_cons _ _ _).2 hs
    · split
      · refine (alSorted_cons _ _ _).2 ⟨?_, hl⟩
        intro e he
        rcases List.mem_cons.1 he with rfl | he
        · assumption
        · have := hs.1 e he; omega
      · rename_i h1 h2
        exact (alSorted_cons _ _ _).2 ⟨keysAbove_alSet k t a x hs.1 (by omega), ih hs.2⟩

theorem mem_alErase {α : Type} (l : List (Nat × α)) (a : Nat) : ∀ e ∈ alErase l a, e ∈ l := by
  induction l with
  | nil => simp [alErase]
  | cons h t ih =>
    obtain ⟨k, v⟩ := h
    intro e he
    simp only [alErase] at he
    split at he
    · exact List.mem_cons_of_mem _ he
    · split at he
      · exact he
      · rcases List.mem_cons.1 he with rfl | he
        · exact List.mem_cons_self ..
        · exact List.mem_cons_of_mem _ (ih e he)

theorem alSorted_alErase {α : Type} (l : List (Nat × α)) (a : Nat) (hl : alSorted l = true) :
    alSorted (alErase l a) = true := by
  induction l with
  | nil => simp [alErase, alSorted]
  | cons h t ih =>
    obtain ⟨k, v⟩ := h
    have hs := (alSorted_cons k v t).1 hl
    simp only [alErase]
    split
    · exact hs.2
    · split
      · exact hl
      · exact (alSorted_cons _ _ _).2 ⟨fun e he => hs.1 e (mem_alErase t a e he), ih hs.2⟩

theorem alSorted_filter {α : Type} (l : List (Nat × α)) (p : Nat × α → Bool) (hl : alSorted l = true) :
    alSorted (l.filter p) = true := by
  induction l with
  | nil => simp [alSorted]
  | cons h t ih =>
    obtain ⟨k, v⟩ := h
    have hs := (alSorted_cons k v t).1 hl
    simp only [List.filter_cons]
    split
    · exact (alSorted_cons _ _ _).2 ⟨fun e he => hs.1 e ((List.mem_filter.1 he).1), ih hs.2⟩
    · exact ih hs.2

theorem alSorted_filterMap {α : Type} (l : List (Nat × α)) (f : Nat × α → Option (Nat × α))
    (hf : ∀ e x, f e = some x → x.1 = e.1) (hl : alSorted l = true) : alSorted (l.filterMap f) = true := by
  induction l with
  | nil => simp [alSorted]
  | cons h t ih =>
    have hs := (alSorted_cons h.1 h.2 t).1 hl
    rw [List.filterMap_cons]
    split
    · exact ih hs.2
    · rename_i x hx
      refine (alSorted_cons x.1 x.2 _).2 ⟨fun e he => ?_, ih hs.2⟩
      obtain ⟨y, hy, hye⟩ := List.mem_filterMap.1 he
      rw [hf _ _ hx, hf _ _ hye]
      exact hs.1 y hy

theorem mem_alSet {α : Type} (l : List (Nat × α)) (a : Nat) (x : α) : ∀ e ∈ alSet l a x, e ∈ l ∨ e.2 = x := by
  induction l with
  | nil => simp [alSet]
  | cons h t ih =>
    obtain ⟨k, v⟩ := h
    intro e he
    simp only [alSet] at he
    split at he
    · rcases List.mem_cons.1 he with rfl | he
      · exact .inr rfl
      · exact .inl (List.mem_cons_of_mem _ he)
    · split at he
      · rcases List.mem_cons.1 he with rfl | he
        · exact .inr rfl
        · exact .inl he
      · rcases List.mem_cons.1 he with rfl | he
        · exact .inl (List.mem_cons_self ..)
        · rcases ih e he with h | h
          · exact .inl (List.mem_cons_of_mem _ h)
          · exact .inr h

theorem alGet_keysAbove {α : Type} (k a : Nat) (l : List (Nat × α)) (h : keysAbove k l) (ha : a ≤ k) : alGet l a = none := by
  cases l with
  | nil => rfl
  | cons e t =>
    obtain ⟨k', v⟩ := e
    have : k < k' := h (k', v) (List.mem_cons_self ..)
    have h1 : a ≠ k' := by omega
    have h2 : a < k' := by omega
    simp [alGet, h1, h2]

theorem alGet_alErase_same {α : Type} (l : List (Nat × α)) (a : Nat) (hl : alSorted l = true) : alGet (alErase l a) a = none := by
  induction l with
  | nil => rfl
  | cons h t ih =>
    obtain ⟨k, v⟩ := h
    have hs := (alSorted_cons k v t).1 hl
    simp only [alErase]
    split
    · rename_i h1; exact alGet_keysAbove k a t hs.1 (by omega)
    · split
      · rename_i h1 h2; simp [alGet, h1, h2]
      · rename_i h1 h2; simp [alGet, h1, h2, ih hs.2]

theorem alGet_alErase_other {α : Type} (l : List (Nat × α)) (a b : Nat) (hl : alSorted l = true) (hb : b ≠ a) :
    alGet (alErase l a) b = alGet l b := by
  induction l with
  | nil => rfl
  | cons h t ih =>
    obtain ⟨k, v⟩ := h
    have hs := (alSorted_cons k v t).1 hl
    simp only [alErase]
    split
    · rename_i h1
      subst h1
      by_cases h2 : b < a
      · rw [alGet_keysAbove a b t hs.1 (by omega)]; simp [alGet, hb, h2]
      · simp [alGet, hb, h2]
    · split
      · rfl
      · by_cases h3 : b = k
        · simp [alGet, h3]
        · by_cases h4 : b < k
          · simp [alGet, h3, h4]
          · simp [alGet, h3, h4, ih hs.2]

/-! ### Byte memories -/

theorem memory_wf_iff (d : Byte) (m : List Host.Cell) :
    Memory.wf d m = true ↔ alSorted m = true ∧ ∀ c ∈ m, c.2 ≠ d := by
  simp [Memory.wf]

@[simp] theorem memory_wf_nil (d : Byte) : Memory.wf d [] = true := rfl

theorem cellSet_wf (d : Byte) (m : List Host.Cell) (a : Nat) (b : Byte) (h : Memory.wf d m = true) :
    Memory.wf d (cellSet d m a b) = true := by
  rw [memory_wf_iff] at *
  simp only [cellSet]
  split
  · exact ⟨alSorted_alErase m a h.1, fun c hc => h.2 c (mem_alErase m a c hc)⟩
  · rename_i hb
    refine ⟨alSorted_alSet m a b h.1, fun c hc => ?_⟩
    rcases mem_alSet m a b c hc with hc | hc
    · exact h.2 c hc
    · rw [hc]; exact hb

theorem cellsPut_wf (d : Byte) (l : List Byte) : ∀ (m : List Host.Cell) (a : Nat), Memory.wf d m = true →
    Memory.wf d (cellsPut d m a l) = true := by
  induction l with
  | nil => intro m a h; exact h
  | cons b t ih => intro m a h; exact ih _ _ (cellSet_wf d m a b h)

theorem cellsClear_wf (d : Byte) (m : List Host.Cell) (a n : Nat) (h : Memory.wf d m = true) :
    Memory.wf d (cellsClear m a n) = true := by
  rw [memory_wf_iff] at *
  exact ⟨alSorted_filter m _ h.1, fun c hc => h.2 c ((List.mem_filter.1 hc).1)⟩

/-- A byte written reads back. -/
theorem cellGet_cellSet_same (d : Byte) (m : List Host.Cell) (a : Nat) (b : Byte) (h : Memory.wf d m = true) :
    cellGet d (cellSet d m a b) a = b := by
  rw [memory_wf_iff] at h
  simp only [cellSet]
  split
  · rename_i hb; simp [cellGet, alGet_alErase_same m a h.1, hb]
  · simp [cellGet]

/-- A byte written leaves every other byte. -/
theorem cellGet_cellSet_other (d : Byte) (m : List Host.Cell) (a a' : Nat) (b : Byte) (h : Memory.wf d m = true)
    (ha : a' ≠ a) : cellGet d (cellSet d m a b) a' = cellGet d m a' := by
  rw [memory_wf_iff] at h
  simp only [cellSet]
  split
  · simp [cellGet, alGet_alErase_other m a a' h.1 ha]
  · simp [cellGet, alGet_alSet_other m a a' b ha]

/-- Bytes written from an address up leave every byte outside them. -/
theorem cellGet_cellsPut_other (d : Byte) (l : List Byte) : ∀ (m : List Host.Cell) (a a' : Nat), Memory.wf d m = true →
    a' < a ∨ a + l.length ≤ a' → cellGet d (cellsPut d m a l) a' = cellGet d m a' := by
  induction l with
  | nil => intro m a a' _ _; rfl
  | cons b t ih =>
    intro m a a' h ha
    simp only [List.length_cons] at ha
    simp only [cellsPut]
    rw [ih _ (a + 1) a' (cellSet_wf d m a b h) (by omega), cellGet_cellSet_other d m a a' b h (by omega)]

/-! ### Stores into flash (R406) -/

theorem flashProgram_wf (a : Nat) (l : List Byte) (s : State) (h : Memory.wf flashDefault s.nvl.flash = true) :
    Memory.wf flashDefault (flashProgram a l s).nvl.flash = true := cellsPut_wf _ _ _ _ h

theorem flashErase_wf (a n : Nat) (s : State) (h : Memory.wf flashDefault s.nvl.flash = true) :
    Memory.wf flashDefault (flashErase a n s).nvl.flash = true := cellsClear_wf _ _ _ _ h

/-- DRAM and flash hold their canonical form at reset. -/
theorem reset_memory_wf : Memory.wf dramDefault State.reset.mem.cells = true ∧
    Memory.wf flashDefault State.reset.nvl.flash = true := ⟨rfl, rfl⟩

end Sys2Proof.Machine
end

