-- ==== Sys2Proof/Laws/Steady.lean ====
section
/-! SUPPORT. What every operation keeps: the queue, the fuses, the operating seconds, the canonical form of DRAM, flash
and the registers, and every part of the state that it does not name. `Steady l s0 t` says that `t` follows `s0` so, with
changes in the parts of the mask `l` at most; each operation has one lemma (`<operation>_steady`, in the files SteadyNN),
by which the facts of whole commands follow. -/

namespace Sys2Proof.Machine

/-- The place of a part in a mask. -/
def Part.bit : Part → Nat
  | .pins => 0
  | .ret => 1
  | .regs => 2
  | .gates => 3
  | .gateCmd => 4
  | .retrying => 5
  | .leaseCmd => 6
  | .leaseResult => 7
  | .evPending => 8
  | .evEnable => 9
  | .ctx => 10
  | .smbusAddr => 11
  | .smbusStatus => 12
  | .jobs => 13
  | .path => 14
  | .link => 15
  | .head => 16
  | .cal => 17
  | .dma => 18
  | .mem => 19
  | .ledger => 20
  | .chk => 21
  | .nvl => 22
  | .usage => 23
  | .bankA => 24
  | .bankB => 25
  | .headPlane => 26
  | .now => 27
  | .enc => 28
  | .zX => 29
  | .zY => 30
  | .yawX => 31
  | .yawY => 32
  | .shot => 33
  | .pln => 34
  | .fence => 35
  | .usb => 36

/-- The mask `l` has every part of the mask `m`. -/
abbrev Covers (m l : Nat) : Prop := m &&& l = m

theorem Covers.sub {m' m l : Nat} (h : Covers m l) (k : Covers m' m) : Covers m' l := by
  unfold Covers at *
  rw [← k, Nat.and_assoc, h]

theorem Covers.out {m l i : Nat} (h : Covers m l) (hi : l.testBit i = false) : m.testBit i = false := by
  unfold Covers at h
  rw [← h, Nat.testBit_and, hi, Bool.and_false]

/-- Outside a mask the parts of two states are the same. -/
abbrev SameOutside (l : Nat) (s t : State) : Prop := ∀ x : Part, l.testBit x.bit = false → x.same s t

theorem Part.same_rfl (x : Part) (s : State) : x.same s s := by cases x <;> rfl

theorem Part.same_trans {x : Part} {s t u : State} (h : x.same s t) (k : x.same t u) : x.same s u := by
  cases x <;> exact Eq.trans k h

/-- `t` has the queue and the fuses of `s`, the canonical form if `s` has it, and the parts outside a mask. -/
structure Canon (l : Nat) (s t : State) : Prop where
  pending : t.pending = s.pending
  fuses : t.fuses = s.fuses
  cells : Memory.wf dramDefault s.mem.cells = true → Memory.wf dramDefault t.mem.cells = true
  flash : Memory.wf flashDefault s.nvl.flash = true → Memory.wf flashDefault t.nvl.flash = true
  regs : alSorted s.regs = true → alSorted t.regs = true
  parts : SameOutside l s t

/-- `Canon`, with the operating seconds of `s`. -/
structure Steady (l : Nat) (s t : State) : Prop extends Canon l s t where
  seconds : t.ret.seconds = s.ret.seconds

theorem Canon.refl {l : Nat} (s : State) : Canon l s s := ⟨rfl, rfl, id, id, id, fun x _ => x.same_rfl s⟩

theorem Steady.refl {l : Nat} (s : State) : Steady l s s := ⟨Canon.refl s, rfl⟩

theorem Canon.trans {l : Nat} {s t u : State} (h : Canon l s t) (k : Canon l t u) : Canon l s u :=
  ⟨k.pending.trans h.pending, k.fuses.trans h.fuses, fun a => k.cells (h.cells a), fun a => k.flash (h.flash a),
    fun a => k.regs (h.regs a), fun x hx => Part.same_trans (h.parts x hx) (k.parts x hx)⟩

theorem Steady.trans {l : Nat} {s t u : State} (h : Steady l s t) (k : Steady l t u) : Steady l s u :=
  ⟨h.toCanon.trans k.toCanon, k.seconds.trans h.seconds⟩

theorem Canon.wider {m l : Nat} {s t : State} (h : Canon m s t) (hl : Covers m l) : Canon l s t :=
  ⟨h.pending, h.fuses, h.cells, h.flash, h.regs, fun x hx => h.parts x (hl.out hx)⟩

theorem Steady.wider {m l : Nat} {s t : State} (h : Steady m s t) (hl : Covers m l) : Steady l s t :=
  ⟨h.toCanon.wider hl, h.seconds⟩

/-- A `Steady` operation after a `Canon` one. -/
theorem Canon.step {l : Nat} {s t u : State} (h : Canon l s t) (k : Steady l t u) : Canon l s u := h.trans k.toCanon

/-- One more change, in parts that the mask has. -/
theorem Steady.put {m l : Nat} {s t u : State} (h : Steady l s t) (hl : Covers m l) (k : Steady m t u) : Steady l s u :=
  h.trans (k.wider hl)

theorem Canon.put {m l : Nat} {s t u : State} (h : Canon l s t) (hl : Covers m l) (k : Canon m t u) : Canon l s u :=
  h.trans (k.wider hl)

/-- A state written as `t` with other parts replaced. -/
theorem Steady.upd {m l : Nat} {s t : State} {v_pins : Pins} {v_ret : Retention} {v_gates : List (Nat × Gate)}
    {v_gateCmd : Option GateCmd} {v_retrying : List (Nat × Req)} {v_leaseCmd : List (Nat × Nat)} {v_leaseResult :
    List (Nat × Nat)} {v_evPending : List (Nat × Word)} {v_evEnable : List (Nat × Word)} {v_ctx : List (Nat × Ctx)}
    {v_smbusAddr : Nat} {v_smbusStatus : Nat} {v_usb : List UsbReq} {v_jobs : Jobs} {v_path : Path} {v_link : List (Nat × Group)} {v_head
    : Head} {v_cal : Cal} {v_dma : List (Nat × DmaChan)} {v_mem : Mem} {v_ledger : Ledger} {v_chk : List (Nat ×
    Nat)} {v_nvl : Nvl} {v_usage : List (Nat × Nat)} {v_bankA : List (Nat × Nat)} {v_bankB : List (Nat × Nat)}
    {v_headPlane : List (Nat × Nat)} {v_now : Nat} {v_enc : List (Nat × EncChan)} {v_zX : Int} {v_zY : Int} {v_yawX
    : Nat} {v_yawY : Nat} {v_shot : ShotTiming} {v_pln : Planner} {v_fence : Fence} {v_out : List Out} {v_freeCount
    : Nat} (hl : Covers m l) (hd : SameOutside m t (State.mk t.fuses v_pins v_ret t.regs v_gates v_gateCmd
    v_retrying v_leaseCmd v_leaseResult v_evPending v_evEnable v_ctx v_smbusAddr v_smbusStatus v_usb v_jobs v_path v_link
    v_head v_cal v_dma v_mem v_ledger v_chk v_nvl v_usage v_bankA v_bankB v_headPlane v_now v_enc v_zX v_zY v_yawX
    v_yawY v_shot v_pln v_fence v_out t.pending v_freeCount)) (h : Steady l s t) (hs : v_ret.seconds =
    t.ret.seconds) (hc : v_mem.cells = t.mem.cells) (hn : v_nvl.flash = t.nvl.flash) : Steady l s (State.mk t.fuses
    v_pins v_ret t.regs v_gates v_gateCmd v_retrying v_leaseCmd v_leaseResult v_evPending v_evEnable v_ctx
    v_smbusAddr v_smbusStatus v_usb v_jobs v_path v_link v_head v_cal v_dma v_mem v_ledger v_chk v_nvl v_usage v_bankA
    v_bankB v_headPlane v_now v_enc v_zX v_zY v_yawX v_yawY v_shot v_pln v_fence v_out t.pending v_freeCount) :=
  h.put hl ⟨⟨rfl, rfl, by rw [← hc]; exact id, by rw [← hn]; exact id, id, hd⟩, hs⟩

theorem Canon.upd {m l : Nat} {s t : State} {v_pins : Pins} {v_ret : Retention} {v_gates : List (Nat × Gate)}
    {v_gateCmd : Option GateCmd} {v_retrying : List (Nat × Req)} {v_leaseCmd : List (Nat × Nat)} {v_leaseResult :
    List (Nat × Nat)} {v_evPending : List (Nat × Word)} {v_evEnable : List (Nat × Word)} {v_ctx : List (Nat × Ctx)}
    {v_smbusAddr : Nat} {v_smbusStatus : Nat} {v_usb : List UsbReq} {v_jobs : Jobs} {v_path : Path} {v_link : List (Nat × Group)} {v_head
    : Head} {v_cal : Cal} {v_dma : List (Nat × DmaChan)} {v_mem : Mem} {v_ledger : Ledger} {v_chk : List (Nat ×
    Nat)} {v_nvl : Nvl} {v_usage : List (Nat × Nat)} {v_bankA : List (Nat × Nat)} {v_bankB : List (Nat × Nat)}
    {v_headPlane : List (Nat × Nat)} {v_now : Nat} {v_enc : List (Nat × EncChan)} {v_zX : Int} {v_zY : Int} {v_yawX
    : Nat} {v_yawY : Nat} {v_shot : ShotTiming} {v_pln : Planner} {v_fence : Fence} {v_out : List Out} {v_freeCount
    : Nat} (hl : Covers m l) (hd : SameOutside m t (State.mk t.fuses v_pins v_ret t.regs v_gates v_gateCmd
    v_retrying v_leaseCmd v_leaseResult v_evPending v_evEnable v_ctx v_smbusAddr v_smbusStatus v_usb v_jobs v_path v_link
    v_head v_cal v_dma v_mem v_ledger v_chk v_nvl v_usage v_bankA v_bankB v_headPlane v_now v_enc v_zX v_zY v_yawX
    v_yawY v_shot v_pln v_fence v_out t.pending v_freeCount)) (h : Canon l s t) (hc : v_mem.cells = t.mem.cells) (hn
    : v_nvl.flash = t.nvl.flash) : Canon l s (State.mk t.fuses v_pins v_ret t.regs v_gates v_gateCmd v_retrying
    v_leaseCmd v_leaseResult v_evPending v_evEnable v_ctx v_smbusAddr v_smbusStatus v_usb v_jobs v_path v_link v_head
    v_cal v_dma v_mem v_ledger v_chk v_nvl v_usage v_bankA v_bankB v_headPlane v_now v_enc v_zX v_zY v_yawX v_yawY
    v_shot v_pln v_fence v_out t.pending v_freeCount) :=
  h.put hl ⟨rfl, rfl, by rw [← hc]; exact id, by rw [← hn]; exact id, id, hd⟩

theorem Steady.ite {l : Nat} {s a b : State} {c : Prop} [Decidable c] (ha : Steady l s a) (hb : Steady l s b) :
    Steady l s (if c then a else b) := by split <;> assumption

theorem Steady.ite_snd {l : Nat} {α : Type} {s : State} {a b : α × State} {c : Prop} [Decidable c] (ha : Steady l s a.2)
    (hb : Steady l s b.2) : Steady l s (if c then a else b).2 := by split <;> assumption

theorem Steady.dite {l : Nat} {s : State} {c : Prop} [Decidable c] {a : c → State} {b : ¬ c → State} (ha : ∀ h, Steady l s (a h))
    (hb : ∀ h, Steady l s (b h)) : Steady l s (if h : c then a h else b h) := by
  split
  · exact ha _
  · exact hb _

/-- A fact proved once, for what follows. -/
theorem Steady.cut {l : Nat} {s t u : State} (ht : Steady l s t) (hu : Steady l s t → Steady l s u) : Steady l s u := hu ht

theorem Steady.pair {l : Nat} {α : Type} {s t : State} {x : α} (h : Steady l s t) : Steady l s (x, t).2 := h

theorem Steady.foldl {l : Nat} {α : Type} {s0 : State} {f : State → α → State} (es : List α) {s : State} (hs : Steady l s0 s)
    (hf : ∀ t x, Steady l s0 t → Steady l s0 (f t x)) : Steady l s0 (es.foldl f s) := by
  induction es generalizing s with
  | nil => exact hs
  | cons x es ih => exact ih (hf s x hs)

theorem Steady.foldl_snd {l : Nat} {α β : Type} {s0 : State} {f : β × State → α → β × State} (es : List α) {s : β × State}
    (hs : Steady l s0 s.2) (hf : ∀ t x, Steady l s0 t.2 → Steady l s0 (f t x).2) : Steady l s0 (es.foldl f s).2 := by
  induction es generalizing s with
  | nil => exact hs
  | cons x es ih => exact ih (hf s x hs)

theorem Steady.foldr {l : Nat} {α : Type} {s0 : State} {f : α → State → State} (es : List α) {s : State} (hs : Steady l s0 s)
    (hf : ∀ x t, Steady l s0 t → Steady l s0 (f x t)) : Steady l s0 (es.foldr f s) := by
  induction es with
  | nil => exact hs
  | cons x es ih => exact hf x _ ih

/-! The same for `Canon`. -/

theorem Canon.ite {l : Nat} {s a b : State} {c : Prop} [Decidable c] (ha : Canon l s a) (hb : Canon l s b) :
    Canon l s (if c then a else b) := by split <;> assumption

theorem Canon.ite_snd {l : Nat} {α : Type} {s : State} {a b : α × State} {c : Prop} [Decidable c] (ha : Canon l s a.2)
    (hb : Canon l s b.2) : Canon l s (if c then a else b).2 := by split <;> assumption

theorem Canon.dite {l : Nat} {s : State} {c : Prop} [Decidable c] {a : c → State} {b : ¬ c → State} (ha : ∀ h, Canon l s (a h))
    (hb : ∀ h, Canon l s (b h)) : Canon l s (if h : c then a h else b h) := by
  split
  · exact ha _
  · exact hb _

/-- A fact proved once, for what follows. -/
theorem Canon.cut {l : Nat} {s t u : State} (ht : Canon l s t) (hu : Canon l s t → Canon l s u) : Canon l s u := hu ht

theorem Canon.pair {l : Nat} {α : Type} {s t : State} {x : α} (h : Canon l s t) : Canon l s (x, t).2 := h

theorem Canon.foldl {l : Nat} {α : Type} {s0 : State} {f : State → α → State} (es : List α) {s : State} (hs : Canon l s0 s)
    (hf : ∀ t x, Canon l s0 t → Canon l s0 (f t x)) : Canon l s0 (es.foldl f s) := by
  induction es generalizing s with
  | nil => exact hs
  | cons x es ih => exact ih (hf s x hs)

theorem Canon.foldl_snd {l : Nat} {α β : Type} {s0 : State} {f : β × State → α → β × State} (es : List α) {s : β × State}
    (hs : Canon l s0 s.2) (hf : ∀ t x, Canon l s0 t.2 → Canon l s0 (f t x).2) : Canon l s0 (es.foldl f s).2 := by
  induction es generalizing s with
  | nil => exact hs
  | cons x es ih => exact ih (hf s x hs)

theorem Canon.foldr {l : Nat} {α : Type} {s0 : State} {f : α → State → State} (es : List α) {s : State} (hs : Canon l s0 s)
    (hf : ∀ x t, Canon l s0 t → Canon l s0 (f x t)) : Canon l s0 (es.foldr f s) := by
  induction es with
  | nil => exact hs
  | cons x es ih => exact hf x _ ih

end Sys2Proof.Machine
end

