-- ==== Sys2Proof/Laws/Steady01.lean ====
section
/-! SUPPORT. What the operations of Ops, Memory, Flash keep (Laws/Steady.lean). -/

set_option linter.unusedVariables false
set_option maxRecDepth 4000

namespace Sys2Proof.Machine

theorem State_setGate_steady {l : Nat} {s0 : State} (hl : Covers 0x8 l) (s : State) (x1 : Nat) (x2 : Gate) (h0 :
    Steady l s0 s) :
    Steady l s0 (State.setGate s x1 x2) := by
  unfold State.setGate
  exact Steady.upd (m := 0x8) (hl.sub (by decide))
    (by intro x; cases x <;> first | exact fun _ => rfl | exact fun h => absurd h (by decide)) (by assumption) rfl rfl rfl

theorem State_wr_steady {l : Nat} {s0 : State} (hl : Covers 0x4 l) (s : State) (x1 : Nat) (x2 : Nat) (h0 : Steady l
    s0 s) :
    Steady l s0 (State.wr s x1 x2) := by
  exact h0.put hl ⟨⟨rfl, rfl, id, id, fun h => alSorted_alSet _ _ _ h, by intro x; cases x <;> first | exact fun _ => rfl | exact fun h => absurd h (by decide)⟩, rfl⟩

theorem State_set_steady {l : Nat} {s0 : State} (hl : Covers 0x4 l) (s : State) (x1 : Fld) (x2 : Nat) (h0 : Steady l
    s0 s) :
    Steady l s0 (State.set s x1 x2) := by
  unfold State.set
  exact State_wr_steady (hl.sub (by decide)) _ _ _ (by assumption)

theorem State_inc_steady {l : Nat} {s0 : State} (hl : Covers 0x4 l) (s : State) (x1 : Fld) (x2 : Nat) (h0 : Steady l
    s0 s) :
    Steady l s0 (State.inc s x1 x2) := by
  unfold State.inc
  exact State_set_steady (hl.sub (by decide)) _ _ _ (by assumption)

theorem State_emit_steady {l : Nat} {s0 : State} (hl : Covers 0x0 l) (s : State) (x1 : Out) (h0 : Steady l s0 s) :
    Steady l s0 (State.emit s x1) := by
  unfold State.emit
  exact Steady.upd (m := 0x0) (hl.sub (by decide))
    (by intro x; cases x <;> first | exact fun _ => rfl | exact fun h => absurd h (by decide)) (by assumption) rfl rfl rfl

theorem State_begin_steady {l : Nat} {s0 : State} (hl : Covers 0x2002 l) (s : State) (h0 : Steady l s0 s) :
    Steady l s0 (State.begin s) := by
  unfold State.begin
  exact Steady.upd (m := 0x2002) (hl.sub (by decide))
    (by intro x; cases x <;> first | exact fun _ => rfl | exact fun h => absurd h (by decide)) (by assumption) rfl rfl rfl

theorem raisePort_steady {l : Nat} {s0 : State} (hl : Covers 0x4 l) (x0 : Nat) (x1 : Nat) (s : State) (h0 : Steady l
    s0 s) :
    Steady l s0 (raisePort x0 x1 s) := by
  unfold raisePort
  extract_lets +onlyGivenNames t1
  clear_value t1
  refine Steady.ite ?_ ?_
  · refine State_emit_steady (hl.sub (by decide)) _ _ ?_
    exact State_wr_steady (hl.sub (by decide)) _ _ _ (by assumption)
  · assumption

theorem raiseCopy_steady {l : Nat} {s0 : State} (hl : Covers 0x100 l) (x0 : Nat) (x1 : Nat) (s : State) (h0 : Steady
    l s0 s) :
    Steady l s0 (raiseCopy x0 x1 s) := by
  unfold raiseCopy
  refine Steady.ite ?_ ?_
  · refine Steady.upd (m := 0x100) (hl.sub (by decide)) (by intro x; cases x <;> first | exact fun _ => rfl | exact fun h => absurd h (by decide)) ?_ ?_ ?_ ?_
    · assumption
    · exact rfl
    · exact rfl
    · exact rfl
  · assumption

theorem raise_steady {l : Nat} {s0 : State} (hl : Covers 0x104 l) (x0 : Nat) (s : State) (h0 : Steady l s0 s) :
    Steady l s0 (raise x0 s) := by
  unfold raise
  refine raiseCopy_steady (hl.sub (by decide)) _ _ _ ?_
  refine raiseCopy_steady (hl.sub (by decide)) _ _ _ ?_
  refine raisePort_steady (hl.sub (by decide)) _ _ _ ?_
  exact raisePort_steady (hl.sub (by decide)) _ _ _ (by assumption)

theorem raiseTo_steady {l : Nat} {s0 : State} (hl : Covers 0x104 l) (x0 : Nat) (x1 : Nat) (s : State) (h0 : Steady l
    s0 s) :
    Steady l s0 (raiseTo x0 x1 s) := by
  unfold raiseTo
  refine Steady.ite ?_ ?_
  · refine raisePort_steady (hl.sub (by decide)) _ _ _ ?_
    assumption
  · refine Steady.ite ?_ ?_
    · refine raiseCopy_steady (hl.sub (by decide)) _ _ _ ?_
      assumption
    · assumption

theorem showLedger_steady {l : Nat} {s0 : State} (hl : Covers 0x4 l) (s : State) (h0 : Steady l s0 s) :
    Steady l s0 (showLedger s) := by
  unfold showLedger
  extract_lets +onlyGivenNames t1
  clear_value t1
  extract_lets +onlyGivenNames t2
  clear_value t2
  extract_lets +onlyGivenNames t3
  refine Steady.cut (t := t3) ?_ (fun ht3 => ?_)
  · unfold t3
    exact State_set_steady (hl.sub (by decide)) _ _ _ (by assumption)
  clear_value t3
  extract_lets +onlyGivenNames t4
  refine Steady.cut (t := t4) ?_ (fun ht4 => ?_)
  · unfold t4
    exact State_set_steady (hl.sub (by decide)) _ _ _ (by assumption)
  clear_value t4
  exact State_set_steady (hl.sub (by decide)) _ _ _ (by assumption)

theorem loseRec_steady {l : Nat} {s0 : State} (hl : Covers 0x4 l) (x0 : Nat) (s : State) (h0 : Steady l s0 s) :
    Steady l s0 (loseRec x0 s) := by
  unfold loseRec
  extract_lets +onlyGivenNames t1
  refine Steady.cut (t := t1) ?_ (fun ht1 => ?_)
  · unfold t1
    exact State_inc_steady (hl.sub (by decide)) _ _ _ (by assumption)
  clear_value t1
  refine Steady.ite ?_ ?_
  · refine State_inc_steady (hl.sub (by decide)) _ _ _ ?_
    assumption
  · assumption

theorem enqueueRec_steady {l : Nat} {s0 : State} (hl : Covers 0x6 l) (x0 : LedgerRec) (s : State) (h0 : Steady l s0
    s) :
    Steady l s0 (enqueueRec x0 s) := by
  unfold enqueueRec
  refine Steady.ite ?_ ?_
  · refine loseRec_steady (hl.sub (by decide)) _ _ ?_
    assumption
  · refine Steady.ite ?_ ?_
    · refine loseRec_steady (hl.sub (by decide)) _ _ ?_
      assumption
    · refine Steady.ite ?_ ?_
      · refine loseRec_steady (hl.sub (by decide)) _ _ ?_
        assumption
      · refine showLedger_steady (hl.sub (by decide)) _ ?_
        exact Steady.upd (m := 0x2) (hl.sub (by decide))
          (by intro x; cases x <;> first | exact fun _ => rfl | exact fun h => absurd h (by decide)) (by assumption) rfl rfl rfl

theorem closeOpenRec_steady {l : Nat} {s0 : State} (hl : Covers 0x6 l) (s : State) (h0 : Steady l s0 s) :
    Steady l s0 (closeOpenRec s) := by
  unfold closeOpenRec
  split
  · assumption
  · refine enqueueRec_steady (hl.sub (by decide)) _ _ ?_
    exact Steady.upd (m := 0x2) (hl.sub (by decide))
      (by intro x; cases x <;> first | exact fun _ => rfl | exact fun h => absurd h (by decide)) (by assumption) rfl rfl rfl

theorem openRec_steady {l : Nat} {s0 : State} (hl : Covers 0x106 l) (x0 : LedgerRec) (s : State) (h0 : Steady l s0
    s) :
    Steady l s0 (openRec x0 s) := by
  unfold openRec
  extract_lets +onlyGivenNames t1
  refine Steady.cut (t := t1) ?_ (fun ht1 => ?_)
  · unfold t1
    exact closeOpenRec_steady (hl.sub (by decide)) _ (by assumption)
  clear_value t1
  extract_lets +onlyGivenNames t2
  extract_lets +onlyGivenNames t3
  refine Steady.cut (t := t3) ?_ (fun ht3 => ?_)
  · unfold t3
    exact Steady.upd (m := 0x2) (hl.sub (by decide))
      (by intro x; cases x <;> first | exact fun _ => rfl | exact fun h => absurd h (by decide)) (by assumption) rfl rfl rfl
  clear_value t3
  refine Steady.ite ?_ ?_
  · refine raise_steady (hl.sub (by decide)) _ _ ?_
    assumption
  · assumption

theorem recordEvent_steady {l : Nat} {s0 : State} (hl : Covers 0x106 l) (x0 : LedgerRec) (s : State) (h0 : Steady l
    s0 s) :
    Steady l s0 (recordEvent x0 s) := by
  unfold recordEvent
  split
  · refine Steady.ite ?_ ?_
    · extract_lets +onlyGivenNames t1
      extract_lets +onlyGivenNames t2
      extract_lets +onlyGivenNames t3
      refine Steady.cut (t := t3) ?_ (fun ht3 => ?_)
      · unfold t3
        exact Steady.upd (m := 0x2) (hl.sub (by decide))
          (by intro x; cases x <;> first | exact fun _ => rfl | exact fun h => absurd h (by decide)) (by assumption) rfl rfl rfl
      clear_value t3
      refine Steady.ite ?_ ?_
      · refine closeOpenRec_steady (hl.sub (by decide)) _ ?_
        assumption
      · assumption
    · refine openRec_steady (hl.sub (by decide)) _ _ ?_
      assumption
  · refine openRec_steady (hl.sub (by decide)) _ _ ?_
    assumption

theorem event_steady {l : Nat} {s0 : State} (hl : Covers 0x100106 l) (x0 : Nat) (x1 : List Byte) (s : State) (h0 :
    Steady l s0 s) :
    Steady l s0 (event x0 x1 s) := by
  unfold event
  refine Steady.ite ?_ ?_
  · refine recordEvent_steady (hl.sub (by decide)) _ _ ?_
    assumption
  · refine Steady.ite ?_ ?_
    · assumption
    · refine Steady.upd (m := 0x100000) (hl.sub (by decide)) (by intro x; cases x <;> first | exact fun _ => rfl | exact fun h => absurd h (by decide)) ?_ ?_ ?_ ?_
      · assumption
      · exact rfl
      · exact rfl
      · exact rfl

theorem drainEvents_steady {l : Nat} {s0 : State} (hl : Covers 0x100106 l) (s : State) (h0 : Steady l s0 s) :
    Steady l s0 (drainEvents s) := by
  unfold drainEvents
  refine Steady.foldl _ ?_ (fun _ _ _ => ?_)
  · refine Steady.upd (m := 0x100000) (hl.sub (by decide)) (by intro x; cases x <;> first | exact fun _ => rfl | exact fun h => absurd h (by decide)) ?_ ?_ ?_ ?_
    · assumption
    · exact rfl
    · exact rfl
    · exact rfl
  · refine recordEvent_steady (hl.sub (by decide)) _ _ ?_
    assumption

theorem tallyEcc_steady {l : Nat} {s0 : State} (hl : Covers 0x100000 l) (x0 : Nat) (x1 : Nat) (s : State) (h0 :
    Steady l s0 s) :
    Steady l s0 (tallyEcc x0 x1 s) := by
  unfold tallyEcc
  exact Steady.upd (m := 0x100000) (hl.sub (by decide))
    (by intro x; cases x <;> first | exact fun _ => rfl | exact fun h => absurd h (by decide)) (by assumption) rfl rfl rfl

theorem tallyRetx_steady {l : Nat} {s0 : State} (hl : Covers 0x100000 l) (s : State) (h0 : Steady l s0 s) :
    Steady l s0 (tallyRetx s) := by
  unfold tallyRetx
  exact Steady.upd (m := 0x100000) (hl.sub (by decide))
    (by intro x; cases x <;> first | exact fun _ => rfl | exact fun h => absurd h (by decide)) (by assumption) rfl rfl rfl

theorem tallyEntry_steady {l : Nat} {s0 : State} (hl : Covers 0x100000 l) (x0 : Bool) (s : State) (h0 : Steady l s0
    s) :
    Steady l s0 (tallyEntry x0 s) := by
  unfold tallyEntry
  exact Steady.upd (m := 0x100000) (hl.sub (by decide))
    (by intro x; cases x <;> first | exact fun _ => rfl | exact fun h => absurd h (by decide)) (by assumption) rfl rfl rfl

theorem tallyHead_steady {l : Nat} {s0 : State} (hl : Covers 0x100000 l) (s : State) (h0 : Steady l s0 s) :
    Steady l s0 (tallyHead s) := by
  unfold tallyHead
  exact Steady.upd (m := 0x100000) (hl.sub (by decide))
    (by intro x; cases x <;> first | exact fun _ => rfl | exact fun h => absurd h (by decide)) (by assumption) rfl rfl rfl

theorem State_fresh_steady {l : Nat} {s0 : State} (hl : Covers 0x0 l) (s : State) (h0 : Steady l s0 s) :
    Steady l s0 (State.fresh s).2 := by
  unfold State.fresh
  refine Steady.pair ?_
  exact Steady.upd (m := 0x0) (hl.sub (by decide))
    (by intro x; cases x <;> first | exact fun _ => rfl | exact fun h => absurd h (by decide)) (by assumption) rfl rfl rfl

theorem flashProgram_steady {l : Nat} {s0 : State} (hl : Covers 0x400000 l) (x0 : Nat) (x1 : List Byte) (s : State)
    (h0 : Steady l s0 s) :
    Steady l s0 (flashProgram x0 x1 s) := by
  exact h0.put hl ⟨⟨rfl, rfl, id, fun h => flashProgram_wf _ _ _ h, id, by intro x; cases x <;> first | exact fun _ => rfl | exact fun h => absurd h (by decide)⟩, rfl⟩

theorem flashErase_steady {l : Nat} {s0 : State} (hl : Covers 0x400000 l) (x0 : Nat) (x1 : Nat) (s : State) (h0 :
    Steady l s0 s) :
    Steady l s0 (flashErase x0 x1 s) := by
  exact h0.put hl ⟨⟨rfl, rfl, id, fun h => flashErase_wf _ _ _ h, id, by intro x; cases x <;> first | exact fun _ => rfl | exact fun h => absurd h (by decide)⟩, rfl⟩

theorem setPcMap_steady {l : Nat} {s0 : State} (hl : Covers 0x4 l) (x0 : Nat) (x1 : Nat) (x2 : Bool) (s : State) (h0
    : Steady l s0 s) :
    Steady l s0 (setPcMap x0 x1 x2 s) := by
  unfold setPcMap
  extract_lets +onlyGivenNames t1
  clear_value t1
  exact State_wr_steady (hl.sub (by decide)) _ _ _ (by assumption)

theorem outOfRange_steady {l : Nat} {s0 : State} (hl : Covers 0x100106 l) (x0 : Nat) (x1 : Nat) (s : State) (h0 :
    Steady l s0 s) :
    Steady l s0 (outOfRange x0 x1 s) := by
  unfold outOfRange
  refine event_steady (hl.sub (by decide)) _ _ _ ?_
  exact State_inc_steady (hl.sub (by decide)) _ _ _ (by assumption)

theorem nominate_steady {l : Nat} {s0 : State} (hl : Covers 0x180106 l) (x0 : Nat) (s : State) (h0 : Steady l s0 s) :
    Steady l s0 (nominate x0 s) := by
  unfold nominate
  extract_lets +onlyGivenNames t1
  clear_value t1
  extract_lets +onlyGivenNames t2
  clear_value t2
  extract_lets +onlyGivenNames t3
  refine Steady.ite ?_ ?_
  · refine event_steady (hl.sub (by decide)) _ _ _ ?_
    exact State_set_steady (hl.sub (by decide)) _ _ _ (by assumption)
  · split
    · simp only [t3]
      refine event_steady (hl.sub (by decide)) _ _ _ ?_
      exact State_set_steady (hl.sub (by decide)) _ _ _ (by assumption)
    · refine Steady.ite ?_ ?_
      · simp only [t3]
        refine event_steady (hl.sub (by decide)) _ _ _ ?_
        exact State_set_steady (hl.sub (by decide)) _ _ _ (by assumption)
      · split
        · simp only [t3]
          refine event_steady (hl.sub (by decide)) _ _ _ ?_
          exact State_set_steady (hl.sub (by decide)) _ _ _ (by assumption)
        · extract_lets +onlyGivenNames t4
          extract_lets +onlyGivenNames t5
          refine Steady.cut (t := t5) ?_ (fun ht5 => ?_)
          · unfold t5
            exact Steady.upd (m := 0x80000) (hl.sub (by decide))
              (by intro x; cases x <;> first | exact fun _ => rfl | exact fun h => absurd h (by decide)) (by assumption) rfl rfl rfl
          clear_value t5
          refine State_set_steady (hl.sub (by decide)) _ _ _ ?_
          refine State_set_steady (hl.sub (by decide)) _ _ _ ?_
          exact State_set_steady (hl.sub (by decide)) _ _ _ (by assumption)

theorem countUe_steady {l : Nat} {s0 : State} (hl : Covers 0x180106 l) (x0 : Nat) (s : State) (h0 : Steady l s0 s) :
    Steady l s0 (countUe x0 s) := by
  unfold countUe
  extract_lets +onlyGivenNames t1
  clear_value t1
  extract_lets +onlyGivenNames t2
  extract_lets +onlyGivenNames t3
  refine Steady.cut (t := t3) ?_ (fun ht3 => ?_)
  · unfold t3
    exact Steady.upd (m := 0x80000) (hl.sub (by decide))
      (by intro x; cases x <;> first | exact fun _ => rfl | exact fun h => absurd h (by decide)) (by assumption) rfl rfl rfl
  clear_value t3
  extract_lets +onlyGivenNames t4
  refine Steady.cut (t := t4) ?_ (fun ht4 => ?_)
  · unfold t4
    exact State_inc_steady (hl.sub (by decide)) _ _ _ (by assumption)
  clear_value t4
  refine Steady.ite ?_ ?_
  · refine nominate_steady (hl.sub (by decide)) _ _ ?_
    assumption
  · assumption

theorem uncorrectable_steady {l : Nat} {s0 : State} (hl : Covers 0x180106 l) (x0 : Nat) (x1 : Nat) (s : State) (h0 :
    Steady l s0 s) :
    Steady l s0 (uncorrectable x0 x1 s) := by
  unfold uncorrectable
  extract_lets +onlyGivenNames t1
  clear_value t1
  extract_lets +onlyGivenNames t2
  refine Steady.cut (t := t2) ?_ (fun ht2 => ?_)
  · unfold t2
    exact countUe_steady (hl.sub (by decide)) _ _ (by assumption)
  clear_value t2
  extract_lets +onlyGivenNames t3
  refine Steady.cut (t := t3) ?_ (fun ht3 => ?_)
  · unfold t3
    refine State_set_steady (hl.sub (by decide)) _ _ _ ?_
    refine State_set_steady (hl.sub (by decide)) _ _ _ ?_
    refine State_set_steady (hl.sub (by decide)) _ _ _ ?_
    exact State_set_steady (hl.sub (by decide)) _ _ _ (by assumption)
  clear_value t3
  extract_lets +onlyGivenNames t4
  refine Steady.cut (t := t4) ?_ (fun ht4 => ?_)
  · unfold t4
    exact tallyEcc_steady (hl.sub (by decide)) _ _ _ (by assumption)
  clear_value t4
  refine raise_steady (hl.sub (by decide)) _ _ ?_
  exact event_steady (hl.sub (by decide)) _ _ _ (by assumption)

theorem corrected_steady {l : Nat} {s0 : State} (hl : Covers 0x100004 l) (x0 : Nat) (s : State) (h0 : Steady l s0 s) :
    Steady l s0 (corrected x0 s) := by
  unfold corrected
  extract_lets +onlyGivenNames t1
  clear_value t1
  extract_lets +onlyGivenNames t2
  refine Steady.cut (t := t2) ?_ (fun ht2 => ?_)
  · unfold t2
    exact tallyEcc_steady (hl.sub (by decide)) _ _ _ (by assumption)
  clear_value t2
  exact State_inc_steady (hl.sub (by decide)) _ _ _ (by assumption)

theorem wakeStack_steady {l : Nat} {s0 : State} (hl : Covers 0x4 l) (x0 : Nat) (s : State) (h0 : Steady l s0 s) :
    Steady l s0 (wakeStack x0 s) := by
  unfold wakeStack
  extract_lets +onlyGivenNames t1
  clear_value t1
  refine Steady.ite ?_ ?_
  · refine State_set_steady (hl.sub (by decide)) _ _ _ ?_
    assumption
  · assumption

theorem goneEvent_steady {l : Nat} {s0 : State} (hl : Covers 0x100106 l) (x0 : Nat) (x1 : Nat) (s : State) (h0 :
    Steady l s0 s) :
    Steady l s0 (goneEvent x0 x1 s) := by
  unfold goneEvent
  refine Steady.ite ?_ ?_
  · assumption
  · refine event_steady (hl.sub (by decide)) _ _ _ ?_
    assumption

theorem readWord_steady {l : Nat} {s0 : State} (hl : Covers 0x180106 l) (x0 : Nat) (x1 : Nat) (s : State) (h0 :
    Steady l s0 s) :
    Steady l s0 (readWord x0 x1 s).2 := by
  unfold readWord
  extract_lets +onlyGivenNames t1
  clear_value t1
  refine Steady.ite_snd ?_ ?_
  · refine Steady.pair ?_
    exact outOfRange_steady (hl.sub (by decide)) _ _ _ (by assumption)
  · refine Steady.ite_snd ?_ ?_
    · refine Steady.pair ?_
      assumption
    · extract_lets +onlyGivenNames t2
      refine Steady.cut (t := t2) ?_ (fun ht2 => ?_)
      · unfold t2
        exact wakeStack_steady (hl.sub (by decide)) _ _ (by assumption)
      clear_value t2
      extract_lets +onlyGivenNames t3
      clear_value t3
      extract_lets +onlyGivenNames t4
      clear_value t4
      refine Steady.ite_snd ?_ ?_
      · refine Steady.pair ?_
        assumption
      · refine Steady.ite_snd ?_ ?_
        · refine Steady.pair ?_
          exact corrected_steady (hl.sub (by decide)) _ _ (by assumption)
        · refine Steady.ite_snd ?_ ?_
          · refine Steady.pair ?_
            exact uncorrectable_steady (hl.sub (by decide)) _ _ _ (by assumption)
          · split
            rename_i t5 heq5
            have hk5 := congrArg Prod.snd heq5
            dsimp only at hk5
            refine Steady.cut (t := t5) ?_ (fun ht5 => ?_)
            · rw [← hk5]
              exact State_fresh_steady (hl.sub (by decide)) _ (by assumption)
            clear heq5 hk5
            refine Steady.ite_snd ?_ ?_
            · refine Steady.pair ?_
              exact uncorrectable_steady (hl.sub (by decide)) _ _ _ (by assumption)
            · refine Steady.pair ?_
              exact corrected_steady (hl.sub (by decide)) _ _ (by assumption)

theorem readWords_steady {l : Nat} {s0 : State} (hl : Covers 0x180106 l) (x0 : Nat) (x1 : Nat) (x2 : Nat) (s :
    State) (h0 : Steady l s0 s) :
    Steady l s0 (readWords x0 x1 x2 s).2 := by
  induction x1 generalizing x0 x2 s
  · unfold readWords
    refine Steady.pair ?_
    assumption
  · rename_i n ih
    unfold readWords
    split
    rename_i t1 heq1
    have hk1 := congrArg Prod.snd heq1
    dsimp only at hk1
    refine Steady.cut (t := t1) ?_ (fun ht1 => ?_)
    · rw [← hk1]
      exact readWord_steady (hl.sub (by decide)) _ _ _ (by assumption)
    clear heq1 hk1
    split
    rename_i t2 heq2
    have hk2 := congrArg Prod.snd heq2
    dsimp only at hk2
    refine Steady.cut (t := t2) ?_ (fun ht2 => ?_)
    · rw [← hk2]
      refine ih _ _ _ ?_
      assumption
    clear heq2 hk2
    refine Steady.pair ?_
    assumption

theorem memRead_steady {l : Nat} {s0 : State} (hl : Covers 0x180106 l) (x0 : Nat) (x1 : Nat) (x2 : Nat) (s : State)
    (h0 : Steady l s0 s) :
    Steady l s0 (memRead x0 x1 x2 s).2 := by
  unfold memRead
  refine Steady.ite_snd ?_ ?_
  · refine Steady.pair ?_
    assumption
  · split
    · refine Steady.pair ?_
      exact goneEvent_steady (hl.sub (by decide)) _ _ _ (by assumption)
    · extract_lets +onlyGivenNames t1
      clear_value t1
      extract_lets +onlyGivenNames t2
      clear_value t2
      split
      rename_i t3 heq3
      have hk3 := congrArg Prod.snd heq3
      dsimp only at hk3
      refine Steady.cut (t := t3) ?_ (fun ht3 => ?_)
      · rw [← hk3]
        exact readWords_steady (hl.sub (by decide)) _ _ _ _ (by assumption)
      clear heq3 hk3
      refine Steady.pair ?_
      assumption

theorem memNat_steady {l : Nat} {s0 : State} (hl : Covers 0x180106 l) (x0 : Nat) (x1 : Nat) (x2 : Nat) (s : State)
    (h0 : Steady l s0 s) :
    Steady l s0 (memNat x0 x1 x2 s).2 := by
  unfold memNat
  split
  rename_i t1 heq1
  have hk1 := congrArg Prod.snd heq1
  dsimp only at hk1
  refine Steady.cut (t := t1) ?_ (fun ht1 => ?_)
  · rw [← hk1]
    exact memRead_steady (hl.sub (by decide)) _ _ _ _ (by assumption)
  clear heq1 hk1
  refine Steady.pair ?_
  assumption

/-- Bytes put into DRAM, with other parts of the memory replaced. -/
theorem put_steady {l0 : Nat} {s0 s : State} (hl : Covers 0x80000 l0) (m : Mem) (a : Nat) (l : List Byte) (h : Steady l0 s0 s)
    (hm : m.cells = cellsPut dramDefault s.mem.cells a l) : Steady l0 s0 { s with mem := m } :=
  h.put hl ⟨⟨rfl, rfl, by simp only [hm]; exact cellsPut_wf _ _ _ _, id, id, by intro x; cases x <;> first | exact fun _ => rfl | exact fun h => absurd h (by decide)⟩, rfl⟩

/-- Bytes cleared in DRAM, with other parts of the memory replaced. -/
theorem clear_steady {l0 : Nat} {s0 s : State} (hl : Covers 0x80000 l0) (m : Mem) (a n : Nat) (h : Steady l0 s0 s)
    (hm : m.cells = cellsClear s.mem.cells a n) : Steady l0 s0 { s with mem := m } :=
  h.put hl ⟨⟨rfl, rfl, by simp only [hm]; exact cellsClear_wf _ _ _ _, id, id, by intro x; cases x <;> first | exact fun _ => rfl | exact fun h => absurd h (by decide)⟩, rfl⟩

theorem writeWord_steady {l : Nat} {s0 : State} (hl : Covers 0x180106 l) (x0 : Nat) (x1 : Nat) (x2 : Nat) (x3 : List Byte) (s : State) (h0 : Steady l s0 s) :
    Steady l s0 (writeWord x0 x1 x2 x3 s).2 := by
  unfold writeWord
  extract_lets +onlyGivenNames t1
  clear_value t1
  refine Steady.ite_snd ?_ ?_
  · refine Steady.pair ?_
    exact outOfRange_steady (hl.sub (by decide)) _ _ _ (by assumption)
  · extract_lets +onlyGivenNames t2
    clear_value t2
    extract_lets +onlyGivenNames t3
    clear_value t3
    extract_lets +onlyGivenNames t4
    extract_lets +onlyGivenNames t5
    refine Steady.cut (t := t5) ?_ (fun ht5 => ?_)
    · unfold t5
      refine Steady.ite ?_ ?_
      · exact clear_steady (hl.sub (by decide)) _ _ _ h0 rfl
      · assumption
    clear_value t5
    extract_lets +onlyGivenNames t6
    refine Steady.cut (t := t6) ?_ (fun ht6 => ?_)
    · unfold t6
      exact wakeStack_steady (hl.sub (by decide)) _ _ (by assumption)
    clear_value t6
    extract_lets +onlyGivenNames t7
    clear_value t7
    split
    rename_i t8 heq8
    have hk8 := congrArg Prod.snd heq8
    dsimp only at hk8
    refine Steady.cut (t := t8) ?_ (fun ht8 => ?_)
    · rw [← hk8]
      refine Steady.ite_snd ?_ ?_
      · refine Steady.pair ?_
        assumption
      · refine readWord_steady (hl.sub (by decide)) _ _ _ ?_
        assumption
    clear heq8 hk8
    extract_lets +onlyGivenNames t9
    clear_value t9
    refine Steady.ite_snd ?_ ?_
    · refine Steady.pair ?_
      assumption
    · extract_lets +onlyGivenNames t10
      clear_value t10
      extract_lets +onlyGivenNames t11
      clear_value t11
      extract_lets +onlyGivenNames t12
      extract_lets +onlyGivenNames t13
      refine Steady.cut (t := t13) ?_ (fun ht13 => ?_)
      · unfold t13
        exact put_steady (hl.sub (by decide)) _ _ _ ht8 rfl
      clear_value t13
      refine Steady.pair ?_
      refine Steady.ite ?_ ?_
      · refine State_set_steady (hl.sub (by decide)) _ _ _ ?_
        assumption
      · assumption

theorem writeBytes_steady {l : Nat} {s0 : State} (hl : Covers 0x180106 l) (x0 : Nat) (x1 : Nat) (x2 : Nat) (x3 :
    List Byte) (s : State) (h0 : Steady l s0 s) :
    Steady l s0 (writeBytes x0 x1 x2 x3 s).2 := by
  induction x1 generalizing x0 x2 x3 s
  · unfold writeBytes
    refine Steady.pair ?_
    assumption
  · rename_i n ih
    unfold writeBytes
    refine Steady.ite_snd ?_ ?_
    · refine Steady.pair ?_
      assumption
    · extract_lets +onlyGivenNames t1
      clear_value t1
      extract_lets +onlyGivenNames t2
      clear_value t2
      split
      rename_i t3 heq3
      have hk3 := congrArg Prod.snd heq3
      dsimp only at hk3
      refine Steady.cut (t := t3) ?_ (fun ht3 => ?_)
      · rw [← hk3]
        exact writeWord_steady (hl.sub (by decide)) _ _ _ _ _ (by assumption)
      clear heq3 hk3
      split
      rename_i t4 heq4
      have hk4 := congrArg Prod.snd heq4
      dsimp only at hk4
      refine Steady.cut (t := t4) ?_ (fun ht4 => ?_)
      · rw [← hk4]
        refine ih _ _ _ _ ?_
        assumption
      clear heq4 hk4
      refine Steady.pair ?_
      assumption

theorem memWrite_steady {l : Nat} {s0 : State} (hl : Covers 0x180106 l) (x0 : Nat) (x1 : Nat) (x2 : List Byte) (s :
    State) (h0 : Steady l s0 s) :
    Steady l s0 (memWrite x0 x1 x2 s).2 := by
  unfold memWrite
  split
  · refine Steady.pair ?_
    exact goneEvent_steady (hl.sub (by decide)) _ _ _ (by assumption)
  · refine writeBytes_steady (hl.sub (by decide)) _ _ _ _ _ ?_
    assumption

theorem engineBytes_steady {l : Nat} {s0 : State} (hl : Covers 0x180106 l) (x0 : Nat) (x1 : Nat) (x2 : Nat) (x3 :
    List Byte) (s : State) (h0 : Steady l s0 s) :
    Steady l s0 (engineBytes x0 x1 x2 x3 s) := by
  induction x1 generalizing x0 x2 x3 s
  · unfold engineBytes
    assumption
  · rename_i n ih
    unfold engineBytes
    refine Steady.ite ?_ ?_
    · assumption
    · extract_lets +onlyGivenNames t1
      clear_value t1
      extract_lets +onlyGivenNames t2
      clear_value t2
      refine ih _ _ _ _ ?_
      refine Steady.ite ?_ ?_
      · assumption
      · refine writeWord_steady (hl.sub (by decide)) _ _ _ _ _ ?_
        assumption

theorem engineWrite_steady {l : Nat} {s0 : State} (hl : Covers 0x180106 l) (x0 : Nat) (x1 : Nat) (x2 : List Byte) (s
    : State) (h0 : Steady l s0 s) :
    Steady l s0 (engineWrite x0 x1 x2 s) := by
  unfold engineWrite
  split
  · refine goneEvent_steady (hl.sub (by decide)) _ _ _ ?_
    assumption
  · refine engineBytes_steady (hl.sub (by decide)) _ _ _ _ _ ?_
    assumption

theorem dramLost_steady {l : Nat} {s0 : State} (hl : Covers 0x80000 l) (s : State) (h0 : Steady l s0 s) :
    Steady l s0 (dramLost s) := by
  exact h0.put hl ⟨⟨rfl, rfl, fun _ => rfl, id, id, by intro x; cases x <;> first | exact fun _ => rfl | exact fun h => absurd h (by decide)⟩, rfl⟩

theorem showWear_steady {l : Nat} {s0 : State} (hl : Covers 0x100106 l) (x0 : Nat) (x1 : Nat) (s : State) (h0 :
    Steady l s0 s) :
    Steady l s0 (showWear x0 x1 s) := by
  unfold showWear
  extract_lets +onlyGivenNames t1
  clear_value t1
  extract_lets +onlyGivenNames t2
  clear_value t2
  extract_lets +onlyGivenNames t3
  refine Steady.cut (t := t3) ?_ (fun ht3 => ?_)
  · unfold t3
    exact State_wr_steady (hl.sub (by decide)) _ _ _ (by assumption)
  clear_value t3
  refine Steady.ite ?_ ?_
  · extract_lets +onlyGivenNames t4
    refine Steady.cut (t := t4) ?_ (fun ht4 => ?_)
    · unfold t4
      exact State_wr_steady (hl.sub (by decide)) _ _ _ (by assumption)
    clear_value t4
    refine Steady.ite ?_ ?_
    · assumption
    · refine event_steady (hl.sub (by decide)) _ _ _ ?_
      assumption
  · assumption

theorem showStore_steady {l : Nat} {s0 : State} (hl : Covers 0x100106 l) (s : State) (h0 : Steady l s0 s) :
    Steady l s0 (showStore s) := by
  unfold showStore
  extract_lets +onlyGivenNames t1
  clear_value t1
  extract_lets +onlyGivenNames t2
  refine Steady.cut (t := t2) ?_ (fun ht2 => ?_)
  · unfold t2
    refine State_set_steady (hl.sub (by decide)) _ _ _ ?_
    refine State_set_steady (hl.sub (by decide)) _ _ _ ?_
    exact State_set_steady (hl.sub (by decide)) _ _ _ (by assumption)
  clear_value t2
  extract_lets +onlyGivenNames t3
  refine Steady.cut (t := t3) ?_ (fun ht3 => ?_)
  · unfold t3
    refine State_set_steady (hl.sub (by decide)) _ _ _ ?_
    refine State_set_steady (hl.sub (by decide)) _ _ _ ?_
    exact State_set_steady (hl.sub (by decide)) _ _ _ (by assumption)
  clear_value t3
  refine Steady.foldl _ ?_ (fun _ _ _ => ?_)
  · assumption
  · refine showWear_steady (hl.sub (by decide)) _ _ _ ?_
    assumption

theorem storeProgram_steady {l : Nat} {s0 : State} (hl : Covers 0x500106 l) (x0 : StoreRec) (s : State) (h0 : Steady
    l s0 s) :
    Steady l s0 (storeProgram x0 s) := by
  unfold storeProgram
  extract_lets +onlyGivenNames t1
  clear_value t1
  extract_lets +onlyGivenNames t2
  clear_value t2
  extract_lets +onlyGivenNames t3
  clear_value t3
  extract_lets +onlyGivenNames t4
  clear_value t4
  extract_lets +onlyGivenNames t5
  refine Steady.cut (t := t5) ?_ (fun ht5 => ?_)
  · unfold t5
    refine Steady.ite ?_ ?_
    · refine flashErase_steady (hl.sub (by decide)) _ _ _ ?_
      assumption
    · assumption
  clear_value t5
  extract_lets +onlyGivenNames t6
  refine Steady.cut (t := t6) ?_ (fun ht6 => ?_)
  · unfold t6
    exact flashProgram_steady (hl.sub (by decide)) _ _ _ (by assumption)
  clear_value t6
  refine showStore_steady (hl.sub (by decide)) _ ?_
  exact Steady.upd (m := 0x400000) (hl.sub (by decide))
    (by intro x; cases x <;> first | exact fun _ => rfl | exact fun h => absurd h (by decide)) (by assumption) rfl rfl rfl

end Sys2Proof.Machine
end

