-- ==== Sys2Proof/Laws/Steady02.lean ====
section
/-! SUPPORT. What the operations of Ledger, Hosts, Tables keep (Laws/Steady.lean). -/

set_option linter.unusedVariables false
set_option maxRecDepth 4000

namespace Sys2Proof.Machine

theorem programRec_steady {l : Nat} {s0 : State} (hl : Covers 0x400004 l) (x0 : LedgerRec) (s : State) (h0 : Steady
    l s0 s) :
    Steady l s0 (programRec x0 s) := by
  unfold programRec
  extract_lets +onlyGivenNames t1
  clear_value t1
  extract_lets +onlyGivenNames t2
  refine Steady.cut (t := t2) ?_ (fun ht2 => ?_)
  · unfold t2
    exact flashProgram_steady (hl.sub (by decide)) _ _ _ (by assumption)
  clear_value t2
  refine State_inc_steady (hl.sub (by decide)) _ _ _ ?_
  exact State_set_steady (hl.sub (by decide)) _ _ _ (by assumption)

theorem commitOne_steady {l : Nat} {s0 : State} (hl : Covers 0x500006 l) (s : State) (h0 : Steady l s0 s) :
    Steady l s0 (commitOne s) := by
  unfold commitOne
  split
  · assumption
  · extract_lets +onlyGivenNames t1
    extract_lets +onlyGivenNames t2
    refine Steady.cut (t := t2) ?_ (fun ht2 => ?_)
    · unfold t2
      exact Steady.upd (m := 0x2) (hl.sub (by decide))
        (by intro x; cases x <;> first | exact fun _ => rfl | exact fun h => absurd h (by decide)) (by assumption) rfl rfl rfl
    clear_value t2
    refine Steady.ite ?_ ?_
    · refine showLedger_steady (hl.sub (by decide)) _ ?_
      exact loseRec_steady (hl.sub (by decide)) _ _ (by assumption)
    · refine Steady.ite ?_ ?_
      · refine showLedger_steady (hl.sub (by decide)) _ ?_
        exact programRec_steady (hl.sub (by decide)) _ _ (by assumption)
      · extract_lets +onlyGivenNames t3
        refine Steady.cut (t := t3) ?_ (fun ht3 => ?_)
        · unfold t3
          exact loseRec_steady (hl.sub (by decide)) _ _ (by assumption)
        clear_value t3
        extract_lets +onlyGivenNames t4
        clear_value t4
        extract_lets +onlyGivenNames t5
        refine Steady.cut (t := t5) ?_ (fun ht5 => ?_)
        · unfold t5
          exact programRec_steady (hl.sub (by decide)) _ _ (by assumption)
        clear_value t5
        refine showLedger_steady (hl.sub (by decide)) _ ?_
        exact Steady.upd (m := 0x100000) (hl.sub (by decide))
          (by intro x; cases x <;> first | exact fun _ => rfl | exact fun h => absurd h (by decide)) (by assumption) rfl rfl rfl

theorem commitAll_steady {l : Nat} {s0 : State} (hl : Covers 0x500006 l) (x0 : Nat) (s : State) (h0 : Steady l s0 s) :
    Steady l s0 (commitAll x0 s) := by
  induction x0 generalizing s
  · unfold commitAll
    assumption
  · rename_i n ih
    unfold commitAll
    refine ih _ ?_
    exact commitOne_steady (hl.sub (by decide)) _ (by assumption)

theorem ledgerCommit_steady {l : Nat} {s0 : State} (hl : Covers 0x500006 l) (s : State) (h0 : Steady l s0 s) :
    Steady l s0 (ledgerCommit s) := by
  unfold ledgerCommit
  refine Steady.ite ?_ ?_
  · refine showLedger_steady (hl.sub (by decide)) _ ?_
    assumption
  · extract_lets +onlyGivenNames t1
    refine Steady.cut (t := t1) ?_ (fun ht1 => ?_)
    · unfold t1
      exact commitOne_steady (hl.sub (by decide)) _ (by assumption)
    extract_lets +onlyGivenNames t2
    extract_lets +onlyGivenNames t3
    refine Steady.cut (t := t3) ?_ (fun ht3 => ?_)
    · unfold t3
      exact Steady.upd (m := 0x400000) (hl.sub (by decide))
        (by intro x; cases x <;> first | exact fun _ => rfl | exact fun h => absurd h (by decide)) (by assumption) rfl rfl rfl
    refine Steady.ite ?_ ?_
    · extract_lets +onlyGivenNames t4
      extract_lets +onlyGivenNames t5
      clear_value t5
      refine showLedger_steady (hl.sub (by decide)) _ ?_
      exact Steady.upd (m := 0x100000) (hl.sub (by decide))
        (by intro x; cases x <;> first | exact fun _ => rfl | exact fun h => absurd h (by decide)) (by assumption) rfl rfl rfl
    · assumption

theorem ledgerHoldExpiry_steady {l : Nat} {s0 : State} (hl : Covers 0x6 l) (s : State) (h0 : Steady l s0 s) :
    Steady l s0 (ledgerHoldExpiry s) := by
  unfold ledgerHoldExpiry
  exact closeOpenRec_steady (hl.sub (by decide)) _ (by assumption)

theorem ledgerFreeze_steady {l : Nat} {s0 : State} (hl : Covers 0x100006 l) (x0 : Nat) (s : State) (h0 : Steady l s0
    s) :
    Steady l s0 (ledgerFreeze x0 s) := by
  unfold ledgerFreeze
  refine Steady.ite ?_ ?_
  · assumption
  · extract_lets +onlyGivenNames t1
    refine Steady.cut (t := t1) ?_ (fun ht1 => ?_)
    · unfold t1
      exact closeOpenRec_steady (hl.sub (by decide)) _ (by assumption)
    clear_value t1
    extract_lets +onlyGivenNames t2
    clear_value t2
    extract_lets +onlyGivenNames t3
    refine Steady.cut (t := t3) ?_ (fun ht3 => ?_)
    · unfold t3
      exact State_set_steady (hl.sub (by decide)) _ _ _ (by assumption)
    clear_value t3
    refine showLedger_steady (hl.sub (by decide)) _ ?_
    exact Steady.upd (m := 0x100000) (hl.sub (by decide))
      (by intro x; cases x <;> first | exact fun _ => rfl | exact fun h => absurd h (by decide)) (by assumption) rfl rfl rfl

theorem endFreeze_steady {l : Nat} {s0 : State} (hl : Covers 0x100004 l) (s : State) (h0 : Steady l s0 s) :
    Steady l s0 (endFreeze s) := by
  unfold endFreeze
  refine Steady.ite ?_ ?_
  · refine showLedger_steady (hl.sub (by decide)) _ ?_
    extract_lets +onlyGivenNames t1
    refine Steady.cut (t := t1) ?_ (fun ht1 => ?_)
    · unfold t1
      exact State_set_steady (hl.sub (by decide)) _ _ _ (by assumption)
    clear_value t1
    exact Steady.upd (m := 0x100000) (hl.sub (by decide))
      (by intro x; cases x <;> first | exact fun _ => rfl | exact fun h => absurd h (by decide)) (by assumption) rfl rfl rfl
  · assumption

theorem ledgerUnfreeze_steady {l : Nat} {s0 : State} (hl : Covers 0x100004 l) (x0 : Nat) (s : State) (h0 : Steady l
    s0 s) :
    Steady l s0 (ledgerUnfreeze x0 s) := by
  unfold ledgerUnfreeze
  refine Steady.ite ?_ ?_
  · refine endFreeze_steady (hl.sub (by decide)) _ ?_
    assumption
  · assumption

theorem endFreezeOf_steady {l : Nat} {s0 : State} (hl : Covers 0x100004 l) (x0 : Nat) (s : State) (h0 : Steady l s0
    s) :
    Steady l s0 (endFreezeOf x0 s) := by
  unfold endFreezeOf
  refine Steady.ite ?_ ?_
  · refine endFreeze_steady (hl.sub (by decide)) _ ?_
    assumption
  · assumption

theorem ledgerAdvance_steady {l : Nat} {s0 : State} (hl : Covers 0x100000 l) (x0 : Nat) (s : State) (h0 : Steady l
    s0 s) :
    Steady l s0 (ledgerAdvance x0 s) := by
  unfold ledgerAdvance
  extract_lets +onlyGivenNames t1
  clear_value t1
  exact Steady.upd (m := 0x100000) (hl.sub (by decide))
    (by intro x; cases x <;> first | exact fun _ => rfl | exact fun h => absurd h (by decide)) (by assumption) rfl rfl rfl

theorem clearRequest_steady {l : Nat} {s0 : State} (hl : Covers 0x4 l) (x0 : Nat) (s : State) (h0 : Steady l s0 s) :
    Steady l s0 (clearRequest x0 s) := by
  unfold clearRequest
  extract_lets +onlyGivenNames t1
  clear_value t1
  extract_lets +onlyGivenNames t2
  clear_value t2
  refine Steady.ite ?_ ?_
  · refine State_set_steady (hl.sub (by decide)) _ _ _ ?_
    assumption
  · refine Steady.ite ?_ ?_
    · refine State_set_steady (hl.sub (by decide)) _ _ _ ?_
      exact State_set_steady (hl.sub (by decide)) _ _ _ (by assumption)
    · split
      rename_i t3 heq3
      have hk3 := congrArg Prod.snd heq3
      dsimp only at hk3
      refine Steady.cut (t := t3) ?_ (fun ht3 => ?_)
      · rw [← hk3]
        exact State_fresh_steady (hl.sub (by decide)) _ (by assumption)
      clear heq3 hk3
      refine State_set_steady (hl.sub (by decide)) _ _ _ ?_
      refine State_set_steady (hl.sub (by decide)) _ _ _ ?_
      refine State_set_steady (hl.sub (by decide)) _ _ _ ?_
      exact State_set_steady (hl.sub (by decide)) _ _ _ (by assumption)

theorem ledgerAuthorise_steady {l : Nat} {s0 : State} (hl : Covers 0x4 l) (x0 : Nat) (s : State) (h0 : Steady l s0
    s) :
    Steady l s0 (ledgerAuthorise x0 s) := by
  unfold ledgerAuthorise
  refine Steady.ite ?_ ?_
  · refine Steady.ite ?_ ?_
    · refine State_set_steady (hl.sub (by decide)) _ _ _ ?_
      assumption
    · refine State_set_steady (hl.sub (by decide)) _ _ _ ?_
      exact State_set_steady (hl.sub (by decide)) _ _ _ (by assumption)
  · assumption

theorem authorisationExpiry_steady {l : Nat} {s0 : State} (hl : Covers 0x4 l) (s : State) (h0 : Steady l s0 s) :
    Steady l s0 (authorisationExpiry s) := by
  unfold authorisationExpiry
  refine Steady.ite ?_ ?_
  · refine State_set_steady (hl.sub (by decide)) _ _ _ ?_
    assumption
  · assumption

theorem clearProceed_steady {l : Nat} {s0 : State} (hl : Covers 0x500106 l) (s : State) (h0 : Steady l s0 s) :
    Steady l s0 (clearProceed s) := by
  unfold clearProceed
  refine Steady.ite ?_ ?_
  · extract_lets +onlyGivenNames t1
    refine Steady.cut (t := t1) ?_ (fun ht1 => ?_)
    · unfold t1
      exact commitAll_steady (hl.sub (by decide)) _ _ (by assumption)
    clear_value t1
    extract_lets +onlyGivenNames t2
    clear_value t2
    extract_lets +onlyGivenNames t3
    clear_value t3
    extract_lets +onlyGivenNames t4
    refine Steady.cut (t := t4) ?_ (fun ht4 => ?_)
    · unfold t4
      exact Steady.upd (m := 0x100000) (hl.sub (by decide))
        (by intro x; cases x <;> first | exact fun _ => rfl | exact fun h => absurd h (by decide)) (by assumption) rfl rfl rfl
    clear_value t4
    extract_lets +onlyGivenNames t5
    refine Steady.cut (t := t5) ?_ (fun ht5 => ?_)
    · unfold t5
      exact storeProgram_steady (hl.sub (by decide)) _ _ (by assumption)
    clear_value t5
    refine showLedger_steady (hl.sub (by decide)) _ ?_
    extract_lets +onlyGivenNames t6
    refine Steady.cut (t := t6) ?_ (fun ht6 => ?_)
    · unfold t6
      exact State_set_steady (hl.sub (by decide)) _ _ _ (by assumption)
    refine Steady.upd (m := 0x400000) (hl.sub (by decide))
      (by intro x; cases x <;> first | exact fun _ => rfl | exact fun h => absurd h (by decide)) ?_ ?_ ?_ ?_
    · assumption
    · exact rfl
    · exact rfl
    · rfl
  · assumption

theorem clearConfirm_steady {l : Nat} {s0 : State} (hl : Covers 0x500106 l) (x0 : Nat) (s : State) (h0 : Steady l s0
    s) :
    Steady l s0 (clearConfirm x0 s) := by
  unfold clearConfirm
  refine Steady.ite ?_ ?_
  · extract_lets +onlyGivenNames t1
    refine Steady.cut (t := t1) ?_ (fun ht1 => ?_)
    · unfold t1
      refine closeOpenRec_steady (hl.sub (by decide)) _ ?_
      exact endFreeze_steady (hl.sub (by decide)) _ (by assumption)
    clear_value t1
    extract_lets +onlyGivenNames t2
    refine Steady.cut (t := t2) ?_ (fun ht2 => ?_)
    · unfold t2
      exact State_set_steady (hl.sub (by decide)) _ _ _ (by assumption)
    clear_value t2
    extract_lets +onlyGivenNames t3
    clear_value t3
    extract_lets +onlyGivenNames t4
    refine Steady.cut (t := t4) ?_ (fun ht4 => ?_)
    · unfold t4
      exact Steady.upd (m := 0x100000) (hl.sub (by decide))
        (by intro x; cases x <;> first | exact fun _ => rfl | exact fun h => absurd h (by decide)) (by assumption) rfl rfl rfl
    clear_value t4
    refine clearProceed_steady (hl.sub (by decide)) _ ?_
    exact showLedger_steady (hl.sub (by decide)) _ (by assumption)
  · refine State_set_steady (hl.sub (by decide)) _ _ _ ?_
    assumption

theorem clearSectorDone_steady {l : Nat} {s0 : State} (hl : Covers 0x500004 l) (s : State) (h0 : Steady l s0 s) :
    Steady l s0 (clearSectorDone s) := by
  unfold clearSectorDone
  extract_lets +onlyGivenNames t1
  clear_value t1
  extract_lets +onlyGivenNames t2
  refine Steady.cut (t := t2) ?_ (fun ht2 => ?_)
  · unfold t2
    exact flashErase_steady (hl.sub (by decide)) _ _ _ (by assumption)
  clear_value t2
  refine Steady.ite ?_ ?_
  · refine Steady.upd (m := 0x100000) (hl.sub (by decide)) (by intro x; cases x <;> first | exact fun _ => rfl | exact fun h => absurd h (by decide)) ?_ ?_ ?_ ?_
    · assumption
    · exact rfl
    · exact rfl
    · exact rfl
  · split
    extract_lets +onlyGivenNames t3
    refine Steady.cut (t := t3) ?_ (fun ht3 => ?_)
    · unfold t3
      refine State_set_steady (hl.sub (by decide)) _ _ _ ?_
      exact State_set_steady (hl.sub (by decide)) _ _ _ (by assumption)
    clear_value t3
    extract_lets +onlyGivenNames t4
    clear_value t4
    extract_lets +onlyGivenNames t5
    refine Steady.cut (t := t5) ?_ (fun ht5 => ?_)
    · unfold t5
      exact programRec_steady (hl.sub (by decide)) _ _ (by assumption)
    clear_value t5
    extract_lets +onlyGivenNames t6
    refine Steady.cut (t := t6) ?_ (fun ht6 => ?_)
    · unfold t6
      exact State_wr_steady (hl.sub (by decide)) _ _ _ (by assumption)
    clear_value t6
    extract_lets +onlyGivenNames t7
    refine Steady.cut (t := t7) ?_ (fun ht7 => ?_)
    · unfold t7
      exact State_set_steady (hl.sub (by decide)) _ _ _ (by assumption)
    clear_value t7
    refine showLedger_steady (hl.sub (by decide)) _ ?_
    exact Steady.upd (m := 0x500000) (hl.sub (by decide))
      (by intro x; cases x <;> first | exact fun _ => rfl | exact fun h => absurd h (by decide)) (by assumption) rfl rfl rfl

theorem chkClaim_steady {l : Nat} {s0 : State} (hl : Covers 0x4 l) (x0 : Nat) (s : State) (h0 : Steady l s0 s) :
    Steady l s0 (chkClaim x0 s) := by
  unfold chkClaim
  refine Steady.ite ?_ ?_
  · refine State_set_steady (hl.sub (by decide)) _ _ _ ?_
    assumption
  · assumption

theorem chkRelease_steady {l : Nat} {s0 : State} (hl : Covers 0x4 l) (x0 : Nat) (s : State) (h0 : Steady l s0 s) :
    Steady l s0 (chkRelease x0 s) := by
  unfold chkRelease
  refine Steady.ite ?_ ?_
  · refine State_set_steady (hl.sub (by decide)) _ _ _ ?_
    assumption
  · assumption

theorem showChk_steady {l : Nat} {s0 : State} (hl : Covers 0x4 l) (x0 : Nat) (s : State) (h0 : Steady l s0 s) :
    Steady l s0 (showChk x0 s) := by
  unfold showChk
  exact State_wr_steady (hl.sub (by decide)) _ _ _ (by assumption)

theorem chkFeed_steady {l : Nat} {s0 : State} (hl : Covers 0x200004 l) (x0 : Nat) (x1 : List Byte) (s : State) (h0 :
    Steady l s0 s) :
    Steady l s0 (chkFeed x0 x1 s) := by
  unfold chkFeed
  extract_lets +onlyGivenNames t1
  clear_value t1
  refine showChk_steady (hl.sub (by decide)) _ _ ?_
  refine State_inc_steady (hl.sub (by decide)) _ _ _ ?_
  exact Steady.upd (m := 0x200000) (hl.sub (by decide))
    (by intro x; cases x <;> first | exact fun _ => rfl | exact fun h => absurd h (by decide)) (by assumption) rfl rfl rfl

theorem chkDoInit_steady {l : Nat} {s0 : State} (hl : Covers 0x200004 l) (x0 : Nat) (s : State) (h0 : Steady l s0 s) :
    Steady l s0 (chkDoInit x0 s) := by
  unfold chkDoInit
  extract_lets +onlyGivenNames t1
  refine Steady.cut (t := t1) ?_ (fun ht1 => ?_)
  · unfold t1
    exact Steady.upd (m := 0x200000) (hl.sub (by decide))
      (by intro x; cases x <;> first | exact fun _ => rfl | exact fun h => absurd h (by decide)) (by assumption) rfl rfl rfl
  clear_value t1
  extract_lets +onlyGivenNames t2
  refine Steady.cut (t := t2) ?_ (fun ht2 => ?_)
  · unfold t2
    exact State_set_steady (hl.sub (by decide)) _ _ _ (by assumption)
  clear_value t2
  refine Steady.ite ?_ ?_
  · extract_lets +onlyGivenNames t3
    clear_value t3
    refine State_set_steady (hl.sub (by decide)) _ _ _ ?_
    exact chkFeed_steady (hl.sub (by decide)) _ _ _ (by assumption)
  · refine showChk_steady (hl.sub (by decide)) _ _ ?_
    assumption

theorem leaseChange_steady {l : Nat} {s0 : State} (hl : Covers 0x100106 l) (x0 : Nat) (x1 : Nat) (s : State) (h0 :
    Steady l s0 s) :
    Steady l s0 (leaseChange x0 x1 s) := by
  unfold leaseChange
  extract_lets +onlyGivenNames t1
  clear_value t1
  extract_lets +onlyGivenNames t2
  clear_value t2
  extract_lets +onlyGivenNames t3
  refine Steady.cut (t := t3) ?_ (fun ht3 => ?_)
  · unfold t3
    refine State_set_steady (hl.sub (by decide)) _ _ _ ?_
    exact State_set_steady (hl.sub (by decide)) _ _ _ (by assumption)
  clear_value t3
  refine raise_steady (hl.sub (by decide)) _ _ ?_
  exact event_steady (hl.sub (by decide)) _ _ _ (by assumption)

theorem leaseEnd_steady {l : Nat} {s0 : State} (hl : Covers 0x100106 l) (x0 : Nat) (s : State) (h0 : Steady l s0 s) :
    Steady l s0 (leaseEnd x0 s) := by
  unfold leaseEnd
  refine Steady.ite ?_ ?_
  · assumption
  · refine endFreezeOf_steady (hl.sub (by decide)) _ _ ?_
    exact leaseChange_steady (hl.sub (by decide)) _ _ _ (by assumption)

theorem leaseResult_steady {l : Nat} {s0 : State} (hl : Covers 0x80 l) (x0 : Nat) (x1 : Nat) (s : State) (h0 :
    Steady l s0 s) :
    Steady l s0 (leaseResult x0 x1 s) := by
  unfold leaseResult
  exact Steady.upd (m := 0x80) (hl.sub (by decide))
    (by intro x; cases x <;> first | exact fun _ => rfl | exact fun h => absurd h (by decide)) (by assumption) rfl rfl rfl

theorem leaseAcquire_steady {l : Nat} {s0 : State} (hl : Covers 0x100186 l) (x0 : Nat) (s : State) (h0 : Steady l s0
    s) :
    Steady l s0 (leaseAcquire x0 s) := by
  unfold leaseAcquire
  refine Steady.ite ?_ ?_
  · refine leaseResult_steady (hl.sub (by decide)) _ _ _ ?_
    assumption
  · refine Steady.ite ?_ ?_
    · refine leaseResult_steady (hl.sub (by decide)) _ _ _ ?_
      assumption
    · refine Steady.ite ?_ ?_
      · refine leaseResult_steady (hl.sub (by decide)) _ _ _ ?_
        assumption
      · refine leaseResult_steady (hl.sub (by decide)) _ _ _ ?_
        exact leaseChange_steady (hl.sub (by decide)) _ _ _ (by assumption)

theorem leaseRelease_steady {l : Nat} {s0 : State} (hl : Covers 0x100186 l) (x0 : Nat) (s : State) (h0 : Steady l s0
    s) :
    Steady l s0 (leaseRelease x0 s) := by
  unfold leaseRelease
  refine Steady.ite ?_ ?_
  · refine leaseResult_steady (hl.sub (by decide)) _ _ _ ?_
    exact leaseEnd_steady (hl.sub (by decide)) _ _ (by assumption)
  · refine leaseResult_steady (hl.sub (by decide)) _ _ _ ?_
    assumption

theorem leaseKeepalive_steady {l : Nat} {s0 : State} (hl : Covers 0x80 l) (x0 : Nat) (s : State) (h0 : Steady l s0
    s) :
    Steady l s0 (leaseKeepalive x0 s) := by
  unfold leaseKeepalive
  exact leaseResult_steady (hl.sub (by decide)) _ _ _ (by assumption)

theorem State_setCtx_steady {l : Nat} {s0 : State} (hl : Covers 0x400 l) (s : State) (x1 : Nat) (x2 : Ctx) (h0 :
    Steady l s0 s) :
    Steady l s0 (State.setCtx s x1 x2) := by
  unfold State.setCtx
  exact Steady.upd (m := 0x400) (hl.sub (by decide))
    (by intro x; cases x <;> first | exact fun _ => rfl | exact fun h => absurd h (by decide)) (by assumption) rfl rfl rfl

theorem jobTailWrite_steady {l : Nat} {s0 : State} (hl : Covers 0x400 l) (x0 : Nat) (x1 : Nat) (s : State) (h0 :
    Steady l s0 s) :
    Steady l s0 (jobTailWrite x0 x1 s) := by
  unfold jobTailWrite
  extract_lets +onlyGivenNames t1
  clear_value t1
  extract_lets +onlyGivenNames t2
  clear_value t2
  refine Steady.ite ?_ ?_
  · refine State_setCtx_steady (hl.sub (by decide)) _ _ _ ?_
    assumption
  · refine State_setCtx_steady (hl.sub (by decide)) _ _ _ ?_
    assumption

theorem complete_raisePort'_steady {l : Nat} {s0 : State} (hl : Covers 0x4 l) (x0 : Nat) (s : State) (h0 : Steady l
    s0 s) :
    Steady l s0 (complete.raisePort' x0 s) := by
  unfold complete.raisePort'
  refine Steady.ite ?_ ?_
  · refine raisePort_steady (hl.sub (by decide)) _ _ _ ?_
    assumption
  · assumption

theorem showQueue_steady {l : Nat} {s0 : State} (hl : Covers 0x104 l) (s : State) (h0 : Steady l s0 s) :
    Steady l s0 (showQueue s) := by
  unfold showQueue
  extract_lets +onlyGivenNames t1
  refine Steady.cut (t := t1) ?_ (fun ht1 => ?_)
  · unfold t1
    refine State_set_steady (hl.sub (by decide)) _ _ _ ?_
    exact State_set_steady (hl.sub (by decide)) _ _ _ (by assumption)
  clear_value t1
  split
  · refine State_set_steady (hl.sub (by decide)) _ _ _ ?_
    refine State_set_steady (hl.sub (by decide)) _ _ _ ?_
    exact State_wr_steady (hl.sub (by decide)) _ _ _ (by assumption)
  · extract_lets +onlyGivenNames t2
    refine Steady.cut (t := t2) ?_ (fun ht2 => ?_)
    · unfold t2
      refine Steady.ite ?_ ?_
      · assumption
      · refine raise_steady (hl.sub (by decide)) _ _ ?_
        assumption
    clear_value t2
    refine State_set_steady (hl.sub (by decide)) _ _ _ ?_
    refine State_set_steady (hl.sub (by decide)) _ _ _ ?_
    refine State_set_steady (hl.sub (by decide)) _ _ _ ?_
    refine State_set_steady (hl.sub (by decide)) _ _ _ ?_
    exact State_wr_steady (hl.sub (by decide)) _ _ _ (by assumption)

theorem setQueue_steady {l : Nat} {s0 : State} (hl : Covers 0x2104 l) (x0 : List Desc) (s : State) (h0 : Steady l s0
    s) :
    Steady l s0 (setQueue x0 s) := by
  unfold setQueue
  refine showQueue_steady (hl.sub (by decide)) _ ?_
  exact Steady.upd (m := 0x2000) (hl.sub (by decide))
    (by intro x; cases x <;> first | exact fun _ => rfl | exact fun h => absurd h (by decide)) (by assumption) rfl rfl rfl

theorem admitReport_steady {l : Nat} {s0 : State} (hl : Covers 0x4 l) (x0 : Nat) (x1 : Nat) (x2 : Nat) (x3 : Nat)
    (x4 : Nat) (x5 : Nat) (x6 : Nat) (x7 : Bool) (x8 : Nat) (s : State) (h0 : Steady l s0 s) :
    Steady l s0 (admitReport x0 x1 x2 x3 x4 x5 x6 x7 x8 s) := by
  unfold admitReport
  extract_lets +onlyGivenNames t1
  clear_value t1
  extract_lets +onlyGivenNames t2
  refine Steady.cut (t := t2) ?_ (fun ht2 => ?_)
  · unfold t2
    exact State_wr_steady (hl.sub (by decide)) _ _ _ (by assumption)
  clear_value t2
  extract_lets +onlyGivenNames t3
  refine Steady.cut (t := t3) ?_ (fun ht3 => ?_)
  · unfold t3
    exact State_wr_steady (hl.sub (by decide)) _ _ _ (by assumption)
  clear_value t3
  extract_lets +onlyGivenNames t4
  refine Steady.cut (t := t4) ?_ (fun ht4 => ?_)
  · unfold t4
    exact State_wr_steady (hl.sub (by decide)) _ _ _ (by assumption)
  clear_value t4
  refine State_wr_steady (hl.sub (by decide)) _ _ _ ?_
  exact State_wr_steady (hl.sub (by decide)) _ _ _ (by assumption)

theorem mapDesc_steady {l : Nat} {s0 : State} (hl : Covers 0x2000 l) (x0 : Desc) (x1 : Desc → Desc) (s : State) (h0
    : Steady l s0 s) :
    Steady l s0 (mapDesc x0 x1 s) := by
  unfold mapDesc
  exact Steady.upd (m := 0x2000) (hl.sub (by decide))
    (by intro x; cases x <;> first | exact fun _ => rfl | exact fun h => absurd h (by decide)) (by assumption) rfl rfl rfl

theorem streamReady_steady {l : Nat} {s0 : State} (hl : Covers 0x2004 l) (x0 : Nat) (x1 : Nat) (s : State) (h0 :
    Steady l s0 s) :
    Steady l s0 (streamReady x0 x1 s) := by
  unfold streamReady
  refine Steady.ite ?_ ?_
  · assumption
  · extract_lets +onlyGivenNames t1
    clear_value t1
    extract_lets +onlyGivenNames t2
    clear_value t2
    extract_lets +onlyGivenNames t3
    clear_value t3
    extract_lets +onlyGivenNames t4
    split
    · simp only [t4]
      refine raisePort_steady (hl.sub (by decide)) _ _ _ ?_
      exact admitReport_steady (hl.sub (by decide)) _ _ _ _ _ _ _ _ _ _ (by assumption)
    · refine Steady.ite ?_ ?_
      · simp only [t4]
        refine raisePort_steady (hl.sub (by decide)) _ _ _ ?_
        exact admitReport_steady (hl.sub (by decide)) _ _ _ _ _ _ _ _ _ _ (by assumption)
      · refine Steady.ite ?_ ?_
        · simp only [t4]
          refine raisePort_steady (hl.sub (by decide)) _ _ _ ?_
          exact admitReport_steady (hl.sub (by decide)) _ _ _ _ _ _ _ _ _ _ (by assumption)
        · refine Steady.ite ?_ ?_
          · simp only [t4]
            refine raisePort_steady (hl.sub (by decide)) _ _ _ ?_
            exact admitReport_steady (hl.sub (by decide)) _ _ _ _ _ _ _ _ _ _ (by assumption)
          · extract_lets +onlyGivenNames t5
            refine Steady.cut (t := t5) ?_ (fun ht5 => ?_)
            · unfold t5
              exact mapDesc_steady (hl.sub (by decide)) _ _ _ (by assumption)
            clear_value t5
            extract_lets +onlyGivenNames t6
            clear_value t6
            extract_lets +onlyGivenNames t7
            refine Steady.cut (t := t7) ?_ (fun ht7 => ?_)
            · unfold t7
              exact Steady.upd (m := 0x2000) (hl.sub (by decide))
                (by intro x; cases x <;> first | exact fun _ => rfl | exact fun h => absurd h (by decide)) (by assumption) rfl rfl rfl
            clear_value t7
            exact admitReport_steady (hl.sub (by decide)) _ _ _ _ _ _ _ _ _ _ (by assumption)

theorem admissionStart_steady {l : Nat} {s0 : State} (hl : Covers 0x2000 l) (s : State) (h0 : Steady l s0 s) :
    Steady l s0 (admissionStart s) := by
  unfold admissionStart
  split
  · refine Steady.ite ?_ ?_
    · assumption
    · extract_lets +onlyGivenNames t1
      clear_value t1
      extract_lets +onlyGivenNames t2
      refine Steady.cut (t := t2) ?_ (fun ht2 => ?_)
      · unfold t2
        exact Steady.upd (m := 0x2000) (hl.sub (by decide))
          (by intro x; cases x <;> first | exact fun _ => rfl | exact fun h => absurd h (by decide)) (by assumption) rfl rfl rfl
      clear_value t2
      exact Steady.upd (m := 0x2000) (hl.sub (by decide))
        (by intro x; cases x <;> first | exact fun _ => rfl | exact fun h => absurd h (by decide)) (by assumption) rfl rfl rfl
  · assumption

theorem complete_steady {l : Nat} {s0 : State} (hl : Covers 0x404 l) (x0 : Desc) (x1 : Nat) (x2 : Nat) (x3 : Nat)
    (x4 : Nat) (x5 : List Nat) (s : State) (h0 : Steady l s0 s) :
    Steady l s0 (complete x0 x1 x2 x3 x4 x5 s) := by
  unfold complete
  extract_lets +onlyGivenNames t1
  clear_value t1
  extract_lets +onlyGivenNames t2
  clear_value t2
  extract_lets +onlyGivenNames t3
  clear_value t3
  extract_lets +onlyGivenNames t4
  clear_value t4
  extract_lets +onlyGivenNames t5
  clear_value t5
  extract_lets +onlyGivenNames t6
  clear_value t6
  refine complete_raisePort'_steady (hl.sub (by decide)) _ _ ?_
  exact State_setCtx_steady (hl.sub (by decide)) _ _ _ (by assumption)

theorem completeUnarmed_steady {l : Nat} {s0 : State} (hl : Covers 0x404 l) (x0 : Desc) (x1 : Nat) (s : State) (h0 :
    Steady l s0 s) :
    Steady l s0 (completeUnarmed x0 x1 s) := by
  unfold completeUnarmed
  exact complete_steady (hl.sub (by decide)) _ _ _ _ _ _ _ (by assumption)

theorem checkDensity_steady {l : Nat} {s0 : State} (hl : Covers 0x2504 l) (x0 : Desc) (s : State) (h0 : Steady l s0
    s) :
    Steady l s0 (checkDensity x0 s) := by
  unfold checkDensity
  extract_lets +onlyGivenNames t1
  clear_value t1
  extract_lets +onlyGivenNames t2
  refine Steady.cut (t := t2) ?_ (fun ht2 => ?_)
  · unfold t2
    refine Steady.foldl _ ?_ (fun _ _ _ => ?_)
    · assumption
    · refine completeUnarmed_steady (hl.sub (by decide)) _ _ _ ?_
      exact setQueue_steady (hl.sub (by decide)) _ _ (by assumption)
  clear_value t2
  exact Steady.upd (m := 0x2000) (hl.sub (by decide))
    (by intro x; cases x <;> first | exact fun _ => rfl | exact fun h => absurd h (by decide)) (by assumption) rfl rfl rfl

theorem takeDescriptor_steady {l : Nat} {s0 : State} (hl : Covers 0x2504 l) (s : State) (h0 : Steady l s0 s) :
    Steady l s0 (takeDescriptor s) := by
  unfold takeDescriptor
  extract_lets +onlyGivenNames t1
  clear_value t1
  refine Steady.ite ?_ ?_
  · assumption
  · extract_lets +onlyGivenNames t2
    clear_value t2
    extract_lets +onlyGivenNames t3
    clear_value t3
    extract_lets +onlyGivenNames t4
    clear_value t4
    extract_lets +onlyGivenNames t5
    refine Steady.cut (t := t5) ?_ (fun ht5 => ?_)
    · unfold t5
      exact State_setCtx_steady (hl.sub (by decide)) _ _ _ (by assumption)
    clear_value t5
    extract_lets +onlyGivenNames t6
    clear_value t6
    extract_lets +onlyGivenNames t7
    refine Steady.cut (t := t7) ?_ (fun ht7 => ?_)
    · unfold t7
      refine Steady.ite ?_ ?_
      · assumption
      · refine Steady.upd (m := 0x2000) (hl.sub (by decide)) (by intro x; cases x <;> first | exact fun _ => rfl | exact fun h => absurd h (by decide)) ?_ ?_ ?_ ?_
        · assumption
        · exact rfl
        · exact rfl
        · exact rfl
    clear_value t7
    extract_lets +onlyGivenNames t8
    refine Steady.cut (t := t8) ?_ (fun ht8 => ?_)
    · unfold t8
      refine Steady.ite ?_ ?_
      · assumption
      · refine checkDensity_steady (hl.sub (by decide)) _ _ ?_
        assumption
    clear_value t8
    refine Steady.ite ?_ ?_
    · refine completeUnarmed_steady (hl.sub (by decide)) _ _ _ ?_
      assumption
    · split
      · refine completeUnarmed_steady (hl.sub (by decide)) _ _ _ ?_
        exact Steady.upd (m := 0x2000) (hl.sub (by decide))
          (by intro x; cases x <;> first | exact fun _ => rfl | exact fun h => absurd h (by decide)) (by assumption) rfl rfl rfl
      · extract_lets +onlyGivenNames t9
        clear_value t9
        extract_lets +onlyGivenNames t10
        clear_value t10
        extract_lets +onlyGivenNames t11
        clear_value t11
        extract_lets +onlyGivenNames t12
        refine Steady.cut (t := t12) ?_ (fun ht12 => ?_)
        · unfold t12
          refine setQueue_steady (hl.sub (by decide)) _ _ ?_
          exact Steady.upd (m := 0x2000) (hl.sub (by decide))
            (by intro x; cases x <;> first | exact fun _ => rfl | exact fun h => absurd h (by decide)) (by assumption) rfl rfl rfl
        clear_value t12
        extract_lets +onlyGivenNames t13
        refine Steady.cut (t := t13) ?_ (fun ht13 => ?_)
        · unfold t13
          refine Steady.ite ?_ ?_
          · refine State_set_steady (hl.sub (by decide)) _ _ _ ?_
            assumption
          · assumption
        clear_value t13
        refine Steady.ite ?_ ?_
        · assumption
        · refine Steady.upd (m := 0x2000) (hl.sub (by decide)) (by intro x; cases x <;> first | exact fun _ => rfl | exact fun h => absurd h (by decide)) ?_ ?_ ?_ ?_
          · assumption
          · exact rfl
          · exact rfl
          · exact rfl

theorem setBank_steady {l : Nat} {s0 : State} (hl : Covers 0x3000000 l) (x0 : Bool) (x1 : Nat) (x2 : Nat) (s :
    State) (h0 : Steady l s0 s) :
    Steady l s0 (setBank x0 x1 x2 s) := by
  unfold setBank
  split
  · refine Steady.ite ?_ ?_
    · refine Steady.upd (m := 0x2000000) (hl.sub (by decide)) (by intro x; cases x <;> first | exact fun _ => rfl | exact fun h => absurd h (by decide)) ?_ ?_ ?_ ?_
      · assumption
      · exact rfl
      · exact rfl
      · exact rfl
    · refine Steady.upd (m := 0x1000000) (hl.sub (by decide)) (by intro x; cases x <;> first | exact fun _ => rfl | exact fun h => absurd h (by decide)) ?_ ?_ ?_ ?_
      · assumption
      · exact rfl
      · exact rfl
      · exact rfl
  · assumption

theorem tableWrite_steady {l : Nat} {s0 : State} (hl : Covers 0x3000004 l) (x0 : Nat) (x1 : Nat) (s : State) (h0 :
    Steady l s0 s) :
    Steady l s0 (tableWrite x0 x1 s) := by
  unfold tableWrite
  refine Steady.ite ?_ ?_
  · assumption
  · refine Steady.ite ?_ ?_
    · refine State_set_steady (hl.sub (by decide)) _ _ _ ?_
      assumption
    · refine setBank_steady (hl.sub (by decide)) _ _ _ _ ?_
      assumption

theorem tableWriteWords_steady {l : Nat} {s0 : State} (hl : Covers 0x3000004 l) (x0 : Nat) (x1 : List Nat) (s :
    State) (h0 : Steady l s0 s) :
    Steady l s0 (tableWriteWords x0 x1 s) := by
  induction x1 generalizing x0 s
  · unfold tableWriteWords
    assumption
  · rename_i a l ih
    unfold tableWriteWords
    refine ih _ _ ?_
    exact tableWrite_steady (hl.sub (by decide)) _ _ _ (by assumption)

theorem auditState_steady {l : Nat} {s0 : State} (hl : Covers 0x4 l) (x0 : Bool) (x1 : Nat) (s : State) (h0 : Steady
    l s0 s) :
    Steady l s0 (auditState x0 x1 s) := by
  unfold auditState
  refine Steady.ite ?_ ?_
  · refine State_set_steady (hl.sub (by decide)) _ _ _ ?_
    assumption
  · refine State_set_steady (hl.sub (by decide)) _ _ _ ?_
    assumption

theorem cutTileUnit_steady {l : Nat} {s0 : State} (hl : Covers 0x4004 l) (x0 : Bool) (s : State) (h0 : Steady l s0
    s) :
    Steady l s0 (cutTileUnit x0 s) := by
  unfold cutTileUnit
  split
  · refine Steady.ite ?_ ?_
    · refine auditState_steady (hl.sub (by decide)) _ _ _ ?_
      exact Steady.upd (m := 0x4000) (hl.sub (by decide))
        (by intro x; cases x <;> first | exact fun _ => rfl | exact fun h => absurd h (by decide)) (by assumption) rfl rfl rfl
    · assumption
  · assumption

theorem dropPre_steady {l : Nat} {s0 : State} (hl : Covers 0x4004 l) (s : State) (h0 : Steady l s0 s) :
    Steady l s0 (dropPre s) := by
  unfold dropPre
  refine cutTileUnit_steady (hl.sub (by decide)) _ _ ?_
  exact Steady.upd (m := 0x4000) (hl.sub (by decide))
    (by intro x; cases x <;> first | exact fun _ => rfl | exact fun h => absurd h (by decide)) (by assumption) rfl rfl rfl

theorem bankSwap_steady {l : Nat} {s0 : State} (hl : Covers 0x6004 l) (x0 : Bool) (s : State) (h0 : Steady l s0 s) :
    Steady l s0 (bankSwap x0 s) := by
  unfold bankSwap
  extract_lets +onlyGivenNames t1
  clear_value t1
  extract_lets +onlyGivenNames t2
  refine Steady.cut (t := t2) ?_ (fun ht2 => ?_)
  · unfold t2
    exact Steady.upd (m := 0x2000) (hl.sub (by decide))
      (by intro x; cases x <;> first | exact fun _ => rfl | exact fun h => absurd h (by decide)) (by assumption) rfl rfl rfl
  clear_value t2
  refine Steady.ite ?_ ?_
  · refine State_set_steady (hl.sub (by decide)) _ _ _ ?_
    assumption
  · extract_lets +onlyGivenNames t3
    refine Steady.cut (t := t3) ?_ (fun ht3 => ?_)
    · unfold t3
      exact State_set_steady (hl.sub (by decide)) _ _ _ (by assumption)
    clear_value t3
    extract_lets +onlyGivenNames t4
    refine Steady.cut (t := t4) ?_ (fun ht4 => ?_)
    · unfold t4
      exact State_set_steady (hl.sub (by decide)) _ _ _ (by assumption)
    clear_value t4
    extract_lets +onlyGivenNames t5
    refine Steady.cut (t := t5) ?_ (fun ht5 => ?_)
    · unfold t5
      exact State_wr_steady (hl.sub (by decide)) _ _ _ (by assumption)
    clear_value t5
    extract_lets +onlyGivenNames t6
    refine Steady.cut (t := t6) ?_ (fun ht6 => ?_)
    · unfold t6
      refine Steady.ite ?_ ?_
      · refine dropPre_steady (hl.sub (by decide)) _ ?_
        assumption
      · assumption
    clear_value t6
    exact State_set_steady (hl.sub (by decide)) _ _ _ (by assumption)

theorem bankSwapRequest_steady {l : Nat} {s0 : State} (hl : Covers 0x6004 l) (x0 : Bool) (s : State) (h0 : Steady l
    s0 s) :
    Steady l s0 (bankSwapRequest x0 s) := by
  unfold bankSwapRequest
  refine Steady.ite ?_ ?_
  · refine State_set_steady (hl.sub (by decide)) _ _ _ ?_
    assumption
  · refine Steady.ite ?_ ?_
    · refine State_set_steady (hl.sub (by decide)) _ _ _ ?_
      exact Steady.upd (m := 0x2000) (hl.sub (by decide))
        (by intro x; cases x <;> first | exact fun _ => rfl | exact fun h => absurd h (by decide)) (by assumption) rfl rfl rfl
    · refine bankSwap_steady (hl.sub (by decide)) _ _ ?_
      assumption

end Sys2Proof.Machine
end

