-- ==== Sys2Proof/Laws/Steady03.lean ====
section
/-! SUPPORT. What the operations of Dma, Planner, Stream keep (Laws/Steady.lean). -/

set_option linter.unusedVariables false
set_option maxRecDepth 4000

namespace Sys2Proof.Machine

theorem setChan_steady {l : Nat} {s0 : State} (hl : Covers 0x40000 l) (x0 : Nat) (x1 : DmaChan) (s : State) (h0 :
    Steady l s0 s) :
    Steady l s0 (setChan x0 x1 s) := by
  unfold setChan
  exact Steady.upd (m := 0x40000) (hl.sub (by decide))
    (by intro x; cases x <;> first | exact fun _ => rfl | exact fun h => absurd h (by decide)) (by assumption) rfl rfl rfl

theorem dmaHalt_steady {l : Nat} {s0 : State} (hl : Covers 0x104 l) (x0 : Nat) (x1 : Nat) (s : State) (h0 : Steady l
    s0 s) :
    Steady l s0 (dmaHalt x0 x1 s) := by
  unfold dmaHalt
  refine raiseTo_steady (hl.sub (by decide)) _ _ _ ?_
  refine State_set_steady (hl.sub (by decide)) _ _ _ ?_
  exact State_set_steady (hl.sub (by decide)) _ _ _ (by assumption)

theorem dmaFree_steady {l : Nat} {s0 : State} (hl : Covers 0x40004 l) (x0 : Nat) (s : State) (h0 : Steady l s0 s) :
    Steady l s0 (dmaFree x0 s) := by
  unfold dmaFree
  extract_lets +onlyGivenNames t1
  refine Steady.cut (t := t1) ?_ (fun ht1 => ?_)
  · unfold t1
    exact State_wr_steady (hl.sub (by decide)) _ _ _ (by assumption)
  clear_value t1
  exact setChan_steady (hl.sub (by decide)) _ _ _ (by assumption)

theorem dmaClaim_steady {l : Nat} {s0 : State} (hl : Covers 0x40004 l) (x0 : Nat) (x1 : Nat) (s : State) (h0 :
    Steady l s0 s) :
    Steady l s0 (dmaClaim x0 x1 s) := by
  unfold dmaClaim
  refine Steady.ite ?_ ?_
  · refine setChan_steady (hl.sub (by decide)) _ _ _ ?_
    refine State_set_steady (hl.sub (by decide)) _ _ _ ?_
    refine State_set_steady (hl.sub (by decide)) _ _ _ ?_
    exact State_wr_steady (hl.sub (by decide)) _ _ _ (by assumption)
  · assumption

theorem dmaAbort_steady {l : Nat} {s0 : State} (hl : Covers 0x40104 l) (x0 : Nat) (s : State) (h0 : Steady l s0 s) :
    Steady l s0 (dmaAbort x0 s) := by
  unfold dmaAbort
  refine Steady.ite ?_ ?_
  · refine setChan_steady (hl.sub (by decide)) _ _ _ ?_
    assumption
  · refine Steady.ite ?_ ?_
    · refine dmaHalt_steady (hl.sub (by decide)) _ _ _ ?_
      assumption
    · assumption

theorem dmaRelease_steady {l : Nat} {s0 : State} (hl : Covers 0x40104 l) (x0 : Nat) (s : State) (h0 : Steady l s0 s) :
    Steady l s0 (dmaRelease x0 s) := by
  unfold dmaRelease
  refine Steady.ite ?_ ?_
  · refine setChan_steady (hl.sub (by decide)) _ _ _ ?_
    assumption
  · refine dmaFree_steady (hl.sub (by decide)) _ _ ?_
    exact dmaAbort_steady (hl.sub (by decide)) _ _ (by assumption)

theorem dmaDrop_steady {l : Nat} {s0 : State} (hl : Covers 0x40104 l) (x0 : Nat) (s : State) (h0 : Steady l s0 s) :
    Steady l s0 (dmaDrop x0 s) := by
  unfold dmaDrop
  extract_lets +onlyGivenNames t1
  clear_value t1
  extract_lets +onlyGivenNames t2
  refine Steady.cut (t := t2) ?_ (fun ht2 => ?_)
  · unfold t2
    refine Steady.ite ?_ ?_
    · refine setChan_steady (hl.sub (by decide)) _ _ _ ?_
      assumption
    · assumption
  clear_value t2
  exact dmaRelease_steady (hl.sub (by decide)) _ _ (by assumption)

theorem dmaDropAll_steady {l : Nat} {s0 : State} (hl : Covers 0x40104 l) (x0 : Nat) (s : State) (h0 : Steady l s0 s) :
    Steady l s0 (dmaDropAll x0 s) := by
  unfold dmaDropAll
  refine Steady.foldl _ ?_ (fun _ _ _ => ?_)
  · assumption
  · refine Steady.ite ?_ ?_
    · refine dmaDrop_steady (hl.sub (by decide)) _ _ ?_
      assumption
    · assumption

theorem setCur_steady {l : Nat} {s0 : State} (hl : Covers 0x4 l) (x0 : Nat) (x1 : Nat) (s : State) (h0 : Steady l s0
    s) :
    Steady l s0 (setCur x0 x1 s) := by
  unfold setCur
  refine State_wr_steady (hl.sub (by decide)) _ _ _ ?_
  exact State_wr_steady (hl.sub (by decide)) _ _ _ (by assumption)

theorem dmaPace_steady {l : Nat} {s0 : State} (hl : Covers 0x40004 l) (x0 : Nat) (s : State) (h0 : Steady l s0 s) :
    Steady l s0 (dmaPace x0 s) := by
  unfold dmaPace
  extract_lets +onlyGivenNames t1
  clear_value t1
  split
  · assumption
  · refine Steady.ite ?_ ?_
    · refine State_set_steady (hl.sub (by decide)) _ _ _ ?_
      exact setChan_steady (hl.sub (by decide)) _ _ _ (by assumption)
    · refine State_set_steady (hl.sub (by decide)) _ _ _ ?_
      assumption

theorem dmaStart_steady {l : Nat} {s0 : State} (hl : Covers 0x40004 l) (x0 : Nat) (s : State) (h0 : Steady l s0 s) :
    Steady l s0 (dmaStart x0 s) := by
  unfold dmaStart
  extract_lets +onlyGivenNames t1
  clear_value t1
  refine Steady.ite ?_ ?_
  · extract_lets +onlyGivenNames t2
    refine Steady.cut (t := t2) ?_ (fun ht2 => ?_)
    · unfold t2
      exact setCur_steady (hl.sub (by decide)) _ _ _ (by assumption)
    clear_value t2
    extract_lets +onlyGivenNames t3
    clear_value t3
    extract_lets +onlyGivenNames t4
    refine Steady.cut (t := t4) ?_ (fun ht4 => ?_)
    · unfold t4
      exact setChan_steady (hl.sub (by decide)) _ _ _ (by assumption)
    clear_value t4
    refine State_set_steady (hl.sub (by decide)) _ _ _ ?_
    refine State_set_steady (hl.sub (by decide)) _ _ _ ?_
    exact State_set_steady (hl.sub (by decide)) _ _ _ (by assumption)
  · refine Steady.ite ?_ ?_
    · extract_lets +onlyGivenNames t5
      clear_value t5
      extract_lets +onlyGivenNames t6
      refine Steady.cut (t := t6) ?_ (fun ht6 => ?_)
      · unfold t6
        exact setChan_steady (hl.sub (by decide)) _ _ _ (by assumption)
      clear_value t6
      extract_lets +onlyGivenNames t7
      refine Steady.cut (t := t7) ?_ (fun ht7 => ?_)
      · unfold t7
        refine State_set_steady (hl.sub (by decide)) _ _ _ ?_
        exact State_set_steady (hl.sub (by decide)) _ _ _ (by assumption)
      clear_value t7
      refine Steady.ite ?_ ?_
      · refine dmaPace_steady (hl.sub (by decide)) _ _ ?_
        assumption
      · assumption
    · assumption

theorem dmaStop_steady {l : Nat} {s0 : State} (hl : Covers 0x40104 l) (x0 : Nat) (x1 : Nat) (s : State) (h0 : Steady
    l s0 s) :
    Steady l s0 (dmaStop x0 x1 s) := by
  unfold dmaStop
  extract_lets +onlyGivenNames t1
  clear_value t1
  extract_lets +onlyGivenNames t2
  refine Steady.cut (t := t2) ?_ (fun ht2 => ?_)
  · unfold t2
    refine dmaHalt_steady (hl.sub (by decide)) _ _ _ ?_
    exact setChan_steady (hl.sub (by decide)) _ _ _ (by assumption)
  clear_value t2
  refine Steady.ite ?_ ?_
  · refine dmaFree_steady (hl.sub (by decide)) _ _ ?_
    assumption
  · assumption

theorem dmaFail_steady {l : Nat} {s0 : State} (hl : Covers 0x40104 l) (x0 : Nat) (s : State) (h0 : Steady l s0 s) :
    Steady l s0 (dmaFail x0 s) := by
  unfold dmaFail
  extract_lets +onlyGivenNames t1
  clear_value t1
  refine Steady.ite ?_ ?_
  · refine dmaStop_steady (hl.sub (by decide)) _ _ _ ?_
    assumption
  · refine Steady.ite ?_ ?_
    · refine setChan_steady (hl.sub (by decide)) _ _ _ ?_
      assumption
    · refine dmaHalt_steady (hl.sub (by decide)) _ _ _ ?_
      exact setChan_steady (hl.sub (by decide)) _ _ _ (by assumption)

theorem dmaFetch_steady {l : Nat} {s0 : State} (hl : Covers 0x1c0106 l) (x0 : Nat) (x1 : Bool) (x2 : List Byte) (s :
    State) (h0 : Steady l s0 s) :
    Steady l s0 (dmaFetch x0 x1 x2 s) := by
  unfold dmaFetch
  extract_lets +onlyGivenNames t1
  clear_value t1
  refine Steady.ite ?_ ?_
  · assumption
  · extract_lets +onlyGivenNames t2
    clear_value t2
    refine Steady.ite ?_ ?_
    · refine dmaStop_steady (hl.sub (by decide)) _ _ _ ?_
      assumption
    · refine Steady.ite ?_ ?_
      · refine dmaHalt_steady (hl.sub (by decide)) _ _ _ ?_
        assumption
      · refine Steady.ite ?_ ?_
        · refine dmaHalt_steady (hl.sub (by decide)) _ _ _ ?_
          assumption
        · refine Steady.ite ?_ ?_
          · assumption
          · split
            rename_i t3 heq3
            have hk3 := congrArg Prod.snd heq3
            dsimp only at hk3
            refine Steady.cut (t := t3) ?_ (fun ht3 => ?_)
            · rw [← hk3]
              refine Steady.ite_snd ?_ ?_
              · refine Steady.pair ?_
                assumption
              · refine memRead_steady (hl.sub (by decide)) _ _ _ _ ?_
                assumption
            clear heq3 hk3
            refine Steady.ite ?_ ?_
            · refine dmaFail_steady (hl.sub (by decide)) _ _ ?_
              assumption
            · extract_lets +onlyGivenNames t4
              clear_value t4
              extract_lets +onlyGivenNames t5
              clear_value t5
              refine Steady.ite ?_ ?_
              · refine dmaHalt_steady (hl.sub (by decide)) _ _ _ ?_
                assumption
              · extract_lets +onlyGivenNames t6
                refine Steady.cut (t := t6) ?_ (fun ht6 => ?_)
                · unfold t6
                  exact setChan_steady (hl.sub (by decide)) _ _ _ (by assumption)
                clear_value t6
                extract_lets +onlyGivenNames t7
                refine Steady.cut (t := t7) ?_ (fun ht7 => ?_)
                · unfold t7
                  refine State_wr_steady (hl.sub (by decide)) _ _ _ ?_
                  exact State_wr_steady (hl.sub (by decide)) _ _ _ (by assumption)
                clear_value t7
                refine Steady.ite ?_ ?_
                · assumption
                · refine dmaPace_steady (hl.sub (by decide)) _ _ ?_
                  assumption

theorem patched_steady {l : Nat} {s0 : State} (hl : Covers 0x80000 l) (x0 : Nat) (x1 : Nat) (s : State) (h0 : Steady
    l s0 s) :
    Steady l s0 (patched x0 x1 s) := by
  unfold patched
  refine Steady.ite ?_ ?_
  · refine Steady.upd (m := 0x80000) (hl.sub (by decide)) (by intro x; cases x <;> first | exact fun _ => rfl | exact fun h => absurd h (by decide)) ?_ ?_ ?_ ?_
    · assumption
    · exact rfl
    · exact rfl
    · exact rfl
  · assumption

theorem dmaPut_steady {l : Nat} {s0 : State} (hl : Covers 0x3180106 l) (x0 : Nat) (x1 : Nat) (x2 : List Byte) (s :
    State) (h0 : Steady l s0 s) :
    Steady l s0 (dmaPut x0 x1 x2 s).2 := by
  unfold dmaPut
  extract_lets +onlyGivenNames t1
  clear_value t1
  refine Steady.ite_snd ?_ ?_
  · refine Steady.pair ?_
    exact State_emit_steady (hl.sub (by decide)) _ _ (by assumption)
  · refine Steady.ite_snd ?_ ?_
    · split
      rename_i t2 heq2
      have hk2 := congrArg Prod.snd heq2
      dsimp only at hk2
      refine Steady.cut (t := t2) ?_ (fun ht2 => ?_)
      · rw [← hk2]
        exact memWrite_steady (hl.sub (by decide)) _ _ _ _ (by assumption)
      clear heq2 hk2
      refine Steady.pair ?_
      refine Steady.ite ?_ ?_
      · refine patched_steady (hl.sub (by decide)) _ _ _ ?_
        assumption
      · assumption
    · refine Steady.ite_snd ?_ ?_
      · refine Steady.pair ?_
        exact goneEvent_steady (hl.sub (by decide)) _ _ _ (by assumption)
      · refine Steady.pair ?_
        exact tableWriteWords_steady (hl.sub (by decide)) _ _ _ (by assumption)

theorem dmaDescDone_steady {l : Nat} {s0 : State} (hl : Covers 0x40104 l) (x0 : Nat) (x1 : DmaDesc) (s : State) (h0
    : Steady l s0 s) :
    Steady l s0 (dmaDescDone x0 x1 s) := by
  unfold dmaDescDone
  extract_lets +onlyGivenNames t1
  refine Steady.cut (t := t1) ?_ (fun ht1 => ?_)
  · unfold t1
    exact State_inc_steady (hl.sub (by decide)) _ _ _ (by assumption)
  clear_value t1
  extract_lets +onlyGivenNames t2
  refine Steady.cut (t := t2) ?_ (fun ht2 => ?_)
  · unfold t2
    refine Steady.ite ?_ ?_
    · refine raiseTo_steady (hl.sub (by decide)) _ _ _ ?_
      assumption
    · assumption
  clear_value t2
  extract_lets +onlyGivenNames t3
  clear_value t3
  extract_lets +onlyGivenNames t4
  refine Steady.cut (t := t4) ?_ (fun ht4 => ?_)
  · unfold t4
    exact setChan_steady (hl.sub (by decide)) _ _ _ (by assumption)
  clear_value t4
  extract_lets +onlyGivenNames t5
  refine Steady.cut (t := t5) ?_ (fun ht5 => ?_)
  · unfold t5
    refine Steady.ite ?_ ?_
    · refine State_set_steady (hl.sub (by decide)) _ _ _ ?_
      assumption
    · refine setCur_steady (hl.sub (by decide)) _ _ _ ?_
      assumption
  clear_value t5
  refine Steady.foldl _ ?_ (fun _ _ _ => ?_)
  · assumption
  · refine Steady.ite ?_ ?_
    · assumption
    · extract_lets +onlyGivenNames t6
      clear_value t6
      extract_lets +onlyGivenNames t7
      clear_value t7
      extract_lets +onlyGivenNames t8
      refine Steady.cut (t := t8) ?_ (fun ht8 => ?_)
      · unfold t8
        exact setChan_steady (hl.sub (by decide)) _ _ _ (by assumption)
      clear_value t8
      split
      · refine Steady.ite ?_ ?_
        · refine dmaPace_steady (hl.sub (by decide)) _ _ ?_
          assumption
        · assumption
      · assumption

theorem dmaGet_steady {l : Nat} {s0 : State} (hl : Covers 0x180106 l) (x0 : Nat) (x1 : Nat) (x2 : Nat) (x3 : Bool)
    (x4 : List Byte) (s : State) (h0 : Steady l s0 s) :
    Steady l s0 (dmaGet x0 x1 x2 x3 x4 s).2 := by
  unfold dmaGet
  extract_lets +onlyGivenNames t1
  clear_value t1
  refine Steady.ite_snd ?_ ?_
  · refine Steady.pair ?_
    assumption
  · refine Steady.ite_snd ?_ ?_
    · refine memRead_steady (hl.sub (by decide)) _ _ _ _ ?_
      assumption
    · refine Steady.ite_snd ?_ ?_
      · refine Steady.pair ?_
        exact goneEvent_steady (hl.sub (by decide)) _ _ _ (by assumption)
      · refine Steady.pair ?_
        assumption

theorem dmaBurst_steady {l : Nat} {s0 : State} (hl : Covers 0x31c0106 l) (x0 : Nat) (x1 : Bool) (x2 : List Byte) (s
    : State) (h0 : Steady l s0 s) :
    Steady l s0 (dmaBurst x0 x1 x2 s) := by
  unfold dmaBurst
  extract_lets +onlyGivenNames t1
  clear_value t1
  split
  · assumption
  · split
    extract_lets +onlyGivenNames t2
    clear_value t2
    refine Steady.ite ?_ ?_
    · assumption
    · split
      rename_i t3 heq3
      have hk3 := congrArg Prod.snd heq3
      dsimp only at hk3
      refine Steady.cut (t := t3) ?_ (fun ht3 => ?_)
      · rw [← hk3]
        exact dmaGet_steady (hl.sub (by decide)) _ _ _ _ _ _ (by assumption)
      clear heq3 hk3
      refine Steady.ite ?_ ?_
      · refine dmaFail_steady (hl.sub (by decide)) _ _ ?_
        assumption
      · split
        refine Steady.ite ?_ ?_
        · refine dmaStop_steady (hl.sub (by decide)) _ _ _ ?_
          exact State_wr_steady (hl.sub (by decide)) _ _ _ (by assumption)
        · refine Steady.ite ?_ ?_
          · extract_lets +onlyGivenNames t4
            clear_value t4
            refine dmaStop_steady (hl.sub (by decide)) _ _ _ ?_
            refine Steady.ite ?_ ?_
            · refine State_inc_steady (hl.sub (by decide)) _ _ _ ?_
              assumption
            · assumption
          · refine Steady.ite ?_ ?_
            · refine dmaStop_steady (hl.sub (by decide)) _ _ _ ?_
              assumption
            · split
              rename_i t5 heq5
              have hk5 := congrArg Prod.snd heq5
              dsimp only at hk5
              refine Steady.cut (t := t5) ?_ (fun ht5 => ?_)
              · rw [← hk5]
                exact dmaPut_steady (hl.sub (by decide)) _ _ _ _ (by assumption)
              clear heq5 hk5
              refine Steady.ite ?_ ?_
              · refine dmaFail_steady (hl.sub (by decide)) _ _ ?_
                assumption
              · extract_lets +onlyGivenNames t6
                clear_value t6
                extract_lets +onlyGivenNames t7
                refine Steady.cut (t := t7) ?_ (fun ht7 => ?_)
                · unfold t7
                  exact setChan_steady (hl.sub (by decide)) _ _ _ (by assumption)
                clear_value t7
                extract_lets +onlyGivenNames t8
                refine Steady.cut (t := t8) ?_ (fun ht8 => ?_)
                · unfold t8
                  refine State_wr_steady (hl.sub (by decide)) _ _ _ ?_
                  exact State_wr_steady (hl.sub (by decide)) _ _ _ (by assumption)
                clear_value t8
                refine Steady.ite ?_ ?_
                · refine dmaStop_steady (hl.sub (by decide)) _ _ _ ?_
                  assumption
                · refine Steady.ite ?_ ?_
                  · refine dmaDescDone_steady (hl.sub (by decide)) _ _ _ ?_
                    assumption
                  · assumption

theorem dmaRetry_steady {l : Nat} {s0 : State} (hl : Covers 0x31c0106 l) (x0 : Nat) (x1 : Bool) (x2 : List Byte) (s
    : State) (h0 : Steady l s0 s) :
    Steady l s0 (dmaRetry x0 x1 x2 s) := by
  unfold dmaRetry
  extract_lets +onlyGivenNames t1
  clear_value t1
  refine Steady.ite ?_ ?_
  · assumption
  · extract_lets +onlyGivenNames t2
    refine Steady.cut (t := t2) ?_ (fun ht2 => ?_)
    · unfold t2
      exact setChan_steady (hl.sub (by decide)) _ _ _ (by assumption)
    clear_value t2
    refine Steady.ite ?_ ?_
    · refine dmaFetch_steady (hl.sub (by decide)) _ _ _ _ ?_
      assumption
    · refine dmaBurst_steady (hl.sub (by decide)) _ _ _ _ ?_
      assumption

theorem dmaTick_steady {l : Nat} {s0 : State} (hl : Covers 0x40004 l) (x0 : Nat) (s : State) (h0 : Steady l s0 s) :
    Steady l s0 (dmaTick x0 s) := by
  unfold dmaTick
  refine Steady.ite ?_ ?_
  · assumption
  · extract_lets +onlyGivenNames t1
    clear_value t1
    extract_lets +onlyGivenNames t2
    refine Steady.cut (t := t2) ?_ (fun ht2 => ?_)
    · unfold t2
      exact setChan_steady (hl.sub (by decide)) _ _ _ (by assumption)
    clear_value t2
    split
    · refine Steady.ite ?_ ?_
      · refine dmaPace_steady (hl.sub (by decide)) _ _ ?_
        assumption
      · assumption
    · assumption

theorem setEnc_steady {l : Nat} {s0 : State} (hl : Covers 0x10000000 l) (x0 : Nat) (x1 : EncChan) (s : State) (h0 :
    Steady l s0 s) :
    Steady l s0 (setEnc x0 x1 s) := by
  unfold setEnc
  exact Steady.upd (m := 0x10000000) (hl.sub (by decide))
    (by intro x; cases x <;> first | exact fun _ => rfl | exact fun h => absurd h (by decide)) (by assumption) rfl rfl rfl

theorem setCmdPos_steady {l : Nat} {s0 : State} (hl : Covers 0x4 l) (x0 : Nat) (x1 : Int) (s : State) (h0 : Steady l
    s0 s) :
    Steady l s0 (setCmdPos x0 x1 s) := by
  unfold setCmdPos
  exact State_wr_steady (hl.sub (by decide)) _ _ _ (by assumption)

theorem setMotion_steady {l : Nat} {s0 : State} (hl : Covers 0x400000104 l) (x0 : Motion) (s : State) (h0 : Steady l
    s0 s) :
    Steady l s0 (setMotion x0 s) := by
  unfold setMotion
  extract_lets +onlyGivenNames t1
  clear_value t1
  extract_lets +onlyGivenNames t2
  refine Steady.cut (t := t2) ?_ (fun ht2 => ?_)
  · unfold t2
    exact Steady.upd (m := 0x400000000) (hl.sub (by decide))
      (by intro x; cases x <;> first | exact fun _ => rfl | exact fun h => absurd h (by decide)) (by assumption) rfl rfl rfl
  clear_value t2
  refine Steady.ite ?_ ?_
  · assumption
  · refine raise_steady (hl.sub (by decide)) _ _ ?_
    exact State_set_steady (hl.sub (by decide)) _ _ _ (by assumption)

theorem plnResult_steady {l : Nat} {s0 : State} (hl : Covers 0x104 l) (x0 : Nat) (s : State) (h0 : Steady l s0 s) :
    Steady l s0 (plnResult x0 s) := by
  unfold plnResult
  refine Steady.ite ?_ ?_
  · assumption
  · refine raise_steady (hl.sub (by decide)) _ _ ?_
    exact State_set_steady (hl.sub (by decide)) _ _ _ (by assumption)

theorem setKin_steady {l : Nat} {s0 : State} (hl : Covers 0x400000000 l) (x0 : Nat) (x1 : Kin) (s : State) (h0 :
    Steady l s0 s) :
    Steady l s0 (setKin x0 x1 s) := by
  unfold setKin
  refine Steady.ite ?_ ?_
  · refine Steady.upd (m := 0x400000000) (hl.sub (by decide)) (by intro x; cases x <;> first | exact fun _ => rfl | exact fun h => absurd h (by decide)) ?_ ?_ ?_ ?_
    · assumption
    · exact rfl
    · exact rfl
    · exact rfl
  · refine Steady.upd (m := 0x400000000) (hl.sub (by decide)) (by intro x; cases x <;> first | exact fun _ => rfl | exact fun h => absurd h (by decide)) ?_ ?_ ?_ ?_
    · assumption
    · exact rfl
    · exact rfl
    · exact rfl

theorem placeAxis_steady {l : Nat} {s0 : State} (hl : Covers 0x400000004 l) (x0 : Nat) (x1 : Int) (x2 : Kin) (s :
    State) (h0 : Steady l s0 s) :
    Steady l s0 (placeAxis x0 x1 x2 s) := by
  unfold placeAxis
  extract_lets +onlyGivenNames t1
  clear_value t1
  extract_lets +onlyGivenNames t2
  clear_value t2
  extract_lets +onlyGivenNames t3
  refine Steady.cut (t := t3) ?_ (fun ht3 => ?_)
  · unfold t3
    exact setKin_steady (hl.sub (by decide)) _ _ _ (by assumption)
  clear_value t3
  refine Steady.ite ?_ ?_
  · assumption
  · refine State_emit_steady (hl.sub (by decide)) _ _ ?_
    exact setCmdPos_steady (hl.sub (by decide)) _ _ _ (by assumption)

theorem axisGo_steady {l : Nat} {s0 : State} (hl : Covers 0x400000004 l) (x0 : Nat) (x1 : Int) (x2 : Int) (x3 : Int)
    (s : State) (h0 : Steady l s0 s) :
    Steady l s0 (axisGo x0 x1 x2 x3 s) := by
  unfold axisGo
  extract_lets +onlyGivenNames t1
  clear_value t1
  extract_lets +onlyGivenNames t2
  clear_value t2
  extract_lets +onlyGivenNames t3
  clear_value t3
  refine Steady.ite ?_ ?_
  · refine setKin_steady (hl.sub (by decide)) _ _ _ ?_
    assumption
  · refine placeAxis_steady (hl.sub (by decide)) _ _ _ _ ?_
    assumption

theorem axisBrake_steady {l : Nat} {s0 : State} (hl : Covers 0x400000004 l) (x0 : Nat) (x1 : Int) (s : State) (h0 :
    Steady l s0 s) :
    Steady l s0 (axisBrake x0 x1 s) := by
  unfold axisBrake
  extract_lets +onlyGivenNames t1
  clear_value t1
  refine Steady.ite ?_ ?_
  · assumption
  · extract_lets +onlyGivenNames t2
    clear_value t2
    exact axisGo_steady (hl.sub (by decide)) _ _ _ _ _ (by assumption)

theorem axisTick_steady {l : Nat} {s0 : State} (hl : Covers 0x400000004 l) (x0 : Nat) (s : State) (h0 : Steady l s0
    s) :
    Steady l s0 (axisTick x0 s) := by
  unfold axisTick
  extract_lets +onlyGivenNames t1
  clear_value t1
  extract_lets +onlyGivenNames t2
  clear_value t2
  split
  · extract_lets +onlyGivenNames t3
    clear_value t3
    refine Steady.ite ?_ ?_
    · refine axisBrake_steady (hl.sub (by decide)) _ _ _ ?_
      assumption
    · extract_lets +onlyGivenNames t4
      clear_value t4
      extract_lets +onlyGivenNames t5
      clear_value t5
      extract_lets +onlyGivenNames t6
      clear_value t6
      extract_lets +onlyGivenNames t7
      clear_value t7
      extract_lets +onlyGivenNames t8
      clear_value t8
      refine Steady.ite ?_ ?_
      · refine placeAxis_steady (hl.sub (by decide)) _ _ _ _ ?_
        exact Steady.upd (m := 0x400000000) (hl.sub (by decide))
          (by intro x; cases x <;> first | exact fun _ => rfl | exact fun h => absurd h (by decide)) (by assumption) rfl rfl rfl
      · refine axisGo_steady (hl.sub (by decide)) _ _ _ _ _ ?_
        assumption
  · refine axisBrake_steady (hl.sub (by decide)) _ _ _ ?_
    assumption

theorem planTick_steady {l : Nat} {s0 : State} (hl : Covers 0x400000004 l) (s : State) (h0 : Steady l s0 s) :
    Steady l s0 (planTick s) := by
  unfold planTick
  refine axisTick_steady (hl.sub (by decide)) _ _ ?_
  exact axisTick_steady (hl.sub (by decide)) _ _ (by assumption)

theorem planTo_steady {l : Nat} {s0 : State} (hl : Covers 0x400000104 l) (x0 : Motion) (x1 : Int) (x2 : Int) (s :
    State) (h0 : Steady l s0 s) :
    Steady l s0 (planTo x0 x1 x2 s) := by
  unfold planTo
  refine setMotion_steady (hl.sub (by decide)) _ _ ?_
  exact Steady.upd (m := 0x400000000) (hl.sub (by decide))
    (by intro x; cases x <;> first | exact fun _ => rfl | exact fun h => absurd h (by decide)) (by assumption) rfl rfl rfl

theorem planAxis_steady {l : Nat} {s0 : State} (hl : Covers 0x400000104 l) (x0 : Motion) (x1 : Nat) (x2 : Int) (s :
    State) (h0 : Steady l s0 s) :
    Steady l s0 (planAxis x0 x1 x2 s) := by
  unfold planAxis
  refine setMotion_steady (hl.sub (by decide)) _ _ ?_
  exact Steady.upd (m := 0x400000000) (hl.sub (by decide))
    (by intro x; cases x <;> first | exact fun _ => rfl | exact fun h => absurd h (by decide)) (by assumption) rfl rfl rfl

theorem planHalt_steady {l : Nat} {s0 : State} (hl : Covers 0x400000104 l) (x0 : Motion) (s : State) (h0 : Steady l
    s0 s) :
    Steady l s0 (planHalt x0 s) := by
  unfold planHalt
  refine setMotion_steady (hl.sub (by decide)) _ _ ?_
  exact Steady.upd (m := 0x400000000) (hl.sub (by decide))
    (by intro x; cases x <;> first | exact fun _ => rfl | exact fun h => absurd h (by decide)) (by assumption) rfl rfl rfl

theorem planStart_steady {l : Nat} {s0 : State} (hl : Covers 0x400000104 l) (x0 : Int) (x1 : Int) (s : State) (h0 :
    Steady l s0 s) :
    Steady l s0 (planStart x0 x1 s) := by
  unfold planStart
  extract_lets +onlyGivenNames t1
  clear_value t1
  refine Steady.ite ?_ ?_
  · assumption
  · refine Steady.ite ?_ ?_
    · refine setMotion_steady (hl.sub (by decide)) _ _ ?_
      exact Steady.upd (m := 0x400000000) (hl.sub (by decide))
        (by intro x; cases x <;> first | exact fun _ => rfl | exact fun h => absurd h (by decide)) (by assumption) rfl rfl rfl
    · refine planTo_steady (hl.sub (by decide)) _ _ _ _ ?_
      assumption

theorem plannerStop_steady {l : Nat} {s0 : State} (hl : Covers 0x400000104 l) (s : State) (h0 : Steady l s0 s) :
    Steady l s0 (plannerStop s) := by
  unfold plannerStop
  split
  · assumption
  · assumption
  · refine setMotion_steady (hl.sub (by decide)) _ _ ?_
    assumption
  · refine setMotion_steady (hl.sub (by decide)) _ _ ?_
    assumption
  · refine planHalt_steady (hl.sub (by decide)) _ _ ?_
    refine Steady.ite ?_ ?_
    · refine plnResult_steady (hl.sub (by decide)) _ _ ?_
      assumption
    · assumption

theorem plannerHardStop_steady {l : Nat} {s0 : State} (hl : Covers 0x400000104 l) (s : State) (h0 : Steady l s0 s) :
    Steady l s0 (plannerHardStop s) := by
  unfold plannerHardStop
  extract_lets +onlyGivenNames t1
  refine Steady.cut (t := t1) ?_ (fun ht1 => ?_)
  · unfold t1
    refine Steady.ite ?_ ?_
    · refine plnResult_steady (hl.sub (by decide)) _ _ ?_
      assumption
    · assumption
  clear_value t1
  refine setMotion_steady (hl.sub (by decide)) _ _ ?_
  exact Steady.upd (m := 0x400000000) (hl.sub (by decide))
    (by intro x; cases x <;> first | exact fun _ => rfl | exact fun h => absurd h (by decide)) (by assumption) rfl rfl rfl

theorem plnMove_steady {l : Nat} {s0 : State} (hl : Covers 0x400000104 l) (s : State) (h0 : Steady l s0 s) :
    Steady l s0 (plnMove s) := by
  unfold plnMove
  refine Steady.ite ?_ ?_
  · refine plnResult_steady (hl.sub (by decide)) _ _ ?_
    assumption
  · extract_lets +onlyGivenNames t1
    clear_value t1
    extract_lets +onlyGivenNames t2
    clear_value t2
    refine Steady.ite ?_ ?_
    · refine plnResult_steady (hl.sub (by decide)) _ _ ?_
      assumption
    · refine planTo_steady (hl.sub (by decide)) _ _ _ _ ?_
      exact State_set_steady (hl.sub (by decide)) _ _ _ (by assumption)

theorem yawLost_steady {l : Nat} {s0 : State} (hl : Covers 0x180000004 l) (x0 : Nat) (s : State) (h0 : Steady l s0
    s) :
    Steady l s0 (yawLost x0 s) := by
  unfold yawLost
  extract_lets +onlyGivenNames t1
  clear_value t1
  extract_lets +onlyGivenNames t2
  refine Steady.cut (t := t2) ?_ (fun ht2 => ?_)
  · unfold t2
    exact State_wr_steady (hl.sub (by decide)) _ _ _ (by assumption)
  clear_value t2
  refine Steady.ite ?_ ?_
  · refine Steady.upd (m := 0x80000000) (hl.sub (by decide)) (by intro x; cases x <;> first | exact fun _ => rfl | exact fun h => absurd h (by decide)) ?_ ?_ ?_ ?_
    · assumption
    · exact rfl
    · exact rfl
    · exact rfl
  · refine Steady.upd (m := 0x100000000) (hl.sub (by decide)) (by intro x; cases x <;> first | exact fun _ => rfl | exact fun h => absurd h (by decide)) ?_ ?_ ?_ ?_
    · assumption
    · exact rfl
    · exact rfl
    · exact rfl

theorem rerefCh_steady {l : Nat} {s0 : State} (hl : Covers 0x190000004 l) (x0 : Nat) (s : State) (h0 : Steady l s0
    s) :
    Steady l s0 (rerefCh x0 s) := by
  unfold rerefCh
  extract_lets +onlyGivenNames t1
  clear_value t1
  extract_lets +onlyGivenNames t2
  refine Steady.cut (t := t2) ?_ (fun ht2 => ?_)
  · unfold t2
    exact setEnc_steady (hl.sub (by decide)) _ _ _ (by assumption)
  clear_value t2
  extract_lets +onlyGivenNames t3
  refine Steady.cut (t := t3) ?_ (fun ht3 => ?_)
  · unfold t3
    exact State_set_steady (hl.sub (by decide)) _ _ _ (by assumption)
  clear_value t3
  refine Steady.ite ?_ ?_
  · refine yawLost_steady (hl.sub (by decide)) _ _ ?_
    refine State_set_steady (hl.sub (by decide)) _ _ _ ?_
    exact State_set_steady (hl.sub (by decide)) _ _ _ (by assumption)
  · assumption

theorem plnHome_steady {l : Nat} {s0 : State} (hl : Covers 0x590000104 l) (x0 : Nat) (s : State) (h0 : Steady l s0
    s) :
    Steady l s0 (plnHome x0 s) := by
  unfold plnHome
  extract_lets +onlyGivenNames t1
  clear_value t1
  refine Steady.ite ?_ ?_
  · refine plnResult_steady (hl.sub (by decide)) _ _ ?_
    assumption
  · refine Steady.ite ?_ ?_
    · refine plnResult_steady (hl.sub (by decide)) _ _ ?_
      assumption
    · extract_lets +onlyGivenNames t2
      refine Steady.cut (t := t2) ?_ (fun ht2 => ?_)
      · unfold t2
        refine rerefCh_steady (hl.sub (by decide)) _ _ ?_
        exact rerefCh_steady (hl.sub (by decide)) _ _ (by assumption)
      clear_value t2
      extract_lets +onlyGivenNames t3
      refine Steady.cut (t := t3) ?_ (fun ht3 => ?_)
      · unfold t3
        refine State_set_steady (hl.sub (by decide)) _ _ _ ?_
        exact State_set_steady (hl.sub (by decide)) _ _ _ (by assumption)
      clear_value t3
      exact planAxis_steady (hl.sub (by decide)) _ _ _ _ (by assumption)

theorem segmentsCheck_steady {l : Nat} {s0 : State} (hl : Covers 0x180106 l) (x0 : StreamInfo) (x1 : Nat) (x2 : List
    Nat) (x3 : List (Nat × Nat × Nat × Nat)) (s : State) (h0 : Steady l s0 s) :
    Steady l s0 (segmentsCheck x0 x1 x2 x3 s).2 := by
  generalize hn : x2.length = n
  induction n using Nat.strongRecOn generalizing x1 x2 x3 s with
  | _ n ih =>
  match x2, hn with
  | [], _ => exact h0
  | [_], _ => exact h0
  | a :: b :: t, hn =>
    unfold segmentsCheck
    extract_lets +onlyGivenNames u v
    split
    rename_i s2 heq
    have hk := congrArg Prod.snd heq
    dsimp only at hk
    have h2 : Steady l s0 s2 := by rw [← hk]; exact memRead_steady (hl.sub (by decide)) _ _ _ _ h0
    clear heq hk
    extract_lets
    refine Steady.ite_snd h2 (Steady.ite_snd h2 (Steady.ite_snd h2 ?_))
    split
    · exact h2
    · refine Steady.ite_snd h2 ?_
      exact ih t.length (by simp at hn; omega) _ _ _ _ h2 rfl

theorem admitDesc_steady {l : Nat} {s0 : State} (hl : Covers 0x180106 l) (x0 : Desc) (s : State) (h0 : Steady l s0
    s) :
    Steady l s0 (admitDesc x0 s).2 := by
  unfold admitDesc
  split
  rename_i t1 heq1
  have hk1 := congrArg Prod.snd heq1
  dsimp only at hk1
  refine Steady.cut (t := t1) ?_ (fun ht1 => ?_)
  · rw [← hk1]
    exact memRead_steady (hl.sub (by decide)) _ _ _ _ (by assumption)
  clear heq1 hk1
  extract_lets +onlyGivenNames t2
  clear_value t2
  refine Steady.ite_snd ?_ ?_
  · refine Steady.pair ?_
    assumption
  · split
    · refine Steady.pair ?_
      assumption
    · split
      rename_i t3 heq3
      have hk3 := congrArg Prod.snd heq3
      dsimp only at hk3
      refine Steady.cut (t := t3) ?_ (fun ht3 => ?_)
      · rw [← hk3]
        exact memRead_steady (hl.sub (by decide)) _ _ _ _ (by assumption)
      clear heq3 hk3
      refine Steady.ite_snd ?_ ?_
      · refine Steady.pair ?_
        assumption
      · split
        · refine Steady.pair ?_
          assumption
        · extract_lets +onlyGivenNames t4
          clear_value t4
          extract_lets +onlyGivenNames t5
          clear_value t5
          extract_lets +onlyGivenNames t6
          clear_value t6
          split
          rename_i t7 heq7
          have hk7 := congrArg Prod.snd heq7
          dsimp only at hk7
          refine Steady.cut (t := t7) ?_ (fun ht7 => ?_)
          · rw [← hk7]
            exact memRead_steady (hl.sub (by decide)) _ _ _ _ (by assumption)
          clear heq7 hk7
          extract_lets +onlyGivenNames t8
          clear_value t8
          refine Steady.ite_snd ?_ ?_
          · refine Steady.pair ?_
            assumption
          · split
            · refine Steady.pair ?_
              assumption
            · refine Steady.ite_snd ?_ ?_
              · refine Steady.pair ?_
                assumption
              · split
                · rename_i t9 heq9
                  have hk9 := congrArg Prod.snd heq9
                  dsimp only at hk9
                  refine Steady.cut (t := t9) ?_ (fun ht9 => ?_)
                  · rw [← hk9]
                    exact segmentsCheck_steady (hl.sub (by decide)) _ _ _ _ _ (by assumption)
                  clear heq9 hk9
                  refine Steady.pair ?_
                  assumption
                · rename_i t10 heq10
                  have hk10 := congrArg Prod.snd heq10
                  dsimp only at hk10
                  refine Steady.cut (t := t10) ?_ (fun ht10 => ?_)
                  · rw [← hk10]
                    exact segmentsCheck_steady (hl.sub (by decide)) _ _ _ _ _ (by assumption)
                  clear heq10 hk10
                  extract_lets +onlyGivenNames t11
                  clear_value t11
                  refine Steady.ite_snd ?_ ?_
                  · refine Steady.pair ?_
                    assumption
                  · split
                    rename_i t12 heq12
                    have hk12 := congrArg Prod.snd heq12
                    dsimp only at hk12
                    refine Steady.cut (t := t12) ?_ (fun ht12 => ?_)
                    · rw [← hk12]
                      exact memRead_steady (hl.sub (by decide)) _ _ _ _ (by assumption)
                    clear heq12 hk12
                    refine Steady.ite_snd ?_ ?_
                    · refine Steady.pair ?_
                      assumption
                    · refine Steady.pair ?_
                      assumption

theorem unlockStream_steady {l : Nat} {s0 : State} (hl : Covers 0x6004 l) (x0 : Desc) (s : State) (h0 : Steady l s0
    s) :
    Steady l s0 (unlockStream x0 s) := by
  unfold unlockStream
  extract_lets +onlyGivenNames t1
  refine Steady.cut (t := t1) ?_ (fun ht1 => ?_)
  · unfold t1
    exact mapDesc_steady (hl.sub (by decide)) _ _ _ (by assumption)
  clear_value t1
  extract_lets +onlyGivenNames t2
  refine Steady.cut (t := t2) ?_ (fun ht2 => ?_)
  · unfold t2
    split
    · refine Steady.ite ?_ ?_
      · refine dropPre_steady (hl.sub (by decide)) _ ?_
        assumption
      · assumption
    · assumption
  clear_value t2
  exact Steady.upd (m := 0x4000) (hl.sub (by decide))
    (by intro x; cases x <;> first | exact fun _ => rfl | exact fun h => absurd h (by decide)) (by assumption) rfl rfl rfl

theorem admissionEnd_steady {l : Nat} {s0 : State} (hl : Covers 0x186106 l) (s : State) (h0 : Steady l s0 s) :
    Steady l s0 (admissionEnd s) := by
  unfold admissionEnd
  split
  · assumption
  · split
    · refine Steady.upd (m := 0x2000) (hl.sub (by decide)) (by intro x; cases x <;> first | exact fun _ => rfl | exact fun h => absurd h (by decide)) ?_ ?_ ?_ ?_
      · assumption
      · exact rfl
      · exact rfl
      · exact rfl
    · refine Steady.ite ?_ ?_
      · assumption
      · extract_lets +onlyGivenNames t1
        clear_value t1
        extract_lets +onlyGivenNames t2
        refine Steady.cut (t := t2) ?_ (fun ht2 => ?_)
        · unfold t2
          exact Steady.upd (m := 0x2000) (hl.sub (by decide))
            (by intro x; cases x <;> first | exact fun _ => rfl | exact fun h => absurd h (by decide)) (by assumption) rfl rfl rfl
        clear_value t2
        extract_lets +onlyGivenNames t3
        refine Steady.cut (t := t3) ?_ (fun ht3 => ?_)
        · unfold t3
          split
          · rename_i t4 heq4
            have hk4 := congrArg Prod.snd heq4
            dsimp only at hk4
            refine Steady.cut (t := t4) ?_ (fun ht4 => ?_)
            · rw [← hk4]
              exact admitDesc_steady (hl.sub (by decide)) _ _ (by assumption)
            clear heq4 hk4
            refine admitReport_steady (hl.sub (by decide)) _ _ _ _ _ _ _ _ _ _ ?_
            exact unlockStream_steady (hl.sub (by decide)) _ _ (by assumption)
          · rename_i t5 heq5
            have hk5 := congrArg Prod.snd heq5
            dsimp only at hk5
            refine Steady.cut (t := t5) ?_ (fun ht5 => ?_)
            · rw [← hk5]
              exact admitDesc_steady (hl.sub (by decide)) _ _ (by assumption)
            clear heq5 hk5
            extract_lets +onlyGivenNames t6
            refine Steady.cut (t := t6) ?_ (fun ht6 => ?_)
            · unfold t6
              exact mapDesc_steady (hl.sub (by decide)) _ _ _ (by assumption)
            clear_value t6
            extract_lets +onlyGivenNames t7
            clear_value t7
            extract_lets +onlyGivenNames t8
            refine Steady.cut (t := t8) ?_ (fun ht8 => ?_)
            · unfold t8
              exact Steady.upd (m := 0x4000) (hl.sub (by decide))
                (by intro x; cases x <;> first | exact fun _ => rfl | exact fun h => absurd h (by decide)) (by assumption) rfl rfl rfl
            clear_value t8
            exact admitReport_steady (hl.sub (by decide)) _ _ _ _ _ _ _ _ _ _ (by assumption)
        clear_value t3
        exact raisePort_steady (hl.sub (by decide)) _ _ _ (by assumption)

end Sys2Proof.Machine
end

