-- ==== Sys2Proof/Laws/Steady04.lean ====
section
/-! SUPPORT. What the operations of Hold, Roles keep (Laws/Steady.lean). -/

set_option linter.unusedVariables false
set_option maxRecDepth 4000

namespace Sys2Proof.Machine

theorem updateBlank_steady {l : Nat} {s0 : State} (hl : Covers 0x800000005 l) (s : State) (h0 : Steady l s0 s) :
    Steady l s0 (updateBlank s) := by
  unfold updateBlank
  extract_lets +onlyGivenNames t1
  clear_value t1
  extract_lets +onlyGivenNames t2
  clear_value t2
  refine Steady.ite ?_ ?_
  · assumption
  · extract_lets +onlyGivenNames t3
    refine Steady.cut (t := t3) ?_ (fun ht3 => ?_)
    · unfold t3
      exact State_set_steady (hl.sub (by decide)) _ _ _ (by assumption)
    clear_value t3
    extract_lets +onlyGivenNames t4
    clear_value t4
    extract_lets +onlyGivenNames t5
    refine Steady.cut (t := t5) ?_ (fun ht5 => ?_)
    · unfold t5
      exact Steady.upd (m := 0x1) (hl.sub (by decide))
        (by intro x; cases x <;> first | exact fun _ => rfl | exact fun h => absurd h (by decide)) (by assumption) rfl rfl rfl
    clear_value t5
    extract_lets +onlyGivenNames t6
    refine Steady.cut (t := t6) ?_ (fun ht6 => ?_)
    · unfold t6
      exact State_emit_steady (hl.sub (by decide)) _ _ (by assumption)
    clear_value t6
    refine Steady.ite ?_ ?_
    · refine Steady.upd (m := 0x800000000) (hl.sub (by decide)) (by intro x; cases x <;> first | exact fun _ => rfl | exact fun h => absurd h (by decide)) ?_ ?_ ?_ ?_
      · assumption
      · exact rfl
      · exact rfl
      · exact rfl
    · assumption

theorem ceilingOff_steady {l : Nat} {s0 : State} (hl : Covers 0x800000005 l) (s : State) (h0 : Steady l s0 s) :
    Steady l s0 (ceilingOff s) := by
  unfold ceilingOff
  refine Steady.ite ?_ ?_
  · refine updateBlank_steady (hl.sub (by decide)) _ ?_
    exact Steady.upd (m := 0x800000000) (hl.sub (by decide))
      (by intro x; cases x <;> first | exact fun _ => rfl | exact fun h => absurd h (by decide)) (by assumption) rfl rfl rfl
  · assumption

theorem setRun_steady {l : Nat} {s0 : State} (hl : Covers 0x2000 l) (x0 : Run) (s : State) (h0 : Steady l s0 s) :
    Steady l s0 (setRun x0 s) := by
  unfold setRun
  exact Steady.upd (m := 0x2000) (hl.sub (by decide))
    (by intro x; cases x <;> first | exact fun _ => rfl | exact fun h => absurd h (by decide)) (by assumption) rfl rfl rfl

theorem writeResume_steady {l : Nat} {s0 : State} (hl : Covers 0x2 l) (x0 : Nat) (s : State) (h0 : Steady l s0 s) :
    Steady l s0 (writeResume x0 s) := by
  unfold writeResume
  split
  · refine Steady.upd (m := 0x2) (hl.sub (by decide)) (by intro x; cases x <;> first | exact fun _ => rfl | exact fun h => absurd h (by decide)) ?_ ?_ ?_ ?_
    · assumption
    · exact rfl
    · exact rfl
    · exact rfl
  · assumption

theorem jobState_steady {l : Nat} {s0 : State} (hl : Covers 0x104 l) (x0 : Nat) (x1 : Nat) (s : State) (h0 : Steady
    l s0 s) :
    Steady l s0 (jobState x0 x1 s) := by
  unfold jobState
  extract_lets +onlyGivenNames t1
  extract_lets +onlyGivenNames t2
  refine Steady.cut (t := t2) ?_ (fun ht2 => ?_)
  · unfold t2
    refine State_set_steady (hl.sub (by decide)) _ _ _ ?_
    exact State_set_steady (hl.sub (by decide)) _ _ _ (by assumption)
  clear_value t2
  refine Steady.ite ?_ ?_
  · refine raise_steady (hl.sub (by decide)) _ _ ?_
    assumption
  · assumption

theorem withdraw_steady {l : Nat} {s0 : State} (hl : Covers 0x200000000 l) (s : State) (h0 : Steady l s0 s) :
    Steady l s0 (withdraw s) := by
  unfold withdraw
  exact Steady.upd (m := 0x200000000) (hl.sub (by decide))
    (by intro x; cases x <;> first | exact fun _ => rfl | exact fun h => absurd h (by decide)) (by assumption) rfl rfl rfl

theorem cutSliceUnit_steady {l : Nat} {s0 : State} (hl : Covers 0x4004 l) (s : State) (h0 : Steady l s0 s) :
    Steady l s0 (cutSliceUnit s) := by
  unfold cutSliceUnit
  split
  · refine Steady.ite ?_ ?_
    · assumption
    · refine auditState_steady (hl.sub (by decide)) _ _ _ ?_
      exact Steady.upd (m := 0x4000) (hl.sub (by decide))
        (by intro x; cases x <;> first | exact fun _ => rfl | exact fun h => absurd h (by decide)) (by assumption) rfl rfl rfl
  · assumption

theorem raiseOne_steady {l : Nat} {s0 : State} (hl : Covers 0x600102106 l) (x0 : Nat) (s : State) (h0 : Steady l s0
    s) :
    Steady l s0 (raiseOne x0 s) := by
  unfold raiseOne
  split
  · assumption
  · extract_lets +onlyGivenNames t1
    clear_value t1
    extract_lets +onlyGivenNames t2
    clear_value t2
    extract_lets +onlyGivenNames t3
    clear_value t3
    extract_lets +onlyGivenNames t4
    clear_value t4
    refine Steady.ite ?_ ?_
    · extract_lets +onlyGivenNames t5
      refine Steady.cut (t := t5) ?_ (fun ht5 => ?_)
      · unfold t5
        exact setRun_steady (hl.sub (by decide)) _ _ (by assumption)
      clear_value t5
      extract_lets +onlyGivenNames t6
      refine Steady.cut (t := t6) ?_ (fun ht6 => ?_)
      · unfold t6
        refine Steady.ite ?_ ?_
        · refine State_set_steady (hl.sub (by decide)) _ _ _ ?_
          assumption
        · assumption
      clear_value t6
      extract_lets +onlyGivenNames t7
      refine Steady.cut (t := t7) ?_ (fun ht7 => ?_)
      · unfold t7
        refine Steady.ite ?_ ?_
        · refine State_set_steady (hl.sub (by decide)) _ _ _ ?_
          assumption
        · assumption
      clear_value t7
      exact event_steady (hl.sub (by decide)) _ _ _ (by assumption)
    · extract_lets +onlyGivenNames t8
      refine Steady.cut (t := t8) ?_ (fun ht8 => ?_)
      · unfold t8
        exact setRun_steady (hl.sub (by decide)) _ _ (by assumption)
      clear_value t8
      extract_lets +onlyGivenNames t9
      refine Steady.cut (t := t9) ?_ (fun ht9 => ?_)
      · unfold t9
        refine withdraw_steady (hl.sub (by decide)) _ ?_
        exact writeResume_steady (hl.sub (by decide)) _ _ (by assumption)
      clear_value t9
      extract_lets +onlyGivenNames t10
      refine Steady.cut (t := t10) ?_ (fun ht10 => ?_)
      · unfold t10
        refine State_set_steady (hl.sub (by decide)) _ _ _ ?_
        exact State_set_steady (hl.sub (by decide)) _ _ _ (by assumption)
      clear_value t10
      extract_lets +onlyGivenNames t11
      refine Steady.cut (t := t11) ?_ (fun ht11 => ?_)
      · unfold t11
        exact State_set_steady (hl.sub (by decide)) _ _ _ (by assumption)
      clear_value t11
      extract_lets +onlyGivenNames t12
      refine Steady.cut (t := t12) ?_ (fun ht12 => ?_)
      · unfold t12
        refine raise_steady (hl.sub (by decide)) _ _ ?_
        refine State_set_steady (hl.sub (by decide)) _ _ _ ?_
        exact State_set_steady (hl.sub (by decide)) _ _ _ (by assumption)
      clear_value t12
      extract_lets +onlyGivenNames t13
      refine Steady.cut (t := t13) ?_ (fun ht13 => ?_)
      · unfold t13
        refine plannerStop_steady (hl.sub (by decide)) _ ?_
        exact jobState_steady (hl.sub (by decide)) _ _ _ (by assumption)
      clear_value t13
      exact event_steady (hl.sub (by decide)) _ _ _ (by assumption)

theorem raiseCause_steady {l : Nat} {s0 : State} (hl : Covers 0x600106106 l) (x0 : Nat) (s : State) (h0 : Steady l
    s0 s) :
    Steady l s0 (raiseCause x0 s) := by
  unfold raiseCause
  split
  · assumption
  · extract_lets +onlyGivenNames t1
    refine Steady.cut (t := t1) ?_ (fun ht1 => ?_)
    · unfold t1
      refine cutSliceUnit_steady (hl.sub (by decide)) _ ?_
      exact setRun_steady (hl.sub (by decide)) _ _ (by assumption)
    clear_value t1
    refine Steady.foldl _ ?_ (fun _ _ _ => ?_)
    · refine raiseOne_steady (hl.sub (by decide)) _ _ ?_
      assumption
    · refine raiseOne_steady (hl.sub (by decide)) _ _ ?_
      assumption

theorem dueCause_steady {l : Nat} {s0 : State} (hl : Covers 0x600106106 l) (x0 : Nat) (s : State) (h0 : Steady l s0
    s) :
    Steady l s0 (dueCause x0 s) := by
  unfold dueCause
  split
  · assumption
  · refine Steady.ite ?_ ?_
    · refine raiseCause_steady (hl.sub (by decide)) _ _ ?_
      assumption
    · refine setRun_steady (hl.sub (by decide)) _ _ ?_
      assumption

theorem boundaryCauses_steady {l : Nat} {s0 : State} (hl : Covers 0x600106106 l) (s : State) (h0 : Steady l s0 s) :
    Steady l s0 (boundaryCauses s) := by
  unfold boundaryCauses
  split
  · assumption
  · split
    · refine raiseCause_steady (hl.sub (by decide)) _ _ ?_
      assumption
    · assumption

theorem jobAck_steady {l : Nat} {s0 : State} (hl : Covers 0x2004 l) (s : State) (h0 : Steady l s0 s) :
    Steady l s0 (jobAck s) := by
  unfold jobAck
  split
  · assumption
  · refine Steady.ite ?_ ?_
    · refine State_set_steady (hl.sub (by decide)) _ _ _ ?_
      exact setRun_steady (hl.sub (by decide)) _ _ (by assumption)
    · assumption

theorem setRole_steady {l : Nat} {s0 : State} (hl : Covers 0x4 l) (x0 : Nat) (x1 : Nat) (x2 : Nat) (x3 : Nat) (s :
    State) (h0 : Steady l s0 s) :
    Steady l s0 (setRole x0 x1 x2 x3 s) := by
  unfold setRole
  exact State_wr_steady (hl.sub (by decide)) _ _ _ (by assumption)

theorem serveTile_steady {l : Nat} {s0 : State} (hl : Covers 0x4 l) (x0 : Nat) (x1 : Nat) (s : State) (h0 : Steady l
    s0 s) :
    Steady l s0 (serveTile x0 x1 s) := by
  unfold serveTile
  extract_lets +onlyGivenNames t1
  clear_value t1
  refine setRole_steady (hl.sub (by decide)) _ _ _ _ _ ?_
  exact State_wr_steady (hl.sub (by decide)) _ _ _ (by assumption)

theorem serveSlice_steady {l : Nat} {s0 : State} (hl : Covers 0x4 l) (x0 : Nat) (x1 : Nat) (s : State) (h0 : Steady
    l s0 s) :
    Steady l s0 (serveSlice x0 x1 s) := by
  unfold serveSlice
  extract_lets +onlyGivenNames t1
  clear_value t1
  refine setRole_steady (hl.sub (by decide)) _ _ _ _ _ ?_
  exact State_wr_steady (hl.sub (by decide)) _ _ _ (by assumption)

theorem setCal_steady {l : Nat} {s0 : State} (hl : Covers 0x20000 l) (x0 : Nat) (x1 : CalInst) (s : State) (h0 :
    Steady l s0 s) :
    Steady l s0 (setCal x0 x1 s) := by
  unfold setCal
  exact Steady.upd (m := 0x20000) (hl.sub (by decide))
    (by intro x; cases x <;> first | exact fun _ => rfl | exact fun h => absurd h (by decide)) (by assumption) rfl rfl rfl

theorem calComplete_steady {l : Nat} {s0 : State} (hl : Covers 0x20000 l) (x0 : Nat) (x1 : Nat) (s : State) (h0 :
    Steady l s0 s) :
    Steady l s0 (calComplete x0 x1 s) := by
  unfold calComplete
  extract_lets +onlyGivenNames t1
  clear_value t1
  extract_lets +onlyGivenNames t2
  clear_value t2
  exact setCal_steady (hl.sub (by decide)) _ _ _ (by assumption)

theorem calBoot_steady {l : Nat} {s0 : State} (hl : Covers 0x20000 l) (x0 : Nat) (s : State) (h0 : Steady l s0 s) :
    Steady l s0 (calBoot x0 s) := by
  unfold calBoot
  split
  rename_i t1 heq1
  have hk1 := congrArg Prod.snd heq1
  dsimp only at hk1
  refine Steady.cut (t := t1) ?_ (fun ht1 => ?_)
  · rw [← hk1]
    exact State_fresh_steady (hl.sub (by decide)) _ (by assumption)
  clear heq1 hk1
  exact calComplete_steady (hl.sub (by decide)) _ _ _ (by assumption)

theorem clockTap_steady {l : Nat} {s0 : State} (hl : Covers 0x20000 l) (x0 : Nat) (s : State) (h0 : Steady l s0 s) :
    Steady l s0 (clockTap x0 s) := by
  unfold clockTap
  extract_lets +onlyGivenNames t1
  clear_value t1
  split
  split
  · refine Steady.ite ?_ ?_
    · refine setCal_steady (hl.sub (by decide)) _ _ _ ?_
      assumption
    · assumption
  · assumption

theorem clockTaps_steady {l : Nat} {s0 : State} (hl : Covers 0x20000 l) (s : State) (h0 : Steady l s0 s) :
    Steady l s0 (clockTaps s) := by
  unfold clockTaps
  extract_lets +onlyGivenNames t1
  refine Steady.cut (t := t1) ?_ (fun ht1 => ?_)
  · unfold t1
    refine Steady.foldl _ ?_ (fun _ _ _ => ?_)
    · assumption
    · refine clockTap_steady (hl.sub (by decide)) _ _ ?_
      assumption
  clear_value t1
  refine Steady.foldl _ ?_ (fun _ _ _ => ?_)
  · assumption
  · refine clockTap_steady (hl.sub (by decide)) _ _ ?_
    assumption

theorem calBootItem_steady {l : Nat} {s0 : State} (hl : Covers 0x20000 l) (x0 : Nat) (s : State) (h0 : Steady l s0
    s) :
    Steady l s0 (calBootItem x0 s) := by
  unfold calBootItem
  refine Steady.foldl _ ?_ (fun _ _ _ => ?_)
  · assumption
  · refine calBoot_steady (hl.sub (by decide)) _ _ ?_
    assumption

theorem calPreempt_steady {l : Nat} {s0 : State} (hl : Covers 0x120106 l) (s : State) (h0 : Steady l s0 s) :
    Steady l s0 (calPreempt s) := by
  unfold calPreempt
  split
  · assumption
  · extract_lets +onlyGivenNames t1
    clear_value t1
    extract_lets +onlyGivenNames t2
    refine Steady.cut (t := t2) ?_ (fun ht2 => ?_)
    · unfold t2
      exact setCal_steady (hl.sub (by decide)) _ _ _ (by assumption)
    clear_value t2
    extract_lets +onlyGivenNames t3
    clear_value t3
    extract_lets +onlyGivenNames t4
    clear_value t4
    extract_lets +onlyGivenNames t5
    refine Steady.cut (t := t5) ?_ (fun ht5 => ?_)
    · unfold t5
      exact Steady.upd (m := 0x20000) (hl.sub (by decide))
        (by intro x; cases x <;> first | exact fun _ => rfl | exact fun h => absurd h (by decide)) (by assumption) rfl rfl rfl
    clear_value t5
    extract_lets +onlyGivenNames t6
    refine Steady.cut (t := t6) ?_ (fun ht6 => ?_)
    · unfold t6
      refine State_set_steady (hl.sub (by decide)) _ _ _ ?_
      exact State_inc_steady (hl.sub (by decide)) _ _ _ (by assumption)
    clear_value t6
    exact event_steady (hl.sub (by decide)) _ _ _ (by assumption)

theorem auditPlace_steady {l : Nat} {s0 : State} (hl : Covers 0x4 l) (x0 : Nat) (x1 : Nat) (x2 : Nat) (s : State)
    (h0 : Steady l s0 s) :
    Steady l s0 (auditPlace x0 x1 x2 s) := by
  unfold auditPlace
  exact State_wr_steady (hl.sub (by decide)) _ _ _ (by assumption)

theorem fillTileAuditor_steady {l : Nat} {s0 : State} (hl : Covers 0x4004 l) (s : State) (h0 : Steady l s0 s) :
    Steady l s0 (fillTileAuditor s) := by
  unfold fillTileAuditor
  refine Steady.ite ?_ ?_
  · refine auditState_steady (hl.sub (by decide)) _ _ _ ?_
    assumption
  · refine Steady.ite ?_ ?_
    · assumption
    · split
      · refine auditState_steady (hl.sub (by decide)) _ _ _ ?_
        assumption
      · split
        extract_lets +onlyGivenNames t1
        refine Steady.cut (t := t1) ?_ (fun ht1 => ?_)
        · unfold t1
          exact auditPlace_steady (hl.sub (by decide)) _ _ _ _ (by assumption)
        clear_value t1
        extract_lets +onlyGivenNames t2
        clear_value t2
        extract_lets +onlyGivenNames t3
        refine Steady.cut (t := t3) ?_ (fun ht3 => ?_)
        · unfold t3
          exact Steady.upd (m := 0x4000) (hl.sub (by decide))
            (by intro x; cases x <;> first | exact fun _ => rfl | exact fun h => absurd h (by decide)) (by assumption) rfl rfl rfl
        clear_value t3
        refine auditState_steady (hl.sub (by decide)) _ _ _ ?_
        exact State_set_steady (hl.sub (by decide)) _ _ _ (by assumption)

theorem fillSliceAuditor_steady {l : Nat} {s0 : State} (hl : Covers 0x4004 l) (s : State) (h0 : Steady l s0 s) :
    Steady l s0 (fillSliceAuditor s) := by
  unfold fillSliceAuditor
  refine Steady.ite ?_ ?_
  · refine auditState_steady (hl.sub (by decide)) _ _ _ ?_
    assumption
  · refine Steady.ite ?_ ?_
    · assumption
    · split
      · refine auditState_steady (hl.sub (by decide)) _ _ _ ?_
        assumption
      · extract_lets +onlyGivenNames t1
        clear_value t1
        extract_lets +onlyGivenNames t2
        clear_value t2
        extract_lets +onlyGivenNames t3
        refine Steady.cut (t := t3) ?_ (fun ht3 => ?_)
        · unfold t3
          exact auditPlace_steady (hl.sub (by decide)) _ _ _ _ (by assumption)
        clear_value t3
        extract_lets +onlyGivenNames t4
        clear_value t4
        extract_lets +onlyGivenNames t5
        refine Steady.cut (t := t5) ?_ (fun ht5 => ?_)
        · unfold t5
          exact Steady.upd (m := 0x4000) (hl.sub (by decide))
            (by intro x; cases x <;> first | exact fun _ => rfl | exact fun h => absurd h (by decide)) (by assumption) rfl rfl rfl
        clear_value t5
        refine auditState_steady (hl.sub (by decide)) _ _ _ ?_
        exact State_set_steady (hl.sub (by decide)) _ _ _ (by assumption)

theorem dropTileAudit_steady {l : Nat} {s0 : State} (hl : Covers 0x4000 l) (s : State) (h0 : Steady l s0 s) :
    Steady l s0 (dropTileAudit s) := by
  unfold dropTileAudit
  exact Steady.upd (m := 0x4000) (hl.sub (by decide))
    (by intro x; cases x <;> first | exact fun _ => rfl | exact fun h => absurd h (by decide)) (by assumption) rfl rfl rfl

theorem dropSliceAudit_steady {l : Nat} {s0 : State} (hl : Covers 0x4000 l) (s : State) (h0 : Steady l s0 s) :
    Steady l s0 (dropSliceAudit s) := by
  unfold dropSliceAudit
  exact Steady.upd (m := 0x4000) (hl.sub (by decide))
    (by intro x; cases x <;> first | exact fun _ => rfl | exact fun h => absurd h (by decide)) (by assumption) rfl rfl rfl

theorem harrowAuditEnable_steady {l : Nat} {s0 : State} (hl : Covers 0x4004 l) (x0 : Bool) (s : State) (h0 : Steady
    l s0 s) :
    Steady l s0 (harrowAuditEnable x0 s) := by
  unfold harrowAuditEnable
  extract_lets +onlyGivenNames t1
  refine Steady.cut (t := t1) ?_ (fun ht1 => ?_)
  · unfold t1
    exact State_set_steady (hl.sub (by decide)) _ _ _ (by assumption)
  clear_value t1
  refine Steady.ite ?_ ?_
  · refine fillTileAuditor_steady (hl.sub (by decide)) _ ?_
    assumption
  · extract_lets +onlyGivenNames t2
    refine Steady.cut (t := t2) ?_ (fun ht2 => ?_)
    · unfold t2
      split
      · refine setRole_steady (hl.sub (by decide)) _ _ _ _ _ ?_
        assumption
      · assumption
    clear_value t2
    refine auditState_steady (hl.sub (by decide)) _ _ _ ?_
    exact dropTileAudit_steady (hl.sub (by decide)) _ (by assumption)

theorem sowAuditEnable_steady {l : Nat} {s0 : State} (hl : Covers 0x4004 l) (x0 : Bool) (s : State) (h0 : Steady l
    s0 s) :
    Steady l s0 (sowAuditEnable x0 s) := by
  unfold sowAuditEnable
  extract_lets +onlyGivenNames t1
  refine Steady.cut (t := t1) ?_ (fun ht1 => ?_)
  · unfold t1
    exact State_set_steady (hl.sub (by decide)) _ _ _ (by assumption)
  clear_value t1
  refine Steady.ite ?_ ?_
  · refine fillSliceAuditor_steady (hl.sub (by decide)) _ ?_
    assumption
  · extract_lets +onlyGivenNames t2
    refine Steady.cut (t := t2) ?_ (fun ht2 => ?_)
    · unfold t2
      split
      · refine setRole_steady (hl.sub (by decide)) _ _ _ _ _ ?_
        assumption
      · assumption
    clear_value t2
    refine auditState_steady (hl.sub (by decide)) _ _ _ ?_
    exact dropSliceAudit_steady (hl.sub (by decide)) _ (by assumption)

theorem takeUnit_steady {l : Nat} {s0 : State} (hl : Covers 0x124106 l) (x0 : Nat) (x1 : Nat) (s : State) (h0 :
    Steady l s0 s) :
    Steady l s0 (takeUnit x0 x1 s) := by
  unfold takeUnit
  extract_lets +onlyGivenNames t1
  clear_value t1
  refine Steady.ite ?_ ?_
  · refine Steady.ite ?_ ?_
    · refine dropTileAudit_steady (hl.sub (by decide)) _ ?_
      assumption
    · refine dropSliceAudit_steady (hl.sub (by decide)) _ ?_
      assumption
  · refine Steady.ite ?_ ?_
    · refine calPreempt_steady (hl.sub (by decide)) _ ?_
      assumption
    · assumption

theorem takeSpare_steady {l : Nat} {s0 : State} (hl : Covers 0x124106 l) (x0 : Nat) (s : State) (h0 : Steady l s0 s) :
    Steady l s0 (takeSpare x0 s).2 := by
  unfold takeSpare
  split
  · refine Steady.pair ?_
    exact takeUnit_steady (hl.sub (by decide)) _ _ _ (by assumption)
  · split
    · refine Steady.pair ?_
      exact takeUnit_steady (hl.sub (by decide)) _ _ _ (by assumption)
    · refine Steady.pair ?_
      assumption

theorem takeLowest_steady {l : Nat} {s0 : State} (hl : Covers 0x124106 l) (s : State) (h0 : Steady l s0 s) :
    Steady l s0 (takeLowest s).2 := by
  unfold takeLowest
  split
  · refine Steady.pair ?_
    exact takeUnit_steady (hl.sub (by decide)) _ _ _ (by assumption)
  · refine Steady.pair ?_
    assumption

theorem flagRun_steady {l : Nat} {s0 : State} (hl : Covers 0x2000 l) (x0 : Nat) (s : State) (h0 : Steady l s0 s) :
    Steady l s0 (flagRun x0 s) := by
  unfold flagRun
  split
  · refine setRun_steady (hl.sub (by decide)) _ _ ?_
    assumption
  · assumption

theorem retireTile_steady {l : Nat} {s0 : State} (hl : Covers 0x600126106 l) (x0 : Nat) (x1 : Nat) (x2 : Successor)
    (s : State) (h0 : Steady l s0 s) :
    Steady l s0 (retireTile x0 x1 x2 s).2 := by
  unfold retireTile
  extract_lets +onlyGivenNames t1
  clear_value t1
  refine Steady.ite_snd ?_ ?_
  · refine Steady.pair ?_
    assumption
  · extract_lets +onlyGivenNames t2
    clear_value t2
    extract_lets +onlyGivenNames t3
    clear_value t3
    extract_lets +onlyGivenNames t4
    clear_value t4
    extract_lets +onlyGivenNames t5
    clear_value t5
    extract_lets +onlyGivenNames t6
    clear_value t6
    extract_lets +onlyGivenNames t7
    refine Steady.cut (t := t7) ?_ (fun ht7 => ?_)
    · unfold t7
      refine raise_steady (hl.sub (by decide)) _ _ ?_
      exact event_steady (hl.sub (by decide)) _ _ _ (by assumption)
    clear_value t7
    refine Steady.ite_snd ?_ ?_
    · refine Steady.pair ?_
      refine fillTileAuditor_steady (hl.sub (by decide)) _ ?_
      refine setRole_steady (hl.sub (by decide)) _ _ _ _ _ ?_
      exact takeUnit_steady (hl.sub (by decide)) _ _ _ (by assumption)
    · split
      rename_i t8 heq8
      have hk8 := congrArg Prod.snd heq8
      dsimp only at hk8
      refine Steady.cut (t := t8) ?_ (fun ht8 => ?_)
      · rw [← hk8]
        split
        · refine Steady.pair ?_
          exact takeUnit_steady (hl.sub (by decide)) _ _ _ (by assumption)
        · refine takeSpare_steady (hl.sub (by decide)) _ _ ?_
          assumption
        · refine takeLowest_steady (hl.sub (by decide)) _ ?_
          assumption
      clear heq8 hk8
      extract_lets +onlyGivenNames t9
      clear_value t9
      extract_lets +onlyGivenNames t10
      refine Steady.cut (t := t10) ?_ (fun ht10 => ?_)
      · unfold t10
        refine Steady.ite ?_ ?_
        · refine flagRun_steady (hl.sub (by decide)) _ _ ?_
          assumption
        · assumption
      clear_value t10
      split
      · refine Steady.ite_snd ?_ ?_
        · extract_lets +onlyGivenNames t11
          refine Steady.cut (t := t11) ?_ (fun ht11 => ?_)
          · unfold t11
            exact setRole_steady (hl.sub (by decide)) _ _ _ _ _ (by assumption)
          clear_value t11
          extract_lets +onlyGivenNames t12
          clear_value t12
          refine Steady.pair ?_
          refine fillTileAuditor_steady (hl.sub (by decide)) _ ?_
          exact Steady.upd (m := 0x4000) (hl.sub (by decide))
            (by intro x; cases x <;> first | exact fun _ => rfl | exact fun h => absurd h (by decide)) (by assumption) rfl rfl rfl
        · refine Steady.pair ?_
          refine fillTileAuditor_steady (hl.sub (by decide)) _ ?_
          refine serveTile_steady (hl.sub (by decide)) _ _ _ ?_
          exact setRole_steady (hl.sub (by decide)) _ _ _ _ _ (by assumption)
      · extract_lets +onlyGivenNames t13
        refine Steady.cut (t := t13) ?_ (fun ht13 => ?_)
        · unfold t13
          exact setRole_steady (hl.sub (by decide)) _ _ _ _ _ (by assumption)
        clear_value t13
        refine Steady.pair ?_
        refine Steady.ite ?_ ?_
        · refine dueCause_steady (hl.sub (by decide)) _ _ ?_
          assumption
        · assumption

theorem retireSlice_steady {l : Nat} {s0 : State} (hl : Covers 0x600126106 l) (x0 : Nat) (x1 : Nat) (x2 : Successor)
    (s : State) (h0 : Steady l s0 s) :
    Steady l s0 (retireSlice x0 x1 x2 s).2 := by
  unfold retireSlice
  extract_lets +onlyGivenNames t1
  clear_value t1
  extract_lets +onlyGivenNames t2
  clear_value t2
  refine Steady.ite_snd ?_ ?_
  · refine Steady.pair ?_
    assumption
  · extract_lets +onlyGivenNames t3
    clear_value t3
    extract_lets +onlyGivenNames t4
    clear_value t4
    extract_lets +onlyGivenNames t5
    clear_value t5
    extract_lets +onlyGivenNames t6
    clear_value t6
    extract_lets +onlyGivenNames t7
    clear_value t7
    extract_lets +onlyGivenNames t8
    clear_value t8
    extract_lets +onlyGivenNames t9
    refine Steady.cut (t := t9) ?_ (fun ht9 => ?_)
    · unfold t9
      refine raise_steady (hl.sub (by decide)) _ _ ?_
      exact event_steady (hl.sub (by decide)) _ _ _ (by assumption)
    clear_value t9
    refine Steady.ite_snd ?_ ?_
    · refine Steady.pair ?_
      refine fillSliceAuditor_steady (hl.sub (by decide)) _ ?_
      refine setRole_steady (hl.sub (by decide)) _ _ _ _ _ ?_
      exact takeUnit_steady (hl.sub (by decide)) _ _ _ (by assumption)
    · split
      rename_i t10 heq10
      have hk10 := congrArg Prod.snd heq10
      dsimp only at hk10
      refine Steady.cut (t := t10) ?_ (fun ht10 => ?_)
      · rw [← hk10]
        split
        · refine Steady.pair ?_
          exact takeUnit_steady (hl.sub (by decide)) _ _ _ (by assumption)
        · refine takeSpare_steady (hl.sub (by decide)) _ _ ?_
          assumption
      clear heq10 hk10
      extract_lets +onlyGivenNames t11
      refine Steady.cut (t := t11) ?_ (fun ht11 => ?_)
      · unfold t11
        refine Steady.ite ?_ ?_
        · refine flagRun_steady (hl.sub (by decide)) _ _ ?_
          assumption
        · assumption
      clear_value t11
      split
      · refine Steady.ite_snd ?_ ?_
        · extract_lets +onlyGivenNames t12
          refine Steady.cut (t := t12) ?_ (fun ht12 => ?_)
          · unfold t12
            exact setRole_steady (hl.sub (by decide)) _ _ _ _ _ (by assumption)
          clear_value t12
          extract_lets +onlyGivenNames t13
          clear_value t13
          refine Steady.pair ?_
          refine fillSliceAuditor_steady (hl.sub (by decide)) _ ?_
          exact Steady.upd (m := 0x4000) (hl.sub (by decide))
            (by intro x; cases x <;> first | exact fun _ => rfl | exact fun h => absurd h (by decide)) (by assumption) rfl rfl rfl
        · refine Steady.pair ?_
          refine fillSliceAuditor_steady (hl.sub (by decide)) _ ?_
          refine serveSlice_steady (hl.sub (by decide)) _ _ _ ?_
          exact setRole_steady (hl.sub (by decide)) _ _ _ _ _ (by assumption)
      · extract_lets +onlyGivenNames t14
        refine Steady.cut (t := t14) ?_ (fun ht14 => ?_)
        · unfold t14
          exact setRole_steady (hl.sub (by decide)) _ _ _ _ _ (by assumption)
        clear_value t14
        refine Steady.pair ?_
        refine Steady.ite ?_ ?_
        · refine dueCause_steady (hl.sub (by decide)) _ _ ?_
          assumption
        · assumption

theorem calDue_steady {l : Nat} {s0 : State} (hl : Covers 0x20000 l) (x0 : Nat) (s : State) (h0 : Steady l s0 s) :
    Steady l s0 (calDue x0 s) := by
  unfold calDue
  exact setCal_steady (hl.sub (by decide)) _ _ _ (by assumption)

theorem fillPositions_steady {l : Nat} {s0 : State} (hl : Covers 0x124106 l) (s : State) (h0 : Steady l s0 s) :
    Steady l s0 (fillPositions s) := by
  unfold fillPositions
  refine fillTileAuditor_steady (hl.sub (by decide)) _ ?_
  refine Steady.foldl _ ?_ (fun _ _ _ => ?_)
  · assumption
  · split
    · rename_i t1 heq1
      have hk1 := congrArg Prod.snd heq1
      dsimp only at hk1
      refine Steady.cut (t := t1) ?_ (fun ht1 => ?_)
      · rw [← hk1]
        exact takeSpare_steady (hl.sub (by decide)) _ _ (by assumption)
      clear heq1 hk1
      exact serveTile_steady (hl.sub (by decide)) _ _ _ (by assumption)
    · rename_i t2 heq2
      have hk2 := congrArg Prod.snd heq2
      dsimp only at hk2
      refine Steady.cut (t := t2) ?_ (fun ht2 => ?_)
      · rw [← hk2]
        exact takeSpare_steady (hl.sub (by decide)) _ _ (by assumption)
      clear heq2 hk2
      assumption

theorem fillGroups_steady {l : Nat} {s0 : State} (hl : Covers 0x124106 l) (s : State) (h0 : Steady l s0 s) :
    Steady l s0 (fillGroups s) := by
  unfold fillGroups
  refine fillSliceAuditor_steady (hl.sub (by decide)) _ ?_
  refine Steady.foldl _ ?_ (fun _ _ _ => ?_)
  · assumption
  · split
    · rename_i t1 heq1
      have hk1 := congrArg Prod.snd heq1
      dsimp only at hk1
      refine Steady.cut (t := t1) ?_ (fun ht1 => ?_)
      · rw [← hk1]
        exact takeSpare_steady (hl.sub (by decide)) _ _ (by assumption)
      clear heq1 hk1
      exact serveSlice_steady (hl.sub (by decide)) _ _ _ (by assumption)
    · rename_i t2 heq2
      have hk2 := congrArg Prod.snd heq2
      dsimp only at hk2
      refine Steady.cut (t := t2) ?_ (fun ht2 => ?_)
      · rw [← hk2]
        exact takeSpare_steady (hl.sub (by decide)) _ _ (by assumption)
      clear heq2 hk2
      assumption

theorem standbyTile_steady {l : Nat} {s0 : State} (hl : Covers 0x124106 l) (x0 : Nat) (s : State) (h0 : Steady l s0
    s) :
    Steady l s0 (standbyTile x0 s) := by
  unfold standbyTile
  extract_lets +onlyGivenNames t1
  refine Steady.cut (t := t1) ?_ (fun ht1 => ?_)
  · unfold t1
    exact setRole_steady (hl.sub (by decide)) _ _ _ _ _ (by assumption)
  clear_value t1
  refine Steady.ite ?_ ?_
  · refine fillTileAuditor_steady (hl.sub (by decide)) _ ?_
    assumption
  · refine fillPositions_steady (hl.sub (by decide)) _ ?_
    assumption

theorem standbySlice_steady {l : Nat} {s0 : State} (hl : Covers 0x124106 l) (x0 : Nat) (s : State) (h0 : Steady l s0
    s) :
    Steady l s0 (standbySlice x0 s) := by
  unfold standbySlice
  extract_lets +onlyGivenNames t1
  refine Steady.cut (t := t1) ?_ (fun ht1 => ?_)
  · unfold t1
    exact setRole_steady (hl.sub (by decide)) _ _ _ _ _ (by assumption)
  clear_value t1
  refine Steady.ite ?_ ?_
  · refine fillSliceAuditor_steady (hl.sub (by decide)) _ ?_
    assumption
  · refine fillGroups_steady (hl.sub (by decide)) _ ?_
    assumption

theorem returnTile_steady {l : Nat} {s0 : State} (hl : Covers 0x124106 l) (x0 : Nat) (x1 : Bool) (s : State) (h0 :
    Steady l s0 s) :
    Steady l s0 (returnTile x0 x1 s) := by
  unfold returnTile
  refine Steady.ite ?_ ?_
  · refine setRole_steady (hl.sub (by decide)) _ _ _ _ _ ?_
    assumption
  · refine standbyTile_steady (hl.sub (by decide)) _ _ ?_
    refine calDue_steady (hl.sub (by decide)) _ _ ?_
    exact State_wr_steady (hl.sub (by decide)) _ _ _ (by assumption)

theorem returnSlice_steady {l : Nat} {s0 : State} (hl : Covers 0x124106 l) (x0 : Nat) (x1 : Bool) (s : State) (h0 :
    Steady l s0 s) :
    Steady l s0 (returnSlice x0 x1 s) := by
  unfold returnSlice
  refine Steady.ite ?_ ?_
  · refine setRole_steady (hl.sub (by decide)) _ _ _ _ _ ?_
    assumption
  · refine standbySlice_steady (hl.sub (by decide)) _ _ ?_
    refine calDue_steady (hl.sub (by decide)) _ _ ?_
    exact State_wr_steady (hl.sub (by decide)) _ _ _ (by assumption)

theorem applySwap_steady {l : Nat} {s0 : State} (hl : Covers 0x600126106 l) (x0 : Nat) (x1 : PendingSwap) (s :
    State) (h0 : Steady l s0 s) :
    Steady l s0 (applySwap x0 x1 s) := by
  unfold applySwap
  extract_lets +onlyGivenNames t1
  clear_value t1
  extract_lets +onlyGivenNames t2
  refine Steady.cut (t := t2) ?_ (fun ht2 => ?_)
  · unfold t2
    refine setRole_steady (hl.sub (by decide)) _ _ _ _ _ ?_
    exact Steady.upd (m := 0x4000) (hl.sub (by decide))
      (by intro x; cases x <;> first | exact fun _ => rfl | exact fun h => absurd h (by decide)) (by assumption) rfl rfl rfl
  clear_value t2
  split
  rename_i t3 heq3
  have hk3 := congrArg Prod.snd heq3
  dsimp only at hk3
  refine Steady.cut (t := t3) ?_ (fun ht3 => ?_)
  · rw [← hk3]
    refine Steady.ite_snd ?_ ?_
    · refine Steady.pair ?_
      assumption
    · refine takeSpare_steady (hl.sub (by decide)) _ _ ?_
      assumption
  clear heq3 hk3
  split
  · refine Steady.ite ?_ ?_
    · refine serveTile_steady (hl.sub (by decide)) _ _ _ ?_
      assumption
    · refine serveSlice_steady (hl.sub (by decide)) _ _ _ ?_
      assumption
  · refine Steady.ite ?_ ?_
    · refine dueCause_steady (hl.sub (by decide)) _ _ ?_
      assumption
    · assumption

theorem applyTileSwaps_steady {l : Nat} {s0 : State} (hl : Covers 0x600126106 l) (x0 : PendingSwap → Bool) (s :
    State) (h0 : Steady l s0 s) :
    Steady l s0 (applyTileSwaps x0 s) := by
  unfold applyTileSwaps
  extract_lets +onlyGivenNames t1
  clear_value t1
  refine Steady.ite ?_ ?_
  · assumption
  · refine fillTileAuditor_steady (hl.sub (by decide)) _ ?_
    refine Steady.foldl _ ?_ (fun _ _ _ => ?_)
    · assumption
    · refine applySwap_steady (hl.sub (by decide)) _ _ _ ?_
      assumption

theorem applySliceSwaps_steady {l : Nat} {s0 : State} (hl : Covers 0x600126106 l) (x0 : PendingSwap → Bool) (s :
    State) (h0 : Steady l s0 s) :
    Steady l s0 (applySliceSwaps x0 s) := by
  unfold applySliceSwaps
  extract_lets +onlyGivenNames t1
  clear_value t1
  refine Steady.ite ?_ ?_
  · assumption
  · refine fillSliceAuditor_steady (hl.sub (by decide)) _ ?_
    refine Steady.foldl _ ?_ (fun _ _ _ => ?_)
    · assumption
    · refine applySwap_steady (hl.sub (by decide)) _ _ _ ?_
      assumption

end Sys2Proof.Machine
end

