-- ==== Sys2Proof/Laws/Steady05.lean ====
section
/-! SUPPORT. What the operations of Harrow, Madder keep (Laws/Steady.lean). -/

set_option linter.unusedVariables false
set_option maxRecDepth 4000

namespace Sys2Proof.Machine

theorem setWork_steady {l : Nat} {s0 : State} (hl : Covers 0x4000 l) (x0 : Bool) (x1 : Work) (s : State) (h0 :
    Steady l s0 s) :
    Steady l s0 (setWork x0 x1 s) := by
  unfold setWork
  refine Steady.ite ?_ ?_
  · refine Steady.upd (m := 0x4000) (hl.sub (by decide)) (by intro x; cases x <;> first | exact fun _ => rfl | exact fun h => absurd h (by decide)) ?_ ?_ ?_ ?_
    · assumption
    · exact rfl
    · exact rfl
    · exact rfl
  · refine Steady.upd (m := 0x4000) (hl.sub (by decide)) (by intro x; cases x <;> first | exact fun _ => rfl | exact fun h => absurd h (by decide)) ?_ ?_ ?_ ?_
    · assumption
    · exact rfl
    · exact rfl
    · exact rfl

theorem streamFault_steady {l : Nat} {s0 : State} (hl : Covers 0x600186106 l) (s : State) (h0 : Steady l s0 s) :
    Steady l s0 (streamFault s) := by
  unfold streamFault
  extract_lets +onlyGivenNames t1
  clear_value t1
  refine Steady.ite ?_ ?_
  · refine dueCause_steady (hl.sub (by decide)) _ _ ?_
    exact Steady.upd (m := 0x80000) (hl.sub (by decide))
      (by intro x; cases x <;> first | exact fun _ => rfl | exact fun h => absurd h (by decide)) (by assumption) rfl rfl rfl
  · assumption

theorem loadSeg_steady {l : Nat} {s0 : State} (hl : Covers 0x600186106 l) (x0 : Bool) (x1 : Nat) (s : State) (h0 :
    Steady l s0 s) :
    Steady l s0 (loadSeg x0 x1 s).2 := by
  unfold loadSeg
  split
  · refine Steady.pair ?_
    assumption
  · refine Steady.ite_snd ?_ ?_
    · refine Steady.pair ?_
      assumption
    · refine Steady.ite_snd ?_ ?_
      · refine Steady.pair ?_
        assumption
      · split
        rename_i t1 heq1
        have hk1 := congrArg Prod.snd heq1
        dsimp only at hk1
        refine Steady.cut (t := t1) ?_ (fun ht1 => ?_)
        · rw [← hk1]
          exact memRead_steady (hl.sub (by decide)) _ _ _ _ (by assumption)
        clear heq1 hk1
        refine Steady.ite_snd ?_ ?_
        · refine Steady.pair ?_
          exact streamFault_steady (hl.sub (by decide)) _ (by assumption)
        · split
          rename_i t2 heq2
          have hk2 := congrArg Prod.snd heq2
          dsimp only at hk2
          refine Steady.cut (t := t2) ?_ (fun ht2 => ?_)
          · rw [← hk2]
            exact memRead_steady (hl.sub (by decide)) _ _ _ _ (by assumption)
          clear heq2 hk2
          refine Steady.ite_snd ?_ ?_
          · refine Steady.pair ?_
            exact streamFault_steady (hl.sub (by decide)) _ (by assumption)
          · refine Steady.pair ?_
            exact setWork_steady (hl.sub (by decide)) _ _ _ (by assumption)

theorem loadSegs_steady {l : Nat} {s0 : State} (hl : Covers 0x600186106 l) (x0 : Bool) (x1 : Nat) (x2 : Nat) (s :
    State) (h0 : Steady l s0 s) :
    Steady l s0 (loadSegs x0 x1 x2 s).2 := by
  induction x1 generalizing x0 x2 s
  · unfold loadSegs
    refine Steady.pair ?_
    assumption
  · rename_i n ih
    unfold loadSegs
    split
    · rename_i t1 heq1
      have hk1 := congrArg Prod.snd heq1
      dsimp only at hk1
      refine Steady.cut (t := t1) ?_ (fun ht1 => ?_)
      · rw [← hk1]
        exact loadSeg_steady (hl.sub (by decide)) _ _ _ (by assumption)
      clear heq1 hk1
      refine ih _ _ _ ?_
      assumption
    · rename_i t2 heq2
      have hk2 := congrArg Prod.snd heq2
      dsimp only at hk2
      refine Steady.cut (t := t2) ?_ (fun ht2 => ?_)
      · rw [← hk2]
        exact loadSeg_steady (hl.sub (by decide)) _ _ _ (by assumption)
      clear heq2 hk2
      refine Steady.pair ?_
      assumption

theorem seekRow_steady {l : Nat} {s0 : State} (hl : Covers 0x600186106 l) (x0 : Bool) (x1 : Nat) (x2 : Nat) (x3 :
    Nat) (s : State) (h0 : Steady l s0 s) :
    Steady l s0 (seekRow x0 x1 x2 x3 s).2 := by
  induction x2 generalizing x3 s with
  | zero => exact h0
  | succ n ih =>
    unfold seekRow
    split
    · exact h0
    · extract_lets +onlyGivenNames k
      refine Steady.ite_snd h0 ?_
      split <;> rename_i s2 heq <;> have hk := congrArg Prod.snd heq <;> dsimp only at hk
      · rw [show s2 = _ from hk.symm]; exact loadSeg_steady (hl.sub (by decide)) _ _ _ h0
      · have h2 : Steady l s0 s2 := by rw [← hk]; exact loadSeg_steady (hl.sub (by decide)) _ _ _ h0
        split
        · exact h2
        · split
          · exact h2
          · exact ih _ _ (setWork_steady (hl.sub (by decide)) _ _ _ h2)

theorem decodeNext_steady {l : Nat} {s0 : State} (hl : Covers 0x600186106 l) (x0 : Nat) (x1 : Bool × Nat × Nat ×
    Nat) (s : State) (h0 : Steady l s0 s) :
    Steady l s0 (decodeNext x0 x1 s) := by
  unfold decodeNext
  split
  split
  · assumption
  · split
    · assumption
    · extract_lets +onlyGivenNames t1
      clear_value t1
      refine Steady.ite ?_ ?_
      · assumption
      · extract_lets +onlyGivenNames t2
        clear_value t2
        extract_lets +onlyGivenNames t3
        clear_value t3
        extract_lets +onlyGivenNames t4
        clear_value t4
        split
        rename_i t5 heq5
        have hk5 := congrArg Prod.snd heq5
        dsimp only at hk5
        refine Steady.cut (t := t5) ?_ (fun ht5 => ?_)
        · rw [← hk5]
          split
          · refine Steady.pair ?_
            exact memRead_steady (hl.sub (by decide)) _ _ _ _ (by assumption)
          · refine Steady.pair ?_
            assumption
        clear heq5 hk5
        refine Steady.ite ?_ ?_
        · refine streamFault_steady (hl.sub (by decide)) _ ?_
          assumption
        · extract_lets +onlyGivenNames t6
          refine Steady.cut (t := t6) ?_ (fun ht6 => ?_)
          · unfold t6
            refine Steady.ite ?_ ?_
            · refine event_steady (hl.sub (by decide)) _ _ _ ?_
              exact State_inc_steady (hl.sub (by decide)) _ _ _ (by assumption)
            · assumption
          clear_value t6
          extract_lets +onlyGivenNames t7
          clear_value t7
          extract_lets +onlyGivenNames t8
          refine Steady.cut (t := t8) ?_ (fun ht8 => ?_)
          · unfold t8
            exact setWork_steady (hl.sub (by decide)) _ _ _ (by assumption)
          clear_value t8
          exact Steady.upd (m := 0x4000) (hl.sub (by decide))
            (by intro x; cases x <;> first | exact fun _ => rfl | exact fun h => absurd h (by decide)) (by assumption) rfl rfl rfl

theorem tilthTile_steady {l : Nat} {s0 : State} (hl : Covers 0x600186106 l) (x0 : Nat) (s : State) (h0 : Steady l s0
    s) :
    Steady l s0 (tilthTile x0 s) := by
  unfold tilthTile
  split
  · refine decodeNext_steady (hl.sub (by decide)) _ _ _ ?_
    assumption
  · extract_lets +onlyGivenNames t1
    clear_value t1
    extract_lets +onlyGivenNames t2
    split
    · rename_i t3 heq3
      have hk3 := congrArg Prod.snd heq3
      dsimp only at hk3
      refine Steady.cut (t := t3) ?_ (fun ht3 => ?_)
      · rw [← hk3]
        simp only [t2]
        split
        · refine seekRow_steady (hl.sub (by decide)) _ _ _ _ _ ?_
          assumption
        · refine Steady.pair ?_
          assumption
      clear heq3 hk3
      exact decodeNext_steady (hl.sub (by decide)) _ _ _ (by assumption)
    · rename_i t4 heq4
      have hk4 := congrArg Prod.snd heq4
      dsimp only at hk4
      refine Steady.cut (t := t4) ?_ (fun ht4 => ?_)
      · rw [← hk4]
        simp only [t2]
        split
        · refine seekRow_steady (hl.sub (by decide)) _ _ _ _ _ ?_
          assumption
        · refine Steady.pair ?_
          assumption
      clear heq4 hk4
      split
      · rename_i t5 heq5
        have hk5 := congrArg Prod.snd heq5
        dsimp only at hk5
        refine Steady.cut (t := t5) ?_ (fun ht5 => ?_)
        · rw [← hk5]
          simp only [t2]
          split
          · refine seekRow_steady (hl.sub (by decide)) _ _ _ _ _ ?_
            assumption
          · refine Steady.pair ?_
            assumption
        clear heq5 hk5
        exact decodeNext_steady (hl.sub (by decide)) _ _ _ (by assumption)
      · rename_i t6 heq6
        have hk6 := congrArg Prod.snd heq6
        dsimp only at hk6
        refine Steady.cut (t := t6) ?_ (fun ht6 => ?_)
        · rw [← hk6]
          simp only [t2]
          split
          · refine seekRow_steady (hl.sub (by decide)) _ _ _ _ _ ?_
            assumption
          · refine Steady.pair ?_
            assumption
        clear heq6 hk6
        assumption

theorem withCounts_steady {l : Nat} {s0 : State} (hl : Covers 0x4000 l) (x0 : Counts → Counts) (s : State) (h0 :
    Steady l s0 s) :
    Steady l s0 (withCounts x0 s) := by
  unfold withCounts
  exact Steady.upd (m := 0x4000) (hl.sub (by decide))
    (by intro x; cases x <;> first | exact fun _ => rfl | exact fun h => absurd h (by decide)) (by assumption) rfl rfl rfl

theorem takeTileUnit_steady {l : Nat} {s0 : State} (hl : Covers 0x4004 l) (x0 : HarrowAudit) (x1 : Nat) (s : State)
    (h0 : Steady l s0 s) :
    Steady l s0 (takeTileUnit x0 x1 s) := by
  unfold takeTileUnit
  extract_lets +onlyGivenNames t1
  clear_value t1
  extract_lets +onlyGivenNames t2
  refine Steady.cut (t := t2) ?_ (fun ht2 => ?_)
  · unfold t2
    exact Steady.upd (m := 0x4000) (hl.sub (by decide))
      (by intro x; cases x <;> first | exact fun _ => rfl | exact fun h => absurd h (by decide)) (by assumption) rfl rfl rfl
  clear_value t2
  refine auditState_steady (hl.sub (by decide)) _ _ _ ?_
  refine State_set_steady (hl.sub (by decide)) _ _ _ ?_
  exact State_set_steady (hl.sub (by decide)) _ _ _ (by assumption)

theorem startTileUnit_steady {l : Nat} {s0 : State} (hl : Covers 0x4004 l) (x0 : Bool) (s : State) (h0 : Steady l s0
    s) :
    Steady l s0 (startTileUnit x0 s) := by
  unfold startTileUnit
  extract_lets +onlyGivenNames t1
  refine Steady.cut (t := t1) ?_ (fun ht1 => ?_)
  · unfold t1
    exact cutTileUnit_steady (hl.sub (by decide)) _ _ (by assumption)
  clear_value t1
  split
  · refine Steady.ite ?_ ?_
    · refine takeTileUnit_steady (hl.sub (by decide)) _ _ _ ?_
      assumption
    · assumption
  · assumption

theorem nextTileUnit_steady {l : Nat} {s0 : State} (hl : Covers 0x4004 l) (s : State) (h0 : Steady l s0 s) :
    Steady l s0 (nextTileUnit s) := by
  unfold nextTileUnit
  split
  · assumption
  · extract_lets +onlyGivenNames t1
    clear_value t1
    extract_lets +onlyGivenNames t2
    clear_value t2
    extract_lets +onlyGivenNames t3
    clear_value t3
    extract_lets +onlyGivenNames t4
    refine Steady.cut (t := t4) ?_ (fun ht4 => ?_)
    · unfold t4
      exact Steady.upd (m := 0x4000) (hl.sub (by decide))
        (by intro x; cases x <;> first | exact fun _ => rfl | exact fun h => absurd h (by decide)) (by assumption) rfl rfl rfl
    clear_value t4
    refine auditState_steady (hl.sub (by decide)) _ _ _ ?_
    exact auditPlace_steady (hl.sub (by decide)) _ _ _ _ (by assumption)

theorem harrowOutcome_steady {l : Nat} {s0 : State} (hl : Covers 0x600126106 l) (x0 : HarrowAudit) (x1 : Option Nat)
    (x2 : Nat) (s : State) (h0 : Steady l s0 s) :
    Steady l s0 (harrowOutcome x0 x1 x2 s) := by
  unfold harrowOutcome
  extract_lets +onlyGivenNames t1
  refine Steady.cut (t := t1) ?_ (fun ht1 => ?_)
  · unfold t1
    refine State_set_steady (hl.sub (by decide)) _ _ _ ?_
    exact State_set_steady (hl.sub (by decide)) _ _ _ (by assumption)
  clear_value t1
  extract_lets +onlyGivenNames t2
  clear_value t2
  extract_lets +onlyGivenNames t3
  refine Steady.cut (t := t3) ?_ (fun ht3 => ?_)
  · unfold t3
    exact Steady.upd (m := 0x4000) (hl.sub (by decide))
      (by intro x; cases x <;> first | exact fun _ => rfl | exact fun h => absurd h (by decide)) (by assumption) rfl rfl rfl
  clear_value t3
  extract_lets +onlyGivenNames t4
  refine Steady.cut (t := t4) ?_ (fun ht4 => ?_)
  · unfold t4
    exact auditState_steady (hl.sub (by decide)) _ _ _ (by assumption)
  clear_value t4
  refine Steady.ite ?_ ?_
  · refine fillTileAuditor_steady (hl.sub (by decide)) _ ?_
    exact retireTile_steady (hl.sub (by decide)) _ _ _ _ (by assumption)
  · refine Steady.ite ?_ ?_
    · refine fillTileAuditor_steady (hl.sub (by decide)) _ ?_
      exact retireTile_steady (hl.sub (by decide)) _ _ _ _ (by assumption)
    · extract_lets +onlyGivenNames t5
      refine Steady.cut (t := t5) ?_ (fun ht5 => ?_)
      · unfold t5
        exact setRole_steady (hl.sub (by decide)) _ _ _ _ _ (by assumption)
      clear_value t5
      refine fillTileAuditor_steady (hl.sub (by decide)) _ ?_
      exact retireTile_steady (hl.sub (by decide)) _ _ _ _ (by assumption)

theorem harrowCompare_steady {l : Nat} {s0 : State} (hl : Covers 0x600126106 l) (s : State) (h0 : Steady l s0 s) :
    Steady l s0 (harrowCompare s) := by
  unfold harrowCompare
  split
  · assumption
  · split
    · refine Steady.ite ?_ ?_
      · extract_lets +onlyGivenNames t1
        refine Steady.cut (t := t1) ?_ (fun ht1 => ?_)
        · unfold t1
          exact State_inc_steady (hl.sub (by decide)) _ _ _ (by assumption)
        clear_value t1
        extract_lets +onlyGivenNames t2
        clear_value t2
        extract_lets +onlyGivenNames t3
        refine Steady.cut (t := t3) ?_ (fun ht3 => ?_)
        · unfold t3
          refine Steady.ite ?_ ?_
          · assumption
          · refine Steady.upd (m := 0x4000) (hl.sub (by decide)) (by intro x; cases x <;> first | exact fun _ => rfl | exact fun h => absurd h (by decide)) ?_ ?_ ?_ ?_
            · assumption
            · exact rfl
            · exact rfl
            · exact rfl
        clear_value t3
        exact nextTileUnit_steady (hl.sub (by decide)) _ (by assumption)
      · extract_lets +onlyGivenNames t4
        refine Steady.cut (t := t4) ?_ (fun ht4 => ?_)
        · unfold t4
          exact State_wr_steady (hl.sub (by decide)) _ _ _ (by assumption)
        clear_value t4
        extract_lets +onlyGivenNames t5
        refine Steady.cut (t := t5) ?_ (fun ht5 => ?_)
        · unfold t5
          exact State_wr_steady (hl.sub (by decide)) _ _ _ (by assumption)
        clear_value t5
        extract_lets +onlyGivenNames t6
        refine Steady.cut (t := t6) ?_ (fun ht6 => ?_)
        · unfold t6
          exact State_wr_steady (hl.sub (by decide)) _ _ _ (by assumption)
        clear_value t6
        extract_lets +onlyGivenNames t7
        split
        · extract_lets +onlyGivenNames t8
          refine Steady.cut (t := t8) ?_ (fun ht8 => ?_)
          · unfold t8
            simp only [t7]
            refine raise_steady (hl.sub (by decide)) _ _ ?_
            refine event_steady (hl.sub (by decide)) _ _ _ ?_
            exact State_set_steady (hl.sub (by decide)) _ _ _ (by assumption)
          clear_value t8
          refine auditState_steady (hl.sub (by decide)) _ _ _ ?_
          exact Steady.upd (m := 0x4000) (hl.sub (by decide))
            (by intro x; cases x <;> first | exact fun _ => rfl | exact fun h => absurd h (by decide)) (by assumption) rfl rfl rfl
        · simp only [t7]
          refine raise_steady (hl.sub (by decide)) _ _ ?_
          refine event_steady (hl.sub (by decide)) _ _ _ ?_
          exact harrowOutcome_steady (hl.sub (by decide)) _ _ _ _ (by assumption)
    · assumption

theorem harrowSecond_steady {l : Nat} {s0 : State} (hl : Covers 0x600126106 l) (x0 : List (Nat × Nat)) (s : State)
    (h0 : Steady l s0 s) :
    Steady l s0 (harrowSecond x0 s) := by
  unfold harrowSecond
  split
  · assumption
  · split
    · extract_lets +onlyGivenNames t1
      clear_value t1
      exact harrowOutcome_steady (hl.sub (by decide)) _ _ _ _ (by assumption)
    · assumption

theorem auditLive_steady {l : Nat} {s0 : State} (hl : Covers 0x600126106 l) (x0 : Bool) (x1 : StreamInfo) (x2 : Nat)
    (x3 : Nat) (x4 : Nat) (x5 : Bool) (x6 : List Nat) (x7 : List Nat) (s : State) (h0 : Steady l s0 s) :
    Steady l s0 (auditLive x0 x1 x2 x3 x4 x5 x6 x7 s) := by
  unfold auditLive
  split
  · assumption
  · refine Steady.ite ?_ ?_
    · assumption
    · refine Steady.ite ?_ ?_
      · refine harrowCompare_steady (hl.sub (by decide)) _ ?_
        exact Steady.upd (m := 0x4000) (hl.sub (by decide))
          (by intro x; cases x <;> first | exact fun _ => rfl | exact fun h => absurd h (by decide)) (by assumption) rfl rfl rfl
      · refine Steady.ite ?_ ?_
        · refine takeTileUnit_steady (hl.sub (by decide)) _ _ _ ?_
          assumption
        · assumption

theorem auditorDone_steady {l : Nat} {s0 : State} (hl : Covers 0x6001a6106 l) (x0 : HarrowAudit) (x1 : List (Nat ×
    Nat)) (s : State) (h0 : Steady l s0 s) :
    Steady l s0 (auditorDone x0 x1 s) := by
  unfold auditorDone
  extract_lets +onlyGivenNames t1
  split
  · assumption
  · refine Steady.ite ?_ ?_
    · assumption
    · refine Steady.ite ?_ ?_
      · simp only [t1]
        refine harrowCompare_steady (hl.sub (by decide)) _ ?_
        exact Steady.upd (m := 0x4000) (hl.sub (by decide))
          (by intro x; cases x <;> first | exact fun _ => rfl | exact fun h => absurd h (by decide)) (by assumption) rfl rfl rfl
      · split
        · rename_i t2 heq2
          have hk2 := congrArg Prod.snd heq2
          dsimp only at hk2
          refine Steady.cut (t := t2) ?_ (fun ht2 => ?_)
          · rw [← hk2]
            exact loadSegs_steady (hl.sub (by decide)) _ _ _ _ (by assumption)
          clear heq2 hk2
          assumption
        · rename_i t3 heq3
          have hk3 := congrArg Prod.snd heq3
          dsimp only at hk3
          refine Steady.cut (t := t3) ?_ (fun ht3 => ?_)
          · rw [← hk3]
            exact loadSegs_steady (hl.sub (by decide)) _ _ _ _ (by assumption)
          clear heq3 hk3
          split
          · refine Steady.ite ?_ ?_
            · simp only [t1]
              refine harrowCompare_steady (hl.sub (by decide)) _ ?_
              exact Steady.upd (m := 0x4000) (hl.sub (by decide))
                (by intro x; cases x <;> first | exact fun _ => rfl | exact fun h => absurd h (by decide)) (by assumption) rfl rfl rfl
            · assumption
          · assumption

theorem writeDensity_steady {l : Nat} {s0 : State} (hl : Covers 0x184106 l) (x0 : Work) (x1 : Nat) (s : State) (h0 :
    Steady l s0 s) :
    Steady l s0 (writeDensity x0 x1 s) := by
  unfold writeDensity
  extract_lets +onlyGivenNames t1
  clear_value t1
  extract_lets +onlyGivenNames t2
  clear_value t2
  extract_lets +onlyGivenNames t3
  refine Steady.cut (t := t3) ?_ (fun ht3 => ?_)
  · unfold t3
    exact engineWrite_steady (hl.sub (by decide)) _ _ _ _ (by assumption)
  clear_value t3
  exact Steady.upd (m := 0x4000) (hl.sub (by decide))
    (by intro x; cases x <;> first | exact fun _ => rfl | exact fun h => absurd h (by decide)) (by assumption) rfl rfl rfl

theorem densityDone_steady {l : Nat} {s0 : State} (hl : Covers 0x6504 l) (x0 : Desc) (s : State) (h0 : Steady l s0
    s) :
    Steady l s0 (densityDone x0 s) := by
  unfold densityDone
  refine completeUnarmed_steady (hl.sub (by decide)) _ _ _ ?_
  refine setQueue_steady (hl.sub (by decide)) _ _ ?_
  exact unlockStream_steady (hl.sub (by decide)) _ _ (by assumption)

theorem densityRows_steady {l : Nat} {s0 : State} (hl : Covers 0x186506 l) (s : State) (h0 : Steady l s0 s) :
    Steady l s0 (densityRows s) := by
  unfold densityRows
  split
  · assumption
  · extract_lets +onlyGivenNames t1
    clear_value t1
    extract_lets +onlyGivenNames t2
    clear_value t2
    extract_lets +onlyGivenNames t3
    clear_value t3
    extract_lets +onlyGivenNames t4
    refine Steady.cut (t := t4) ?_ (fun ht4 => ?_)
    · unfold t4
      refine Steady.foldl _ ?_ (fun _ _ _ => ?_)
      · assumption
      · refine writeDensity_steady (hl.sub (by decide)) _ _ _ ?_
        assumption
    clear_value t4
    refine Steady.ite ?_ ?_
    · assumption
    · extract_lets +onlyGivenNames t5
      refine Steady.cut (t := t5) ?_ (fun ht5 => ?_)
      · unfold t5
        exact dropPre_steady (hl.sub (by decide)) _ (by assumption)
      clear_value t5
      split
      · refine densityDone_steady (hl.sub (by decide)) _ _ ?_
        assumption
      · assumption

theorem finishSegment_steady {l : Nat} {s0 : State} (hl : Covers 0x6001a6506 l) (x0 : Bool) (x1 : Nat) (x2 : List
    (Nat × Nat)) (s : State) (h0 : Steady l s0 s) :
    Steady l s0 (finishSegment x0 x1 x2 s) := by
  unfold finishSegment
  split
  · assumption
  · extract_lets +onlyGivenNames t1
    clear_value t1
    extract_lets +onlyGivenNames t2
    clear_value t2
    refine Steady.ite ?_ ?_
    · assumption
    · split
      · rename_i t3 heq3
        have hk3 := congrArg Prod.snd heq3
        dsimp only at hk3
        refine Steady.cut (t := t3) ?_ (fun ht3 => ?_)
        · rw [← hk3]
          exact loadSegs_steady (hl.sub (by decide)) _ _ _ _ (by assumption)
        clear heq3 hk3
        assumption
      · rename_i t4 heq4
        have hk4 := congrArg Prod.snd heq4
        dsimp only at hk4
        refine Steady.cut (t := t4) ?_ (fun ht4 => ?_)
        · rw [← hk4]
          exact loadSegs_steady (hl.sub (by decide)) _ _ _ _ (by assumption)
        clear heq4 hk4
        split
        · assumption
        · refine Steady.ite ?_ ?_
          · assumption
          · extract_lets +onlyGivenNames t5
            clear_value t5
            extract_lets +onlyGivenNames t6
            clear_value t6
            extract_lets +onlyGivenNames t7
            clear_value t7
            extract_lets +onlyGivenNames t8
            clear_value t8
            refine Steady.ite ?_ ?_
            · extract_lets +onlyGivenNames t9
              refine Steady.cut (t := t9) ?_ (fun ht9 => ?_)
              · unfold t9
                exact setWork_steady (hl.sub (by decide)) _ _ _ (by assumption)
              clear_value t9
              extract_lets +onlyGivenNames t10
              refine Steady.cut (t := t10) ?_ (fun ht10 => ?_)
              · unfold t10
                refine Steady.ite ?_ ?_
                · assumption
                · refine withCounts_steady (hl.sub (by decide)) _ _ ?_
                  assumption
              clear_value t10
              refine densityRows_steady (hl.sub (by decide)) _ ?_
              exact auditLive_steady (hl.sub (by decide)) _ _ _ _ _ _ _ _ _ (by assumption)
            · extract_lets +onlyGivenNames t11
              clear_value t11
              extract_lets +onlyGivenNames t12
              refine Steady.cut (t := t12) ?_ (fun ht12 => ?_)
              · unfold t12
                refine setWork_steady (hl.sub (by decide)) _ _ _ ?_
                exact Steady.upd (m := 0x4000) (hl.sub (by decide))
                  (by intro x; cases x <;> first | exact fun _ => rfl | exact fun h => absurd h (by decide)) (by assumption) rfl rfl rfl
              clear_value t12
              extract_lets +onlyGivenNames t13
              clear_value t13
              extract_lets +onlyGivenNames t14
              refine Steady.cut (t := t14) ?_ (fun ht14 => ?_)
              · unfold t14
                exact Steady.upd (m := 0x4000) (hl.sub (by decide))
                  (by intro x; cases x <;> first | exact fun _ => rfl | exact fun h => absurd h (by decide)) (by assumption) rfl rfl rfl
              clear_value t14
              extract_lets +onlyGivenNames t15
              refine Steady.cut (t := t15) ?_ (fun ht15 => ?_)
              · unfold t15
                refine Steady.ite ?_ ?_
                · refine withCounts_steady (hl.sub (by decide)) _ _ ?_
                  assumption
                · assumption
              clear_value t15
              exact auditLive_steady (hl.sub (by decide)) _ _ _ _ _ _ _ _ _ (by assumption)

theorem harrowSegment_steady {l : Nat} {s0 : State} (hl : Covers 0x6001a6506 l) (x0 : Nat) (x1 : List (Nat × Nat))
    (s : State) (h0 : Steady l s0 s) :
    Steady l s0 (harrowSegment x0 x1 s) := by
  unfold harrowSegment
  extract_lets +onlyGivenNames t1
  clear_value t1
  refine Steady.ite ?_ ?_
  · extract_lets +onlyGivenNames t2
    clear_value t2
    refine Steady.ite ?_ ?_
    · assumption
    · extract_lets +onlyGivenNames t3
      clear_value t3
      exact finishSegment_steady (hl.sub (by decide)) _ _ _ _ (by assumption)
  · refine Steady.ite ?_ ?_
    · split
      · assumption
      · refine auditorDone_steady (hl.sub (by decide)) _ _ _ ?_
        assumption
    · assumption

theorem mapsClear_steady {l : Nat} {s0 : State} (hl : Covers 0x4004 l) (s : State) (h0 : Steady l s0 s) :
    Steady l s0 (mapsClear s) := by
  unfold mapsClear
  refine dropPre_steady (hl.sub (by decide)) _ ?_
  exact Steady.upd (m := 0x4000) (hl.sub (by decide))
    (by intro x; cases x <;> first | exact fun _ => rfl | exact fun h => absurd h (by decide)) (by assumption) rfl rfl rfl

theorem preBegin_steady {l : Nat} {s0 : State} (hl : Covers 0x4004 l) (x0 : Desc) (x1 : StreamInfo) (s : State) (h0
    : Steady l s0 s) :
    Steady l s0 (preBegin x0 x1 s) := by
  unfold preBegin
  extract_lets +onlyGivenNames t1
  clear_value t1
  extract_lets +onlyGivenNames t2
  clear_value t2
  split
  · assumption
  · extract_lets +onlyGivenNames t3
    clear_value t3
    extract_lets +onlyGivenNames t4
    clear_value t4
    extract_lets +onlyGivenNames t5
    refine Steady.cut (t := t5) ?_ (fun ht5 => ?_)
    · unfold t5
      exact dropPre_steady (hl.sub (by decide)) _ (by assumption)
    clear_value t5
    refine startTileUnit_steady (hl.sub (by decide)) _ _ ?_
    exact Steady.upd (m := 0x4000) (hl.sub (by decide))
      (by intro x; cases x <;> first | exact fun _ => rfl | exact fun h => absurd h (by decide)) (by assumption) rfl rfl rfl

theorem jobBegins_steady {l : Nat} {s0 : State} (hl : Covers 0x4004 l) (x0 : Desc) (s : State) (h0 : Steady l s0 s) :
    Steady l s0 (jobBegins x0 s) := by
  unfold jobBegins
  refine Steady.ite ?_ ?_
  · assumption
  · refine mapsClear_steady (hl.sub (by decide)) _ ?_
    exact Steady.upd (m := 0x4000) (hl.sub (by decide))
      (by intro x; cases x <;> first | exact fun _ => rfl | exact fun h => absurd h (by decide)) (by assumption) rfl rfl rfl

theorem preRunStart_steady {l : Nat} {s0 : State} (hl : Covers 0x4004 l) (s : State) (h0 : Steady l s0 s) :
    Steady l s0 (preRunStart s) := by
  unfold preRunStart
  split
  · assumption
  · extract_lets +onlyGivenNames t1
    refine Steady.cut (t := t1) ?_ (fun ht1 => ?_)
    · unfold t1
      exact jobBegins_steady (hl.sub (by decide)) _ _ (by assumption)
    clear_value t1
    refine Steady.ite ?_ ?_
    · assumption
    · extract_lets +onlyGivenNames t2
      clear_value t2
      split
      · assumption
      · split
        · extract_lets +onlyGivenNames t3
          clear_value t3
          refine Steady.ite ?_ ?_
          · refine preBegin_steady (hl.sub (by decide)) _ _ _ ?_
            assumption
          · assumption
        · assumption

theorem prepassStart_steady {l : Nat} {s0 : State} (hl : Covers 0x4004 l) (s : State) (h0 : Steady l s0 s) :
    Steady l s0 (prepassStart s) := by
  unfold prepassStart
  split
  · assumption
  · refine Steady.ite ?_ ?_
    · assumption
    · split
      · assumption
      · split
        · refine Steady.ite ?_ ?_
          · refine preBegin_steady (hl.sub (by decide)) _ _ _ ?_
            assumption
          · assumption
        · assumption

theorem prepassResume_steady {l : Nat} {s0 : State} (hl : Covers 0x4004 l) (s : State) (h0 : Steady l s0 s) :
    Steady l s0 (prepassResume s) := by
  unfold prepassResume
  split
  · refine startTileUnit_steady (hl.sub (by decide)) _ _ ?_
    exact Steady.upd (m := 0x4000) (hl.sub (by decide))
      (by intro x; cases x <;> first | exact fun _ => rfl | exact fun h => absurd h (by decide)) (by assumption) rfl rfl rfl
  · refine prepassStart_steady (hl.sub (by decide)) _ ?_
    assumption

theorem densityRow_steady {l : Nat} {s0 : State} (hl : Covers 0x600186106 l) (x0 : Desc) (x1 : Nat) (x2 : Nat) (s :
    State) (h0 : Steady l s0 s) :
    Steady l s0 (densityRow x0 x1 x2 s).2 := by
  unfold densityRow
  refine Steady.ite_snd ?_ ?_
  · refine Steady.pair ?_
    assumption
  · split
    · refine Steady.pair ?_
      assumption
    · split
      · refine Steady.pair ?_
        assumption
      · split
        rename_i t1 heq1
        have hk1 := congrArg Prod.snd heq1
        dsimp only at hk1
        refine Steady.cut (t := t1) ?_ (fun ht1 => ?_)
        · rw [← hk1]
          exact memRead_steady (hl.sub (by decide)) _ _ _ _ (by assumption)
        clear heq1 hk1
        refine Steady.ite_snd ?_ ?_
        · extract_lets +onlyGivenNames t2
          extract_lets +onlyGivenNames t3
          refine Steady.cut (t := t3) ?_ (fun ht3 => ?_)
          · unfold t3
            exact Steady.upd (m := 0x4000) (hl.sub (by decide))
              (by intro x; cases x <;> first | exact fun _ => rfl | exact fun h => absurd h (by decide)) (by assumption) rfl rfl rfl
          extract_lets +onlyGivenNames t4
          refine Steady.cut (t := t4) ?_ (fun ht4 => ?_)
          · unfold t4
            refine Steady.ite ?_ ?_
            · refine dropPre_steady (hl.sub (by decide)) _ ?_
              assumption
            · assumption
          clear_value t4
          refine Steady.pair ?_
          exact dueCause_steady (hl.sub (by decide)) _ _ (by assumption)
        · extract_lets +onlyGivenNames t5
          clear_value t5
          refine Steady.pair ?_
          exact Steady.upd (m := 0x4000) (hl.sub (by decide))
            (by intro x; cases x <;> first | exact fun _ => rfl | exact fun h => absurd h (by decide)) (by assumption) rfl rfl rfl

theorem windowRows_steady {l : Nat} {s0 : State} (hl : Covers 0x600186106 l) (x0 : Desc) (x1 : Nat) (x2 : Nat) (s :
    State) (h0 : Steady l s0 s) :
    Steady l s0 (windowRows x0 x1 x2 s).2 := by
  induction x1 generalizing x0 x2 s
  · unfold windowRows
    refine Steady.pair ?_
    assumption
  · rename_i n ih
    unfold windowRows
    split
    rename_i t1 heq1
    have hk1 := congrArg Prod.snd heq1
    dsimp only at hk1
    refine Steady.cut (t := t1) ?_ (fun ht1 => ?_)
    · rw [← hk1]
      exact densityRow_steady (hl.sub (by decide)) _ _ _ _ (by assumption)
    clear heq1 hk1
    split
    rename_i t2 heq2
    have hk2 := congrArg Prod.snd heq2
    dsimp only at hk2
    refine Steady.cut (t := t2) ?_ (fun ht2 => ?_)
    · rw [← hk2]
      exact densityRow_steady (hl.sub (by decide)) _ _ _ _ (by assumption)
    clear heq2 hk2
    split
    rename_i t3 heq3
    have hk3 := congrArg Prod.snd heq3
    dsimp only at hk3
    refine Steady.cut (t := t3) ?_ (fun ht3 => ?_)
    · rw [← hk3]
      exact densityRow_steady (hl.sub (by decide)) _ _ _ _ (by assumption)
    clear heq3 hk3
    refine Steady.ite_snd ?_ ?_
    · refine Steady.pair ?_
      assumption
    · split
      rename_i t4 heq4
      have hk4 := congrArg Prod.snd heq4
      dsimp only at hk4
      refine Steady.cut (t := t4) ?_ (fun ht4 => ?_)
      · rw [← hk4]
        refine ih _ _ _ ?_
        assumption
      clear heq4 hk4
      refine Steady.pair ?_
      assumption

theorem multRow_steady {l : Nat} {s0 : State} (hl : Covers 0x600186106 l) (x0 : Nat) (s : State) (h0 : Steady l s0
    s) :
    Steady l s0 (multRow x0 s) := by
  unfold multRow
  split
  · extract_lets +onlyGivenNames t1
    clear_value t1
    refine Steady.ite ?_ ?_
    · refine Steady.upd (m := 0x4000) (hl.sub (by decide)) (by intro x; cases x <;> first | exact fun _ => rfl | exact fun h => absurd h (by decide)) ?_ ?_ ?_ ?_
      · assumption
      · exact rfl
      · exact rfl
      · exact rfl
    · refine Steady.ite ?_ ?_
      · assumption
      · extract_lets +onlyGivenNames t2
        clear_value t2
        extract_lets +onlyGivenNames t3
        clear_value t3
        split
        rename_i t4 heq4
        have hk4 := congrArg Prod.snd heq4
        dsimp only at hk4
        refine Steady.cut (t := t4) ?_ (fun ht4 => ?_)
        · rw [← hk4]
          exact windowRows_steady (hl.sub (by decide)) _ _ _ _ (by assumption)
        clear heq4 hk4
        refine Steady.ite ?_ ?_
        · assumption
        · extract_lets +onlyGivenNames t5
          clear_value t5
          extract_lets +onlyGivenNames t6
          clear_value t6
          extract_lets +onlyGivenNames t7
          clear_value t7
          extract_lets +onlyGivenNames t8
          refine Steady.cut (t := t8) ?_ (fun ht8 => ?_)
          · unfold t8
            exact Steady.upd (m := 0x4000) (hl.sub (by decide))
              (by intro x; cases x <;> first | exact fun _ => rfl | exact fun h => absurd h (by decide)) (by assumption) rfl rfl rfl
          clear_value t8
          refine Steady.ite ?_ ?_
          · assumption
          · extract_lets +onlyGivenNames t9
            clear_value t9
            extract_lets +onlyGivenNames t10
            refine Steady.cut (t := t10) ?_ (fun ht10 => ?_)
            · unfold t10
              exact Steady.upd (m := 0x4000) (hl.sub (by decide))
                (by intro x; cases x <;> first | exact fun _ => rfl | exact fun h => absurd h (by decide)) (by assumption) rfl rfl rfl
            clear_value t10
            exact withCounts_steady (hl.sub (by decide)) _ _ (by assumption)
  · assumption

theorem lookSample_steady {l : Nat} {s0 : State} (hl : Covers 0x4000 l) (s : State) (h0 : Steady l s0 s) :
    Steady l s0 (lookSample s) := by
  unfold lookSample
  split
  · refine Steady.ite ?_ ?_
    · assumption
    · refine withCounts_steady (hl.sub (by decide)) _ _ ?_
      assumption
  · assumption

theorem captureRow_steady {l : Nat} {s0 : State} (hl : Covers 0x184106 l) (x0 : Nat) (x1 : List Nat) (x2 : List Nat)
    (s : State) (h0 : Steady l s0 s) :
    Steady l s0 (captureRow x0 x1 x2 s) := by
  unfold captureRow
  split
  · refine Steady.ite ?_ ?_
    · assumption
    · extract_lets +onlyGivenNames t1
      clear_value t1
      extract_lets +onlyGivenNames t2
      clear_value t2
      extract_lets +onlyGivenNames t3
      refine Steady.cut (t := t3) ?_ (fun ht3 => ?_)
      · unfold t3
        refine Steady.foldl _ ?_ (fun _ _ _ => ?_)
        · assumption
        · refine engineWrite_steady (hl.sub (by decide)) _ _ _ _ ?_
          assumption
      clear_value t3
      extract_lets +onlyGivenNames t4
      refine Steady.ite ?_ ?_
      · refine Steady.upd (m := 0x4000) (hl.sub (by decide)) (by intro x; cases x <;> first | exact fun _ => rfl | exact fun h => absurd h (by decide)) ?_ ?_ ?_ ?_
        · assumption
        · exact rfl
        · exact rfl
        · exact rfl
      · extract_lets +onlyGivenNames t5
        refine Steady.cut (t := t5) ?_ (fun ht5 => ?_)
        · unfold t5
          exact engineWrite_steady (hl.sub (by decide)) _ _ _ _ (by assumption)
        clear_value t5
        refine raise_steady (hl.sub (by decide)) _ _ ?_
        refine State_set_steady (hl.sub (by decide)) _ _ _ ?_
        exact Steady.upd (m := 0x4000) (hl.sub (by decide))
          (by intro x; cases x <;> first | exact fun _ => rfl | exact fun h => absurd h (by decide)) (by assumption) rfl rfl rfl
  · assumption

theorem captureAbandon_steady {l : Nat} {s0 : State} (hl : Covers 0x184106 l) (x0 : Desc) (s : State) (h0 : Steady l
    s0 s) :
    Steady l s0 (captureAbandon x0 s) := by
  unfold captureAbandon
  split
  · refine Steady.ite ?_ ?_
    · extract_lets +onlyGivenNames t1
      refine Steady.cut (t := t1) ?_ (fun ht1 => ?_)
      · unfold t1
        exact engineWrite_steady (hl.sub (by decide)) _ _ _ _ (by assumption)
      clear_value t1
      refine raise_steady (hl.sub (by decide)) _ _ ?_
      refine State_set_steady (hl.sub (by decide)) _ _ _ ?_
      exact Steady.upd (m := 0x4000) (hl.sub (by decide))
        (by intro x; cases x <;> first | exact fun _ => rfl | exact fun h => absurd h (by decide)) (by assumption) rfl rfl rfl
    · assumption
  · assumption

theorem captureStart_steady {l : Nat} {s0 : State} (hl : Covers 0x4004 l) (x0 : Desc) (x1 : StreamInfo) (s : State)
    (h0 : Steady l s0 s) :
    Steady l s0 (captureStart x0 x1 s) := by
  unfold captureStart
  refine Steady.ite ?_ ?_
  · assumption
  · extract_lets +onlyGivenNames t1
    refine Steady.cut (t := t1) ?_ (fun ht1 => ?_)
    · unfold t1
      exact State_set_steady (hl.sub (by decide)) _ _ _ (by assumption)
    clear_value t1
    extract_lets +onlyGivenNames t2
    refine Steady.cut (t := t2) ?_ (fun ht2 => ?_)
    · unfold t2
      refine State_set_steady (hl.sub (by decide)) _ _ _ ?_
      exact State_set_steady (hl.sub (by decide)) _ _ _ (by assumption)
    clear_value t2
    extract_lets +onlyGivenNames t3
    clear_value t3
    extract_lets +onlyGivenNames t4
    clear_value t4
    extract_lets +onlyGivenNames t5
    clear_value t5
    refine Steady.ite ?_ ?_
    · refine State_set_steady (hl.sub (by decide)) _ _ _ ?_
      assumption
    · refine Steady.ite ?_ ?_
      · refine State_set_steady (hl.sub (by decide)) _ _ _ ?_
        assumption
      · extract_lets +onlyGivenNames t6
        refine Steady.cut (t := t6) ?_ (fun ht6 => ?_)
        · unfold t6
          exact State_set_steady (hl.sub (by decide)) _ _ _ (by assumption)
        clear_value t6
        exact Steady.upd (m := 0x4000) (hl.sub (by decide))
          (by intro x; cases x <;> first | exact fun _ => rfl | exact fun h => absurd h (by decide)) (by assumption) rfl rfl rfl

end Sys2Proof.Machine
end

