-- ==== Sys2Proof/Laws/Steady06.lean ====
section
/-! SUPPORT. What the operations of Sow, Repair keep (Laws/Steady.lean). -/

set_option linter.unusedVariables false
set_option maxRecDepth 4000

namespace Sys2Proof.Machine

theorem releaseRows_steady {l : Nat} {s0 : State} (hl : Covers 0x4000 l) (s : State) (h0 : Steady l s0 s) :
    Steady l s0 (releaseRows s) := by
  unfold releaseRows
  split
  · assumption
  · extract_lets +onlyGivenNames t1
    clear_value t1
    exact Steady.upd (m := 0x4000) (hl.sub (by decide))
      (by intro x; cases x <;> first | exact fun _ => rfl | exact fun h => absurd h (by decide)) (by assumption) rfl rfl rfl

theorem rowFlags_steady {l : Nat} {s0 : State} (hl : Covers 0x4000 l) (x0 : Desc) (x1 : Run) (x2 : Nat) (x3 : List
    Nat) (s : State) (h0 : Steady l s0 s) :
    Steady l s0 (rowFlags x0 x1 x2 x3 s) := by
  unfold rowFlags
  extract_lets +onlyGivenNames t1
  clear_value t1
  extract_lets +onlyGivenNames t2
  clear_value t2
  extract_lets +onlyGivenNames t3
  clear_value t3
  exact withCounts_steady (hl.sub (by decide)) _ _ (by assumption)

theorem fwWrite_steady {l : Nat} {s0 : State} (hl : Covers 0x80004 l) (x0 : Nat) (s : State) (h0 : Steady l s0 s) :
    Steady l s0 (fwWrite x0 s) := by
  unfold fwWrite
  extract_lets +onlyGivenNames t1
  clear_value t1
  extract_lets +onlyGivenNames t2
  extract_lets +onlyGivenNames t3
  refine Steady.cut (t := t3) ?_ (fun ht3 => ?_)
  · unfold t3
    exact Steady.upd (m := 0x80000) (hl.sub (by decide))
      (by intro x; cases x <;> first | exact fun _ => rfl | exact fun h => absurd h (by decide)) (by assumption) rfl rfl rfl
  clear_value t3
  extract_lets +onlyGivenNames t4
  clear_value t4
  refine Steady.ite ?_ ?_
  · extract_lets +onlyGivenNames t5
    clear_value t5
    refine State_set_steady (hl.sub (by decide)) _ _ _ ?_
    exact Steady.upd (m := 0x80000) (hl.sub (by decide))
      (by intro x; cases x <;> first | exact fun _ => rfl | exact fun h => absurd h (by decide)) (by assumption) rfl rfl rfl
  · assumption

theorem fwBad_steady {l : Nat} {s0 : State} (hl : Covers 0x600106106 l) (x0 : Nat) (s : State) (h0 : Steady l s0 s) :
    Steady l s0 (fwBad x0 s) := by
  unfold fwBad
  extract_lets +onlyGivenNames t1
  refine Steady.cut (t := t1) ?_ (fun ht1 => ?_)
  · unfold t1
    refine tallyEcc_steady (hl.sub (by decide)) _ _ _ ?_
    exact State_inc_steady (hl.sub (by decide)) _ _ _ (by assumption)
  clear_value t1
  extract_lets +onlyGivenNames t2
  refine Steady.cut (t := t2) ?_ (fun ht2 => ?_)
  · unfold t2
    refine State_set_steady (hl.sub (by decide)) _ _ _ ?_
    refine State_set_steady (hl.sub (by decide)) _ _ _ ?_
    refine State_set_steady (hl.sub (by decide)) _ _ _ ?_
    exact State_set_steady (hl.sub (by decide)) _ _ _ (by assumption)
  clear_value t2
  refine dueCause_steady (hl.sub (by decide)) _ _ ?_
  refine raise_steady (hl.sub (by decide)) _ _ ?_
  exact event_steady (hl.sub (by decide)) _ _ _ (by assumption)

theorem fwMiscorrect_steady {l : Nat} {s0 : State} (hl : Covers 0x84000 l) (x0 : Nat) (x1 : Nat) (s : State) (h0 :
    Steady l s0 s) :
    Steady l s0 (fwMiscorrect x0 x1 s) := by
  unfold fwMiscorrect
  exact Steady.upd (m := 0x84000) (hl.sub (by decide))
    (by intro x; cases x <;> first | exact fun _ => rfl | exact fun h => absurd h (by decide)) (by assumption) rfl rfl rfl

theorem fwFixed_steady {l : Nat} {s0 : State} (hl : Covers 0x100004 l) (s : State) (h0 : Steady l s0 s) :
    Steady l s0 (fwFixed s) := by
  unfold fwFixed
  refine tallyEcc_steady (hl.sub (by decide)) _ _ _ ?_
  exact State_inc_steady (hl.sub (by decide)) _ _ _ (by assumption)

theorem fwWord_steady {l : Nat} {s0 : State} (hl : Covers 0x600186106 l) (x0 : Bool) (x1 : Nat) (x2 : Nat) (s :
    State) (h0 : Steady l s0 s) :
    Steady l s0 (fwWord x0 x1 x2 s) := by
  unfold fwWord
  split
  · assumption
  · extract_lets +onlyGivenNames t1
    extract_lets +onlyGivenNames t2
    refine Steady.cut (t := t2) ?_ (fun ht2 => ?_)
    · unfold t2
      refine Steady.ite ?_ ?_
      · refine Steady.upd (m := 0x80000) (hl.sub (by decide)) (by intro x; cases x <;> first | exact fun _ => rfl | exact fun h => absurd h (by decide)) ?_ ?_ ?_ ?_
        · assumption
        · exact rfl
        · exact rfl
        · exact rfl
      · assumption
    clear_value t2
    exact fwFixed_steady (hl.sub (by decide)) _ (by assumption)
  · refine fwBad_steady (hl.sub (by decide)) _ _ ?_
    assumption
  · split
    rename_i t3 heq3
    have hk3 := congrArg Prod.snd heq3
    dsimp only at hk3
    refine Steady.cut (t := t3) ?_ (fun ht3 => ?_)
    · rw [← hk3]
      exact State_fresh_steady (hl.sub (by decide)) _ (by assumption)
    clear heq3 hk3
    refine Steady.ite ?_ ?_
    · refine fwBad_steady (hl.sub (by decide)) _ _ ?_
      assumption
    · refine fwFixed_steady (hl.sub (by decide)) _ ?_
      exact fwMiscorrect_steady (hl.sub (by decide)) _ _ _ (by assumption)

theorem fwRead_steady {l : Nat} {s0 : State} (hl : Covers 0x600186106 l) (x0 : Nat) (x1 : Nat) (s : State) (h0 :
    Steady l s0 s) :
    Steady l s0 (fwRead x0 x1 s) := by
  unfold fwRead
  refine Steady.foldl _ ?_ (fun _ _ _ => ?_)
  · assumption
  · extract_lets +onlyGivenNames t1
    clear_value t1
    refine Steady.ite ?_ ?_
    · refine fwWord_steady (hl.sub (by decide)) _ _ _ _ ?_
      assumption
    · assumption

theorem rowConvert_steady {l : Nat} {s0 : State} (hl : Covers 0x184106 l) (x0 : Nat) (s : State) (h0 : Steady l s0
    s) :
    Steady l s0 (rowConvert x0 s) := by
  unfold rowConvert
  split
  · split
    extract_lets +onlyGivenNames t1
    clear_value t1
    extract_lets +onlyGivenNames t2
    clear_value t2
    extract_lets +onlyGivenNames t3
    clear_value t3
    refine Steady.ite ?_ ?_
    · assumption
    · extract_lets +onlyGivenNames t4
      clear_value t4
      extract_lets +onlyGivenNames t5
      clear_value t5
      extract_lets +onlyGivenNames t6
      clear_value t6
      extract_lets +onlyGivenNames t7
      refine Steady.cut (t := t7) ?_ (fun ht7 => ?_)
      · unfold t7
        exact Steady.upd (m := 0x4000) (hl.sub (by decide))
          (by intro x; cases x <;> first | exact fun _ => rfl | exact fun h => absurd h (by decide)) (by assumption) rfl rfl rfl
      clear_value t7
      extract_lets +onlyGivenNames t8
      refine Steady.cut (t := t8) ?_ (fun ht8 => ?_)
      · unfold t8
        exact fwWrite_steady (hl.sub (by decide)) _ _ (by assumption)
      clear_value t8
      refine Steady.ite ?_ ?_
      · assumption
      · extract_lets +onlyGivenNames t9
        clear_value t9
        extract_lets +onlyGivenNames t10
        refine Steady.cut (t := t10) ?_ (fun ht10 => ?_)
        · unfold t10
          exact Steady.upd (m := 0x4000) (hl.sub (by decide))
            (by intro x; cases x <;> first | exact fun _ => rfl | exact fun h => absurd h (by decide)) (by assumption) rfl rfl rfl
        clear_value t10
        refine captureRow_steady (hl.sub (by decide)) _ _ _ _ ?_
        exact rowFlags_steady (hl.sub (by decide)) _ _ _ _ _ (by assumption)
  · assumption

theorem heatUpdate_steady {l : Nat} {s0 : State} (hl : Covers 0x4000 l) (x0 : Nat) (x1 : Nat) (s : State) (h0 :
    Steady l s0 s) :
    Steady l s0 (heatUpdate x0 x1 s) := by
  unfold heatUpdate
  refine Steady.ite ?_ ?_
  · refine Steady.upd (m := 0x4000) (hl.sub (by decide)) (by intro x; cases x <;> first | exact fun _ => rfl | exact fun h => absurd h (by decide)) ?_ ?_ ?_ ?_
    · assumption
    · exact rfl
    · exact rfl
    · exact rfl
  · extract_lets +onlyGivenNames t1
    clear_value t1
    extract_lets +onlyGivenNames t2
    clear_value t2
    extract_lets +onlyGivenNames t3
    clear_value t3
    extract_lets +onlyGivenNames t4
    clear_value t4
    extract_lets +onlyGivenNames t5
    clear_value t5
    extract_lets +onlyGivenNames t6
    clear_value t6
    extract_lets +onlyGivenNames t7
    clear_value t7
    extract_lets +onlyGivenNames t8
    clear_value t8
    extract_lets +onlyGivenNames t9
    refine Steady.cut (t := t9) ?_ (fun ht9 => ?_)
    · unfold t9
      exact Steady.upd (m := 0x4000) (hl.sub (by decide))
        (by intro x; cases x <;> first | exact fun _ => rfl | exact fun h => absurd h (by decide)) (by assumption) rfl rfl rfl
    clear_value t9
    refine Steady.ite ?_ ?_
    · refine withCounts_steady (hl.sub (by decide)) _ _ ?_
      assumption
    · assumption

theorem pauseHeat_steady {l : Nat} {s0 : State} (hl : Covers 0x4000 l) (x0 : Bool) (x1 : Nat) (s : State) (h0 :
    Steady l s0 s) :
    Steady l s0 (pauseHeat x0 x1 s) := by
  unfold pauseHeat
  refine Steady.ite ?_ ?_
  · refine Steady.upd (m := 0x4000) (hl.sub (by decide)) (by intro x; cases x <;> first | exact fun _ => rfl | exact fun h => absurd h (by decide)) ?_ ?_ ?_ ?_
    · assumption
    · exact rfl
    · exact rfl
    · exact rfl
  · refine Steady.ite ?_ ?_
    · assumption
    · extract_lets +onlyGivenNames t1
      clear_value t1
      exact Steady.upd (m := 0x4000) (hl.sub (by decide))
        (by intro x; cases x <;> first | exact fun _ => rfl | exact fun h => absurd h (by decide)) (by assumption) rfl rfl rfl

theorem captureCheckpoint_steady {l : Nat} {s0 : State} (hl : Covers 0x82000 l) (x0 : Nat) (x1 : Run) (s : State)
    (h0 : Steady l s0 s) :
    Steady l s0 (captureCheckpoint x0 x1 s) := by
  unfold captureCheckpoint
  split
  · assumption
  · extract_lets +onlyGivenNames t1
    clear_value t1
    extract_lets +onlyGivenNames t2
    clear_value t2
    extract_lets +onlyGivenNames t3
    clear_value t3
    extract_lets +onlyGivenNames t4
    clear_value t4
    extract_lets +onlyGivenNames t5
    clear_value t5
    extract_lets +onlyGivenNames t6
    clear_value t6
    extract_lets +onlyGivenNames t7
    clear_value t7
    extract_lets +onlyGivenNames t8
    clear_value t8
    extract_lets +onlyGivenNames t9
    clear_value t9
    extract_lets +onlyGivenNames t10
    refine Steady.cut (t := t10) ?_ (fun ht10 => ?_)
    · unfold t10
      exact setRun_steady (hl.sub (by decide)) _ _ (by assumption)
    clear_value t10
    exact Steady.upd (m := 0x82000) (hl.sub (by decide))
      (by intro x; cases x <;> first | exact fun _ => rfl | exact fun h => absurd h (by decide)) (by assumption) rfl rfl rfl

theorem accountResume_steady {l : Nat} {s0 : State} (hl : Covers 0x184106 l) (x0 : Nat) (x1 : Run) (s : State) (h0 :
    Steady l s0 s) :
    Steady l s0 (accountResume x0 x1 s).2 := by
  unfold accountResume
  extract_lets +onlyGivenNames t1
  clear_value t1
  extract_lets +onlyGivenNames t2
  clear_value t2
  extract_lets +onlyGivenNames t3
  clear_value t3
  extract_lets +onlyGivenNames t4
  clear_value t4
  extract_lets +onlyGivenNames t5
  clear_value t5
  extract_lets +onlyGivenNames t6
  clear_value t6
  extract_lets +onlyGivenNames t7
  clear_value t7
  extract_lets +onlyGivenNames t8
  clear_value t8
  extract_lets +onlyGivenNames t9
  clear_value t9
  extract_lets +onlyGivenNames t10
  refine Steady.cut (t := t10) ?_ (fun ht10 => ?_)
  · unfold t10
    exact engineWrite_steady (hl.sub (by decide)) _ _ _ _ (by assumption)
  clear_value t10
  extract_lets +onlyGivenNames t11
  refine Steady.cut (t := t11) ?_ (fun ht11 => ?_)
  · unfold t11
    exact event_steady (hl.sub (by decide)) _ _ _ (by assumption)
  clear_value t11
  refine Steady.pair ?_
  refine withCounts_steady (hl.sub (by decide)) _ _ ?_
  exact pauseHeat_steady (hl.sub (by decide)) _ _ _ (by assumption)

theorem reachShot_steady {l : Nat} {s0 : State} (hl : Covers 0x6001a6106 l) (x0 : Nat) (s : State) (h0 : Steady l s0
    s) :
    Steady l s0 (reachShot x0 s) := by
  unfold reachShot
  split
  · assumption
  · extract_lets +onlyGivenNames t1
    refine Steady.cut (t := t1) ?_ (fun ht1 => ?_)
    · unfold t1
      exact applySliceSwaps_steady (hl.sub (by decide)) _ _ (by assumption)
    clear_value t1
    extract_lets +onlyGivenNames t2
    refine Steady.cut (t := t2) ?_ (fun ht2 => ?_)
    · unfold t2
      refine Steady.ite ?_ ?_
      · refine Steady.ite ?_ ?_
        · refine captureCheckpoint_steady (hl.sub (by decide)) _ _ _ ?_
          assumption
        · assumption
      · assumption
    clear_value t2
    split
    · assumption
    · split
      rename_i t3 heq3
      have hk3 := congrArg Prod.snd heq3
      dsimp only at hk3
      refine Steady.cut (t := t3) ?_ (fun ht3 => ?_)
      · rw [← hk3]
        refine Steady.ite_snd ?_ ?_
        · refine accountResume_steady (hl.sub (by decide)) _ _ _ ?_
          assumption
        · split
          · refine Steady.pair ?_
            exact pauseHeat_steady (hl.sub (by decide)) _ _ _ (by assumption)
          · refine Steady.pair ?_
            assumption
      clear heq3 hk3
      exact setRun_steady (hl.sub (by decide)) _ _ (by assumption)

theorem sowAuditShot_steady {l : Nat} {s0 : State} (hl : Covers 0x104106 l) (x0 : Nat) (x1 : Nat) (x2 : Nat) (x3 :
    List Byte) (x4 : List Byte) (s : State) (h0 : Steady l s0 s) :
    Steady l s0 (sowAuditShot x0 x1 x2 x3 x4 s) := by
  unfold sowAuditShot
  split
  · assumption
  · refine Steady.ite ?_ ?_
    · assumption
    · extract_lets +onlyGivenNames t1
      split
      · assumption
      · extract_lets +onlyGivenNames t2
        extract_lets +onlyGivenNames t3
        clear_value t3
        extract_lets +onlyGivenNames t4
        refine Steady.cut (t := t4) ?_ (fun ht4 => ?_)
        · unfold t4
          refine auditState_steady (hl.sub (by decide)) _ _ _ ?_
          refine State_set_steady (hl.sub (by decide)) _ _ _ ?_
          exact Steady.upd (m := 0x4000) (hl.sub (by decide))
            (by intro x; cases x <;> first | exact fun _ => rfl | exact fun h => absurd h (by decide)) (by assumption) rfl rfl rfl
        clear_value t4
        refine Steady.ite ?_ ?_
        · assumption
        · refine Steady.ite ?_ ?_
          · extract_lets +onlyGivenNames t5
            refine Steady.cut (t := t5) ?_ (fun ht5 => ?_)
            · unfold t5
              exact State_inc_steady (hl.sub (by decide)) _ _ _ (by assumption)
            clear_value t5
            extract_lets +onlyGivenNames t6
            clear_value t6
            extract_lets +onlyGivenNames t7
            refine Steady.cut (t := t7) ?_ (fun ht7 => ?_)
            · unfold t7
              split
              · refine auditPlace_steady (hl.sub (by decide)) _ _ _ _ ?_
                assumption
              · assumption
            clear_value t7
            refine auditState_steady (hl.sub (by decide)) _ _ _ ?_
            exact Steady.upd (m := 0x4000) (hl.sub (by decide))
              (by intro x; cases x <;> first | exact fun _ => rfl | exact fun h => absurd h (by decide)) (by assumption) rfl rfl rfl
          · extract_lets +onlyGivenNames t8
            clear_value t8
            extract_lets +onlyGivenNames t9
            clear_value t9
            split
            extract_lets +onlyGivenNames t10
            refine Steady.cut (t := t10) ?_ (fun ht10 => ?_)
            · unfold t10
              exact State_wr_steady (hl.sub (by decide)) _ _ _ (by assumption)
            clear_value t10
            extract_lets +onlyGivenNames t11
            refine Steady.cut (t := t11) ?_ (fun ht11 => ?_)
            · unfold t11
              exact State_wr_steady (hl.sub (by decide)) _ _ _ (by assumption)
            clear_value t11
            extract_lets +onlyGivenNames t12
            refine Steady.cut (t := t12) ?_ (fun ht12 => ?_)
            · unfold t12
              exact State_wr_steady (hl.sub (by decide)) _ _ _ (by assumption)
            clear_value t12
            extract_lets +onlyGivenNames t13
            refine Steady.cut (t := t13) ?_ (fun ht13 => ?_)
            · unfold t13
              refine raise_steady (hl.sub (by decide)) _ _ ?_
              exact event_steady (hl.sub (by decide)) _ _ _ (by assumption)
            clear_value t13
            refine auditState_steady (hl.sub (by decide)) _ _ _ ?_
            exact Steady.upd (m := 0x4000) (hl.sub (by decide))
              (by intro x; cases x <;> first | exact fun _ => rfl | exact fun h => absurd h (by decide)) (by assumption) rfl rfl rfl

theorem sowSelfTest_steady {l : Nat} {s0 : State} (hl : Covers 0x600126106 l) (x0 : Bool) (s : State) (h0 : Steady l
    s0 s) :
    Steady l s0 (sowSelfTest x0 s) := by
  unfold sowSelfTest
  split
  · assumption
  · refine Steady.ite ?_ ?_
    · assumption
    · extract_lets +onlyGivenNames t1
      clear_value t1
      extract_lets +onlyGivenNames t2
      clear_value t2
      extract_lets +onlyGivenNames t3
      clear_value t3
      extract_lets +onlyGivenNames t4
      refine Steady.cut (t := t4) ?_ (fun ht4 => ?_)
      · unfold t4
        exact Steady.upd (m := 0x4000) (hl.sub (by decide))
          (by intro x; cases x <;> first | exact fun _ => rfl | exact fun h => absurd h (by decide)) (by assumption) rfl rfl rfl
      clear_value t4
      extract_lets +onlyGivenNames t5
      refine Steady.cut (t := t5) ?_ (fun ht5 => ?_)
      · unfold t5
        refine auditState_steady (hl.sub (by decide)) _ _ _ ?_
        exact State_set_steady (hl.sub (by decide)) _ _ _ (by assumption)
      clear_value t5
      refine Steady.ite ?_ ?_
      · refine fillSliceAuditor_steady (hl.sub (by decide)) _ ?_
        exact retireSlice_steady (hl.sub (by decide)) _ _ _ _ (by assumption)
      · refine fillSliceAuditor_steady (hl.sub (by decide)) _ ?_
        exact retireSlice_steady (hl.sub (by decide)) _ _ _ _ (by assumption)

theorem settleSwaps_steady {l : Nat} {s0 : State} (hl : Covers 0x600126106 l) (s : State) (h0 : Steady l s0 s) :
    Steady l s0 (settleSwaps s) := by
  unfold settleSwaps
  split
  · refine Steady.ite ?_ ?_
    · refine applySliceSwaps_steady (hl.sub (by decide)) _ _ ?_
      assumption
    · assumption
  · assumption

theorem guardTrip_steady {l : Nat} {s0 : State} (hl : Covers 0x600126106 l) (x0 : Nat) (x1 : Nat) (x2 : Nat) (x3 :
    List Nat) (s : State) (h0 : Steady l s0 s) :
    Steady l s0 (guardTrip x0 x1 x2 x3 s) := by
  unfold guardTrip
  refine Steady.ite ?_ ?_
  · assumption
  · extract_lets +onlyGivenNames t1
    refine Steady.cut (t := t1) ?_ (fun ht1 => ?_)
    · unfold t1
      refine Steady.foldl _ ?_ (fun _ _ _ => ?_)
      · assumption
      · refine event_steady (hl.sub (by decide)) _ _ _ ?_
        exact State_inc_steady (hl.sub (by decide)) _ _ _ (by assumption)
    clear_value t1
    refine settleSwaps_steady (hl.sub (by decide)) _ ?_
    refine dueCause_steady (hl.sub (by decide)) _ _ ?_
    exact retireSlice_steady (hl.sub (by decide)) _ _ _ _ (by assumption)

theorem sigShots_steady {l : Nat} {s0 : State} (hl : Covers 0x6000 l) (x0 : Nat) (x1 : Nat) (s : State) (h0 : Steady
    l s0 s) :
    Steady l s0 (sigShots x0 x1 s) := by
  induction x1 generalizing x0 s
  · unfold sigShots
    assumption
  · rename_i n ih
    unfold sigShots
    split
    · assumption
    · split
      split
      · refine Steady.ite ?_ ?_
        · refine ih _ _ ?_
          extract_lets +onlyGivenNames t1
          refine Steady.cut (t := t1) ?_ (fun ht1 => ?_)
          · unfold t1
            exact setRun_steady (hl.sub (by decide)) _ _ (by assumption)
          clear_value t1
          exact Steady.upd (m := 0x4000) (hl.sub (by decide))
            (by intro x; cases x <;> first | exact fun _ => rfl | exact fun h => absurd h (by decide)) (by assumption) rfl rfl rfl
        · assumption
      · assumption

theorem sigAdvance_steady {l : Nat} {s0 : State} (hl : Covers 0x6000 l) (x0 : Nat) (s : State) (h0 : Steady l s0 s) :
    Steady l s0 (sigAdvance x0 s) := by
  unfold sigAdvance
  exact sigShots_steady (hl.sub (by decide)) _ _ _ (by assumption)

theorem sowShot_steady {l : Nat} {s0 : State} (hl : Covers 0x6001a6106 l) (x0 : Nat) (x1 : List BadCode) (s : State)
    (h0 : Steady l s0 s) :
    Steady l s0 (sowShot x0 x1 s) := by
  unfold sowShot
  split
  · extract_lets +onlyGivenNames t1
    clear_value t1
    refine Steady.ite ?_ ?_
    · assumption
    · extract_lets +onlyGivenNames t2
      refine Steady.cut (t := t2) ?_ (fun ht2 => ?_)
      · unfold t2
        refine Steady.ite ?_ ?_
        · refine fwRead_steady (hl.sub (by decide)) _ _ _ ?_
          exact reachShot_steady (hl.sub (by decide)) _ _ (by assumption)
        · assumption
      clear_value t2
      extract_lets +onlyGivenNames t3
      refine Steady.cut (t := t3) ?_ (fun ht3 => ?_)
      · unfold t3
        exact applySliceSwaps_steady (hl.sub (by decide)) _ _ (by assumption)
      clear_value t3
      split
      · assumption
      · extract_lets +onlyGivenNames t4
        clear_value t4
        extract_lets +onlyGivenNames t5
        clear_value t5
        extract_lets +onlyGivenNames t6
        clear_value t6
        extract_lets +onlyGivenNames t7
        clear_value t7
        extract_lets +onlyGivenNames t8
        clear_value t8
        extract_lets +onlyGivenNames t9
        clear_value t9
        extract_lets +onlyGivenNames t10
        clear_value t10
        extract_lets +onlyGivenNames t11
        clear_value t11
        extract_lets +onlyGivenNames t12
        clear_value t12
        extract_lets +onlyGivenNames t13
        refine Steady.cut (t := t13) ?_ (fun ht13 => ?_)
        · unfold t13
          exact Steady.upd (m := 0x4000) (hl.sub (by decide))
            (by intro x; cases x <;> first | exact fun _ => rfl | exact fun h => absurd h (by decide)) (by assumption) rfl rfl rfl
        clear_value t13
        extract_lets +onlyGivenNames t14
        refine Steady.cut (t := t14) ?_ (fun ht14 => ?_)
        · unfold t14
          refine Steady.ite ?_ ?_
          · refine withCounts_steady (hl.sub (by decide)) _ _ ?_
            assumption
          · assumption
        clear_value t14
        extract_lets +onlyGivenNames t15
        clear_value t15
        extract_lets +onlyGivenNames t16
        clear_value t16
        extract_lets +onlyGivenNames t17
        clear_value t17
        extract_lets +onlyGivenNames t18
        refine Steady.cut (t := t18) ?_ (fun ht18 => ?_)
        · unfold t18
          exact setRun_steady (hl.sub (by decide)) _ _ (by assumption)
        clear_value t18
        extract_lets +onlyGivenNames t19
        clear_value t19
        extract_lets +onlyGivenNames t20
        refine Steady.cut (t := t20) ?_ (fun ht20 => ?_)
        · unfold t20
          refine Steady.ite ?_ ?_
          · refine Steady.upd (m := 0x4000) (hl.sub (by decide)) (by intro x; cases x <;> first | exact fun _ => rfl | exact fun h => absurd h (by decide)) ?_ ?_ ?_ ?_
            · assumption
            · exact rfl
            · exact rfl
            · exact rfl
          · assumption
        clear_value t20
        extract_lets +onlyGivenNames t21
        refine Steady.cut (t := t21) ?_ (fun ht21 => ?_)
        · unfold t21
          refine Steady.ite ?_ ?_
          · refine sowAuditShot_steady (hl.sub (by decide)) _ _ _ _ _ _ ?_
            assumption
          · assumption
        clear_value t21
        extract_lets +onlyGivenNames t22
        refine Steady.cut (t := t22) ?_ (fun ht22 => ?_)
        · unfold t22
          exact sigAdvance_steady (hl.sub (by decide)) _ _ (by assumption)
        clear_value t22
        extract_lets +onlyGivenNames t23
        refine Steady.cut (t := t23) ?_ (fun ht23 => ?_)
        · unfold t23
          exact guardTrip_steady (hl.sub (by decide)) _ _ _ _ _ (by assumption)
        clear_value t23
        refine Steady.ite ?_ ?_
        · refine releaseRows_steady (hl.sub (by decide)) _ ?_
          exact heatUpdate_steady (hl.sub (by decide)) _ _ _ (by assumption)
        · assumption
  · assumption

theorem showRepair_steady {l : Nat} {s0 : State} (hl : Covers 0x4 l) (s : State) (h0 : Steady l s0 s) :
    Steady l s0 (showRepair s) := by
  unfold showRepair
  extract_lets +onlyGivenNames t1
  refine Steady.cut (t := t1) ?_ (fun ht1 => ?_)
  · unfold t1
    exact State_set_steady (hl.sub (by decide)) _ _ _ (by assumption)
  clear_value t1
  extract_lets +onlyGivenNames t2
  refine Steady.cut (t := t2) ?_ (fun ht2 => ?_)
  · unfold t2
    exact State_set_steady (hl.sub (by decide)) _ _ _ (by assumption)
  clear_value t2
  exact State_set_steady (hl.sub (by decide)) _ _ _ (by assumption)

theorem entryLost_steady {l : Nat} {s0 : State} (hl : Covers 0x102106 l) (x0 : RepairEntry) (s : State) (h0 : Steady
    l s0 s) :
    Steady l s0 (entryLost x0 s) := by
  unfold entryLost
  split
  extract_lets +onlyGivenNames t1
  refine Steady.cut (t := t1) ?_ (fun ht1 => ?_)
  · unfold t1
    exact event_steady (hl.sub (by decide)) _ _ _ (by assumption)
  clear_value t1
  split
  · refine setRun_steady (hl.sub (by decide)) _ _ ?_
    assumption
  · assumption

theorem pinFor_steady {l : Nat} {s0 : State} (hl : Covers 0x2000 l) (x0 : Nat) (s : State) (h0 : Steady l s0 s) :
    Steady l s0 (pinFor x0 s) := by
  unfold pinFor
  extract_lets +onlyGivenNames t1
  clear_value t1
  split
  · assumption
  · refine Steady.ite ?_ ?_
    · assumption
    · refine Steady.upd (m := 0x2000) (hl.sub (by decide)) (by intro x; cases x <;> first | exact fun _ => rfl | exact fun h => absurd h (by decide)) ?_ ?_ ?_ ?_
      · assumption
      · exact rfl
      · exact rfl
      · exact rfl

theorem addEntry_steady {l : Nat} {s0 : State} (hl : Covers 0x600186106 l) (x0 : RepairEntry) (s : State) (h0 :
    Steady l s0 s) :
    Steady l s0 (addEntry x0 s) := by
  unfold addEntry
  split
  · assumption
  · extract_lets +onlyGivenNames t1
    refine Steady.cut (t := t1) ?_ (fun ht1 => ?_)
    · unfold t1
      refine tallyEntry_steady (hl.sub (by decide)) _ _ ?_
      refine Steady.ite ?_ ?_
      · assumption
      · refine setRun_steady (hl.sub (by decide)) _ _ ?_
        assumption
    clear_value t1
    split
    refine Steady.ite ?_ ?_
    · split
      · refine setRun_steady (hl.sub (by decide)) _ _ ?_
        assumption
      · assumption
    · extract_lets +onlyGivenNames t2
      clear_value t2
      extract_lets +onlyGivenNames t3
      refine Steady.cut (t := t3) ?_ (fun ht3 => ?_)
      · unfold t3
        exact pinFor_steady (hl.sub (by decide)) _ _ (by assumption)
      clear_value t3
      refine Steady.ite ?_ ?_
      · extract_lets +onlyGivenNames t4
        refine Steady.cut (t := t4) ?_ (fun ht4 => ?_)
        · unfold t4
          exact engineWrite_steady (hl.sub (by decide)) _ _ _ _ (by assumption)
        clear_value t4
        refine showRepair_steady (hl.sub (by decide)) _ ?_
        exact Steady.upd (m := 0x2000) (hl.sub (by decide))
          (by intro x; cases x <;> first | exact fun _ => rfl | exact fun h => absurd h (by decide)) (by assumption) rfl rfl rfl
      · extract_lets +onlyGivenNames t5
        clear_value t5
        extract_lets +onlyGivenNames t6
        refine Steady.cut (t := t6) ?_ (fun ht6 => ?_)
        · unfold t6
          refine Steady.ite ?_ ?_
          · refine Steady.upd (m := 0x2000) (hl.sub (by decide)) (by intro x; cases x <;> first | exact fun _ => rfl | exact fun h => absurd h (by decide)) ?_ ?_ ?_ ?_
            · assumption
            · exact rfl
            · exact rfl
            · exact rfl
          · refine entryLost_steady (hl.sub (by decide)) _ _ ?_
            assumption
        clear_value t6
        refine dueCause_steady (hl.sub (by decide)) _ _ ?_
        exact showRepair_steady (hl.sub (by decide)) _ (by assumption)

theorem voidEntry_steady {l : Nat} {s0 : State} (hl : Covers 0x182106 l) (x0 : Nat) (x1 : Nat) (s : State) (h0 :
    Steady l s0 s) :
    Steady l s0 (voidEntry x0 x1 s) := by
  unfold voidEntry
  extract_lets +onlyGivenNames t1
  clear_value t1
  extract_lets +onlyGivenNames t2
  clear_value t2
  refine Steady.ite ?_ ?_
  · extract_lets +onlyGivenNames t3
    refine Steady.cut (t := t3) ?_ (fun ht3 => ?_)
    · unfold t3
      refine tallyEntry_steady (hl.sub (by decide)) _ _ ?_
      exact State_inc_steady (hl.sub (by decide)) _ _ _ (by assumption)
    clear_value t3
    split
    extract_lets +onlyGivenNames t4
    refine Steady.cut (t := t4) ?_ (fun ht4 => ?_)
    · unfold t4
      refine Steady.foldl _ ?_ (fun _ _ _ => ?_)
      · assumption
      · refine engineWrite_steady (hl.sub (by decide)) _ _ _ _ ?_
        assumption
    clear_value t4
    extract_lets +onlyGivenNames t5
    clear_value t5
    extract_lets +onlyGivenNames t6
    refine Steady.cut (t := t6) ?_ (fun ht6 => ?_)
    · unfold t6
      exact Steady.upd (m := 0x2000) (hl.sub (by decide))
        (by intro x; cases x <;> first | exact fun _ => rfl | exact fun h => absurd h (by decide)) (by assumption) rfl rfl rfl
    clear_value t6
    split
    · refine setRun_steady (hl.sub (by decide)) _ _ ?_
      assumption
    · assumption
  · assumption

theorem readEntries_steady {l : Nat} {s0 : State} (hl : Covers 0x182106 l) (x0 : Nat) (x1 : Nat) (x2 : List
    RepairEntry) (s : State) (h0 : Steady l s0 s) :
    Steady l s0 (readEntries x0 x1 x2 s).2 := by
  induction x0 generalizing x1 x2 s with
  | zero => exact h0
  | succ n ih =>
    match x2 with
    | [] => exact h0
    | e :: t =>
      unfold readEntries
      split
      rename_i s2 heq
      have hk := congrArg Prod.snd heq
      dsimp only at hk
      have h2 : Steady l s0 s2 := by rw [← hk]; exact memRead_steady (hl.sub (by decide)) _ _ _ _ h0
      clear heq hk
      refine Steady.ite_snd ?_ (ih _ _ _ (entryLost_steady (hl.sub (by decide)) _ _ h2))
      split
      rename_i r s3 heq
      have hk := congrArg Prod.snd heq
      dsimp only at hk
      have h3 : Steady l s0 s3 := by rw [← hk]; exact ih _ _ _ h2
      exact h3

end Sys2Proof.Machine
end

