-- ==== Sys2Proof/Laws/Steady07.lean ====
section
/-! SUPPORT. What the operations of Link keep (Laws/Steady.lean). -/

set_option linter.unusedVariables false
set_option maxRecDepth 4000

namespace Sys2Proof.Machine

theorem setGrp_steady {l : Nat} {s0 : State} (hl : Covers 0x8000 l) (x0 : Nat) (x1 : Group) (s : State) (h0 : Steady
    l s0 s) :
    Steady l s0 (setGrp x0 x1 s) := by
  unfold setGrp
  exact Steady.upd (m := 0x8000) (hl.sub (by decide))
    (by intro x; cases x <;> first | exact fun _ => rfl | exact fun h => absurd h (by decide)) (by assumption) rfl rfl rfl

theorem showMode'_steady {l : Nat} {s0 : State} (hl : Covers 0x4 l) (s : State) (h0 : Steady l s0 s) :
    Steady l s0 (showMode' s) := by
  unfold showMode'
  exact State_set_steady (hl.sub (by decide)) _ _ _ (by assumption)

theorem bootAt_steady {l : Nat} {s0 : State} (hl : Covers 0x4 l) (x0 : Nat) (x1 : Nat) (s : State) (h0 : Steady l s0
    s) :
    Steady l s0 (bootAt x0 x1 s) := by
  unfold bootAt
  refine State_set_steady (hl.sub (by decide)) _ _ _ ?_
  exact State_set_steady (hl.sub (by decide)) _ _ _ (by assumption)

theorem bootStep10_steady {l : Nat} {s0 : State} (hl : Covers 0x20004 l) (s : State) (h0 : Steady l s0 s) :
    Steady l s0 (bootStep10 s) := by
  unfold bootStep10
  extract_lets +onlyGivenNames t1
  refine Steady.cut (t := t1) ?_ (fun ht1 => ?_)
  · unfold t1
    refine calBootItem_steady (hl.sub (by decide)) _ _ ?_
    refine calBootItem_steady (hl.sub (by decide)) _ _ ?_
    refine calBootItem_steady (hl.sub (by decide)) _ _ ?_
    exact calBootItem_steady (hl.sub (by decide)) _ _ (by assumption)
  clear_value t1
  split
  rename_i t2 heq2
  have hk2 := congrArg Prod.snd heq2
  dsimp only at hk2
  refine Steady.cut (t := t2) ?_ (fun ht2 => ?_)
  · rw [← hk2]
    exact State_fresh_steady (hl.sub (by decide)) _ (by assumption)
  clear heq2 hk2
  extract_lets +onlyGivenNames t3
  refine Steady.cut (t := t3) ?_ (fun ht3 => ?_)
  · unfold t3
    refine State_wr_steady (hl.sub (by decide)) _ _ _ ?_
    exact bootAt_steady (hl.sub (by decide)) _ _ _ (by assumption)
  clear_value t3
  exact showMode'_steady (hl.sub (by decide)) _ (by assumption)

theorem bootLinks_steady {l : Nat} {s0 : State} (hl : Covers 0x20004 l) (s : State) (h0 : Steady l s0 s) :
    Steady l s0 (bootLinks s) := by
  unfold bootLinks
  refine Steady.ite ?_ ?_
  · refine bootStep10_steady (hl.sub (by decide)) _ ?_
    assumption
  · assumption

theorem linkState_steady {l : Nat} {s0 : State} (hl : Covers 0x20104 l) (x0 : Nat) (x1 : Nat) (s : State) (h0 :
    Steady l s0 s) :
    Steady l s0 (linkState x0 x1 s) := by
  unfold linkState
  refine Steady.ite ?_ ?_
  · assumption
  · refine bootLinks_steady (hl.sub (by decide)) _ ?_
    refine raise_steady (hl.sub (by decide)) _ _ ?_
    exact State_set_steady (hl.sub (by decide)) _ _ _ (by assumption)

theorem queueCmd_steady {l : Nat} {s0 : State} (hl : Covers 0x8000 l) (x0 : Nat) (x1 : Option Nat) (x2 : List Byte)
    (s : State) (h0 : Steady l s0 s) :
    Steady l s0 (queueCmd x0 x1 x2 s) := by
  unfold queueCmd
  extract_lets +onlyGivenNames t1
  clear_value t1
  exact setGrp_steady (hl.sub (by decide)) _ _ _ (by assumption)

theorem queueRunCmd_steady {l : Nat} {s0 : State} (hl : Covers 0x8000 l) (x0 : Nat) (x1 : List Byte) (s : State) (h0
    : Steady l s0 s) :
    Steady l s0 (queueRunCmd x0 x1 s) := by
  unfold queueRunCmd
  extract_lets +onlyGivenNames t1
  clear_value t1
  extract_lets +onlyGivenNames t2
  refine Steady.cut (t := t2) ?_ (fun ht2 => ?_)
  · unfold t2
    exact queueCmd_steady (hl.sub (by decide)) _ _ _ _ (by assumption)
  clear_value t2
  exact setGrp_steady (hl.sub (by decide)) _ _ _ (by assumption)

theorem sendFrame_steady {l : Nat} {s0 : State} (hl : Covers 0x8000 l) (x0 : Nat) (x1 : Nat) (x2 : Nat) (x3 : Nat)
    (x4 : Nat) (x5 : Bool) (x6 : Bool) (x7 : Bool) (x8 : Bool) (x9 : List Byte) (x10 : Nat) (x11 : Nat) (x12 : Nat)
    (x13 : Nat) (s : State) (h0 : Steady l s0 s) :
    Steady l s0 (sendFrame x0 x1 x2 x3 x4 x5 x6 x7 x8 x9 x10 x11 x12 x13 s) := by
  unfold sendFrame
  extract_lets +onlyGivenNames t1
  clear_value t1
  extract_lets +onlyGivenNames t2
  clear_value t2
  extract_lets +onlyGivenNames t3
  clear_value t3
  extract_lets +onlyGivenNames t4
  clear_value t4
  extract_lets +onlyGivenNames t5
  clear_value t5
  refine State_emit_steady (hl.sub (by decide)) _ _ ?_
  exact setGrp_steady (hl.sub (by decide)) _ _ _ (by assumption)

theorem sendIdleBits_steady {l : Nat} {s0 : State} (hl : Covers 0x0 l) (x0 : Nat) (x1 : Nat) (s : State) (h0 :
    Steady l s0 s) :
    Steady l s0 (sendIdleBits x0 x1 s) := by
  unfold sendIdleBits
  exact State_emit_steady (hl.sub (by decide)) _ _ (by assumption)

theorem sendTraining_steady {l : Nat} {s0 : State} (hl : Covers 0x8000 l) (x0 : Nat) (x1 : Nat) (s : State) (h0 :
    Steady l s0 s) :
    Steady l s0 (sendTraining x0 x1 s) := by
  unfold sendTraining
  extract_lets +onlyGivenNames t1
  clear_value t1
  extract_lets +onlyGivenNames t2
  clear_value t2
  extract_lets +onlyGivenNames t3
  refine Steady.cut (t := t3) ?_ (fun ht3 => ?_)
  · unfold t3
    exact sendFrame_steady (hl.sub (by decide)) _ _ _ _ _ _ _ _ _ _ _ _ _ _ _ (by assumption)
  clear_value t3
  extract_lets +onlyGivenNames t4
  clear_value t4
  exact setGrp_steady (hl.sub (by decide)) _ _ _ (by assumption)

theorem sendCmd_steady {l : Nat} {s0 : State} (hl : Covers 0x8000 l) (x0 : Nat) (x1 : Nat) (x2 : LinkCmd) (s :
    State) (h0 : Steady l s0 s) :
    Steady l s0 (sendCmd x0 x1 x2 s) := by
  unfold sendCmd
  extract_lets +onlyGivenNames t1
  clear_value t1
  extract_lets +onlyGivenNames t2
  clear_value t2
  extract_lets +onlyGivenNames t3
  refine Steady.cut (t := t3) ?_ (fun ht3 => ?_)
  · unfold t3
    exact sendFrame_steady (hl.sub (by decide)) _ _ _ _ _ _ _ _ _ _ _ _ _ _ _ (by assumption)
  clear_value t3
  extract_lets +onlyGivenNames t4
  clear_value t4
  exact setGrp_steady (hl.sub (by decide)) _ _ _ (by assumption)

theorem sendShot_steady {l : Nat} {s0 : State} (hl : Covers 0x108004 l) (x0 : Nat) (x1 : Nat) (x2 : Nat) (x3 : Nat)
    (x4 : Nat) (x5 : Bool) (x6 : Run) (s : State) (h0 : Steady l s0 s) :
    Steady l s0 (sendShot x0 x1 x2 x3 x4 x5 x6 s) := by
  unfold sendShot
  extract_lets +onlyGivenNames t1
  clear_value t1
  extract_lets +onlyGivenNames t2
  clear_value t2
  extract_lets +onlyGivenNames t3
  clear_value t3
  extract_lets +onlyGivenNames t4
  refine Steady.cut (t := t4) ?_ (fun ht4 => ?_)
  · unfold t4
    exact sendFrame_steady (hl.sub (by decide)) _ _ _ _ _ _ _ _ _ _ _ _ _ _ _ (by assumption)
  clear_value t4
  extract_lets +onlyGivenNames t5
  refine Steady.cut (t := t5) ?_ (fun ht5 => ?_)
  · unfold t5
    refine Steady.ite ?_ ?_
    · refine tallyRetx_steady (hl.sub (by decide)) _ ?_
      exact State_inc_steady (hl.sub (by decide)) _ _ _ (by assumption)
    · assumption
  clear_value t5
  extract_lets +onlyGivenNames t6
  clear_value t6
  extract_lets +onlyGivenNames t7
  clear_value t7
  extract_lets +onlyGivenNames t8
  clear_value t8
  extract_lets +onlyGivenNames t9
  clear_value t9
  exact setGrp_steady (hl.sub (by decide)) _ _ _ (by assumption)

theorem sendNext_steady {l : Nat} {s0 : State} (hl : Covers 0x108004 l) (x0 : Nat) (x1 : Nat) (s : State) (h0 :
    Steady l s0 s) :
    Steady l s0 (sendNext x0 x1 s) := by
  unfold sendNext
  split
  · refine sendCmd_steady (hl.sub (by decide)) _ _ _ _ ?_
    assumption
  · extract_lets +onlyGivenNames t1
    clear_value t1
    extract_lets +onlyGivenNames t2
    clear_value t2
    split
    · refine sendShot_steady (hl.sub (by decide)) _ _ _ _ _ _ _ _ ?_
      assumption
    · split
      · refine sendCmd_steady (hl.sub (by decide)) _ _ _ _ ?_
        assumption
      · split
        · refine Steady.ite ?_ ?_
          · extract_lets +onlyGivenNames t3
            clear_value t3
            exact sendShot_steady (hl.sub (by decide)) _ _ _ _ _ _ _ _ (by assumption)
          · refine sendIdleBits_steady (hl.sub (by decide)) _ _ _ ?_
            assumption
        · refine Steady.ite ?_ ?_
          · refine sendIdleBits_steady (hl.sub (by decide)) _ _ _ ?_
            assumption
          · refine sendFrame_steady (hl.sub (by decide)) _ _ _ _ _ _ _ _ _ _ _ _ _ _ _ ?_
            assumption

theorem fomRequest_steady {l : Nat} {s0 : State} (hl : Covers 0x8000 l) (x0 : Nat) (x1 : Nat) (x2 : Adapt) (s :
    State) (h0 : Steady l s0 s) :
    Steady l s0 (fomRequest x0 x1 x2 s) := by
  unfold fomRequest
  extract_lets +onlyGivenNames t1
  clear_value t1
  extract_lets +onlyGivenNames t2
  clear_value t2
  extract_lets +onlyGivenNames t3
  refine Steady.cut (t := t3) ?_ (fun ht3 => ?_)
  · unfold t3
    exact setGrp_steady (hl.sub (by decide)) _ _ _ (by assumption)
  clear_value t3
  exact queueCmd_steady (hl.sub (by decide)) _ _ _ _ (by assumption)

theorem adaptFrame_steady {l : Nat} {s0 : State} (hl : Covers 0x8000 l) (x0 : Nat) (x1 : Nat) (s : State) (h0 :
    Steady l s0 s) :
    Steady l s0 (adaptFrame x0 x1 s) := by
  unfold adaptFrame
  split
  · assumption
  · refine Steady.ite ?_ ?_
    · assumption
    · refine Steady.ite ?_ ?_
      · extract_lets +onlyGivenNames t1
        clear_value t1
        exact setGrp_steady (hl.sub (by decide)) _ _ _ (by assumption)
      · refine fomRequest_steady (hl.sub (by decide)) _ _ _ _ ?_
        assumption

theorem moveEntries_steady {l : Nat} {s0 : State} (hl : Covers 0x2004 l) (x0 : Nat) (x1 : Nat) (x2 : Nat) (s :
    State) (h0 : Steady l s0 s) :
    Steady l s0 (moveEntries x0 x1 x2 s) := by
  unfold moveEntries
  split
  · assumption
  · extract_lets +onlyGivenNames t1
    clear_value t1
    extract_lets +onlyGivenNames t2
    clear_value t2
    extract_lets +onlyGivenNames t3
    clear_value t3
    refine setRun_steady (hl.sub (by decide)) _ _ ?_
    refine showRepair_steady (hl.sub (by decide)) _ ?_
    exact Steady.upd (m := 0x2000) (hl.sub (by decide))
      (by intro x; cases x <;> first | exact fun _ => rfl | exact fun h => absurd h (by decide)) (by assumption) rfl rfl rfl

theorem groupFallow_steady {l : Nat} {s0 : State} (hl : Covers 0x6001ae106 l) (x0 : Nat) (x1 : Nat) (s : State) (h0
    : Steady l s0 s) :
    Steady l s0 (groupFallow x0 x1 s) := by
  unfold groupFallow
  split
  · assumption
  · extract_lets +onlyGivenNames t1
    clear_value t1
    refine Steady.ite ?_ ?_
    · assumption
    · extract_lets +onlyGivenNames t2
      refine Steady.cut (t := t2) ?_ (fun ht2 => ?_)
      · unfold t2
        split
        · refine Steady.ite ?_ ?_
          · refine calPreempt_steady (hl.sub (by decide)) _ ?_
            assumption
          · assumption
        · assumption
      clear_value t2
      extract_lets +onlyGivenNames t3
      clear_value t3
      extract_lets +onlyGivenNames t4
      refine Steady.cut (t := t4) ?_ (fun ht4 => ?_)
      · unfold t4
        exact event_steady (hl.sub (by decide)) _ _ _ (by assumption)
      clear_value t4
      extract_lets +onlyGivenNames t5
      refine Steady.cut (t := t5) ?_ (fun ht5 => ?_)
      · unfold t5
        exact linkState_steady (hl.sub (by decide)) _ _ _ (by assumption)
      clear_value t5
      extract_lets +onlyGivenNames t6
      clear_value t6
      extract_lets +onlyGivenNames t7
      refine Steady.cut (t := t7) ?_ (fun ht7 => ?_)
      · unfold t7
        exact setGrp_steady (hl.sub (by decide)) _ _ _ (by assumption)
      clear_value t7
      extract_lets +onlyGivenNames t8
      refine Steady.cut (t := t8) ?_ (fun ht8 => ?_)
      · unfold t8
        split
        · refine setRun_steady (hl.sub (by decide)) _ _ ?_
          assumption
        · assumption
      clear_value t8
      refine Steady.ite ?_ ?_
      · assumption
      · refine Steady.ite ?_ ?_
        · refine Steady.ite ?_ ?_
          · refine moveEntries_steady (hl.sub (by decide)) _ _ _ _ ?_
            assumption
          · assumption
        · refine Steady.ite ?_ ?_
          · refine addEntry_steady (hl.sub (by decide)) _ _ ?_
            assumption
          · assumption

theorem trainStart_steady {l : Nat} {s0 : State} (hl : Covers 0x13a106 l) (x0 : Nat) (x1 : Nat) (s : State) (h0 :
    Steady l s0 s) :
    Steady l s0 (trainStart x0 x1 s) := by
  unfold trainStart
  refine Steady.ite ?_ ?_
  · assumption
  · extract_lets +onlyGivenNames t1
    refine Steady.cut (t := t1) ?_ (fun ht1 => ?_)
    · unfold t1
      split
      · refine Steady.ite ?_ ?_
        · refine calPreempt_steady (hl.sub (by decide)) _ ?_
          assumption
        · assumption
      · assumption
    clear_value t1
    extract_lets +onlyGivenNames t2
    clear_value t2
    extract_lets +onlyGivenNames t3
    refine Steady.cut (t := t3) ?_ (fun ht3 => ?_)
    · unfold t3
      exact setGrp_steady (hl.sub (by decide)) _ _ _ (by assumption)
    clear_value t3
    extract_lets +onlyGivenNames t4
    refine Steady.cut (t := t4) ?_ (fun ht4 => ?_)
    · unfold t4
      exact State_wr_steady (hl.sub (by decide)) _ _ _ (by assumption)
    clear_value t4
    refine linkState_steady (hl.sub (by decide)) _ _ _ ?_
    exact Steady.upd (m := 0x12000) (hl.sub (by decide))
      (by intro x; cases x <;> first | exact fun _ => rfl | exact fun h => absurd h (by decide)) (by assumption) rfl rfl rfl

theorem groupLost_steady {l : Nat} {s0 : State} (hl : Covers 0x28104 l) (x0 : Nat) (s : State) (h0 : Steady l s0 s) :
    Steady l s0 (groupLost x0 s) := by
  unfold groupLost
  refine linkState_steady (hl.sub (by decide)) _ _ _ ?_
  exact setGrp_steady (hl.sub (by decide)) _ _ _ (by assumption)

theorem groupDown_steady {l : Nat} {s0 : State} (hl : Covers 0x28104 l) (x0 : Nat) (s : State) (h0 : Steady l s0 s) :
    Steady l s0 (groupDown x0 s) := by
  unfold groupDown
  extract_lets +onlyGivenNames t1
  refine Steady.cut (t := t1) ?_ (fun ht1 => ?_)
  · unfold t1
    exact setGrp_steady (hl.sub (by decide)) _ _ _ (by assumption)
  clear_value t1
  refine linkState_steady (hl.sub (by decide)) _ _ _ ?_
  exact State_wr_steady (hl.sub (by decide)) _ _ _ (by assumption)

theorem trainCmd_steady {l : Nat} {s0 : State} (hl : Covers 0x13a106 l) (x0 : Nat) (s : State) (h0 : Steady l s0 s) :
    Steady l s0 (trainCmd x0 s) := by
  unfold trainCmd
  refine Steady.ite ?_ ?_
  · assumption
  · refine trainStart_steady (hl.sub (by decide)) _ _ _ ?_
    assumption

theorem groupOut_steady {l : Nat} {s0 : State} (hl : Covers 0x6001be106 l) (x0 : Nat) (x1 : Nat) (s : State) (h0 :
    Steady l s0 s) :
    Steady l s0 (groupOut x0 x1 s) := by
  unfold groupOut
  refine Steady.ite ?_ ?_
  · refine groupFallow_steady (hl.sub (by decide)) _ _ _ ?_
    assumption
  · refine trainStart_steady (hl.sub (by decide)) _ _ _ ?_
    assumption

theorem takeL8_steady {l : Nat} {s0 : State} (hl : Covers 0x8004 l) (x0 : Nat) (x1 : Nat) (s : State) (h0 : Steady l
    s0 s) :
    Steady l s0 (takeL8 x0 x1 s) := by
  unfold takeL8
  extract_lets +onlyGivenNames t1
  clear_value t1
  extract_lets +onlyGivenNames t2
  refine Steady.cut (t := t2) ?_ (fun ht2 => ?_)
  · unfold t2
    exact State_set_steady (hl.sub (by decide)) _ _ _ (by assumption)
  clear_value t2
  extract_lets +onlyGivenNames t3
  clear_value t3
  extract_lets +onlyGivenNames t4
  clear_value t4
  refine queueCmd_steady (hl.sub (by decide)) _ _ _ _ ?_
  exact setGrp_steady (hl.sub (by decide)) _ _ _ (by assumption)

theorem headReadNext_steady {l : Nat} {s0 : State} (hl : Covers 0x18000 l) (x0 : Nat) (x1 : HeadRead) (x2 : Nat) (s
    : State) (h0 : Steady l s0 s) :
    Steady l s0 (headReadNext x0 x1 x2 s) := by
  unfold headReadNext
  refine queueCmd_steady (hl.sub (by decide)) _ _ _ _ ?_
  exact Steady.upd (m := 0x10000) (hl.sub (by decide))
    (by intro x; cases x <;> first | exact fun _ => rfl | exact fun h => absurd h (by decide)) (by assumption) rfl rfl rfl

theorem readAgain_steady {l : Nat} {s0 : State} (hl : Covers 0x10000 l) (x0 : Nat) (s : State) (h0 : Steady l s0 s) :
    Steady l s0 (readAgain x0 s) := by
  unfold readAgain
  exact Steady.upd (m := 0x10000) (hl.sub (by decide))
    (by intro x; cases x <;> first | exact fun _ => rfl | exact fun h => absurd h (by decide)) (by assumption) rfl rfl rfl

theorem identityRead_steady {l : Nat} {s0 : State} (hl : Covers 0x18000 l) (x0 : Nat) (x1 : Nat) (s : State) (h0 :
    Steady l s0 s) :
    Steady l s0 (identityRead x0 x1 s) := by
  unfold identityRead
  refine headReadNext_steady (hl.sub (by decide)) _ _ _ _ ?_
  exact readAgain_steady (hl.sub (by decide)) _ _ (by assumption)

theorem defectRead_steady {l : Nat} {s0 : State} (hl : Covers 0x18000 l) (x0 : Nat) (x1 : Nat) (x2 : Nat) (s :
    State) (h0 : Steady l s0 s) :
    Steady l s0 (defectRead x0 x1 x2 s) := by
  unfold defectRead
  refine headReadNext_steady (hl.sub (by decide)) _ _ _ _ ?_
  exact readAgain_steady (hl.sub (by decide)) _ _ (by assumption)

theorem trainingDone_steady {l : Nat} {s0 : State} (hl : Covers 0x28104 l) (x0 : Nat) (s : State) (h0 : Steady l s0
    s) :
    Steady l s0 (trainingDone x0 s) := by
  unfold trainingDone
  extract_lets +onlyGivenNames t1
  refine Steady.cut (t := t1) ?_ (fun ht1 => ?_)
  · unfold t1
    refine Steady.foldl _ ?_ (fun _ _ _ => ?_)
    · assumption
    · refine calBoot_steady (hl.sub (by decide)) _ _ ?_
      assumption
  clear_value t1
  extract_lets +onlyGivenNames t2
  clear_value t2
  extract_lets +onlyGivenNames t3
  refine Steady.cut (t := t3) ?_ (fun ht3 => ?_)
  · unfold t3
    exact setGrp_steady (hl.sub (by decide)) _ _ _ (by assumption)
  clear_value t3
  extract_lets +onlyGivenNames t4
  refine Steady.cut (t := t4) ?_ (fun ht4 => ?_)
  · unfold t4
    split
    · refine Steady.ite ?_ ?_
      · assumption
      · refine takeL8_steady (hl.sub (by decide)) _ _ _ ?_
        assumption
    · assumption
  clear_value t4
  exact linkState_steady (hl.sub (by decide)) _ _ _ (by assumption)

theorem trainingRead_steady {l : Nat} {s0 : State} (hl : Covers 0x38104 l) (x0 : Nat) (s : State) (h0 : Steady l s0
    s) :
    Steady l s0 (trainingRead x0 s) := by
  unfold trainingRead
  extract_lets +onlyGivenNames t1
  clear_value t1
  extract_lets +onlyGivenNames t2
  refine Steady.cut (t := t2) ?_ (fun ht2 => ?_)
  · unfold t2
    exact setGrp_steady (hl.sub (by decide)) _ _ _ (by assumption)
  clear_value t2
  refine Steady.ite ?_ ?_
  · refine trainingDone_steady (hl.sub (by decide)) _ _ ?_
    exact Steady.upd (m := 0x10000) (hl.sub (by decide))
      (by intro x; cases x <;> first | exact fun _ => rfl | exact fun h => absurd h (by decide)) (by assumption) rfl rfl rfl
  · refine identityRead_steady (hl.sub (by decide)) _ _ _ ?_
    assumption

theorem rollingBack_steady {l : Nat} {s0 : State} (hl : Covers 0x128106 l) (x0 : Nat) (s : State) (h0 : Steady l s0
    s) :
    Steady l s0 (rollingBack x0 s) := by
  unfold rollingBack
  extract_lets +onlyGivenNames t1
  refine Steady.cut (t := t1) ?_ (fun ht1 => ?_)
  · unfold t1
    exact calPreempt_steady (hl.sub (by decide)) _ (by assumption)
  clear_value t1
  extract_lets +onlyGivenNames t2
  clear_value t2
  extract_lets +onlyGivenNames t3
  clear_value t3
  exact setGrp_steady (hl.sub (by decide)) _ _ _ (by assumption)

theorem laneDown_steady {l : Nat} {s0 : State} (hl : Covers 0x128106 l) (x0 : Nat) (x1 : Nat) (x2 : Nat) (s : State)
    (h0 : Steady l s0 s) :
    Steady l s0 (laneDown x0 x1 x2 s).2 := by
  unfold laneDown
  refine Steady.ite_snd ?_ ?_
  · refine Steady.pair ?_
    assumption
  · extract_lets +onlyGivenNames t1
    clear_value t1
    extract_lets +onlyGivenNames t2
    refine Steady.cut (t := t2) ?_ (fun ht2 => ?_)
    · unfold t2
      exact State_set_steady (hl.sub (by decide)) _ _ _ (by assumption)
    clear_value t2
    extract_lets +onlyGivenNames t3
    clear_value t3
    extract_lets +onlyGivenNames t4
    clear_value t4
    extract_lets +onlyGivenNames t5
    clear_value t5
    extract_lets +onlyGivenNames t6
    clear_value t6
    extract_lets +onlyGivenNames t7
    refine Steady.cut (t := t7) ?_ (fun ht7 => ?_)
    · unfold t7
      exact event_steady (hl.sub (by decide)) _ _ _ (by assumption)
    clear_value t7
    refine Steady.ite_snd ?_ ?_
    · extract_lets +onlyGivenNames t8
      refine Steady.cut (t := t8) ?_ (fun ht8 => ?_)
      · unfold t8
        exact State_inc_steady (hl.sub (by decide)) _ _ _ (by assumption)
      clear_value t8
      extract_lets +onlyGivenNames t9
      clear_value t9
      refine Steady.pair ?_
      refine setGrp_steady (hl.sub (by decide)) _ _ _ ?_
      exact Steady.upd (m := 0x20000) (hl.sub (by decide))
        (by intro x; cases x <;> first | exact fun _ => rfl | exact fun h => absurd h (by decide)) (by assumption) rfl rfl rfl
    · extract_lets +onlyGivenNames t10
      refine Steady.cut (t := t10) ?_ (fun ht10 => ?_)
      · unfold t10
        refine Steady.ite ?_ ?_
        · refine rollingBack_steady (hl.sub (by decide)) _ _ ?_
          assumption
        · assumption
      clear_value t10
      refine Steady.ite_snd ?_ ?_
      · refine Steady.pair ?_
        assumption
      · refine Steady.ite_snd ?_ ?_
        · refine Steady.pair ?_
          exact takeL8_steady (hl.sub (by decide)) _ _ _ (by assumption)
        · refine Steady.pair ?_
          assumption

theorem lanesLost_steady {l : Nat} {s0 : State} (hl : Covers 0x6001be106 l) (x0 : Nat) (x1 : Nat) (x2 : List Nat) (s
    : State) (h0 : Steady l s0 s) :
    Steady l s0 (lanesLost x0 x1 x2 s) := by
  unfold lanesLost
  split
  rename_i t1 heq1
  have hk1 := congrArg Prod.snd heq1
  dsimp only at hk1
  refine Steady.cut (t := t1) ?_ (fun ht1 => ?_)
  · rw [← hk1]
    refine Steady.foldl_snd _ ?_ (fun _ _ _ => ?_)
    · refine Steady.pair ?_
      assumption
    · refine Steady.pair ?_
      exact laneDown_steady (hl.sub (by decide)) _ _ _ _ (by assumption)
  clear heq1 hk1
  extract_lets +onlyGivenNames t2
  clear_value t2
  refine Steady.ite ?_ ?_
  · refine Steady.ite ?_ ?_
    · assumption
    · refine groupOut_steady (hl.sub (by decide)) _ _ _ ?_
      assumption
  · refine Steady.ite ?_ ?_
    · refine groupLost_steady (hl.sub (by decide)) _ _ ?_
      assumption
    · extract_lets +onlyGivenNames t3
      clear_value t3
      extract_lets +onlyGivenNames t4
      refine Steady.cut (t := t4) ?_ (fun ht4 => ?_)
      · unfold t4
        exact setGrp_steady (hl.sub (by decide)) _ _ _ (by assumption)
      clear_value t4
      refine Steady.ite ?_ ?_
      · refine trainingRead_steady (hl.sub (by decide)) _ _ ?_
        assumption
      · assumption

theorem laneLost_steady {l : Nat} {s0 : State} (hl : Covers 0x6001be106 l) (x0 : Nat) (x1 : Nat) (x2 : Nat) (s :
    State) (h0 : Steady l s0 s) :
    Steady l s0 (laneLost x0 x1 x2 s) := by
  unfold laneLost
  exact lanesLost_steady (hl.sub (by decide)) _ _ _ _ (by assumption)

theorem attemptResult_steady {l : Nat} {s0 : State} (hl : Covers 0x6001be106 l) (x0 : Nat) (x1 : Nat) (x2 : Nat) (x3
    : Bool) (s : State) (h0 : Steady l s0 s) :
    Steady l s0 (attemptResult x0 x1 x2 x3 s) := by
  unfold attemptResult
  extract_lets +onlyGivenNames t1
  clear_value t1
  extract_lets +onlyGivenNames t2
  clear_value t2
  extract_lets +onlyGivenNames t3
  clear_value t3
  extract_lets +onlyGivenNames t4
  refine Steady.cut (t := t4) ?_ (fun ht4 => ?_)
  · unfold t4
    exact setGrp_steady (hl.sub (by decide)) _ _ _ (by assumption)
  clear_value t4
  refine Steady.ite ?_ ?_
  · assumption
  · refine Steady.ite ?_ ?_
    · refine laneLost_steady (hl.sub (by decide)) _ _ _ _ ?_
      assumption
    · refine Steady.ite ?_ ?_
      · refine laneLost_steady (hl.sub (by decide)) _ _ _ _ ?_
        assumption
      · assumption

theorem attemptFailed_steady {l : Nat} {s0 : State} (hl : Covers 0x6001be106 l) (x0 : Nat) (x1 : Nat) (x2 :
    SentFrame) (s : State) (h0 : Steady l s0 s) :
    Steady l s0 (attemptFailed x0 x1 x2 s) := by
  unfold attemptFailed
  extract_lets +onlyGivenNames t1
  clear_value t1
  refine Steady.ite ?_ ?_
  · extract_lets +onlyGivenNames t2
    clear_value t2
    refine attemptResult_steady (hl.sub (by decide)) _ _ _ _ _ ?_
    exact setGrp_steady (hl.sub (by decide)) _ _ _ (by assumption)
  · extract_lets +onlyGivenNames t3
    clear_value t3
    extract_lets +onlyGivenNames t4
    refine Steady.cut (t := t4) ?_ (fun ht4 => ?_)
    · unfold t4
      exact setGrp_steady (hl.sub (by decide)) _ _ _ (by assumption)
    clear_value t4
    extract_lets +onlyGivenNames t5
    refine Steady.cut (t := t5) ?_ (fun ht5 => ?_)
    · unfold t5
      exact attemptResult_steady (hl.sub (by decide)) _ _ _ _ _ (by assumption)
    clear_value t5
    refine Steady.ite ?_ ?_
    · refine groupOut_steady (hl.sub (by decide)) _ _ _ ?_
      assumption
    · assumption

theorem mapBack_steady {l : Nat} {s0 : State} (hl : Covers 0x8000 l) (x0 : Nat) (x1 : Nat) (s : State) (h0 : Steady
    l s0 s) :
    Steady l s0 (mapBack x0 x1 s) := by
  unfold mapBack
  exact queueCmd_steady (hl.sub (by decide)) _ _ _ _ (by assumption)

theorem rollNext_steady {l : Nat} {s0 : State} (hl : Covers 0x28004 l) (x0 : Nat) (s : State) (h0 : Steady l s0 s) :
    Steady l s0 (rollNext x0 s) := by
  unfold rollNext
  extract_lets +onlyGivenNames t1
  clear_value t1
  split
  · extract_lets +onlyGivenNames t2
    refine Steady.cut (t := t2) ?_ (fun ht2 => ?_)
    · unfold t2
      exact State_set_steady (hl.sub (by decide)) _ _ _ (by assumption)
    clear_value t2
    refine Steady.ite ?_ ?_
    · refine setGrp_steady (hl.sub (by decide)) _ _ _ ?_
      exact Steady.upd (m := 0x20000) (hl.sub (by decide))
        (by intro x; cases x <;> first | exact fun _ => rfl | exact fun h => absurd h (by decide)) (by assumption) rfl rfl rfl
    · extract_lets +onlyGivenNames t3
      clear_value t3
      extract_lets +onlyGivenNames t4
      refine Steady.cut (t := t4) ?_ (fun ht4 => ?_)
      · unfold t4
        refine takeL8_steady (hl.sub (by decide)) _ _ _ ?_
        exact Steady.upd (m := 0x20000) (hl.sub (by decide))
          (by intro x; cases x <;> first | exact fun _ => rfl | exact fun h => absurd h (by decide)) (by assumption) rfl rfl rfl
      clear_value t4
      extract_lets +onlyGivenNames t5
      clear_value t5
      extract_lets +onlyGivenNames t6
      clear_value t6
      extract_lets +onlyGivenNames t7
      clear_value t7
      extract_lets +onlyGivenNames t8
      clear_value t8
      extract_lets +onlyGivenNames t9
      clear_value t9
      refine Steady.ite ?_ ?_
      · refine mapBack_steady (hl.sub (by decide)) _ _ _ ?_
        refine setGrp_steady (hl.sub (by decide)) _ _ _ ?_
        exact Steady.upd (m := 0x20000) (hl.sub (by decide))
          (by intro x; cases x <;> first | exact fun _ => rfl | exact fun h => absurd h (by decide)) (by assumption) rfl rfl rfl
      · refine setGrp_steady (hl.sub (by decide)) _ _ _ ?_
        assumption
  · refine mapBack_steady (hl.sub (by decide)) _ _ _ ?_
    exact Steady.upd (m := 0x20000) (hl.sub (by decide))
      (by intro x; cases x <;> first | exact fun _ => rfl | exact fun h => absurd h (by decide)) (by assumption) rfl rfl rfl
  · assumption

theorem rollStart_steady {l : Nat} {s0 : State} (hl : Covers 0x28004 l) (x0 : Nat) (s : State) (h0 : Steady l s0 s) :
    Steady l s0 (rollStart x0 s) := by
  unfold rollStart
  extract_lets +onlyGivenNames t1
  clear_value t1
  extract_lets +onlyGivenNames t2
  clear_value t2
  extract_lets +onlyGivenNames t3
  refine Steady.cut (t := t3) ?_ (fun ht3 => ?_)
  · unfold t3
    exact Steady.upd (m := 0x20000) (hl.sub (by decide))
      (by intro x; cases x <;> first | exact fun _ => rfl | exact fun h => absurd h (by decide)) (by assumption) rfl rfl rfl
  clear_value t3
  refine Steady.ite ?_ ?_
  · refine rollNext_steady (hl.sub (by decide)) _ _ ?_
    exact setGrp_steady (hl.sub (by decide)) _ _ _ (by assumption)
  · refine setGrp_steady (hl.sub (by decide)) _ _ _ ?_
    assumption

theorem adaptDone_steady {l : Nat} {s0 : State} (hl : Covers 0x38104 l) (x0 : Nat) (x1 : Nat) (x2 : Adapt) (s :
    State) (h0 : Steady l s0 s) :
    Steady l s0 (adaptDone x0 x1 x2 s) := by
  unfold adaptDone
  extract_lets +onlyGivenNames t1
  refine Steady.cut (t := t1) ?_ (fun ht1 => ?_)
  · unfold t1
    refine State_set_steady (hl.sub (by decide)) _ _ _ ?_
    exact State_set_steady (hl.sub (by decide)) _ _ _ (by assumption)
  clear_value t1
  extract_lets +onlyGivenNames t2
  refine Steady.cut (t := t2) ?_ (fun ht2 => ?_)
  · unfold t2
    refine State_set_steady (hl.sub (by decide)) _ _ _ ?_
    exact State_set_steady (hl.sub (by decide)) _ _ _ (by assumption)
  clear_value t2
  extract_lets +onlyGivenNames t3
  clear_value t3
  extract_lets +onlyGivenNames t4
  refine Steady.cut (t := t4) ?_ (fun ht4 => ?_)
  · unfold t4
    exact setGrp_steady (hl.sub (by decide)) _ _ _ (by assumption)
  clear_value t4
  refine Steady.ite ?_ ?_
  · refine Steady.ite ?_ ?_
    · refine trainingRead_steady (hl.sub (by decide)) _ _ ?_
      assumption
    · assumption
  · refine rollNext_steady (hl.sub (by decide)) _ _ ?_
    assumption

theorem lockingDone_steady {l : Nat} {s0 : State} (hl : Covers 0x138106 l) (x0 : Nat) (s : State) (h0 : Steady l s0
    s) :
    Steady l s0 (lockingDone x0 s) := by
  unfold lockingDone
  extract_lets +onlyGivenNames t1
  clear_value t1
  refine Steady.ite ?_ ?_
  · refine groupLost_steady (hl.sub (by decide)) _ _ ?_
    assumption
  · extract_lets +onlyGivenNames t2
    refine Steady.cut (t := t2) ?_ (fun ht2 => ?_)
    · unfold t2
      refine Steady.foldl _ ?_ (fun _ _ _ => ?_)
      · assumption
      · extract_lets +onlyGivenNames t3
        refine Steady.cut (t := t3) ?_ (fun ht3 => ?_)
        · unfold t3
          exact State_set_steady (hl.sub (by decide)) _ _ _ (by assumption)
        clear_value t3
        exact event_steady (hl.sub (by decide)) _ _ _ (by assumption)
    clear_value t2
    extract_lets +onlyGivenNames t4
    clear_value t4
    extract_lets +onlyGivenNames t5
    clear_value t5
    extract_lets +onlyGivenNames t6
    refine Steady.cut (t := t6) ?_ (fun ht6 => ?_)
    · unfold t6
      exact setGrp_steady (hl.sub (by decide)) _ _ _ (by assumption)
    clear_value t6
    refine Steady.ite ?_ ?_
    · refine trainingRead_steady (hl.sub (by decide)) _ _ ?_
      assumption
    · assumption

theorem lockingCheck_steady {l : Nat} {s0 : State} (hl : Covers 0x138106 l) (x0 : Nat) (s : State) (h0 : Steady l s0
    s) :
    Steady l s0 (lockingCheck x0 s) := by
  unfold lockingCheck
  extract_lets +onlyGivenNames t1
  clear_value t1
  refine Steady.ite ?_ ?_
  · refine lockingDone_steady (hl.sub (by decide)) _ _ ?_
    assumption
  · assumption

theorem bkAligned_steady {l : Nat} {s0 : State} (hl : Covers 0x8004 l) (x0 : Nat) (s : State) (h0 : Steady l s0 s) :
    Steady l s0 (bkAligned x0 s) := by
  unfold bkAligned
  refine setGrp_steady (hl.sub (by decide)) _ _ _ ?_
  exact State_set_steady (hl.sub (by decide)) _ _ _ (by assumption)

theorem bkSlipTest_steady {l : Nat} {s0 : State} (hl : Covers 0x28104 l) (x0 : Nat) (x1 : Bool) (s : State) (h0 :
    Steady l s0 s) :
    Steady l s0 (bkSlipTest x0 x1 s) := by
  unfold bkSlipTest
  extract_lets +onlyGivenNames t1
  clear_value t1
  refine Steady.ite ?_ ?_
  · assumption
  · extract_lets +onlyGivenNames t2
    refine Steady.cut (t := t2) ?_ (fun ht2 => ?_)
    · unfold t2
      exact setGrp_steady (hl.sub (by decide)) _ _ _ (by assumption)
    clear_value t2
    refine Steady.ite ?_ ?_
    · refine bkAligned_steady (hl.sub (by decide)) _ _ ?_
      assumption
    · refine Steady.ite ?_ ?_
      · refine groupLost_steady (hl.sub (by decide)) _ _ ?_
        assumption
      · assumption

theorem bkSlip_steady {l : Nat} {s0 : State} (hl : Covers 0x8000 l) (x0 : Nat) (s : State) (h0 : Steady l s0 s) :
    Steady l s0 (bkSlip x0 s) := by
  unfold bkSlip
  extract_lets +onlyGivenNames t1
  clear_value t1
  refine Steady.ite ?_ ?_
  · assumption
  · refine setGrp_steady (hl.sub (by decide)) _ _ _ ?_
    assumption

theorem trainingTimeout_steady {l : Nat} {s0 : State} (hl : Covers 0x13a106 l) (x0 : Nat) (s : State) (h0 : Steady l
    s0 s) :
    Steady l s0 (trainingTimeout x0 s) := by
  unfold trainingTimeout
  extract_lets +onlyGivenNames t1
  clear_value t1
  refine Steady.ite ?_ ?_
  · assumption
  · refine Steady.ite ?_ ?_
    · refine trainStart_steady (hl.sub (by decide)) _ _ _ ?_
      assumption
    · refine groupLost_steady (hl.sub (by decide)) _ _ ?_
      assumption

theorem laneBoundary_steady {l : Nat} {s0 : State} (hl : Covers 0x138106 l) (x0 : Nat) (x1 : Nat) (s : State) (h0 :
    Steady l s0 s) :
    Steady l s0 (laneBoundary x0 x1 s) := by
  unfold laneBoundary
  extract_lets +onlyGivenNames t1
  clear_value t1
  extract_lets +onlyGivenNames t2
  clear_value t2
  refine Steady.ite ?_ ?_
  · assumption
  · refine Steady.ite ?_ ?_
    · refine sendIdleBits_steady (hl.sub (by decide)) _ _ _ ?_
      assumption
    · refine Steady.ite ?_ ?_
      · split
        · refine sendCmd_steady (hl.sub (by decide)) _ _ _ _ ?_
          assumption
        · refine lockingCheck_steady (hl.sub (by decide)) _ _ ?_
          refine adaptFrame_steady (hl.sub (by decide)) _ _ _ ?_
          exact sendTraining_steady (hl.sub (by decide)) _ _ _ (by assumption)
      · refine sendNext_steady (hl.sub (by decide)) _ _ _ ?_
        assumption

theorem spareGo_steady {l : Nat} {s0 : State} (hl : Covers 0x8004 l) (x0 : Nat) (x1 : Nat) (s : State) (h0 : Steady
    l s0 s) :
    Steady l s0 (spareGo x0 x1 s) := by
  unfold spareGo
  extract_lets +onlyGivenNames t1
  clear_value t1
  refine Steady.ite ?_ ?_
  · refine takeL8_steady (hl.sub (by decide)) _ _ _ ?_
    assumption
  · assumption

end Sys2Proof.Machine
end

