-- ==== Sys2Proof/Laws/Steady08.lean ====
section
/-! SUPPORT. What the operations of Jobs keep (Laws/Steady.lean). -/

set_option linter.unusedVariables false
set_option maxRecDepth 4000

namespace Sys2Proof.Machine

theorem burstStart_steady {l : Nat} {s0 : State} (hl : Covers 0x80004 l) (x0 : Nat) (s : State) (h0 : Steady l s0 s) :
    Steady l s0 (burstStart x0 s) := by
  unfold burstStart
  refine Steady.ite ?_ ?_
  · assumption
  · extract_lets +onlyGivenNames t1
    clear_value t1
    refine State_inc_steady (hl.sub (by decide)) _ _ _ ?_
    exact Steady.upd (m := 0x80000) (hl.sub (by decide))
      (by intro x; cases x <;> first | exact fun _ => rfl | exact fun h => absurd h (by decide)) (by assumption) rfl rfl rfl

theorem noticeEnd_steady {l : Nat} {s0 : State} (hl : Covers 0x80004 l) (s : State) (h0 : Steady l s0 s) :
    Steady l s0 (noticeEnd s) := by
  unfold noticeEnd
  extract_lets +onlyGivenNames t1
  clear_value t1
  extract_lets +onlyGivenNames t2
  extract_lets +onlyGivenNames t3
  refine Steady.cut (t := t3) ?_ (fun ht3 => ?_)
  · unfold t3
    exact Steady.upd (m := 0x80000) (hl.sub (by decide))
      (by intro x; cases x <;> first | exact fun _ => rfl | exact fun h => absurd h (by decide)) (by assumption) rfl rfl rfl
  clear_value t3
  refine Steady.foldl _ ?_ (fun _ _ _ => ?_)
  · assumption
  · refine burstStart_steady (hl.sub (by decide)) _ _ ?_
    assumption

theorem checkpointDone_steady {l : Nat} {s0 : State} (hl : Covers 0x182106 l) (s : State) (h0 : Steady l s0 s) :
    Steady l s0 (checkpointDone s) := by
  unfold checkpointDone
  split
  · refine Steady.ite ?_ ?_
    · assumption
    · extract_lets +onlyGivenNames t1
      refine Steady.cut (t := t1) ?_ (fun ht1 => ?_)
      · unfold t1
        exact engineWrite_steady (hl.sub (by decide)) _ _ _ _ (by assumption)
      clear_value t1
      extract_lets +onlyGivenNames t2
      clear_value t2
      extract_lets +onlyGivenNames t3
      refine Steady.cut (t := t3) ?_ (fun ht3 => ?_)
      · unfold t3
        exact Steady.upd (m := 0x2000) (hl.sub (by decide))
          (by intro x; cases x <;> first | exact fun _ => rfl | exact fun h => absurd h (by decide)) (by assumption) rfl rfl rfl
      clear_value t3
      refine noticeEnd_steady (hl.sub (by decide)) _ ?_
      refine showRepair_steady (hl.sub (by decide)) _ ?_
      exact writeResume_steady (hl.sub (by decide)) _ _ (by assumption)
  · assumption

theorem intact_steady {l : Nat} {s0 : State} (hl : Covers 0x180106 l) (x0 : Desc) (x1 : Checkpoint) (s : State) (h0
    : Steady l s0 s) :
    Steady l s0 (intact x0 x1 s).2 := by
  unfold intact
  extract_lets +onlyGivenNames t1
  clear_value t1
  split
  rename_i t2 heq2
  have hk2 := congrArg Prod.snd heq2
  dsimp only at hk2
  refine Steady.cut (t := t2) ?_ (fun ht2 => ?_)
  · rw [← hk2]
    exact memRead_steady (hl.sub (by decide)) _ _ _ _ (by assumption)
  clear heq2 hk2
  refine Steady.pair ?_
  assumption

theorem pickCheckpoint_steady {l : Nat} {s0 : State} (hl : Covers 0x180106 l) (x0 : Desc) (x1 : List Checkpoint) (s
    : State) (h0 : Steady l s0 s) :
    Steady l s0 (pickCheckpoint x0 x1 s).2 := by
  induction x1 generalizing x0 s
  · unfold pickCheckpoint
    refine Steady.pair ?_
    assumption
  · rename_i a l ih
    unfold pickCheckpoint
    split
    rename_i t1 heq1
    have hk1 := congrArg Prod.snd heq1
    dsimp only at hk1
    refine Steady.cut (t := t1) ?_ (fun ht1 => ?_)
    · rw [← hk1]
      exact intact_steady (hl.sub (by decide)) _ _ _ (by assumption)
    clear heq1 hk1
    refine Steady.ite_snd ?_ ?_
    · refine Steady.pair ?_
      assumption
    · refine ih _ _ ?_
      assumption

theorem startingCheckpoint_steady {l : Nat} {s0 : State} (hl : Covers 0x180106 l) (x0 : Desc) (x1 : Nat) (s : State)
    (h0 : Steady l s0 s) :
    Steady l s0 (startingCheckpoint x0 x1 s).2 := by
  unfold startingCheckpoint
  exact pickCheckpoint_steady (hl.sub (by decide)) _ _ _ (by assumption)

theorem showCeilings_steady {l : Nat} {s0 : State} (hl : Covers 0x4 l) (x0 : Run) (s : State) (h0 : Steady l s0 s) :
    Steady l s0 (showCeilings x0 s) := by
  unfold showCeilings
  exact State_wr_steady (hl.sub (by decide)) _ _ _ (by assumption)

theorem stageRun_steady {l : Nat} {s0 : State} (hl : Covers 0x200000104 l) (x0 : Nat) (s : State) (h0 : Steady l s0
    s) :
    Steady l s0 (stageRun x0 s) := by
  unfold stageRun
  extract_lets +onlyGivenNames t1
  clear_value t1
  extract_lets +onlyGivenNames t2
  refine Steady.cut (t := t2) ?_ (fun ht2 => ?_)
  · unfold t2
    exact Steady.upd (m := 0x200000000) (hl.sub (by decide))
      (by intro x; cases x <;> first | exact fun _ => rfl | exact fun h => absurd h (by decide)) (by assumption) rfl rfl rfl
  clear_value t2
  refine raise_steady (hl.sub (by decide)) _ _ ?_
  refine State_set_steady (hl.sub (by decide)) _ _ _ ?_
  exact State_set_steady (hl.sub (by decide)) _ _ _ (by assumption)

theorem linkRun_steady {l : Nat} {s0 : State} (hl : Covers 0x28104 l) (x0 : Nat) (x1 : Nat) (x2 : List (List Byte))
    (s : State) (h0 : Steady l s0 s) :
    Steady l s0 (linkRun x0 x1 x2 s) := by
  unfold linkRun
  refine Steady.foldl _ ?_ (fun _ _ _ => ?_)
  · assumption
  · extract_lets +onlyGivenNames t1
    clear_value t1
    extract_lets +onlyGivenNames t2
    refine Steady.cut (t := t2) ?_ (fun ht2 => ?_)
    · unfold t2
      exact setGrp_steady (hl.sub (by decide)) _ _ _ (by assumption)
    clear_value t2
    refine Steady.ite ?_ ?_
    · extract_lets +onlyGivenNames t3
      clear_value t3
      extract_lets +onlyGivenNames t4
      refine Steady.cut (t := t4) ?_ (fun ht4 => ?_)
      · unfold t4
        exact setGrp_steady (hl.sub (by decide)) _ _ _ (by assumption)
      clear_value t4
      refine linkState_steady (hl.sub (by decide)) _ _ _ ?_
      refine Steady.foldl _ ?_ (fun _ _ _ => ?_)
      · assumption
      · refine queueRunCmd_steady (hl.sub (by decide)) _ _ _ ?_
        assumption
    · assumption

theorem linkHalt_steady {l : Nat} {s0 : State} (hl : Covers 0x28104 l) (s : State) (h0 : Steady l s0 s) :
    Steady l s0 (linkHalt s) := by
  unfold linkHalt
  refine Steady.foldl _ ?_ (fun _ _ _ => ?_)
  · assumption
  · extract_lets +onlyGivenNames t1
    clear_value t1
    extract_lets +onlyGivenNames t2
    refine Steady.cut (t := t2) ?_ (fun ht2 => ?_)
    · unfold t2
      exact setGrp_steady (hl.sub (by decide)) _ _ _ (by assumption)
    clear_value t2
    refine Steady.ite ?_ ?_
    · refine linkState_steady (hl.sub (by decide)) _ _ _ ?_
      assumption
    · assumption

theorem leadBegin_steady {l : Nat} {s0 : State} (hl : Covers 0x4 l) (s : State) (h0 : Steady l s0 s) :
    Steady l s0 (leadBegin s) := by
  unfold leadBegin
  refine Steady.foldl _ ?_ (fun _ _ _ => ?_)
  · assumption
  · refine State_wr_steady (hl.sub (by decide)) _ _ _ ?_
    assumption

theorem leadKeep_steady {l : Nat} {s0 : State} (hl : Covers 0x8000 l) (s : State) (h0 : Steady l s0 s) :
    Steady l s0 (leadKeep s) := by
  unfold leadKeep
  refine Steady.foldl _ ?_ (fun _ _ _ => ?_)
  · assumption
  · refine setGrp_steady (hl.sub (by decide)) _ _ _ ?_
    assumption

theorem leadBack_steady {l : Nat} {s0 : State} (hl : Covers 0x4 l) (s : State) (h0 : Steady l s0 s) :
    Steady l s0 (leadBack s) := by
  unfold leadBack
  refine Steady.foldl _ ?_ (fun _ _ _ => ?_)
  · assumption
  · refine State_wr_steady (hl.sub (by decide)) _ _ _ ?_
    assumption

theorem refit_steady {l : Nat} {s0 : State} (hl : Covers 0x600126106 l) (s : State) (h0 : Steady l s0 s) :
    Steady l s0 (refit s) := by
  unfold refit
  refine fillGroups_steady (hl.sub (by decide)) _ ?_
  refine fillPositions_steady (hl.sub (by decide)) _ ?_
  refine applySliceSwaps_steady (hl.sub (by decide)) _ _ ?_
  exact applyTileSwaps_steady (hl.sub (by decide)) _ _ (by assumption)

theorem tilthLeave_steady {l : Nat} {s0 : State} (hl : Covers 0x4000 l) (s : State) (h0 : Steady l s0 s) :
    Steady l s0 (tilthLeave s) := by
  unfold tilthLeave
  exact Steady.upd (m := 0x4000) (hl.sub (by decide))
    (by intro x; cases x <;> first | exact fun _ => rfl | exact fun h => absurd h (by decide)) (by assumption) rfl rfl rfl

theorem pathFrom_steady {l : Nat} {s0 : State} (hl : Covers 0x4004 l) (x0 : StreamInfo) (x1 : Option Checkpoint) (s
    : State) (h0 : Steady l s0 s) :
    Steady l s0 (pathFrom x0 x1 s) := by
  unfold pathFrom
  extract_lets +onlyGivenNames t1
  refine Steady.cut (t := t1) ?_ (fun ht1 => ?_)
  · unfold t1
    refine tilthLeave_steady (hl.sub (by decide)) _ ?_
    exact cutTileUnit_steady (hl.sub (by decide)) _ _ (by assumption)
  clear_value t1
  extract_lets +onlyGivenNames t2
  clear_value t2
  refine startTileUnit_steady (hl.sub (by decide)) _ _ ?_
  split
  · refine Steady.upd (m := 0x4000) (hl.sub (by decide)) (by intro x; cases x <;> first | exact fun _ => rfl | exact fun h => absurd h (by decide)) ?_ ?_ ?_ ?_
    · assumption
    · exact rfl
    · exact rfl
    · exact rfl
  · extract_lets +onlyGivenNames t3
    clear_value t3
    extract_lets +onlyGivenNames t4
    clear_value t4
    extract_lets +onlyGivenNames t5
    clear_value t5
    extract_lets +onlyGivenNames t6
    clear_value t6
    exact Steady.upd (m := 0x4000) (hl.sub (by decide))
      (by intro x; cases x <;> first | exact fun _ => rfl | exact fun h => absurd h (by decide)) (by assumption) rfl rfl rfl

theorem headState_steady {l : Nat} {s0 : State} (hl : Covers 0x104 l) (s : State) (h0 : Steady l s0 s) :
    Steady l s0 (headState s) := by
  unfold headState
  split
  · split
    · refine jobState_steady (hl.sub (by decide)) _ _ _ ?_
      assumption
    · refine jobState_steady (hl.sub (by decide)) _ _ _ ?_
      assumption
  · refine Steady.ite ?_ ?_
    · refine jobState_steady (hl.sub (by decide)) _ _ _ ?_
      assumption
    · refine jobState_steady (hl.sub (by decide)) _ _ _ ?_
      assumption

theorem idleStage_steady {l : Nat} {s0 : State} (hl : Covers 0x200000104 l) (s : State) (h0 : Steady l s0 s) :
    Steady l s0 (idleStage s) := by
  unfold idleStage
  extract_lets +onlyGivenNames t1
  refine Steady.cut (t := t1) ?_ (fun ht1 => ?_)
  · unfold t1
    exact withdraw_steady (hl.sub (by decide)) _ (by assumption)
  clear_value t1
  refine raise_steady (hl.sub (by decide)) _ _ ?_
  refine State_set_steady (hl.sub (by decide)) _ _ _ ?_
  exact State_set_steady (hl.sub (by decide)) _ _ _ (by assumption)

theorem dropRun_steady {l : Nat} {s0 : State} (hl : Covers 0xe001ae107 l) (s : State) (h0 : Steady l s0 s) :
    Steady l s0 (dropRun s) := by
  unfold dropRun
  extract_lets +onlyGivenNames t1
  refine Steady.cut (t := t1) ?_ (fun ht1 => ?_)
  · unfold t1
    refine leadBack_steady (hl.sub (by decide)) _ ?_
    refine ceilingOff_steady (hl.sub (by decide)) _ ?_
    exact linkHalt_steady (hl.sub (by decide)) _ (by assumption)
  clear_value t1
  extract_lets +onlyGivenNames t2
  refine Steady.cut (t := t2) ?_ (fun ht2 => ?_)
  · unfold t2
    refine cutSliceUnit_steady (hl.sub (by decide)) _ ?_
    refine cutTileUnit_steady (hl.sub (by decide)) _ _ ?_
    refine tilthLeave_steady (hl.sub (by decide)) _ ?_
    exact State_set_steady (hl.sub (by decide)) _ _ _ (by assumption)
  clear_value t2
  extract_lets +onlyGivenNames t3
  clear_value t3
  extract_lets +onlyGivenNames t4
  clear_value t4
  extract_lets +onlyGivenNames t5
  extract_lets +onlyGivenNames t6
  refine Steady.cut (t := t6) ?_ (fun ht6 => ?_)
  · unfold t6
    refine noticeEnd_steady (hl.sub (by decide)) _ ?_
    exact Steady.upd (m := 0x86000) (hl.sub (by decide))
      (by intro x; cases x <;> first | exact fun _ => rfl | exact fun h => absurd h (by decide)) (by assumption) rfl rfl rfl
  clear_value t6
  extract_lets +onlyGivenNames t7
  refine Steady.cut (t := t7) ?_ (fun ht7 => ?_)
  · unfold t7
    exact refit_steady (hl.sub (by decide)) _ (by assumption)
  clear_value t7
  extract_lets +onlyGivenNames t8
  refine Steady.cut (t := t8) ?_ (fun ht8 => ?_)
  · unfold t8
    refine Steady.foldl _ ?_ (fun _ _ _ => ?_)
    · assumption
    · refine setGrp_steady (hl.sub (by decide)) _ _ _ ?_
      assumption
  clear_value t8
  exact showRepair_steady (hl.sub (by decide)) _ (by assumption)

theorem trainDue_steady {l : Nat} {s0 : State} (hl : Covers 0x13a106 l) (s : State) (h0 : Steady l s0 s) :
    Steady l s0 (trainDue s) := by
  unfold trainDue
  refine Steady.foldl _ ?_ (fun _ _ _ => ?_)
  · assumption
  · extract_lets +onlyGivenNames t1
    clear_value t1
    refine Steady.ite ?_ ?_
    · refine trainStart_steady (hl.sub (by decide)) _ _ _ ?_
      assumption
    · assumption

theorem rereadStart_steady {l : Nat} {s0 : State} (hl : Covers 0x1a000 l) (s : State) (h0 : Steady l s0 s) :
    Steady l s0 (rereadStart s) := by
  unfold rereadStart
  refine Steady.ite ?_ ?_
  · extract_lets +onlyGivenNames t1
    clear_value t1
    extract_lets +onlyGivenNames t2
    clear_value t2
    extract_lets +onlyGivenNames t3
    refine Steady.cut (t := t3) ?_ (fun ht3 => ?_)
    · unfold t3
      exact Steady.upd (m := 0x12000) (hl.sub (by decide))
        (by intro x; cases x <;> first | exact fun _ => rfl | exact fun h => absurd h (by decide)) (by assumption) rfl rfl rfl
    clear_value t3
    refine Steady.foldl _ ?_ (fun _ _ _ => ?_)
    · assumption
    · refine Steady.ite ?_ ?_
      · refine identityRead_steady (hl.sub (by decide)) _ _ _ ?_
        assumption
      · assumption
  · assumption

theorem pcSwap_steady {l : Nat} {s0 : State} (hl : Covers 0x180106 l) (s : State) (h0 : Steady l s0 s) :
    Steady l s0 (pcSwap s) := by
  unfold pcSwap
  split
  · refine Steady.ite ?_ ?_
    · assumption
    · extract_lets +onlyGivenNames t1
      clear_value t1
      extract_lets +onlyGivenNames t2
      clear_value t2
      extract_lets +onlyGivenNames t3
      extract_lets +onlyGivenNames t4
      refine Steady.cut (t := t4) ?_ (fun ht4 => ?_)
      · unfold t4
        refine setPcMap_steady (hl.sub (by decide)) _ _ _ _ ?_
        refine setPcMap_steady (hl.sub (by decide)) _ _ _ _ ?_
        exact Steady.upd (m := 0x80000) (hl.sub (by decide))
          (by intro x; cases x <;> first | exact fun _ => rfl | exact fun h => absurd h (by decide)) (by assumption) rfl rfl rfl
      clear_value t4
      refine event_steady (hl.sub (by decide)) _ _ _ ?_
      exact State_set_steady (hl.sub (by decide)) _ _ _ (by assumption)
  · assumption

theorem boundaryWork_steady {l : Nat} {s0 : State} (hl : Covers 0x1be106 l) (x0 : Bool) (s : State) (h0 : Steady l
    s0 s) :
    Steady l s0 (boundaryWork x0 s) := by
  unfold boundaryWork
  extract_lets +onlyGivenNames t1
  clear_value t1
  extract_lets +onlyGivenNames t2
  refine Steady.cut (t := t2) ?_ (fun ht2 => ?_)
  · unfold t2
    refine Steady.ite ?_ ?_
    · refine bankSwap_steady (hl.sub (by decide)) _ _ ?_
      exact Steady.upd (m := 0x2000) (hl.sub (by decide))
        (by intro x; cases x <;> first | exact fun _ => rfl | exact fun h => absurd h (by decide)) (by assumption) rfl rfl rfl
    · assumption
  clear_value t2
  refine rereadStart_steady (hl.sub (by decide)) _ ?_
  refine trainDue_steady (hl.sub (by decide)) _ ?_
  refine clockTaps_steady (hl.sub (by decide)) _ ?_
  exact pcSwap_steady (hl.sub (by decide)) _ (by assumption)

theorem disarm_steady {l : Nat} {s0 : State} (hl : Covers 0xe001be107 l) (s : State) (h0 : Steady l s0 s) :
    Steady l s0 (disarm s) := by
  unfold disarm
  split
  · assumption
  · refine Steady.ite ?_ ?_
    · assumption
    · refine boundaryWork_steady (hl.sub (by decide)) _ _ ?_
      refine plannerStop_steady (hl.sub (by decide)) _ ?_
      refine jobState_steady (hl.sub (by decide)) _ _ _ ?_
      refine idleStage_steady (hl.sub (by decide)) _ ?_
      exact dropRun_steady (hl.sub (by decide)) _ (by assumption)

theorem endDisarm_steady {l : Nat} {s0 : State} (hl : Covers 0xe001be107 l) (s : State) (h0 : Steady l s0 s) :
    Steady l s0 (endDisarm s) := by
  unfold endDisarm
  split
  · refine Steady.ite ?_ ?_
    · refine disarm_steady (hl.sub (by decide)) _ ?_
      assumption
    · assumption
  · assumption

theorem endFurrow_steady {l : Nat} {s0 : State} (hl : Covers 0xe001be107 l) (x0 : Run) (s : State) (h0 : Steady l s0
    s) :
    Steady l s0 (endFurrow x0 s) := by
  unfold endFurrow
  refine endDisarm_steady (hl.sub (by decide)) _ ?_
  refine Steady.foldl _ ?_ (fun _ _ _ => ?_)
  · refine setRun_steady (hl.sub (by decide)) _ _ ?_
    assumption
  · refine Steady.ite ?_ ?_
    · refine queueCmd_steady (hl.sub (by decide)) _ _ _ _ ?_
      assumption
    · assumption

theorem unpost_steady {l : Nat} {s0 : State} (hl : Covers 0x2000 l) (x0 : Desc) (s : State) (h0 : Steady l s0 s) :
    Steady l s0 (unpost x0 s) := by
  unfold unpost
  exact Steady.upd (m := 0x2000) (hl.sub (by decide))
    (by intro x; cases x <;> first | exact fun _ => rfl | exact fun h => absurd h (by decide)) (by assumption) rfl rfl rfl

theorem reExpand_steady {l : Nat} {s0 : State} (hl : Covers 0x60002e104 l) (x0 : Desc) (x1 : StreamInfo) (x2 :
    Option Checkpoint) (x3 : Run) (x4 : Nat) (x5 : Option Nat) (x6 : List (List Byte)) (s : State) (h0 : Steady l s0
    s) :
    Steady l s0 (reExpand x0 x1 x2 x3 x4 x5 x6 s) := by
  unfold reExpand
  split
  extract_lets +onlyGivenNames t1
  clear_value t1
  extract_lets +onlyGivenNames t2
  clear_value t2
  extract_lets +onlyGivenNames t3
  refine Steady.cut (t := t3) ?_ (fun ht3 => ?_)
  · unfold t3
    refine pathFrom_steady (hl.sub (by decide)) _ _ _ ?_
    exact setRun_steady (hl.sub (by decide)) _ _ (by assumption)
  clear_value t3
  extract_lets +onlyGivenNames t4
  refine Steady.cut (t := t4) ?_ (fun ht4 => ?_)
  · unfold t4
    refine linkRun_steady (hl.sub (by decide)) _ _ _ _ ?_
    refine stageRun_steady (hl.sub (by decide)) _ _ ?_
    exact prepassStart_steady (hl.sub (by decide)) _ (by assumption)
  clear_value t4
  split
  exact planStart_steady (hl.sub (by decide)) _ _ _ (by assumption)

theorem refitHeld_steady {l : Nat} {s0 : State} (hl : Covers 0x600126106 l) (s : State) (h0 : Steady l s0 s) :
    Steady l s0 (refitHeld s) := by
  unfold refitHeld
  refine Steady.ite ?_ ?_
  · assumption
  · extract_lets +onlyGivenNames t1
    refine Steady.cut (t := t1) ?_ (fun ht1 => ?_)
    · unfold t1
      exact refit_steady (hl.sub (by decide)) _ (by assumption)
    clear_value t1
    extract_lets +onlyGivenNames t2
    refine Steady.cut (t := t2) ?_ (fun ht2 => ?_)
    · unfold t2
      refine Steady.ite ?_ ?_
      · assumption
      · refine raiseCause_steady (hl.sub (by decide)) _ _ ?_
        assumption
    clear_value t2
    refine Steady.ite ?_ ?_
    · assumption
    · refine raiseCause_steady (hl.sub (by decide)) _ _ ?_
      assumption

theorem densityUnneeded_steady {l : Nat} {s0 : State} (hl : Covers 0x6504 l) (x0 : Desc) (s : State) (h0 : Steady l
    s0 s) :
    Steady l s0 (densityUnneeded x0 s) := by
  unfold densityUnneeded
  split
  · refine densityDone_steady (hl.sub (by decide)) _ _ ?_
    exact Steady.upd (m := 0x2000) (hl.sub (by decide))
      (by intro x; cases x <;> first | exact fun _ => rfl | exact fun h => absurd h (by decide)) (by assumption) rfl rfl rfl
  · assumption

theorem armHead_steady {l : Nat} {s0 : State} (hl : Covers 0x6001ae506 l) (x0 : Desc) (x1 : StreamInfo) (s : State)
    (h0 : Steady l s0 s) :
    Steady l s0 (armHead x0 x1 s) := by
  unfold armHead
  extract_lets +onlyGivenNames t1
  clear_value t1
  extract_lets +onlyGivenNames t2
  clear_value t2
  split
  extract_lets +onlyGivenNames t3
  clear_value t3
  extract_lets +onlyGivenNames t4
  clear_value t4
  extract_lets +onlyGivenNames t5
  clear_value t5
  extract_lets +onlyGivenNames t6
  refine Steady.cut (t := t6) ?_ (fun ht6 => ?_)
  · unfold t6
    refine densityUnneeded_steady (hl.sub (by decide)) _ _ ?_
    exact captureStart_steady (hl.sub (by decide)) _ _ _ (by assumption)
  clear_value t6
  extract_lets +onlyGivenNames t7
  refine Steady.cut (t := t7) ?_ (fun ht7 => ?_)
  · unfold t7
    exact pathFrom_steady (hl.sub (by decide)) _ _ _ (by assumption)
  clear_value t7
  extract_lets +onlyGivenNames t8
  clear_value t8
  extract_lets +onlyGivenNames t9
  clear_value t9
  extract_lets +onlyGivenNames t10
  refine Steady.cut (t := t10) ?_ (fun ht10 => ?_)
  · unfold t10
    exact Steady.upd (m := 0x6000) (hl.sub (by decide))
      (by intro x; cases x <;> first | exact fun _ => rfl | exact fun h => absurd h (by decide)) (by assumption) rfl rfl rfl
  clear_value t10
  extract_lets +onlyGivenNames t11
  refine Steady.cut (t := t11) ?_ (fun ht11 => ?_)
  · unfold t11
    refine showCeilings_steady (hl.sub (by decide)) _ _ ?_
    refine showRepair_steady (hl.sub (by decide)) _ ?_
    exact setRun_steady (hl.sub (by decide)) _ _ (by assumption)
  clear_value t11
  extract_lets +onlyGivenNames t12
  clear_value t12
  extract_lets +onlyGivenNames t13
  refine Steady.cut (t := t13) ?_ (fun ht13 => ?_)
  · unfold t13
    exact linkRun_steady (hl.sub (by decide)) _ _ _ _ (by assumption)
  clear_value t13
  extract_lets +onlyGivenNames t14
  refine Steady.cut (t := t14) ?_ (fun ht14 => ?_)
  · unfold t14
    refine Steady.foldl _ ?_ (fun _ _ _ => ?_)
    · assumption
    · refine flagRun_steady (hl.sub (by decide)) _ _ ?_
      exact addEntry_steady (hl.sub (by decide)) _ _ (by assumption)
  clear_value t14
  split
  refine lookSample_steady (hl.sub (by decide)) _ ?_
  refine prepassStart_steady (hl.sub (by decide)) _ ?_
  refine planStart_steady (hl.sub (by decide)) _ _ _ ?_
  refine jobState_steady (hl.sub (by decide)) _ _ _ ?_
  exact stageRun_steady (hl.sub (by decide)) _ _ (by assumption)

theorem armFurrow_steady {l : Nat} {s0 : State} (hl : Covers 0x6001ae506 l) (s : State) (h0 : Steady l s0 s) :
    Steady l s0 (armFurrow s) := by
  unfold armFurrow
  split
  · assumption
  · refine Steady.ite ?_ ?_
    · assumption
    · extract_lets +onlyGivenNames t1
      refine Steady.cut (t := t1) ?_ (fun ht1 => ?_)
      · unfold t1
        exact jobBegins_steady (hl.sub (by decide)) _ _ (by assumption)
      clear_value t1
      split
      · refine Steady.ite ?_ ?_
        · refine headState_steady (hl.sub (by decide)) _ ?_
          assumption
        · refine armHead_steady (hl.sub (by decide)) _ _ _ ?_
          assumption
      · refine headState_steady (hl.sub (by decide)) _ ?_
        assumption

theorem cancelRun_steady {l : Nat} {s0 : State} (hl : Covers 0xe001be507 l) (s : State) (h0 : Steady l s0 s) :
    Steady l s0 (cancelRun s) := by
  unfold cancelRun
  split
  · extract_lets +onlyGivenNames t1
    refine Steady.cut (t := t1) ?_ (fun ht1 => ?_)
    · unfold t1
      refine plannerStop_steady (hl.sub (by decide)) _ ?_
      refine captureAbandon_steady (hl.sub (by decide)) _ _ ?_
      refine idleStage_steady (hl.sub (by decide)) _ ?_
      exact dropRun_steady (hl.sub (by decide)) _ (by assumption)
    clear_value t1
    extract_lets +onlyGivenNames t2
    extract_lets +onlyGivenNames t3
    refine Steady.cut (t := t3) ?_ (fun ht3 => ?_)
    · unfold t3
      exact Steady.upd (m := 0x2) (hl.sub (by decide))
        (by intro x; cases x <;> first | exact fun _ => rfl | exact fun h => absurd h (by decide)) (by assumption) rfl rfl rfl
    clear_value t3
    extract_lets +onlyGivenNames t4
    refine Steady.cut (t := t4) ?_ (fun ht4 => ?_)
    · unfold t4
      refine complete_steady (hl.sub (by decide)) _ _ _ _ _ _ _ ?_
      refine setQueue_steady (hl.sub (by decide)) _ _ ?_
      exact unlockStream_steady (hl.sub (by decide)) _ _ (by assumption)
    clear_value t4
    refine boundaryWork_steady (hl.sub (by decide)) _ _ ?_
    refine Steady.ite ?_ ?_
    · refine jobState_steady (hl.sub (by decide)) _ _ _ ?_
      assumption
    · refine jobState_steady (hl.sub (by decide)) _ _ _ ?_
      assumption
  · assumption

theorem cancelQueued_steady {l : Nat} {s0 : State} (hl : Covers 0x186506 l) (x0 : Desc) (s : State) (h0 : Steady l
    s0 s) :
    Steady l s0 (cancelQueued x0 s) := by
  unfold cancelQueued
  refine completeUnarmed_steady (hl.sub (by decide)) _ _ _ ?_
  refine captureAbandon_steady (hl.sub (by decide)) _ _ ?_
  refine setQueue_steady (hl.sub (by decide)) _ _ ?_
  refine unlockStream_steady (hl.sub (by decide)) _ _ ?_
  exact unpost_steady (hl.sub (by decide)) _ _ (by assumption)

theorem cancelWhere_steady {l : Nat} {s0 : State} (hl : Covers 0xe001be507 l) (x0 : Desc → Bool) (s : State) (h0 :
    Steady l s0 s) :
    Steady l s0 (cancelWhere x0 s) := by
  unfold cancelWhere
  extract_lets +onlyGivenNames t1
  clear_value t1
  extract_lets +onlyGivenNames t2
  clear_value t2
  extract_lets +onlyGivenNames t3
  clear_value t3
  extract_lets +onlyGivenNames t4
  clear_value t4
  extract_lets +onlyGivenNames t5
  refine Steady.cut (t := t5) ?_ (fun ht5 => ?_)
  · unfold t5
    refine Steady.ite ?_ ?_
    · split
      · refine Steady.ite ?_ ?_
        · refine setRun_steady (hl.sub (by decide)) _ _ ?_
          assumption
        · refine cancelRun_steady (hl.sub (by decide)) _ ?_
          assumption
      · assumption
    · assumption
  clear_value t5
  extract_lets +onlyGivenNames t6
  refine Steady.cut (t := t6) ?_ (fun ht6 => ?_)
  · unfold t6
    refine Steady.foldl _ ?_ (fun _ _ _ => ?_)
    · assumption
    · refine cancelQueued_steady (hl.sub (by decide)) _ _ ?_
      assumption
  clear_value t6
  refine Steady.ite ?_ ?_
  · assumption
  · refine headState_steady (hl.sub (by decide)) _ ?_
    assumption

theorem cancelHead_steady {l : Nat} {s0 : State} (hl : Covers 0xe001be507 l) (s : State) (h0 : Steady l s0 s) :
    Steady l s0 (cancelHead s) := by
  unfold cancelHead
  split
  · refine cancelWhere_steady (hl.sub (by decide)) _ _ ?_
    assumption
  · assumption

theorem cancelJob_steady {l : Nat} {s0 : State} (hl : Covers 0xe001be507 l) (s : State) (h0 : Steady l s0 s) :
    Steady l s0 (cancelJob s) := by
  unfold cancelJob
  split
  · refine cancelWhere_steady (hl.sub (by decide)) _ _ ?_
    assumption
  · assumption

theorem cancelAll_steady {l : Nat} {s0 : State} (hl : Covers 0xe001be507 l) (s : State) (h0 : Steady l s0 s) :
    Steady l s0 (cancelAll s) := by
  unfold cancelAll
  exact cancelWhere_steady (hl.sub (by decide)) _ _ (by assumption)

theorem resumeFurrow_steady {l : Nat} {s0 : State} (hl : Covers 0xe001be507 l) (s : State) (h0 : Steady l s0 s) :
    Steady l s0 (resumeFurrow s) := by
  unfold resumeFurrow
  extract_lets +onlyGivenNames t1
  refine Steady.cut (t := t1) ?_ (fun ht1 => ?_)
  · unfold t1
    exact refitHeld_steady (hl.sub (by decide)) _ (by assumption)
  clear_value t1
  split
  · refine Steady.ite ?_ ?_
    · assumption
    · split
      · assumption
      · extract_lets +onlyGivenNames t2
        extract_lets +onlyGivenNames t3
        refine Steady.cut (t := t3) ?_ (fun ht3 => ?_)
        · unfold t3
          refine ceilingOff_steady (hl.sub (by decide)) _ ?_
          exact Steady.upd (m := 0x80000) (hl.sub (by decide))
            (by intro x; cases x <;> first | exact fun _ => rfl | exact fun h => absurd h (by decide)) (by assumption) rfl rfl rfl
        clear_value t3
        refine Steady.ite ?_ ?_
        · extract_lets +onlyGivenNames t4
          refine Steady.cut (t := t4) ?_ (fun ht4 => ?_)
          · unfold t4
            exact setRun_steady (hl.sub (by decide)) _ _ (by assumption)
          clear_value t4
          refine raise_steady (hl.sub (by decide)) _ _ ?_
          refine jobState_steady (hl.sub (by decide)) _ _ _ ?_
          exact State_set_steady (hl.sub (by decide)) _ _ _ (by assumption)
        · refine Steady.ite ?_ ?_
          · split
            rename_i t5 heq5
            have hk5 := congrArg Prod.snd heq5
            dsimp only at hk5
            refine Steady.cut (t := t5) ?_ (fun ht5 => ?_)
            · rw [← hk5]
              refine startingCheckpoint_steady (hl.sub (by decide)) _ _ _ ?_
              exact prepassResume_steady (hl.sub (by decide)) _ (by assumption)
            clear heq5 hk5
            extract_lets +onlyGivenNames t6
            clear_value t6
            extract_lets +onlyGivenNames t7
            clear_value t7
            refine raise_steady (hl.sub (by decide)) _ _ ?_
            refine jobState_steady (hl.sub (by decide)) _ _ _ ?_
            exact reExpand_steady (hl.sub (by decide)) _ _ _ _ _ _ _ _ (by assumption)
          · refine Steady.ite ?_ ?_
            · refine cancelRun_steady (hl.sub (by decide)) _ ?_
              exact event_steady (hl.sub (by decide)) _ _ _ (by assumption)
            · extract_lets +onlyGivenNames t8
              clear_value t8
              split
              rename_i t9 heq9
              have hk9 := congrArg Prod.snd heq9
              dsimp only at hk9
              refine Steady.cut (t := t9) ?_ (fun ht9 => ?_)
              · rw [← hk9]
                refine startingCheckpoint_steady (hl.sub (by decide)) _ _ _ ?_
                exact prepassResume_steady (hl.sub (by decide)) _ (by assumption)
              clear heq9 hk9
              extract_lets +onlyGivenNames t10
              refine Steady.cut (t := t10) ?_ (fun ht10 => ?_)
              · unfold t10
                exact showCeilings_steady (hl.sub (by decide)) _ _ (by assumption)
              clear_value t10
              extract_lets +onlyGivenNames t11
              clear_value t11
              refine raise_steady (hl.sub (by decide)) _ _ ?_
              refine jobState_steady (hl.sub (by decide)) _ _ _ ?_
              exact reExpand_steady (hl.sub (by decide)) _ _ _ _ _ _ _ _ (by assumption)
  · assumption

end Sys2Proof.Machine
end

