-- ==== Sys2Proof/Laws/Steady09.lean ====
section
/-! SUPPORT. What the operations of Traverse keep (Laws/Steady.lean). -/

set_option linter.unusedVariables false
set_option maxRecDepth 4000

namespace Sys2Proof.Machine

theorem repairState_steady {l : Nat} {s0 : State} (hl : Covers 0x4 l) (x0 : Nat) (s : State) (h0 : Steady l s0 s) :
    Steady l s0 (repairState x0 s) := by
  unfold repairState
  exact State_set_steady (hl.sub (by decide)) _ _ _ (by assumption)

theorem repairRunStart_steady {l : Nat} {s0 : State} (hl : Covers 0x6001ae106 l) (s : State) (h0 : Steady l s0 s) :
    Steady l s0 (repairRunStart s) := by
  unfold repairRunStart
  split
  · split
    · extract_lets +onlyGivenNames t1
      clear_value t1
      split
      rename_i t2 heq2
      have hk2 := congrArg Prod.snd heq2
      dsimp only at hk2
      refine Steady.cut (t := t2) ?_ (fun ht2 => ?_)
      · rw [← hk2]
        exact startingCheckpoint_steady (hl.sub (by decide)) _ _ _ (by assumption)
      clear heq2 hk2
      extract_lets +onlyGivenNames t3
      refine Steady.cut (t := t3) ?_ (fun ht3 => ?_)
      · unfold t3
        exact reExpand_steady (hl.sub (by decide)) _ _ _ _ _ _ _ _ (by assumption)
      clear_value t3
      exact repairState_steady (hl.sub (by decide)) _ _ (by assumption)
    · assumption
  · assumption

theorem traverseStartCmds_steady {l : Nat} {s0 : State} (hl : Covers 0x8000 l) (x0 : Desc) (x1 : Run) (s : State)
    (h0 : Steady l s0 s) :
    Steady l s0 (traverseStartCmds x0 x1 s) := by
  unfold traverseStartCmds
  refine Steady.foldl _ ?_ (fun _ _ _ => ?_)
  · assumption
  · refine Steady.ite ?_ ?_
    · refine queueCmd_steady (hl.sub (by decide)) _ _ _ _ ?_
      assumption
    · assumption

theorem roundStart_steady {l : Nat} {s0 : State} (hl : Covers 0x6001ae106 l) (x0 : Desc) (x1 : List RepairEntry) (x2
    : Nat) (s : State) (h0 : Steady l s0 s) :
    Steady l s0 (roundStart x0 x1 x2 s) := by
  unfold roundStart
  split
  · assumption
  · extract_lets +onlyGivenNames t1
    clear_value t1
    extract_lets +onlyGivenNames t2
    clear_value t2
    extract_lets +onlyGivenNames t3
    clear_value t3
    extract_lets +onlyGivenNames t4
    refine Steady.cut (t := t4) ?_ (fun ht4 => ?_)
    · unfold t4
      exact Steady.upd (m := 0x2000) (hl.sub (by decide))
        (by intro x; cases x <;> first | exact fun _ => rfl | exact fun h => absurd h (by decide)) (by assumption) rfl rfl rfl
    clear_value t4
    extract_lets +onlyGivenNames t5
    refine Steady.cut (t := t5) ?_ (fun ht5 => ?_)
    · unfold t5
      refine State_set_steady (hl.sub (by decide)) _ _ _ ?_
      refine showRepair_steady (hl.sub (by decide)) _ ?_
      exact setRun_steady (hl.sub (by decide)) _ _ (by assumption)
    clear_value t5
    refine repairRunStart_steady (hl.sub (by decide)) _ ?_
    refine jobState_steady (hl.sub (by decide)) _ _ _ ?_
    refine Steady.ite ?_ ?_
    · refine traverseStartCmds_steady (hl.sub (by decide)) _ _ _ ?_
      assumption
    · assumption

theorem traverseArm_steady {l : Nat} {s0 : State} (hl : Covers 0x6001be106 l) (s : State) (h0 : Steady l s0 s) :
    Steady l s0 (traverseArm s) := by
  unfold traverseArm
  split
  · refine Steady.ite ?_ ?_
    · refine Steady.ite ?_ ?_
      · refine repairRunStart_steady (hl.sub (by decide)) _ ?_
        assumption
      · assumption
    · refine Steady.ite ?_ ?_
      · assumption
      · refine Steady.ite ?_ ?_
        · refine Steady.foldl _ ?_ (fun _ _ _ => ?_)
          · assumption
          · refine Steady.ite ?_ ?_
            · refine trainStart_steady (hl.sub (by decide)) _ _ _ ?_
              assumption
            · assumption
        · refine Steady.ite ?_ ?_
          · assumption
          · split
            · refine repairState_steady (hl.sub (by decide)) _ _ ?_
              exact jobState_steady (hl.sub (by decide)) _ _ _ (by assumption)
            · refine Steady.ite ?_ ?_
              · refine roundStart_steady (hl.sub (by decide)) _ _ _ _ ?_
                assumption
              · extract_lets +onlyGivenNames t1
                clear_value t1
                split
                rename_i t2 heq2
                have hk2 := congrArg Prod.snd heq2
                dsimp only at hk2
                refine Steady.cut (t := t2) ?_ (fun ht2 => ?_)
                · rw [← hk2]
                  refine readEntries_steady (hl.sub (by decide)) _ _ _ _ ?_
                  exact setRun_steady (hl.sub (by decide)) _ _ (by assumption)
                clear heq2 hk2
                exact roundStart_steady (hl.sub (by decide)) _ _ _ _ (by assumption)
  · assumption

theorem traverseEnd_steady {l : Nat} {s0 : State} (hl : Covers 0x12a106 l) (x0 : Nat) (s : State) (h0 : Steady l s0
    s) :
    Steady l s0 (traverseEnd x0 s) := by
  unfold traverseEnd
  split
  · assumption
  · extract_lets +onlyGivenNames t1
    refine Steady.cut (t := t1) ?_ (fun ht1 => ?_)
    · unfold t1
      refine Steady.ite ?_ ?_
      · assumption
      · refine event_steady (hl.sub (by decide)) _ _ _ ?_
        assumption
    clear_value t1
    extract_lets +onlyGivenNames t2
    clear_value t2
    extract_lets +onlyGivenNames t3
    refine Steady.cut (t := t3) ?_ (fun ht3 => ?_)
    · unfold t3
      exact Steady.upd (m := 0x2000) (hl.sub (by decide))
        (by intro x; cases x <;> first | exact fun _ => rfl | exact fun h => absurd h (by decide)) (by assumption) rfl rfl rfl
    clear_value t3
    extract_lets +onlyGivenNames t4
    clear_value t4
    extract_lets +onlyGivenNames t5
    refine Steady.cut (t := t5) ?_ (fun ht5 => ?_)
    · unfold t5
      exact linkHalt_steady (hl.sub (by decide)) _ (by assumption)
    clear_value t5
    refine Steady.ite ?_ ?_
    · extract_lets +onlyGivenNames t6
      clear_value t6
      refine repairState_steady (hl.sub (by decide)) _ _ ?_
      refine jobState_steady (hl.sub (by decide)) _ _ _ ?_
      refine showRepair_steady (hl.sub (by decide)) _ ?_
      exact setRun_steady (hl.sub (by decide)) _ _ (by assumption)
    · refine repairState_steady (hl.sub (by decide)) _ _ ?_
      refine showRepair_steady (hl.sub (by decide)) _ ?_
      exact setRun_steady (hl.sub (by decide)) _ _ (by assumption)

theorem traverseSettle_steady {l : Nat} {s0 : State} (hl : Covers 0x12a106 l) (s : State) (h0 : Steady l s0 s) :
    Steady l s0 (traverseSettle s) := by
  unfold traverseSettle
  split
  · assumption
  · refine Steady.ite ?_ ?_
    · assumption
    · extract_lets +onlyGivenNames t1
      clear_value t1
      extract_lets +onlyGivenNames t2
      clear_value t2
      extract_lets +onlyGivenNames t3
      refine Steady.cut (t := t3) ?_ (fun ht3 => ?_)
      · unfold t3
        exact setRun_steady (hl.sub (by decide)) _ _ (by assumption)
      clear_value t3
      refine Steady.ite ?_ ?_
      · refine traverseEnd_steady (hl.sub (by decide)) _ _ ?_
        assumption
      · extract_lets +onlyGivenNames t4
        clear_value t4
        extract_lets +onlyGivenNames t5
        refine Steady.cut (t := t5) ?_ (fun ht5 => ?_)
        · unfold t5
          exact Steady.upd (m := 0x2000) (hl.sub (by decide))
            (by intro x; cases x <;> first | exact fun _ => rfl | exact fun h => absurd h (by decide)) (by assumption) rfl rfl rfl
        clear_value t5
        refine showRepair_steady (hl.sub (by decide)) _ ?_
        refine setRun_steady (hl.sub (by decide)) _ _ ?_
        exact linkHalt_steady (hl.sub (by decide)) _ (by assumption)

theorem repairSkip_steady {l : Nat} {s0 : State} (hl : Covers 0x60012a106 l) (s : State) (h0 : Steady l s0 s) :
    Steady l s0 (repairSkip s) := by
  unfold repairSkip
  split
  · assumption
  · refine Steady.ite ?_ ?_
    · refine Steady.ite ?_ ?_
      · extract_lets +onlyGivenNames t1
        clear_value t1
        extract_lets +onlyGivenNames t2
        refine Steady.cut (t := t2) ?_ (fun ht2 => ?_)
        · unfold t2
          refine Steady.ite ?_ ?_
          · assumption
          · refine event_steady (hl.sub (by decide)) _ _ _ ?_
            assumption
        clear_value t2
        refine showRepair_steady (hl.sub (by decide)) _ ?_
        refine setRun_steady (hl.sub (by decide)) _ _ ?_
        exact Steady.upd (m := 0x2000) (hl.sub (by decide))
          (by intro x; cases x <;> first | exact fun _ => rfl | exact fun h => absurd h (by decide)) (by assumption) rfl rfl rfl
      · assumption
    · extract_lets +onlyGivenNames t3
      clear_value t3
      extract_lets +onlyGivenNames t4
      clear_value t4
      extract_lets +onlyGivenNames t5
      clear_value t5
      refine plannerStop_steady (hl.sub (by decide)) _ ?_
      refine withdraw_steady (hl.sub (by decide)) _ ?_
      refine traverseEnd_steady (hl.sub (by decide)) _ _ ?_
      exact setRun_steady (hl.sub (by decide)) _ _ (by assumption)

theorem lastRegs_steady {l : Nat} {s0 : State} (hl : Covers 0x4 l) (x0 : Desc) (x1 : Run) (s : State) (h0 : Steady l
    s0 s) :
    Steady l s0 (lastRegs x0 x1 s) := by
  unfold lastRegs
  extract_lets +onlyGivenNames t1
  clear_value t1
  extract_lets +onlyGivenNames t2
  clear_value t2
  extract_lets +onlyGivenNames t3
  clear_value t3
  extract_lets +onlyGivenNames t4
  refine Steady.cut (t := t4) ?_ (fun ht4 => ?_)
  · unfold t4
    refine State_wr_steady (hl.sub (by decide)) _ _ _ ?_
    exact State_wr_steady (hl.sub (by decide)) _ _ _ (by assumption)
  clear_value t4
  extract_lets +onlyGivenNames t5
  refine Steady.cut (t := t5) ?_ (fun ht5 => ?_)
  · unfold t5
    refine State_wr_steady (hl.sub (by decide)) _ _ _ ?_
    exact State_wr_steady (hl.sub (by decide)) _ _ _ (by assumption)
  clear_value t5
  extract_lets +onlyGivenNames t6
  refine Steady.cut (t := t6) ?_ (fun ht6 => ?_)
  · unfold t6
    exact State_wr_steady (hl.sub (by decide)) _ _ _ (by assumption)
  clear_value t6
  extract_lets +onlyGivenNames t7
  refine Steady.cut (t := t7) ?_ (fun ht7 => ?_)
  · unfold t7
    exact State_wr_steady (hl.sub (by decide)) _ _ _ (by assumption)
  clear_value t7
  extract_lets +onlyGivenNames t8
  refine Steady.cut (t := t8) ?_ (fun ht8 => ?_)
  · unfold t8
    refine State_wr_steady (hl.sub (by decide)) _ _ _ ?_
    exact State_wr_steady (hl.sub (by decide)) _ _ _ (by assumption)
  clear_value t8
  extract_lets +onlyGivenNames t9
  refine Steady.cut (t := t9) ?_ (fun ht9 => ?_)
  · unfold t9
    exact State_wr_steady (hl.sub (by decide)) _ _ _ (by assumption)
  clear_value t9
  extract_lets +onlyGivenNames t10
  refine Steady.cut (t := t10) ?_ (fun ht10 => ?_)
  · unfold t10
    refine State_wr_steady (hl.sub (by decide)) _ _ _ ?_
    exact State_wr_steady (hl.sub (by decide)) _ _ _ (by assumption)
  clear_value t10
  extract_lets +onlyGivenNames t11
  refine Steady.cut (t := t11) ?_ (fun ht11 => ?_)
  · unfold t11
    refine State_wr_steady (hl.sub (by decide)) _ _ _ ?_
    exact State_wr_steady (hl.sub (by decide)) _ _ _ (by assumption)
  clear_value t11
  extract_lets +onlyGivenNames t12
  refine Steady.cut (t := t12) ?_ (fun ht12 => ?_)
  · unfold t12
    refine State_wr_steady (hl.sub (by decide)) _ _ _ ?_
    exact State_wr_steady (hl.sub (by decide)) _ _ _ (by assumption)
  clear_value t12
  extract_lets +onlyGivenNames t13
  refine Steady.cut (t := t13) ?_ (fun ht13 => ?_)
  · unfold t13
    refine State_wr_steady (hl.sub (by decide)) _ _ _ ?_
    exact State_wr_steady (hl.sub (by decide)) _ _ _ (by assumption)
  clear_value t13
  extract_lets +onlyGivenNames t14
  refine Steady.cut (t := t14) ?_ (fun ht14 => ?_)
  · unfold t14
    exact State_wr_steady (hl.sub (by decide)) _ _ _ (by assumption)
  clear_value t14
  exact State_wr_steady (hl.sub (by decide)) _ _ _ (by assumption)

theorem furrowComplete_steady {l : Nat} {s0 : State} (hl : Covers 0xe001be507 l) (x0 : Bool) (s : State) (h0 :
    Steady l s0 s) :
    Steady l s0 (furrowComplete x0 s) := by
  unfold furrowComplete
  split
  · refine Steady.ite ?_ ?_
    · assumption
    · extract_lets +onlyGivenNames t1
      clear_value t1
      extract_lets +onlyGivenNames t2
      refine Steady.cut (t := t2) ?_ (fun ht2 => ?_)
      · unfold t2
        exact lastRegs_steady (hl.sub (by decide)) _ _ _ (by assumption)
      clear_value t2
      extract_lets +onlyGivenNames t3
      refine Steady.cut (t := t3) ?_ (fun ht3 => ?_)
      · unfold t3
        refine captureAbandon_steady (hl.sub (by decide)) _ _ ?_
        refine idleStage_steady (hl.sub (by decide)) _ ?_
        refine dropRun_steady (hl.sub (by decide)) _ ?_
        exact leadKeep_steady (hl.sub (by decide)) _ (by assumption)
      clear_value t3
      extract_lets +onlyGivenNames t4
      extract_lets +onlyGivenNames t5
      refine Steady.cut (t := t5) ?_ (fun ht5 => ?_)
      · unfold t5
        exact Steady.upd (m := 0x2) (hl.sub (by decide))
          (by intro x; cases x <;> first | exact fun _ => rfl | exact fun h => absurd h (by decide)) (by assumption) rfl rfl rfl
      clear_value t5
      extract_lets +onlyGivenNames t6
      refine Steady.cut (t := t6) ?_ (fun ht6 => ?_)
      · unfold t6
        refine complete_steady (hl.sub (by decide)) _ _ _ _ _ _ _ ?_
        refine setQueue_steady (hl.sub (by decide)) _ _ ?_
        exact unlockStream_steady (hl.sub (by decide)) _ _ (by assumption)
      clear_value t6
      extract_lets +onlyGivenNames t7
      refine Steady.cut (t := t7) ?_ (fun ht7 => ?_)
      · unfold t7
        refine repairState_steady (hl.sub (by decide)) _ _ ?_
        refine Steady.ite ?_ ?_
        · refine jobState_steady (hl.sub (by decide)) _ _ _ ?_
          assumption
        · refine jobState_steady (hl.sub (by decide)) _ _ _ ?_
          assumption
      clear_value t7
      exact boundaryWork_steady (hl.sub (by decide)) _ _ (by assumption)
  · assumption

end Sys2Proof.Machine
end

