-- ==== Sys2Proof/Laws/Steady10.lean ====
section
/-! SUPPORT. What the operations of LinkEvents keep (Laws/Steady.lean). -/

set_option linter.unusedVariables false
set_option maxRecDepth 4000

namespace Sys2Proof.Machine

theorem headEffect_steady {l : Nat} {s0 : State} (hl : Covers 0x600106106 l) (s : State) (h0 : Steady l s0 s) :
    Steady l s0 (headEffect s) := by
  unfold headEffect
  split
  · assumption
  · refine Steady.ite ?_ ?_
    · assumption
    · refine Steady.ite ?_ ?_
      · refine Steady.ite ?_ ?_
        · assumption
        · refine raiseCause_steady (hl.sub (by decide)) _ _ ?_
          assumption
      · refine Steady.ite ?_ ?_
        · refine Steady.ite ?_ ?_
          · refine setRun_steady (hl.sub (by decide)) _ _ ?_
            assumption
          · refine dueCause_steady (hl.sub (by decide)) _ _ ?_
            assumption
        · assumption

theorem headLevels_steady {l : Nat} {s0 : State} (hl : Covers 0xe00106106 l) (s : State) (h0 : Steady l s0 s) :
    Steady l s0 (headLevels s) := by
  unfold headLevels
  extract_lets +onlyGivenNames t1
  clear_value t1
  extract_lets +onlyGivenNames t2
  clear_value t2
  extract_lets +onlyGivenNames t3
  clear_value t3
  extract_lets +onlyGivenNames t4
  refine Steady.cut (t := t4) ?_ (fun ht4 => ?_)
  · unfold t4
    exact Steady.upd (m := 0x800000000) (hl.sub (by decide))
      (by intro x; cases x <;> first | exact fun _ => rfl | exact fun h => absurd h (by decide)) (by assumption) rfl rfl rfl
  clear_value t4
  extract_lets +onlyGivenNames t5
  refine Steady.cut (t := t5) ?_ (fun ht5 => ?_)
  · unfold t5
    refine Steady.ite ?_ ?_
    · refine State_set_steady (hl.sub (by decide)) _ _ _ ?_
      assumption
    · assumption
  clear_value t5
  extract_lets +onlyGivenNames t6
  refine Steady.cut (t := t6) ?_ (fun ht6 => ?_)
  · unfold t6
    refine Steady.ite ?_ ?_
    · refine State_set_steady (hl.sub (by decide)) _ _ _ ?_
      assumption
    · assumption
  clear_value t6
  extract_lets +onlyGivenNames t7
  refine Steady.cut (t := t7) ?_ (fun ht7 => ?_)
  · unfold t7
    refine Steady.ite ?_ ?_
    · refine raise_steady (hl.sub (by decide)) _ _ ?_
      exact event_steady (hl.sub (by decide)) _ _ _ (by assumption)
    · assumption
  clear_value t7
  exact headEffect_steady (hl.sub (by decide)) _ (by assumption)

theorem hear_steady {l : Nat} {s0 : State} (hl : Covers 0x8004 l) (g : Nat) (s t : State) (h0 : Steady l s0 s) (ht :
    hear g s = some t) : Steady l s0 t:= by
  unfold hear at ht
  split at ht
  · cases ht
  · dsimp only at ht
    split at ht
    · obtain rfl := Option.some.inj ht
      exact setGrp_steady (hl.sub (by decide)) _ _ _ h0
    · split at ht
      · obtain rfl := Option.some.inj ht
        exact bkAligned_steady (hl.sub (by decide)) _ _ (setGrp_steady (hl.sub (by decide)) _ _ _ h0)
      · cases ht

theorem idleBk_steady {l : Nat} {s0 : State} (hl : Covers 0x8004 l) (x0 : Nat) (s : State) (h0 : Steady l s0 s) :
    Steady l s0 (idleBk x0 s) := by
  unfold idleBk
  cases h : hear x0 s with
  | none => exact h0
  | some t => exact hear_steady (hl.sub (by decide)) _ _ _ h0 h

theorem bkLost_steady {l : Nat} {s0 : State} (hl : Covers 0x6001be106 l) (x0 : Nat) (s : State) (h0 : Steady l s0 s) :
    Steady l s0 (bkLost x0 s) := by
  unfold bkLost
  extract_lets +onlyGivenNames t1
  clear_value t1
  refine Steady.ite ?_ ?_
  · assumption
  · refine groupOut_steady (hl.sub (by decide)) _ _ _ ?_
    exact setGrp_steady (hl.sub (by decide)) _ _ _ (by assumption)

theorem ackLane_steady {l : Nat} {s0 : State} (hl : Covers 0x6001be106 l) (x0 : Nat) (x1 : Nat) (x2 : Nat) (s :
    State) (h0 : Steady l s0 s) :
    Steady l s0 (ackLane x0 x1 x2 s) := by
  unfold ackLane
  extract_lets +onlyGivenNames t1
  clear_value t1
  split
  · assumption
  · split
    · assumption
    · refine Steady.ite ?_ ?_
      · assumption
      · extract_lets +onlyGivenNames t2
        clear_value t2
        refine attemptResult_steady (hl.sub (by decide)) _ _ _ _ _ ?_
        exact setGrp_steady (hl.sub (by decide)) _ _ _ (by assumption)

theorem ackShot_steady {l : Nat} {s0 : State} (hl : Covers 0x6001be106 l) (x0 : Nat) (x1 : Nat) (x2 : Nat) (s :
    State) (h0 : Steady l s0 s) :
    Steady l s0 (ackShot x0 x1 x2 s) := by
  unfold ackShot
  split
  · assumption
  · rename_i t1 heq1
    refine Steady.cut (t := t1) (hear_steady (hl.sub (by decide)) _ _ _ ?_ heq1) (fun ht1 => ?_)
    · assumption
    clear heq1
    refine Steady.foldl _ ?_ (fun _ _ _ => ?_)
    · assumption
    · refine ackLane_steady (hl.sub (by decide)) _ _ _ _ ?_
      assumption

theorem rollAcked_steady {l : Nat} {s0 : State} (hl : Covers 0x28004 l) (x0 : Nat) (x1 : LinkCmd) (s : State) (h0 :
    Steady l s0 s) :
    Steady l s0 (rollAcked x0 x1 s) := by
  unfold rollAcked
  split
  · refine Steady.ite ?_ ?_
    · extract_lets +onlyGivenNames t1
      refine Steady.cut (t := t1) ?_ (fun ht1 => ?_)
      · unfold t1
        exact State_set_steady (hl.sub (by decide)) _ _ _ (by assumption)
      clear_value t1
      extract_lets +onlyGivenNames t2
      clear_value t2
      extract_lets +onlyGivenNames t3
      clear_value t3
      refine setGrp_steady (hl.sub (by decide)) _ _ _ ?_
      exact Steady.upd (m := 0x20000) (hl.sub (by decide))
        (by intro x; cases x <;> first | exact fun _ => rfl | exact fun h => absurd h (by decide)) (by assumption) rfl rfl rfl
    · assumption
  · assumption

theorem ackFrame_steady {l : Nat} {s0 : State} (hl : Covers 0x6001be106 l) (x0 : Nat) (x1 : Nat) (s : State) (h0 :
    Steady l s0 s) :
    Steady l s0 (ackFrame x0 x1 s) := by
  unfold ackFrame
  split
  · assumption
  · rename_i t1 heq1
    refine Steady.cut (t := t1) (hear_steady (hl.sub (by decide)) _ _ _ ?_ heq1) (fun ht1 => ?_)
    · assumption
    clear heq1
    extract_lets +onlyGivenNames t2
    clear_value t2
    split
    · assumption
    · extract_lets +onlyGivenNames t3
      refine Steady.cut (t := t3) ?_ (fun ht3 => ?_)
      · unfold t3
        exact setGrp_steady (hl.sub (by decide)) _ _ _ (by assumption)
      clear_value t3
      extract_lets +onlyGivenNames t4
      refine Steady.cut (t := t4) ?_ (fun ht4 => ?_)
      · unfold t4
        split
        · refine attemptResult_steady (hl.sub (by decide)) _ _ _ _ _ ?_
          assumption
        · assumption
      clear_value t4
      exact rollAcked_steady (hl.sub (by decide)) _ _ _ (by assumption)

theorem nak_steady {l : Nat} {s0 : State} (hl : Covers 0x6001be106 l) (x0 : Nat) (x1 : Nat) (x2 : Nat) (s : State)
    (h0 : Steady l s0 s) :
    Steady l s0 (nak x0 x1 x2 s) := by
  unfold nak
  split
  · assumption
  · rename_i t1 heq1
    refine Steady.cut (t := t1) (hear_steady (hl.sub (by decide)) _ _ _ ?_ heq1) (fun ht1 => ?_)
    · assumption
    clear heq1
    split
    · refine attemptFailed_steady (hl.sub (by decide)) _ _ _ _ ?_
      exact State_inc_steady (hl.sub (by decide)) _ _ _ (by assumption)
    · assumption

theorem attemptTimeout_steady {l : Nat} {s0 : State} (hl : Covers 0x6001be106 l) (x0 : Nat) (x1 : Nat) (x2 : Nat) (s
    : State) (h0 : Steady l s0 s) :
    Steady l s0 (attemptTimeout x0 x1 x2 s) := by
  unfold attemptTimeout
  split
  · refine Steady.ite ?_ ?_
    · refine attemptFailed_steady (hl.sub (by decide)) _ _ _ _ ?_
      exact State_inc_steady (hl.sub (by decide)) _ _ _ (by assumption)
    · assumption
  · assumption

theorem commandTimeout_steady {l : Nat} {s0 : State} (hl : Covers 0x6001be106 l) (x0 : Nat) (x1 : Nat) (s : State)
    (h0 : Steady l s0 s) :
    Steady l s0 (commandTimeout x0 x1 s) := by
  unfold commandTimeout
  split
  · split
    · refine attemptFailed_steady (hl.sub (by decide)) _ _ _ _ ?_
      exact State_inc_steady (hl.sub (by decide)) _ _ _ (by assumption)
    · assumption
  · assumption

theorem usageShot_steady {l : Nat} {s0 : State} (hl : Covers 0x900000 l) (x0 : Nat) (x1 : List (List Byte)) (s :
    State) (h0 : Steady l s0 s) :
    Steady l s0 (usageShot x0 x1 s) := by
  unfold usageShot
  extract_lets +onlyGivenNames t1
  clear_value t1
  refine Steady.ite ?_ ?_
  · refine Steady.upd (m := 0x100000) (hl.sub (by decide)) (by intro x; cases x <;> first | exact fun _ => rfl | exact fun h => absurd h (by decide)) ?_ ?_ ?_ ?_
    · assumption
    · exact rfl
    · exact rfl
    · exact rfl
  · refine Steady.upd (m := 0x800000) (hl.sub (by decide)) (by intro x; cases x <;> first | exact fun _ => rfl | exact fun h => absurd h (by decide)) ?_ ?_ ?_ ?_
    · assumption
    · exact rfl
    · exact rfl
    · exact rfl

theorem reportGap_steady {l : Nat} {s0 : State} (hl : Covers 0x902004 l) (x0 : Nat) (x1 : Nat × Bool × List (List
    Byte)) (s : State) (h0 : Steady l s0 s) :
    Steady l s0 (reportGap x0 x1 s) := by
  unfold reportGap
  extract_lets +onlyGivenNames t1
  refine Steady.cut (t := t1) ?_ (fun ht1 => ?_)
  · unfold t1
    refine flagRun_steady (hl.sub (by decide)) _ _ ?_
    exact State_inc_steady (hl.sub (by decide)) _ _ _ (by assumption)
  clear_value t1
  refine Steady.ite ?_ ?_
  · refine usageShot_steady (hl.sub (by decide)) _ _ _ ?_
    refine Steady.ite ?_ ?_
    · refine flagRun_steady (hl.sub (by decide)) _ _ ?_
      assumption
    · assumption
  · assumption

theorem reconcile_steady {l : Nat} {s0 : State} (hl : Covers 0x600986106 l) (x0 : Nat) (x1 : Nat) (x2 : Bool) (x3 :
    Nat × Bool × List (List Byte)) (s : State) (h0 : Steady l s0 s) :
    Steady l s0 (reconcile x0 x1 x2 x3 s) := by
  unfold reconcile
  refine Steady.ite ?_ ?_
  · extract_lets +onlyGivenNames t1
    refine Steady.cut (t := t1) ?_ (fun ht1 => ?_)
    · unfold t1
      refine Steady.ite ?_ ?_
      · refine flagRun_steady (hl.sub (by decide)) _ _ ?_
        assumption
      · assumption
    clear_value t1
    refine usageShot_steady (hl.sub (by decide)) _ _ _ ?_
    refine Steady.ite ?_ ?_
    · assumption
    · refine voidEntry_steady (hl.sub (by decide)) _ _ _ ?_
      assumption
  · refine Steady.ite ?_ ?_
    · refine addEntry_steady (hl.sub (by decide)) _ _ ?_
      exact State_inc_steady (hl.sub (by decide)) _ _ _ (by assumption)
    · assumption

theorem reportOne_steady {l : Nat} {s0 : State} (hl : Covers 0x60098e106 l) (x0 : Nat) (x1 : Nat) (x2 : Nat) (x3 :
    Bool) (s : State) (h0 : Steady l s0 s) :
    Steady l s0 (reportOne x0 x1 x2 x3 s) := by
  unfold reportOne
  extract_lets +onlyGivenNames t1
  clear_value t1
  split
  · assumption
  · refine reconcile_steady (hl.sub (by decide)) _ _ _ _ _ ?_
    exact setGrp_steady (hl.sub (by decide)) _ _ _ (by assumption)

theorem shotReport_steady {l : Nat} {s0 : State} (hl : Covers 0x6009ae106 l) (x0 : Nat) (x1 : Nat) (x2 : Nat) (x3 :
    Nat) (s : State) (h0 : Steady l s0 s) :
    Steady l s0 (shotReport x0 x1 x2 x3 s) := by
  unfold shotReport
  split
  · assumption
  · rename_i t1 heq1
    refine Steady.cut (t := t1) (hear_steady (hl.sub (by decide)) _ _ _ ?_ heq1) (fun ht1 => ?_)
    · assumption
    clear heq1
    extract_lets +onlyGivenNames t2
    clear_value t2
    extract_lets +onlyGivenNames t3
    clear_value t3
    extract_lets +onlyGivenNames t4
    refine Steady.cut (t := t4) ?_ (fun ht4 => ?_)
    · unfold t4
      refine Steady.foldl _ ?_ (fun _ _ _ => ?_)
      · assumption
      · refine reportOne_steady (hl.sub (by decide)) _ _ _ _ _ ?_
        assumption
    clear_value t4
    extract_lets +onlyGivenNames t5
    clear_value t5
    extract_lets +onlyGivenNames t6
    clear_value t6
    extract_lets +onlyGivenNames t7
    refine Steady.cut (t := t7) ?_ (fun ht7 => ?_)
    · unfold t7
      exact setGrp_steady (hl.sub (by decide)) _ _ _ (by assumption)
    clear_value t7
    refine traverseSettle_steady (hl.sub (by decide)) _ ?_
    refine Steady.foldl _ ?_ (fun _ _ _ => ?_)
    · assumption
    · refine reportGap_steady (hl.sub (by decide)) _ _ _ ?_
      assumption

theorem accountClose_steady {l : Nat} {s0 : State} (hl : Covers 0x92a106 l) (s : State) (h0 : Steady l s0 s) :
    Steady l s0 (accountClose s) := by
  unfold accountClose
  split
  · assumption
  · refine Steady.ite ?_ ?_
    · assumption
    · extract_lets +onlyGivenNames t1
      refine Steady.cut (t := t1) ?_ (fun ht1 => ?_)
      · unfold t1
        refine Steady.foldl _ ?_ (fun _ _ _ => ?_)
        · assumption
        · extract_lets +onlyGivenNames t2
          clear_value t2
          refine Steady.foldl _ ?_ (fun _ _ _ => ?_)
          · refine setGrp_steady (hl.sub (by decide)) _ _ _ ?_
            assumption
          · refine reportGap_steady (hl.sub (by decide)) _ _ _ ?_
            assumption
      clear_value t1
      exact traverseSettle_steady (hl.sub (by decide)) _ (by assumption)

theorem headFields_steady {l : Nat} {s0 : State} (hl : Covers 0x4 l) (x0 : List Byte) (s : State) (h0 : Steady l s0
    s) :
    Steady l s0 (headFields x0 s) := by
  unfold headFields
  extract_lets +onlyGivenNames t1
  refine Steady.cut (t := t1) ?_ (fun ht1 => ?_)
  · unfold t1
    exact State_wr_steady (hl.sub (by decide)) _ _ _ (by assumption)
  clear_value t1
  extract_lets +onlyGivenNames t2
  refine Steady.cut (t := t2) ?_ (fun ht2 => ?_)
  · unfold t2
    refine State_wr_steady (hl.sub (by decide)) _ _ _ ?_
    exact State_wr_steady (hl.sub (by decide)) _ _ _ (by assumption)
  clear_value t2
  extract_lets +onlyGivenNames t3
  refine Steady.cut (t := t3) ?_ (fun ht3 => ?_)
  · unfold t3
    exact State_wr_steady (hl.sub (by decide)) _ _ _ (by assumption)
  clear_value t3
  extract_lets +onlyGivenNames t4
  refine Steady.cut (t := t4) ?_ (fun ht4 => ?_)
  · unfold t4
    exact State_wr_steady (hl.sub (by decide)) _ _ _ (by assumption)
  clear_value t4
  extract_lets +onlyGivenNames t5
  refine Steady.cut (t := t5) ?_ (fun ht5 => ?_)
  · unfold t5
    exact State_wr_steady (hl.sub (by decide)) _ _ _ (by assumption)
  clear_value t5
  refine State_set_steady (hl.sub (by decide)) _ _ _ ?_
  exact State_set_steady (hl.sub (by decide)) _ _ _ (by assumption)

theorem headReadEvent_steady {l : Nat} {s0 : State} (hl : Covers 0x100106 l) (x0 : Nat) (s : State) (h0 : Steady l
    s0 s) :
    Steady l s0 (headReadEvent x0 s) := by
  unfold headReadEvent
  extract_lets +onlyGivenNames t1
  clear_value t1
  extract_lets +onlyGivenNames t2
  refine Steady.cut (t := t2) ?_ (fun ht2 => ?_)
  · unfold t2
    exact State_set_steady (hl.sub (by decide)) _ _ _ (by assumption)
  clear_value t2
  exact event_steady (hl.sub (by decide)) _ _ _ (by assumption)

theorem readingDone_steady {l : Nat} {s0 : State} (hl : Covers 0x38104 l) (x0 : Nat) (s : State) (h0 : Steady l s0
    s) :
    Steady l s0 (readingDone x0 s) := by
  unfold readingDone
  extract_lets +onlyGivenNames t1
  clear_value t1
  extract_lets +onlyGivenNames t2
  refine Steady.cut (t := t2) ?_ (fun ht2 => ?_)
  · unfold t2
    exact Steady.upd (m := 0x10000) (hl.sub (by decide))
      (by intro x; cases x <;> first | exact fun _ => rfl | exact fun h => absurd h (by decide)) (by assumption) rfl rfl rfl
  refine Steady.ite ?_ ?_
  · refine trainingDone_steady (hl.sub (by decide)) _ _ ?_
    assumption
  · assumption

theorem headContent_steady {l : Nat} {s0 : State} (hl : Covers 0xe001be107 l) (x0 : List Byte) (s : State) (h0 :
    Steady l s0 s) :
    Steady l s0 (headContent x0 s) := by
  unfold headContent
  refine Steady.ite ?_ ?_
  · assumption
  · refine disarm_steady (hl.sub (by decide)) _ ?_
    exact Steady.upd (m := 0x10000) (hl.sub (by decide))
      (by intro x; cases x <;> first | exact fun _ => rfl | exact fun h => absurd h (by decide)) (by assumption) rfl rfl rfl

theorem defectsTaken_steady {l : Nat} {s0 : State} (hl : Covers 0xe041be107 l) (x0 : List Byte) (x1 : List Byte) (s
    : State) (h0 : Steady l s0 s) :
    Steady l s0 (defectsTaken x0 x1 s) := by
  unfold defectsTaken
  extract_lets +onlyGivenNames t1
  clear_value t1
  split
  extract_lets +onlyGivenNames t2
  clear_value t2
  extract_lets +onlyGivenNames t3
  clear_value t3
  extract_lets +onlyGivenNames t4
  refine Steady.cut (t := t4) ?_ (fun ht4 => ?_)
  · unfold t4
    exact Steady.upd (m := 0x4002000) (hl.sub (by decide))
      (by intro x; cases x <;> first | exact fun _ => rfl | exact fun h => absurd h (by decide)) (by assumption) rfl rfl rfl
  clear_value t4
  extract_lets +onlyGivenNames t5
  refine Steady.cut (t := t5) ?_ (fun ht5 => ?_)
  · unfold t5
    refine State_set_steady (hl.sub (by decide)) _ _ _ ?_
    exact State_set_steady (hl.sub (by decide)) _ _ _ (by assumption)
  clear_value t5
  extract_lets +onlyGivenNames t6
  refine Steady.cut (t := t6) ?_ (fun ht6 => ?_)
  · unfold t6
    exact State_set_steady (hl.sub (by decide)) _ _ _ (by assumption)
  clear_value t6
  extract_lets +onlyGivenNames t7
  clear_value t7
  extract_lets +onlyGivenNames t8
  refine Steady.cut (t := t8) ?_ (fun ht8 => ?_)
  · unfold t8
    exact State_wr_steady (hl.sub (by decide)) _ _ _ (by assumption)
  clear_value t8
  extract_lets +onlyGivenNames t9
  clear_value t9
  extract_lets +onlyGivenNames t10
  refine Steady.cut (t := t10) ?_ (fun ht10 => ?_)
  · unfold t10
    refine Steady.ite ?_ ?_
    · assumption
    · refine Steady.upd (m := 0x800000000) (hl.sub (by decide)) (by intro x; cases x <;> first | exact fun _ => rfl | exact fun h => absurd h (by decide)) ?_ ?_ ?_ ?_
      · assumption
      · exact rfl
      · exact rfl
      · exact rfl
  clear_value t10
  refine headLevels_steady (hl.sub (by decide)) _ ?_
  refine headContent_steady (hl.sub (by decide)) _ _ ?_
  exact headReadEvent_steady (hl.sub (by decide)) _ _ (by assumption)

theorem identityTaken_steady {l : Nat} {s0 : State} (hl : Covers 0xe001be107 l) (x0 : Nat) (x1 : List Byte) (s :
    State) (h0 : Steady l s0 s) :
    Steady l s0 (identityTaken x0 x1 s) := by
  unfold identityTaken
  extract_lets +onlyGivenNames t1
  clear_value t1
  extract_lets +onlyGivenNames t2
  refine Steady.cut (t := t2) ?_ (fun ht2 => ?_)
  · unfold t2
    exact Steady.upd (m := 0x10000) (hl.sub (by decide))
      (by intro x; cases x <;> first | exact fun _ => rfl | exact fun h => absurd h (by decide)) (by assumption) rfl rfl rfl
  clear_value t2
  refine Steady.ite ?_ ?_
  · refine readingDone_steady (hl.sub (by decide)) _ _ ?_
    refine headContent_steady (hl.sub (by decide)) _ _ ?_
    refine headReadEvent_steady (hl.sub (by decide)) _ _ ?_
    exact Steady.upd (m := 0x2000) (hl.sub (by decide))
      (by intro x; cases x <;> first | exact fun _ => rfl | exact fun h => absurd h (by decide)) (by assumption) rfl rfl rfl
  · extract_lets +onlyGivenNames t3
    refine Steady.cut (t := t3) ?_ (fun ht3 => ?_)
    · unfold t3
      refine State_set_steady (hl.sub (by decide)) _ _ _ ?_
      exact headFields_steady (hl.sub (by decide)) _ _ (by assumption)
    clear_value t3
    refine Steady.ite ?_ ?_
    · refine readingDone_steady (hl.sub (by decide)) _ _ ?_
      refine headContent_steady (hl.sub (by decide)) _ _ ?_
      refine headReadEvent_steady (hl.sub (by decide)) _ _ ?_
      exact Steady.upd (m := 0x2000) (hl.sub (by decide))
        (by intro x; cases x <;> first | exact fun _ => rfl | exact fun h => absurd h (by decide)) (by assumption) rfl rfl rfl
    · extract_lets +onlyGivenNames t4
      refine Steady.cut (t := t4) ?_ (fun ht4 => ?_)
      · unfold t4
        refine Steady.ite ?_ ?_
        · refine headReadEvent_steady (hl.sub (by decide)) _ _ ?_
          assumption
        · assumption
      clear_value t4
      extract_lets +onlyGivenNames t5
      clear_value t5
      split
      · extract_lets +onlyGivenNames t6
        clear_value t6
        extract_lets +onlyGivenNames t7
        refine Steady.cut (t := t7) ?_ (fun ht7 => ?_)
        · unfold t7
          exact Steady.upd (m := 0x10000) (hl.sub (by decide))
            (by intro x; cases x <;> first | exact fun _ => rfl | exact fun h => absurd h (by decide)) (by assumption) rfl rfl rfl
        clear_value t7
        extract_lets +onlyGivenNames t8
        refine Steady.cut (t := t8) ?_ (fun ht8 => ?_)
        · unfold t8
          exact defectRead_steady (hl.sub (by decide)) _ _ _ _ (by assumption)
        clear_value t8
        refine Steady.ite ?_ ?_
        · assumption
        · refine readingDone_steady (hl.sub (by decide)) _ _ ?_
          assumption
      · refine readingDone_steady (hl.sub (by decide)) _ _ ?_
        assumption

theorem readFailed_steady {l : Nat} {s0 : State} (hl : Covers 0x13a106 l) (x0 : Nat) (x1 : HeadRead) (s : State) (h0
    : Steady l s0 s) :
    Steady l s0 (readFailed x0 x1 s) := by
  unfold readFailed
  refine Steady.ite ?_ ?_
  · refine Steady.ite ?_ ?_
    · refine defectRead_steady (hl.sub (by decide)) _ _ _ _ ?_
      assumption
    · refine identityRead_steady (hl.sub (by decide)) _ _ _ ?_
      assumption
  · extract_lets +onlyGivenNames t1
    clear_value t1
    refine readingDone_steady (hl.sub (by decide)) _ _ ?_
    refine headReadEvent_steady (hl.sub (by decide)) _ _ ?_
    exact Steady.upd (m := 0x12000) (hl.sub (by decide))
      (by intro x; cases x <;> first | exact fun _ => rfl | exact fun h => absurd h (by decide)) (by assumption) rfl rfl rfl

theorem memData_steady {l : Nat} {s0 : State} (hl : Covers 0xe041be107 l) (x0 : Nat) (x1 : Nat) (s : State) (h0 :
    Steady l s0 s) :
    Steady l s0 (memData x0 x1 s) := by
  unfold memData
  split
  · assumption
  · rename_i t1 heq1
    refine Steady.cut (t := t1) (hear_steady (hl.sub (by decide)) _ _ _ ?_ heq1) (fun ht1 => ?_)
    · assumption
    clear heq1
    split
    · assumption
    · extract_lets +onlyGivenNames t2
      clear_value t2
      extract_lets +onlyGivenNames t3
      clear_value t3
      extract_lets +onlyGivenNames t4
      clear_value t4
      extract_lets +onlyGivenNames t5
      clear_value t5
      extract_lets +onlyGivenNames t6
      clear_value t6
      extract_lets +onlyGivenNames t7
      clear_value t7
      extract_lets +onlyGivenNames t8
      clear_value t8
      extract_lets +onlyGivenNames t9
      refine Steady.cut (t := t9) ?_ (fun ht9 => ?_)
      · unfold t9
        exact Steady.upd (m := 0x10000) (hl.sub (by decide))
          (by intro x; cases x <;> first | exact fun _ => rfl | exact fun h => absurd h (by decide)) (by assumption) rfl rfl rfl
      clear_value t9
      refine Steady.ite ?_ ?_
      · assumption
      · extract_lets +onlyGivenNames t10
        clear_value t10
        extract_lets +onlyGivenNames t11
        clear_value t11
        refine Steady.ite ?_ ?_
        · refine headReadNext_steady (hl.sub (by decide)) _ _ _ _ ?_
          assumption
        · refine Steady.ite ?_ ?_
          · extract_lets +onlyGivenNames t12
            clear_value t12
            refine Steady.ite ?_ ?_
            · refine readingDone_steady (hl.sub (by decide)) _ _ ?_
              exact defectsTaken_steady (hl.sub (by decide)) _ _ _ (by assumption)
            · refine readFailed_steady (hl.sub (by decide)) _ _ _ ?_
              assumption
          · refine Steady.ite ?_ ?_
            · refine identityTaken_steady (hl.sub (by decide)) _ _ _ ?_
              assumption
            · refine readFailed_steady (hl.sub (by decide)) _ _ _ ?_
              assumption

theorem rereadNow_steady {l : Nat} {s0 : State} (hl : Covers 0xe001be107 l) (s : State) (h0 : Steady l s0 s) :
    Steady l s0 (rereadNow s) := by
  unfold rereadNow
  refine Steady.ite ?_ ?_
  · assumption
  · extract_lets +onlyGivenNames t1
    clear_value t1
    extract_lets +onlyGivenNames t2
    refine Steady.cut (t := t2) ?_ (fun ht2 => ?_)
    · unfold t2
      exact Steady.upd (m := 0x10000) (hl.sub (by decide))
        (by intro x; cases x <;> first | exact fun _ => rfl | exact fun h => absurd h (by decide)) (by assumption) rfl rfl rfl
    clear_value t2
    split
    · refine rereadStart_steady (hl.sub (by decide)) _ ?_
      assumption
    · refine Steady.ite ?_ ?_
      · assumption
      · refine endFurrow_steady (hl.sub (by decide)) _ _ ?_
        assumption

theorem frameBoundary_steady {l : Nat} {s0 : State} (hl : Covers 0xe001be107 l) (x0 : Nat) (x1 : Nat) (s : State)
    (h0 : Steady l s0 s) :
    Steady l s0 (frameBoundary x0 x1 s) := by
  unfold frameBoundary
  refine endDisarm_steady (hl.sub (by decide)) _ ?_
  exact laneBoundary_steady (hl.sub (by decide)) _ _ _ (by assumption)

theorem statusWord_steady {l : Nat} {s0 : State} (hl : Covers 0xe001be107 l) (x0 : Nat) (x1 : Nat) (s : State) (h0 :
    Steady l s0 s) :
    Steady l s0 (statusWord x0 x1 s) := by
  unfold statusWord
  split
  · assumption
  · rename_i t1 heq1
    refine Steady.cut (t := t1) (hear_steady (hl.sub (by decide)) _ _ _ ?_ heq1) (fun ht1 => ?_)
    · assumption
    clear heq1
    extract_lets +onlyGivenNames t2
    clear_value t2
    extract_lets +onlyGivenNames t3
    refine Steady.cut (t := t3) ?_ (fun ht3 => ?_)
    · unfold t3
      exact setGrp_steady (hl.sub (by decide)) _ _ _ (by assumption)
    clear_value t3
    extract_lets +onlyGivenNames t4
    clear_value t4
    extract_lets +onlyGivenNames t5
    clear_value t5
    extract_lets +onlyGivenNames t6
    clear_value t6
    extract_lets +onlyGivenNames t7
    clear_value t7
    extract_lets +onlyGivenNames t8
    refine Steady.cut (t := t8) ?_ (fun ht8 => ?_)
    · unfold t8
      refine State_set_steady (hl.sub (by decide)) _ _ _ ?_
      exact State_set_steady (hl.sub (by decide)) _ _ _ (by assumption)
    clear_value t8
    extract_lets +onlyGivenNames t9
    clear_value t9
    extract_lets +onlyGivenNames t10
    refine Steady.cut (t := t10) ?_ (fun ht10 => ?_)
    · unfold t10
      refine Steady.ite ?_ ?_
      · refine Steady.upd (m := 0x800000000) (hl.sub (by decide)) (by intro x; cases x <;> first | exact fun _ => rfl | exact fun h => absurd h (by decide)) ?_ ?_ ?_ ?_
        · assumption
        · exact rfl
        · exact rfl
        · exact rfl
      · assumption
    clear_value t10
    extract_lets +onlyGivenNames t11
    refine Steady.cut (t := t11) ?_ (fun ht11 => ?_)
    · unfold t11
      refine headLevels_steady (hl.sub (by decide)) _ ?_
      exact tallyHead_steady (hl.sub (by decide)) _ (by assumption)
    clear_value t11
    refine Steady.ite ?_ ?_
    · refine rereadNow_steady (hl.sub (by decide)) _ ?_
      assumption
    · assumption

theorem laneState_steady {l : Nat} {s0 : State} (hl : Covers 0x6001be106 l) (x0 : Nat) (x1 : Nat) (x2 : Bool) (s :
    State) (h0 : Steady l s0 s) :
    Steady l s0 (laneState x0 x1 x2 s) := by
  unfold laneState
  split
  · assumption
  · rename_i t1 heq1
    refine Steady.cut (t := t1) (hear_steady (hl.sub (by decide)) _ _ _ ?_ heq1) (fun ht1 => ?_)
    · assumption
    clear heq1
    extract_lets +onlyGivenNames t2
    refine Steady.cut (t := t2) ?_ (fun ht2 => ?_)
    · unfold t2
      refine State_set_steady (hl.sub (by decide)) _ _ _ ?_
      exact State_set_steady (hl.sub (by decide)) _ _ _ (by assumption)
    clear_value t2
    extract_lets +onlyGivenNames t3
    clear_value t3
    extract_lets +onlyGivenNames t4
    clear_value t4
    refine Steady.ite ?_ ?_
    · refine lockingCheck_steady (hl.sub (by decide)) _ _ ?_
      assumption
    · refine Steady.ite ?_ ?_
      · assumption
      · refine Steady.ite ?_ ?_
        · refine groupOut_steady (hl.sub (by decide)) _ _ _ ?_
          assumption
        · refine lanesLost_steady (hl.sub (by decide)) _ _ _ _ ?_
          assumption

theorem adaptMerit_steady {l : Nat} {s0 : State} (hl : Covers 0x38104 l) (x0 : Nat) (x1 : Nat) (x2 : Nat) (s :
    State) (h0 : Steady l s0 s) :
    Steady l s0 (adaptMerit x0 x1 x2 s) := by
  unfold adaptMerit
  split
  · assumption
  · split
    refine Steady.ite ?_ ?_
    · refine adaptDone_steady (hl.sub (by decide)) _ _ _ _ ?_
      assumption
    · extract_lets +onlyGivenNames t1
      clear_value t1
      exact setGrp_steady (hl.sub (by decide)) _ _ _ (by assumption)

theorem fom_steady {l : Nat} {s0 : State} (hl : Covers 0x38104 l) (x0 : Nat) (x1 : Nat) (x2 : Nat) (s : State) (h0 :
    Steady l s0 s) :
    Steady l s0 (fom x0 x1 x2 s) := by
  unfold fom
  split
  · assumption
  · rename_i t1 heq1
    refine Steady.cut (t := t1) (hear_steady (hl.sub (by decide)) _ _ _ ?_ heq1) (fun ht1 => ?_)
    · assumption
    clear heq1
    refine Steady.ite ?_ ?_
    · assumption
    · extract_lets +onlyGivenNames t2
      refine Steady.cut (t := t2) ?_ (fun ht2 => ?_)
      · unfold t2
        refine State_set_steady (hl.sub (by decide)) _ _ _ ?_
        refine State_set_steady (hl.sub (by decide)) _ _ _ ?_
        exact State_set_steady (hl.sub (by decide)) _ _ _ (by assumption)
      clear_value t2
      split
      · refine Steady.ite ?_ ?_
        · refine adaptMerit_steady (hl.sub (by decide)) _ _ _ _ ?_
          assumption
        · assumption
      · assumption

theorem fomTimeout_steady {l : Nat} {s0 : State} (hl : Covers 0x38104 l) (x0 : Nat) (x1 : Nat) (s : State) (h0 :
    Steady l s0 s) :
    Steady l s0 (fomTimeout x0 x1 s) := by
  unfold fomTimeout
  split
  · refine Steady.ite ?_ ?_
    · assumption
    · refine Steady.ite ?_ ?_
      · extract_lets +onlyGivenNames t1
        clear_value t1
        refine queueCmd_steady (hl.sub (by decide)) _ _ _ _ ?_
        exact setGrp_steady (hl.sub (by decide)) _ _ _ (by assumption)
      · refine adaptMerit_steady (hl.sub (by decide)) _ _ _ _ ?_
        assumption
  · assumption

theorem bkAct_steady {l : Nat} {s0 : State} (hl : Covers 0xe049be107 l) (x0 : Nat) (x1 : Nat) (x2 : Nat) (s : State)
    (h0 : Steady l s0 s) :
    Steady l s0 (bkAct x0 x1 x2 s) := by
  unfold bkAct
  extract_lets +onlyGivenNames t1
  clear_value t1
  split
  · refine ackShot_steady (hl.sub (by decide)) _ _ _ _ ?_
    assumption
  · refine ackFrame_steady (hl.sub (by decide)) _ _ _ ?_
    assumption
  · refine nak_steady (hl.sub (by decide)) _ _ _ _ ?_
    assumption
  · refine shotReport_steady (hl.sub (by decide)) _ _ _ _ _ ?_
    assumption
  · refine statusWord_steady (hl.sub (by decide)) _ _ _ ?_
    assumption
  · refine laneState_steady (hl.sub (by decide)) _ _ _ _ ?_
    assumption
  · refine fom_steady (hl.sub (by decide)) _ _ _ _ ?_
    assumption
  · refine memData_steady (hl.sub (by decide)) _ _ _ ?_
    assumption
  · refine idleBk_steady (hl.sub (by decide)) _ _ ?_
    assumption

theorem bkReceive_steady {l : Nat} {s0 : State} (hl : Covers 0xe049be107 l) (x0 : Nat) (x1 : Bool) (x2 : Nat) (s :
    State) (h0 : Steady l s0 s) :
    Steady l s0 (bkReceive x0 x1 x2 s) := by
  unfold bkReceive
  split
  · refine bkAct_steady (hl.sub (by decide)) _ _ _ _ ?_
    assumption
  · refine Steady.ite ?_ ?_
    · refine State_inc_steady (hl.sub (by decide)) _ _ _ ?_
      assumption
    · assumption

theorem blankCheck_steady {l : Nat} {s0 : State} (hl : Covers 0x800100106 l) (s : State) (h0 : Steady l s0 s) :
    Steady l s0 (blankCheck s) := by
  unfold blankCheck
  extract_lets +onlyGivenNames t1
  clear_value t1
  extract_lets +onlyGivenNames t2
  clear_value t2
  extract_lets +onlyGivenNames t3
  refine Steady.cut (t := t3) ?_ (fun ht3 => ?_)
  · unfold t3
    exact Steady.upd (m := 0x800000000) (hl.sub (by decide))
      (by intro x; cases x <;> first | exact fun _ => rfl | exact fun h => absurd h (by decide)) (by assumption) rfl rfl rfl
  clear_value t3
  refine Steady.ite ?_ ?_
  · assumption
  · refine Steady.foldl _ ?_ (fun _ _ _ => ?_)
    · refine State_set_steady (hl.sub (by decide)) _ _ _ ?_
      assumption
    · refine event_steady (hl.sub (by decide)) _ _ _ ?_
      assumption

end Sys2Proof.Machine
end

