-- ==== Sys2Proof/Laws/Steady11.lean ====
section
/-! SUPPORT. What the operations of Encoder keep (Laws/Steady.lean). -/

set_option linter.unusedVariables false
set_option maxRecDepth 4000

namespace Sys2Proof.Machine

theorem encInt_steady {l : Nat} {s0 : State} (hl : Covers 0x104 l) (x0 : Nat) (s : State) (h0 : Steady l s0 s) :
    Steady l s0 (encInt x0 s) := by
  unfold encInt
  extract_lets +onlyGivenNames t1
  refine Steady.cut (t := t1) ?_ (fun ht1 => ?_)
  · unfold t1
    exact State_wr_steady (hl.sub (by decide)) _ _ _ (by assumption)
  clear_value t1
  refine Steady.ite ?_ ?_
  · refine raise_steady (hl.sub (by decide)) _ _ ?_
    assumption
  · assumption

theorem encFault_steady {l : Nat} {s0 : State} (hl : Covers 0x600106106 l) (x0 : Nat) (x1 : Nat) (x2 : Nat) (x3 :
    List Byte) (s : State) (h0 : Steady l s0 s) :
    Steady l s0 (encFault x0 x1 x2 x3 s) := by
  unfold encFault
  extract_lets +onlyGivenNames t1
  refine Steady.cut (t := t1) ?_ (fun ht1 => ?_)
  · unfold t1
    exact State_wr_steady (hl.sub (by decide)) _ _ _ (by assumption)
  clear_value t1
  extract_lets +onlyGivenNames t2
  refine Steady.cut (t := t2) ?_ (fun ht2 => ?_)
  · unfold t2
    exact event_steady (hl.sub (by decide)) _ _ _ (by assumption)
  clear_value t2
  refine dueCause_steady (hl.sub (by decide)) _ _ ?_
  exact encInt_steady (hl.sub (by decide)) _ _ (by assumption)

theorem encLose_steady {l : Nat} {s0 : State} (hl : Covers 0x190000004 l) (x0 : Nat) (s : State) (h0 : Steady l s0
    s) :
    Steady l s0 (encLose x0 s) := by
  unfold encLose
  extract_lets +onlyGivenNames t1
  clear_value t1
  extract_lets +onlyGivenNames t2
  refine Steady.cut (t := t2) ?_ (fun ht2 => ?_)
  · unfold t2
    refine Steady.ite ?_ ?_
    · refine State_set_steady (hl.sub (by decide)) _ _ _ ?_
      assumption
    · assumption
  clear_value t2
  extract_lets +onlyGivenNames t3
  refine Steady.cut (t := t3) ?_ (fun ht3 => ?_)
  · unfold t3
    exact setEnc_steady (hl.sub (by decide)) _ _ _ (by assumption)
  clear_value t3
  extract_lets +onlyGivenNames t4
  refine Steady.cut (t := t4) ?_ (fun ht4 => ?_)
  · unfold t4
    exact yawLost_steady (hl.sub (by decide)) _ _ (by assumption)
  clear_value t4
  refine State_set_steady (hl.sub (by decide)) _ _ _ ?_
  refine State_set_steady (hl.sub (by decide)) _ _ _ ?_
  exact State_set_steady (hl.sub (by decide)) _ _ _ (by assumption)

theorem samplePhase_steady {l : Nat} {s0 : State} (hl : Covers 0x0 l) (x0 : Int) (x1 : Int) (s : State) (h0 : Steady
    l s0 s) :
    Steady l s0 (samplePhase x0 x1 s).2 := by
  unfold samplePhase
  split
  rename_i t1 heq1
  have hk1 := congrArg Prod.snd heq1
  dsimp only at hk1
  refine Steady.cut (t := t1) ?_ (fun ht1 => ?_)
  · rw [← hk1]
    exact State_fresh_steady (hl.sub (by decide)) _ (by assumption)
  clear heq1 hk1
  refine Steady.ite_snd ?_ ?_
  · refine Steady.pair ?_
    assumption
  · refine Steady.pair ?_
    assumption

theorem encAmplitude_steady {l : Nat} {s0 : State} (hl : Covers 0x10000004 l) (x0 : Nat) (x1 : Nat) (x2 : Bool) (s :
    State) (h0 : Steady l s0 s) :
    Steady l s0 (encAmplitude x0 x1 x2 s) := by
  unfold encAmplitude
  extract_lets +onlyGivenNames t1
  clear_value t1
  extract_lets +onlyGivenNames t2
  refine Steady.cut (t := t2) ?_ (fun ht2 => ?_)
  · unfold t2
    exact State_set_steady (hl.sub (by decide)) _ _ _ (by assumption)
  clear_value t2
  extract_lets +onlyGivenNames t3
  refine Steady.cut (t := t3) ?_ (fun ht3 => ?_)
  · unfold t3
    exact State_set_steady (hl.sub (by decide)) _ _ _ (by assumption)
  clear_value t3
  refine Steady.ite ?_ ?_
  · extract_lets +onlyGivenNames t4
    refine Steady.cut (t := t4) ?_ (fun ht4 => ?_)
    · unfold t4
      refine Steady.ite ?_ ?_
      · refine State_inc_steady (hl.sub (by decide)) _ _ _ ?_
        assumption
      · assumption
    clear_value t4
    exact setEnc_steady (hl.sub (by decide)) _ _ _ (by assumption)
  · refine setEnc_steady (hl.sub (by decide)) _ _ _ ?_
    assumption

theorem encAmplitudeFault_steady {l : Nat} {s0 : State} (hl : Covers 0x790106106 l) (x0 : Nat) (s : State) (h0 :
    Steady l s0 s) :
    Steady l s0 (encAmplitudeFault x0 s) := by
  unfold encAmplitudeFault
  extract_lets +onlyGivenNames t1
  clear_value t1
  refine Steady.ite ?_ ?_
  · assumption
  · refine encFault_steady (hl.sub (by decide)) _ _ _ _ _ ?_
    exact encLose_steady (hl.sub (by decide)) _ _ (by assumption)

theorem encQualified_steady {l : Nat} {s0 : State} (hl : Covers 0x10000004 l) (x0 : Nat) (s : State) (h0 : Steady l
    s0 s) :
    Steady l s0 (encQualified x0 s) := by
  unfold encQualified
  extract_lets +onlyGivenNames t1
  clear_value t1
  refine Steady.ite ?_ ?_
  · assumption
  · extract_lets +onlyGivenNames t2
    clear_value t2
    extract_lets +onlyGivenNames t3
    refine Steady.cut (t := t3) ?_ (fun ht3 => ?_)
    · unfold t3
      exact setEnc_steady (hl.sub (by decide)) _ _ _ (by assumption)
    clear_value t3
    refine State_set_steady (hl.sub (by decide)) _ _ _ ?_
    exact State_set_steady (hl.sub (by decide)) _ _ _ (by assumption)

theorem encFlip_steady {l : Nat} {s0 : State} (hl : Covers 0x10000104 l) (x0 : Nat) (x1 : Nat) (x2 : Int) (s :
    State) (h0 : Steady l s0 s) :
    Steady l s0 (encFlip x0 x1 x2 s) := by
  unfold encFlip
  extract_lets +onlyGivenNames t1
  clear_value t1
  extract_lets +onlyGivenNames t2
  clear_value t2
  extract_lets +onlyGivenNames t3
  refine Steady.cut (t := t3) ?_ (fun ht3 => ?_)
  · unfold t3
    refine State_set_steady (hl.sub (by decide)) _ _ _ ?_
    exact setEnc_steady (hl.sub (by decide)) _ _ _ (by assumption)
  clear_value t3
  refine encInt_steady (hl.sub (by decide)) _ _ ?_
  refine State_inc_steady (hl.sub (by decide)) _ _ _ ?_
  exact State_set_steady (hl.sub (by decide)) _ _ _ (by assumption)

theorem encDirection_steady {l : Nat} {s0 : State} (hl : Covers 0x10000104 l) (x0 : Nat) (s : State) (h0 : Steady l
    s0 s) :
    Steady l s0 (encDirection x0 s) := by
  unfold encDirection
  extract_lets +onlyGivenNames t1
  clear_value t1
  extract_lets +onlyGivenNames t2
  clear_value t2
  refine Steady.ite ?_ ?_
  · refine Steady.ite ?_ ?_
    · refine encFlip_steady (hl.sub (by decide)) _ _ _ _ ?_
      assumption
    · refine Steady.ite ?_ ?_
      · refine encFlip_steady (hl.sub (by decide)) _ _ _ _ ?_
        assumption
      · assumption
  · refine Steady.ite ?_ ?_
    · refine Steady.ite ?_ ?_
      · refine encFlip_steady (hl.sub (by decide)) _ _ _ _ ?_
        assumption
      · refine setEnc_steady (hl.sub (by decide)) _ _ _ ?_
        assumption
    · refine Steady.ite ?_ ?_
      · refine encFlip_steady (hl.sub (by decide)) _ _ _ _ ?_
        assumption
      · refine setEnc_steady (hl.sub (by decide)) _ _ _ ?_
        assumption

theorem encEdge_steady {l : Nat} {s0 : State} (hl : Covers 0x10000000 l) (x0 : Nat) (x1 : Nat) (s : State) (h0 :
    Steady l s0 s) :
    Steady l s0 (encEdge x0 x1 s) := by
  unfold encEdge
  extract_lets +onlyGivenNames t1
  clear_value t1
  extract_lets +onlyGivenNames t2
  clear_value t2
  extract_lets +onlyGivenNames t3
  clear_value t3
  refine Steady.ite ?_ ?_
  · assumption
  · extract_lets +onlyGivenNames t4
    clear_value t4
    extract_lets +onlyGivenNames t5
    clear_value t5
    extract_lets +onlyGivenNames t6
    clear_value t6
    refine Steady.ite ?_ ?_
    · extract_lets +onlyGivenNames t7
      clear_value t7
      extract_lets +onlyGivenNames t8
      clear_value t8
      extract_lets +onlyGivenNames t9
      clear_value t9
      exact setEnc_steady (hl.sub (by decide)) _ _ _ (by assumption)
    · assumption

theorem encSpeed_steady {l : Nat} {s0 : State} (hl : Covers 0x10000004 l) (x0 : Nat) (s : State) (h0 : Steady l s0
    s) :
    Steady l s0 (encSpeed x0 s) := by
  unfold encSpeed
  extract_lets +onlyGivenNames t1
  clear_value t1
  extract_lets +onlyGivenNames t2
  split
  · simp only [t2]
    refine State_set_steady (hl.sub (by decide)) _ _ _ ?_
    exact State_set_steady (hl.sub (by decide)) _ _ _ (by assumption)
  · refine Steady.ite ?_ ?_
    · simp only [t2]
      refine State_set_steady (hl.sub (by decide)) _ _ _ ?_
      refine State_set_steady (hl.sub (by decide)) _ _ _ ?_
      exact setEnc_steady (hl.sub (by decide)) _ _ _ (by assumption)
    · split
      · simp only [t2]
        refine State_set_steady (hl.sub (by decide)) _ _ _ ?_
        exact State_set_steady (hl.sub (by decide)) _ _ _ (by assumption)
      · extract_lets +onlyGivenNames t3
        clear_value t3
        simp only [t2]
        refine State_set_steady (hl.sub (by decide)) _ _ _ ?_
        exact State_set_steady (hl.sub (by decide)) _ _ _ (by assumption)

theorem settleAxis_steady {l : Nat} {s0 : State} (hl : Covers 0x400000004 l) (x0 : Nat) (s : State) (h0 : Steady l
    s0 s) :
    Steady l s0 (settleAxis x0 s) := by
  unfold settleAxis
  extract_lets +onlyGivenNames t1
  clear_value t1
  extract_lets +onlyGivenNames t2
  clear_value t2
  split
  · refine Steady.ite ?_ ?_
    · extract_lets +onlyGivenNames t3
      refine Steady.cut (t := t3) ?_ (fun ht3 => ?_)
      · unfold t3
        exact setCmdPos_steady (hl.sub (by decide)) _ _ _ (by assumption)
      clear_value t3
      refine Steady.ite ?_ ?_
      · refine Steady.upd (m := 0x400000000) (hl.sub (by decide)) (by intro x; cases x <;> first | exact fun _ => rfl | exact fun h => absurd h (by decide)) ?_ ?_ ?_ ?_
        · assumption
        · exact rfl
        · exact rfl
        · exact rfl
      · refine Steady.upd (m := 0x400000000) (hl.sub (by decide)) (by intro x; cases x <;> first | exact fun _ => rfl | exact fun h => absurd h (by decide)) ?_ ?_ ?_ ?_
        · assumption
        · exact rfl
        · exact rfl
        · exact rfl
    · assumption
  · assumption

theorem encSpeedRestart_steady {l : Nat} {s0 : State} (hl : Covers 0x410000004 l) (x0 : Nat) (s : State) (h0 :
    Steady l s0 s) :
    Steady l s0 (encSpeedRestart x0 s) := by
  unfold encSpeedRestart
  refine Steady.ite ?_ ?_
  · assumption
  · refine settleAxis_steady (hl.sub (by decide)) _ _ ?_
    refine settleAxis_steady (hl.sub (by decide)) _ _ ?_
    exact encSpeed_steady (hl.sub (by decide)) _ _ (by assumption)

theorem encChannel_steady {l : Nat} {s0 : State} (hl : Covers 0x790106106 l) (x0 : Nat) (x1 : Int) (x2 : Int) (s :
    State) (h0 : Steady l s0 s) :
    Steady l s0 (encChannel x0 x1 x2 s) := by
  unfold encChannel
  split
  extract_lets +onlyGivenNames t1
  clear_value t1
  extract_lets +onlyGivenNames t2
  refine Steady.cut (t := t2) ?_ (fun ht2 => ?_)
  · unfold t2
    refine encAmplitudeFault_steady (hl.sub (by decide)) _ _ ?_
    exact encAmplitude_steady (hl.sub (by decide)) _ _ _ _ (by assumption)
  clear_value t2
  split
  rename_i t3 heq3
  have hk3 := congrArg Prod.snd heq3
  dsimp only at hk3
  refine Steady.cut (t := t3) ?_ (fun ht3 => ?_)
  · rw [← hk3]
    exact samplePhase_steady (hl.sub (by decide)) _ _ _ (by assumption)
  clear heq3 hk3
  extract_lets +onlyGivenNames t4
  clear_value t4
  extract_lets +onlyGivenNames t5
  clear_value t5
  extract_lets +onlyGivenNames t6
  clear_value t6
  extract_lets +onlyGivenNames t7
  clear_value t7
  extract_lets +onlyGivenNames t8
  clear_value t8
  extract_lets +onlyGivenNames t9
  refine Steady.cut (t := t9) ?_ (fun ht9 => ?_)
  · unfold t9
    exact setEnc_steady (hl.sub (by decide)) _ _ _ (by assumption)
  clear_value t9
  extract_lets +onlyGivenNames t10
  clear_value t10
  extract_lets +onlyGivenNames t11
  refine Steady.cut (t := t11) ?_ (fun ht11 => ?_)
  · unfold t11
    refine Steady.ite ?_ ?_
    · refine encSpeed_steady (hl.sub (by decide)) _ _ ?_
      refine encEdge_steady (hl.sub (by decide)) _ _ _ ?_
      exact encDirection_steady (hl.sub (by decide)) _ _ (by assumption)
    · assumption
  clear_value t11
  refine Steady.ite ?_ ?_
  · refine encFault_steady (hl.sub (by decide)) _ _ _ _ _ ?_
    exact encLose_steady (hl.sub (by decide)) _ _ (by assumption)
  · assumption

theorem indexCheck_steady {l : Nat} {s0 : State} (hl : Covers 0x600106106 l) (x0 : Nat) (x1 : Int) (x2 : Int) (s :
    State) (h0 : Steady l s0 s) :
    Steady l s0 (indexCheck x0 x1 x2 s) := by
  unfold indexCheck
  extract_lets +onlyGivenNames t1
  clear_value t1
  extract_lets +onlyGivenNames t2
  refine Steady.cut (t := t2) ?_ (fun ht2 => ?_)
  · unfold t2
    refine State_set_steady (hl.sub (by decide)) _ _ _ ?_
    exact State_set_steady (hl.sub (by decide)) _ _ _ (by assumption)
  clear_value t2
  extract_lets +onlyGivenNames t3
  clear_value t3
  extract_lets +onlyGivenNames t4
  clear_value t4
  extract_lets +onlyGivenNames t5
  clear_value t5
  refine Steady.ite ?_ ?_
  · refine Steady.ite ?_ ?_
    · assumption
    · extract_lets +onlyGivenNames t6
      refine Steady.cut (t := t6) ?_ (fun ht6 => ?_)
      · unfold t6
        refine State_inc_steady (hl.sub (by decide)) _ _ _ ?_
        exact encInt_steady (hl.sub (by decide)) _ _ (by assumption)
      clear_value t6
      exact event_steady (hl.sub (by decide)) _ _ _ (by assumption)
  · refine encFault_steady (hl.sub (by decide)) _ _ _ _ _ ?_
    assumption

theorem latchZ_steady {l : Nat} {s0 : State} (hl : Covers 0x1e0000004 l) (x0 : Nat) (s : State) (h0 : Steady l s0 s) :
    Steady l s0 (latchZ x0 s) := by
  unfold latchZ
  extract_lets +onlyGivenNames t1
  refine Steady.cut (t := t1) ?_ (fun ht1 => ?_)
  · unfold t1
    exact yawLost_steady (hl.sub (by decide)) _ _ (by assumption)
  clear_value t1
  extract_lets +onlyGivenNames t2
  clear_value t2
  refine Steady.ite ?_ ?_
  · refine Steady.upd (m := 0x20000000) (hl.sub (by decide)) (by intro x; cases x <;> first | exact fun _ => rfl | exact fun h => absurd h (by decide)) ?_ ?_ ?_ ?_
    · assumption
    · exact rfl
    · exact rfl
    · exact rfl
  · refine Steady.upd (m := 0x40000000) (hl.sub (by decide)) (by intro x; cases x <;> first | exact fun _ => rfl | exact fun h => absurd h (by decide)) ?_ ?_ ?_ ?_
    · assumption
    · exact rfl
    · exact rfl
    · exact rfl

theorem setRef_steady {l : Nat} {s0 : State} (hl : Covers 0x1f0000104 l) (x0 : Nat) (x1 : Int) (s : State) (h0 :
    Steady l s0 s) :
    Steady l s0 (setRef x0 x1 s) := by
  unfold setRef
  extract_lets +onlyGivenNames t1
  clear_value t1
  extract_lets +onlyGivenNames t2
  refine Steady.cut (t := t2) ?_ (fun ht2 => ?_)
  · unfold t2
    exact setEnc_steady (hl.sub (by decide)) _ _ _ (by assumption)
  clear_value t2
  extract_lets +onlyGivenNames t3
  refine Steady.cut (t := t3) ?_ (fun ht3 => ?_)
  · unfold t3
    refine State_set_steady (hl.sub (by decide)) _ _ _ ?_
    exact State_set_steady (hl.sub (by decide)) _ _ _ (by assumption)
  clear_value t3
  extract_lets +onlyGivenNames t4
  refine Steady.cut (t := t4) ?_ (fun ht4 => ?_)
  · unfold t4
    exact encInt_steady (hl.sub (by decide)) _ _ (by assumption)
  clear_value t4
  refine Steady.ite ?_ ?_
  · refine latchZ_steady (hl.sub (by decide)) _ _ ?_
    assumption
  · assumption

theorem homeCheck_steady {l : Nat} {s0 : State} (hl : Covers 0x400000104 l) (s : State) (h0 : Steady l s0 s) :
    Steady l s0 (homeCheck s) := by
  unfold homeCheck
  split
  · refine Steady.ite ?_ ?_
    · refine planHalt_steady (hl.sub (by decide)) _ _ ?_
      assumption
    · assumption
  · refine Steady.ite ?_ ?_
    · refine planHalt_steady (hl.sub (by decide)) _ _ ?_
      assumption
    · assumption
  · assumption

theorem indexEdge_steady {l : Nat} {s0 : State} (hl : Covers 0x7f0106106 l) (x0 : Nat) (x1 : Bool) (x2 : Nat) (s :
    State) (h0 : Steady l s0 s) :
    Steady l s0 (indexEdge x0 x1 x2 s) := by
  unfold indexEdge
  refine Steady.ite ?_ ?_
  · assumption
  · extract_lets +onlyGivenNames t1
    clear_value t1
    extract_lets +onlyGivenNames t2
    clear_value t2
    extract_lets +onlyGivenNames t3
    clear_value t3
    extract_lets +onlyGivenNames t4
    clear_value t4
    refine Steady.ite ?_ ?_
    · refine setEnc_steady (hl.sub (by decide)) _ _ _ ?_
      assumption
    · split
      · assumption
      · extract_lets +onlyGivenNames t5
        refine Steady.cut (t := t5) ?_ (fun ht5 => ?_)
        · unfold t5
          exact setEnc_steady (hl.sub (by decide)) _ _ _ (by assumption)
        clear_value t5
        extract_lets +onlyGivenNames t6
        clear_value t6
        refine Steady.ite ?_ ?_
        · refine State_inc_steady (hl.sub (by decide)) _ _ _ ?_
          assumption
        · extract_lets +onlyGivenNames t7
          clear_value t7
          extract_lets +onlyGivenNames t8
          refine Steady.cut (t := t8) ?_ (fun ht8 => ?_)
          · unfold t8
            refine encInt_steady (hl.sub (by decide)) _ _ ?_
            exact State_inc_steady (hl.sub (by decide)) _ _ _ (by assumption)
          clear_value t8
          split
          · refine homeCheck_steady (hl.sub (by decide)) _ ?_
            exact setRef_steady (hl.sub (by decide)) _ _ _ (by assumption)
          · refine indexCheck_steady (hl.sub (by decide)) _ _ _ _ ?_
            assumption

theorem setYawRun_steady {l : Nat} {s0 : State} (hl : Covers 0x180000000 l) (x0 : Nat) (x1 : Nat) (s : State) (h0 :
    Steady l s0 s) :
    Steady l s0 (setYawRun x0 x1 s) := by
  unfold setYawRun
  refine Steady.ite ?_ ?_
  · refine Steady.upd (m := 0x80000000) (hl.sub (by decide)) (by intro x; cases x <;> first | exact fun _ => rfl | exact fun h => absurd h (by decide)) ?_ ?_ ?_ ?_
    · assumption
    · exact rfl
    · exact rfl
    · exact rfl
  · refine Steady.upd (m := 0x100000000) (hl.sub (by decide)) (by intro x; cases x <;> first | exact fun _ => rfl | exact fun h => absurd h (by decide)) ?_ ?_ ?_ ?_
    · assumption
    · exact rfl
    · exact rfl
    · exact rfl

theorem encYaw_steady {l : Nat} {s0 : State} (hl : Covers 0x180000004 l) (x0 : Nat) (s : State) (h0 : Steady l s0 s) :
    Steady l s0 (encYaw x0 s) := by
  unfold encYaw
  extract_lets +onlyGivenNames t1
  clear_value t1
  extract_lets +onlyGivenNames t2
  clear_value t2
  extract_lets +onlyGivenNames t3
  clear_value t3
  split
  · refine setYawRun_steady (hl.sub (by decide)) _ _ _ ?_
    exact State_wr_steady (hl.sub (by decide)) _ _ _ (by assumption)
  · extract_lets +onlyGivenNames t4
    refine Steady.cut (t := t4) ?_ (fun ht4 => ?_)
    · unfold t4
      exact State_wr_steady (hl.sub (by decide)) _ _ _ (by assumption)
    clear_value t4
    refine Steady.ite ?_ ?_
    · refine setYawRun_steady (hl.sub (by decide)) _ _ _ ?_
      assumption
    · refine setYawRun_steady (hl.sub (by decide)) _ _ _ ?_
      assumption

theorem encYawFault_steady {l : Nat} {s0 : State} (hl : Covers 0x600106106 l) (x0 : Nat) (s : State) (h0 : Steady l
    s0 s) :
    Steady l s0 (encYawFault x0 s) := by
  unfold encYawFault
  refine Steady.ite ?_ ?_
  · assumption
  · refine encFault_steady (hl.sub (by decide)) _ _ _ _ _ ?_
    assumption

theorem encReref_steady {l : Nat} {s0 : State} (hl : Covers 0x190000004 l) (x0 : Nat) (s : State) (h0 : Steady l s0
    s) :
    Steady l s0 (encReref x0 s) := by
  unfold encReref
  refine Steady.ite ?_ ?_
  · assumption
  · refine rerefCh_steady (hl.sub (by decide)) _ _ ?_
    assumption

theorem encZero_steady {l : Nat} {s0 : State} (hl : Covers 0x1e0000004 l) (x0 : Nat) (s : State) (h0 : Steady l s0
    s) :
    Steady l s0 (encZero x0 s) := by
  unfold encZero
  refine Steady.ite ?_ ?_
  · assumption
  · refine latchZ_steady (hl.sub (by decide)) _ _ ?_
    assumption

theorem encFaultAck_steady {l : Nat} {s0 : State} (hl : Covers 0x10000004 l) (x0 : Nat) (s : State) (h0 : Steady l
    s0 s) :
    Steady l s0 (encFaultAck x0 s) := by
  unfold encFaultAck
  extract_lets +onlyGivenNames t1
  refine Steady.cut (t := t1) ?_ (fun ht1 => ?_)
  · unfold t1
    exact State_wr_steady (hl.sub (by decide)) _ _ _ (by assumption)
  clear_value t1
  refine Steady.foldl _ ?_ (fun _ _ _ => ?_)
  · assumption
  · refine Steady.ite ?_ ?_
    · refine setEnc_steady (hl.sub (by decide)) _ _ _ ?_
      exact State_set_steady (hl.sub (by decide)) _ _ _ (by assumption)
    · assumption

end Sys2Proof.Machine
end

