-- ==== Sys2Proof/Laws/Steady12.lean ====
section
/-! SUPPORT. What the operations of Shots, Headland keep (Laws/Steady.lean). -/

set_option linter.unusedVariables false
set_option maxRecDepth 4000

namespace Sys2Proof.Machine

theorem showSpeed_steady {l : Nat} {s0 : State} (hl : Covers 0x4 l) (s : State) (h0 : Steady l s0 s) :
    Steady l s0 (showSpeed s) := by
  unfold showSpeed
  extract_lets +onlyGivenNames t1
  clear_value t1
  extract_lets +onlyGivenNames t2
  clear_value t2
  exact State_wr_steady (hl.sub (by decide)) _ _ _ (by assumption)

theorem shtState_steady {l : Nat} {s0 : State} (hl : Covers 0x104 l) (x0 : Nat) (s : State) (h0 : Steady l s0 s) :
    Steady l s0 (shtState x0 s) := by
  unfold shtState
  refine Steady.ite ?_ ?_
  · assumption
  · refine raise_steady (hl.sub (by decide)) _ _ ?_
    exact State_set_steady (hl.sub (by decide)) _ _ _ (by assumption)

theorem showMode_steady {l : Nat} {s0 : State} (hl : Covers 0x104 l) (x0 : Run) (s : State) (h0 : Steady l s0 s) :
    Steady l s0 (showMode x0 s) := by
  unfold showMode
  exact shtState_steady (hl.sub (by decide)) _ _ (by assumption)

theorem commit_steady {l : Nat} {s0 : State} (hl : Covers 0x200000000 l) (x0 : Bool) (x1 : Int) (s : State) (h0 :
    Steady l s0 s) :
    Steady l s0 (commit x0 x1 s) := by
  unfold commit
  extract_lets +onlyGivenNames t1
  clear_value t1
  exact Steady.upd (m := 0x200000000) (hl.sub (by decide))
    (by intro x; cases x <;> first | exact fun _ => rfl | exact fun h => absurd h (by decide)) (by assumption) rfl rfl rfl

theorem measureOne_steady {l : Nat} {s0 : State} (hl : Covers 0x4 l) (sg : Int) (e : Int × Int) (s t : State) (h0 :
    Steady l s0 s)
    (ht : measureOne sg e s = some t) : Steady l s0 t := by
  unfold measureOne at ht
  split at ht
  · cases ht
  · obtain rfl := Option.some.inj ht
    exact State_set_steady (hl.sub (by decide)) _ _ _ (State_fresh_steady (hl.sub (by decide)) _ h0)

theorem measure_steady {l : Nat} {s0 : State} (hl : Covers 0x200000004 l) (x0 : Int) (s : State) (h0 : Steady l s0 s) :
    Steady l s0 (measure x0 s) := by
  unfold measure
  extract_lets +onlyGivenNames t1
  clear_value t1
  refine Steady.foldl _ ?_ (fun _ _ _ => ?_)
  · assumption
  · split
    · rename_i t2 heq2
      refine Steady.cut (t := t2) (measureOne_steady (hl.sub (by decide)) _ _ _ _ ?_ heq2) (fun ht2 => ?_)
      · assumption
      clear heq2
      exact Steady.upd (m := 0x200000000) (hl.sub (by decide))
        (by intro x; cases x <;> first | exact fun _ => rfl | exact fun h => absurd h (by decide)) (by assumption) rfl rfl rfl
    · assumption

theorem pathSample_steady {l : Nat} {s0 : State} (hl : Covers 0x200000004 l) (x0 : Desc) (s : State) (h0 : Steady l
    s0 s) :
    Steady l s0 (pathSample x0 s) := by
  unfold pathSample
  extract_lets +onlyGivenNames t1
  clear_value t1
  extract_lets +onlyGivenNames t2
  refine Steady.cut (t := t2) ?_ (fun ht2 => ?_)
  · unfold t2
    split
    · extract_lets +onlyGivenNames t3
      clear_value t3
      exact Steady.upd (m := 0x200000000) (hl.sub (by decide))
        (by intro x; cases x <;> first | exact fun _ => rfl | exact fun h => absurd h (by decide)) (by assumption) rfl rfl rfl
    · assumption
  clear_value t2
  extract_lets +onlyGivenNames t4
  clear_value t4
  refine Steady.ite ?_ ?_
  · refine State_inc_steady (hl.sub (by decide)) _ _ _ ?_
    exact Steady.upd (m := 0x200000000) (hl.sub (by decide))
      (by intro x; cases x <;> first | exact fun _ => rfl | exact fun h => absurd h (by decide)) (by assumption) rfl rfl rfl
  · refine Steady.ite ?_ ?_
    · refine Steady.upd (m := 0x200000000) (hl.sub (by decide)) (by intro x; cases x <;> first | exact fun _ => rfl | exact fun h => absurd h (by decide)) ?_ ?_ ?_ ?_
      · assumption
      · exact rfl
      · exact rfl
      · exact rfl
    · assumption

theorem stageFallow_steady {l : Nat} {s0 : State} (hl : Covers 0x600106106 l) (x0 : Nat) (x1 : Nat) (s : State) (h0
    : Steady l s0 s) :
    Steady l s0 (stageFallow x0 x1 s) := by
  unfold stageFallow
  split
  · assumption
  · refine raiseCause_steady (hl.sub (by decide)) _ _ ?_
    exact State_wr_steady (hl.sub (by decide)) _ _ _ (by assumption)

theorem pathHoldTimeout_steady {l : Nat} {s0 : State} (hl : Covers 0x600106106 l) (s : State) (h0 : Steady l s0 s) :
    Steady l s0 (pathHoldTimeout s) := by
  unfold pathHoldTimeout
  split
  · refine Steady.ite ?_ ?_
    · refine stageFallow_steady (hl.sub (by decide)) _ _ _ ?_
      assumption
    · assumption
  · assumption

theorem modeSample_steady {l : Nat} {s0 : State} (hl : Covers 0x200000000 l) (x0 : Int) (s : State) (h0 : Steady l
    s0 s) :
    Steady l s0 (modeSample x0 s) := by
  unfold modeSample
  extract_lets +onlyGivenNames t1
  clear_value t1
  extract_lets +onlyGivenNames t2
  clear_value t2
  refine Steady.ite ?_ ?_
  · refine Steady.upd (m := 0x200000000) (hl.sub (by decide)) (by intro x; cases x <;> first | exact fun _ => rfl | exact fun h => absurd h (by decide)) ?_ ?_ ?_ ?_
    · assumption
    · exact rfl
    · exact rfl
    · exact rfl
  · refine Steady.ite ?_ ?_
    · refine Steady.upd (m := 0x200000000) (hl.sub (by decide)) (by intro x; cases x <;> first | exact fun _ => rfl | exact fun h => absurd h (by decide)) ?_ ?_ ?_ ?_
      · assumption
      · exact rfl
      · exact rfl
      · exact rfl
    · assumption

theorem dibbleSample_steady {l : Nat} {s0 : State} (hl : Covers 0x200000000 l) (x0 : Int) (x1 : Int) (s : State) (h0
    : Steady l s0 s) :
    Steady l s0 (dibbleSample x0 x1 s) := by
  unfold dibbleSample
  extract_lets +onlyGivenNames t1
  clear_value t1
  refine Steady.ite ?_ ?_
  · extract_lets +onlyGivenNames t2
    extract_lets +onlyGivenNames t3
    extract_lets +onlyGivenNames t4
    refine Steady.cut (t := t4) ?_ (fun ht4 => ?_)
    · unfold t4
      exact Steady.upd (m := 0x200000000) (hl.sub (by decide))
        (by intro x; cases x <;> first | exact fun _ => rfl | exact fun h => absurd h (by decide)) (by assumption) rfl rfl rfl
    refine Steady.ite ?_ ?_
    · refine commit_steady (hl.sub (by decide)) _ _ _ ?_
      assumption
    · assumption
  · refine Steady.upd (m := 0x200000000) (hl.sub (by decide)) (by intro x; cases x <;> first | exact fun _ => rfl | exact fun h => absurd h (by decide)) ?_ ?_ ?_ ?_
    · assumption
    · exact rfl
    · exact rfl
    · exact rfl

theorem trackSample_steady {l : Nat} {s0 : State} (hl : Covers 0x200000000 l) (x0 : Int) (x1 : Int) (x2 : Int) (s :
    State) (h0 : Steady l s0 s) :
    Steady l s0 (trackSample x0 x1 x2 s) := by
  unfold trackSample
  split
  · assumption
  · extract_lets +onlyGivenNames t1
    clear_value t1
    split
    · refine Steady.ite ?_ ?_
      · refine commit_steady (hl.sub (by decide)) _ _ _ ?_
        assumption
      · assumption
    · assumption

theorem shotSample_steady {l : Nat} {s0 : State} (hl : Covers 0x600106106 l) (s : State) (h0 : Steady l s0 s) :
    Steady l s0 (shotSample s) := by
  unfold shotSample
  split
  · refine Steady.ite ?_ ?_
    · assumption
    · extract_lets +onlyGivenNames t1
      refine Steady.cut (t := t1) ?_ (fun ht1 => ?_)
      · unfold t1
        exact pathSample_steady (hl.sub (by decide)) _ _ (by assumption)
      clear_value t1
      refine Steady.ite ?_ ?_
      · assumption
      · split
        · refine showMode_steady (hl.sub (by decide)) _ _ ?_
          assumption
        · extract_lets +onlyGivenNames t2
          clear_value t2
          extract_lets +onlyGivenNames t3
          clear_value t3
          refine Steady.ite ?_ ?_
          · refine stageFallow_steady (hl.sub (by decide)) _ _ _ ?_
            assumption
          · extract_lets +onlyGivenNames t4
            refine Steady.cut (t := t4) ?_ (fun ht4 => ?_)
            · unfold t4
              split
              · refine modeSample_steady (hl.sub (by decide)) _ _ ?_
                assumption
              · assumption
            clear_value t4
            extract_lets +onlyGivenNames t5
            refine Steady.cut (t := t5) ?_ (fun ht5 => ?_)
            · unfold t5
              refine Steady.ite ?_ ?_
              · refine dibbleSample_steady (hl.sub (by decide)) _ _ _ ?_
                assumption
              · refine trackSample_steady (hl.sub (by decide)) _ _ _ _ ?_
                assumption
            clear_value t5
            exact showMode_steady (hl.sub (by decide)) _ _ (by assumption)
  · assumption

theorem encSample_steady {l : Nat} {s0 : State} (hl : Covers 0x798106106 l) (x0 : List (Int × Int)) (s : State) (h0
    : Steady l s0 s) :
    Steady l s0 (encSample x0 s) := by
  unfold encSample
  refine Steady.ite ?_ ?_
  · assumption
  · extract_lets +onlyGivenNames t1
    refine Steady.cut (t := t1) ?_ (fun ht1 => ?_)
    · unfold t1
      exact Steady.upd (m := 0x8000000) (hl.sub (by decide))
        (by intro x; cases x <;> first | exact fun _ => rfl | exact fun h => absurd h (by decide)) (by assumption) rfl rfl rfl
    clear_value t1
    extract_lets +onlyGivenNames t2
    refine Steady.cut (t := t2) ?_ (fun ht2 => ?_)
    · unfold t2
      refine Steady.foldl _ ?_ (fun _ _ _ => ?_)
      · assumption
      · extract_lets +onlyGivenNames t3
        clear_value t3
        exact encChannel_steady (hl.sub (by decide)) _ _ _ _ (by assumption)
    clear_value t2
    extract_lets +onlyGivenNames t4
    refine Steady.cut (t := t4) ?_ (fun ht4 => ?_)
    · unfold t4
      refine encYaw_steady (hl.sub (by decide)) _ _ ?_
      exact encYaw_steady (hl.sub (by decide)) _ _ (by assumption)
    clear_value t4
    extract_lets +onlyGivenNames t5
    clear_value t5
    extract_lets +onlyGivenNames t6
    refine Steady.cut (t := t6) ?_ (fun ht6 => ?_)
    · unfold t6
      exact Steady.upd (m := 0x200000000) (hl.sub (by decide))
        (by intro x; cases x <;> first | exact fun _ => rfl | exact fun h => absurd h (by decide)) (by assumption) rfl rfl rfl
    clear_value t6
    extract_lets +onlyGivenNames t7
    refine Steady.cut (t := t7) ?_ (fun ht7 => ?_)
    · unfold t7
      refine encYawFault_steady (hl.sub (by decide)) _ _ ?_
      exact encYawFault_steady (hl.sub (by decide)) _ _ (by assumption)
    clear_value t7
    refine planTick_steady (hl.sub (by decide)) _ ?_
    refine settleAxis_steady (hl.sub (by decide)) _ _ ?_
    refine settleAxis_steady (hl.sub (by decide)) _ _ ?_
    refine shotSample_steady (hl.sub (by decide)) _ ?_
    refine measure_steady (hl.sub (by decide)) _ _ ?_
    exact showSpeed_steady (hl.sub (by decide)) _ (by assumption)

theorem resolveFrame_steady {l : Nat} {s0 : State} (hl : Covers 0x60018e106 l) (x0 : Nat) (x1 : Run) (x2 : Nat) (s :
    State) (h0 : Steady l s0 s) :
    Steady l s0 (resolveFrame x0 x1 x2 s) := by
  unfold resolveFrame
  refine Steady.ite ?_ ?_
  · assumption
  · extract_lets +onlyGivenNames t1
    clear_value t1
    extract_lets +onlyGivenNames t2
    clear_value t2
    extract_lets +onlyGivenNames t3
    clear_value t3
    extract_lets +onlyGivenNames t4
    clear_value t4
    extract_lets +onlyGivenNames t5
    refine Steady.cut (t := t5) ?_ (fun ht5 => ?_)
    · unfold t5
      exact State_set_steady (hl.sub (by decide)) _ _ _ (by assumption)
    clear_value t5
    extract_lets +onlyGivenNames t6
    clear_value t6
    extract_lets +onlyGivenNames t7
    clear_value t7
    extract_lets +onlyGivenNames t8
    refine Steady.cut (t := t8) ?_ (fun ht8 => ?_)
    · unfold t8
      exact setGrp_steady (hl.sub (by decide)) _ _ _ (by assumption)
    clear_value t8
    refine Steady.ite ?_ ?_
    · assumption
    · refine addEntry_steady (hl.sub (by decide)) _ _ ?_
      exact State_inc_steady (hl.sub (by decide)) _ _ _ (by assumption)

theorem releasePay_steady {l : Nat} {s0 : State} (hl : Covers 0x6000 l) (x0 : Nat) (x1 : Run) (x2 : Nat) (s : State)
    (h0 : Steady l s0 s) :
    Steady l s0 (releasePay x0 x1 x2 s) := by
  unfold releasePay
  extract_lets +onlyGivenNames t1
  refine Steady.cut (t := t1) ?_ (fun ht1 => ?_)
  · unfold t1
    refine Steady.ite ?_ ?_
    · assumption
    · refine sigAdvance_steady (hl.sub (by decide)) _ _ ?_
      assumption
  clear_value t1
  exact Steady.upd (m := 0x4000) (hl.sub (by decide))
    (by intro x; cases x <;> first | exact fun _ => rfl | exact fun h => absurd h (by decide)) (by assumption) rfl rfl rfl

theorem harrowCheck_steady {l : Nat} {s0 : State} (hl : Covers 0x600106106 l) (x0 : Nat) (s : State) (h0 : Steady l
    s0 s) :
    Steady l s0 (harrowCheck x0 s) := by
  unfold harrowCheck
  extract_lets +onlyGivenNames t1
  refine Steady.cut (t := t1) ?_ (fun ht1 => ?_)
  · unfold t1
    exact withCounts_steady (hl.sub (by decide)) _ _ (by assumption)
  clear_value t1
  refine Steady.ite ?_ ?_
  · assumption
  · extract_lets +onlyGivenNames t2
    refine Steady.cut (t := t2) ?_ (fun ht2 => ?_)
    · unfold t2
      exact withCounts_steady (hl.sub (by decide)) _ _ (by assumption)
    clear_value t2
    refine raiseCause_steady (hl.sub (by decide)) _ _ ?_
    exact event_steady (hl.sub (by decide)) _ _ _ (by assumption)

theorem madderCheck_steady {l : Nat} {s0 : State} (hl : Covers 0x600106106 l) (x0 : Nat) (s : State) (h0 : Steady l
    s0 s) :
    Steady l s0 (madderCheck x0 s) := by
  unfold madderCheck
  refine Steady.ite ?_ ?_
  · assumption
  · extract_lets +onlyGivenNames t1
    refine Steady.cut (t := t1) ?_ (fun ht1 => ?_)
    · unfold t1
      exact withCounts_steady (hl.sub (by decide)) _ _ (by assumption)
    clear_value t1
    refine raiseCause_steady (hl.sub (by decide)) _ _ ?_
    exact event_steady (hl.sub (by decide)) _ _ _ (by assumption)

theorem swapCheck_steady {l : Nat} {s0 : State} (hl : Covers 0x600106106 l) (s : State) (h0 : Steady l s0 s) :
    Steady l s0 (swapCheck s) := by
  unfold swapCheck
  split
  · refine Steady.ite ?_ ?_
    · refine raiseCause_steady (hl.sub (by decide)) _ _ ?_
      assumption
    · assumption
  · assumption

theorem segmentFired_steady {l : Nat} {s0 : State} (hl : Covers 0x400002104 l) (s : State) (h0 : Steady l s0 s) :
    Steady l s0 (segmentFired s) := by
  unfold segmentFired
  split
  · assumption
  · refine Steady.ite ?_ ?_
    · assumption
    · extract_lets +onlyGivenNames t1
      clear_value t1
      extract_lets +onlyGivenNames t2
      refine Steady.cut (t := t2) ?_ (fun ht2 => ?_)
      · unfold t2
        exact setRun_steady (hl.sub (by decide)) _ _ (by assumption)
      clear_value t2
      refine Steady.ite ?_ ?_
      · assumption
      · extract_lets +onlyGivenNames t3
        refine Steady.cut (t := t3) ?_ (fun ht3 => ?_)
        · unfold t3
          refine Steady.ite ?_ ?_
          · refine setMotion_steady (hl.sub (by decide)) _ _ ?_
            assumption
          · assumption
        clear_value t3
        extract_lets +onlyGivenNames t4
        refine Steady.cut (t := t4) ?_ (fun ht4 => ?_)
        · unfold t4
          exact shtState_steady (hl.sub (by decide)) _ _ (by assumption)
        clear_value t4
        refine Steady.ite ?_ ?_
        · refine repairState_steady (hl.sub (by decide)) _ _ ?_
          exact setRun_steady (hl.sub (by decide)) _ _ (by assumption)
        · assumption

theorem deflect_steady {l : Nat} {s0 : State} (hl : Covers 0x0 l) (x0 : Int) (x1 : Int) (x2 : Int) (x3 : Nat) (s :
    State) (h0 : Steady l s0 s) :
    Steady l s0 (deflect x0 x1 x2 x3 s).2 := by
  unfold deflect
  split
  rename_i t1 heq1
  have hk1 := congrArg Prod.snd heq1
  dsimp only at hk1
  refine Steady.cut (t := t1) ?_ (fun ht1 => ?_)
  · rw [← hk1]
    exact State_fresh_steady (hl.sub (by decide)) _ (by assumption)
  clear heq1 hk1
  extract_lets +onlyGivenNames t2
  clear_value t2
  extract_lets +onlyGivenNames t3
  clear_value t3
  extract_lets +onlyGivenNames t4
  clear_value t4
  refine Steady.pair ?_
  assumption

theorem deflectionWord_steady {l : Nat} {s0 : State} (hl : Covers 0x200000000 l) (s : State) (h0 : Steady l s0 s) :
    Steady l s0 (deflectionWord s) := by
  unfold deflectionWord
  refine Steady.ite ?_ ?_
  · assumption
  · extract_lets +onlyGivenNames t1
    clear_value t1
    extract_lets +onlyGivenNames t2
    clear_value t2
    extract_lets +onlyGivenNames t3
    clear_value t3
    extract_lets +onlyGivenNames t4
    clear_value t4
    extract_lets +onlyGivenNames t5
    clear_value t5
    extract_lets +onlyGivenNames t6
    clear_value t6
    split
    rename_i t7 heq7
    have hk7 := congrArg Prod.snd heq7
    dsimp only at hk7
    refine Steady.cut (t := t7) ?_ (fun ht7 => ?_)
    · rw [← hk7]
      split
      · split
        · refine Steady.pair ?_
          refine deflect_steady (hl.sub (by decide)) _ _ _ _ _ ?_
          exact deflect_steady (hl.sub (by decide)) _ _ _ _ _ (by assumption)
        · refine Steady.pair ?_
          exact deflect_steady (hl.sub (by decide)) _ _ _ _ _ (by assumption)
      · refine Steady.pair ?_
        assumption
    clear heq7 hk7
    extract_lets +onlyGivenNames t8
    clear_value t8
    refine State_emit_steady (hl.sub (by decide)) _ _ ?_
    exact Steady.upd (m := 0x200000000) (hl.sub (by decide))
      (by intro x; cases x <;> first | exact fun _ => rfl | exact fun h => absurd h (by decide)) (by assumption) rfl rfl rfl

theorem shotBoundary_steady {l : Nat} {s0 : State} (hl : Covers 0xe001be507 l) (s : State) (h0 : Steady l s0 s) :
    Steady l s0 (shotBoundary s) := by
  unfold shotBoundary
  split
  · assumption
  · refine Steady.ite ?_ ?_
    · refine cancelRun_steady (hl.sub (by decide)) _ ?_
      assumption
    · extract_lets +onlyGivenNames t1
      refine Steady.cut (t := t1) ?_ (fun ht1 => ?_)
      · unfold t1
        exact boundaryCauses_steady (hl.sub (by decide)) _ (by assumption)
      clear_value t1
      extract_lets +onlyGivenNames t2
      refine Steady.cut (t := t2) ?_ (fun ht2 => ?_)
      · unfold t2
        refine Steady.ite ?_ ?_
        · assumption
        · refine madderCheck_steady (hl.sub (by decide)) _ _ ?_
          exact harrowCheck_steady (hl.sub (by decide)) _ _ (by assumption)
      clear_value t2
      refine segmentFired_steady (hl.sub (by decide)) _ ?_
      refine Steady.ite ?_ ?_
      · assumption
      · refine swapCheck_steady (hl.sub (by decide)) _ ?_
        assumption

theorem fireShot_steady {l : Nat} {s0 : State} (hl : Covers 0xe001be507 l) (x0 : Desc) (x1 : Run) (x2 : Int) (s :
    State) (h0 : Steady l s0 s) :
    Steady l s0 (fireShot x0 x1 x2 s) := by
  unfold fireShot
  extract_lets +onlyGivenNames t1
  clear_value t1
  extract_lets +onlyGivenNames t2
  refine Steady.cut (t := t2) ?_ (fun ht2 => ?_)
  · unfold t2
    refine Steady.foldl _ ?_ (fun _ _ _ => ?_)
    · assumption
    · refine resolveFrame_steady (hl.sub (by decide)) _ _ _ _ ?_
      assumption
  clear_value t2
  extract_lets +onlyGivenNames t3
  refine Steady.cut (t := t3) ?_ (fun ht3 => ?_)
  · unfold t3
    exact State_emit_steady (hl.sub (by decide)) _ _ (by assumption)
  clear_value t3
  split
  · assumption
  · extract_lets +onlyGivenNames t4
    clear_value t4
    extract_lets +onlyGivenNames t5
    clear_value t5
    extract_lets +onlyGivenNames t6
    refine Steady.cut (t := t6) ?_ (fun ht6 => ?_)
    · unfold t6
      exact Steady.upd (m := 0x200000000) (hl.sub (by decide))
        (by intro x; cases x <;> first | exact fun _ => rfl | exact fun h => absurd h (by decide)) (by assumption) rfl rfl rfl
    clear_value t6
    extract_lets +onlyGivenNames t7
    refine Steady.cut (t := t7) ?_ (fun ht7 => ?_)
    · unfold t7
      refine State_set_steady (hl.sub (by decide)) _ _ _ ?_
      exact setRun_steady (hl.sub (by decide)) _ _ (by assumption)
    clear_value t7
    extract_lets +onlyGivenNames t8
    refine Steady.cut (t := t8) ?_ (fun ht8 => ?_)
    · unfold t8
      refine Steady.foldl _ ?_ (fun _ _ _ => ?_)
      · assumption
      · refine releasePay_steady (hl.sub (by decide)) _ _ _ _ ?_
        assumption
    clear_value t8
    refine shotBoundary_steady (hl.sub (by decide)) _ ?_
    refine Steady.ite ?_ ?_
    · assumption
    · refine lookSample_steady (hl.sub (by decide)) _ ?_
      assumption

theorem shotTrigger_steady {l : Nat} {s0 : State} (hl : Covers 0xe001be507 l) (s : State) (h0 : Steady l s0 s) :
    Steady l s0 (shotTrigger s) := by
  unfold shotTrigger
  split
  · refine Steady.ite ?_ ?_
    · assumption
    · refine Steady.ite ?_ ?_
      · extract_lets +onlyGivenNames t1
        refine Steady.cut (t := t1) ?_ (fun ht1 => ?_)
        · unfold t1
          refine Steady.ite ?_ ?_
          · assumption
          · refine madderCheck_steady (hl.sub (by decide)) _ _ ?_
            exact harrowCheck_steady (hl.sub (by decide)) _ _ (by assumption)
        clear_value t1
        split
        · refine Steady.ite ?_ ?_
          · assumption
          · refine fireShot_steady (hl.sub (by decide)) _ _ _ _ ?_
            assumption
        · assumption
      · refine Steady.upd (m := 0x200000000) (hl.sub (by decide)) (by intro x; cases x <;> first | exact fun _ => rfl | exact fun h => absurd h (by decide)) ?_ ?_ ?_ ?_
        · assumption
        · exact rfl
        · exact rfl
        · exact rfl
  · assumption

theorem afterRunOut_steady {l : Nat} {s0 : State} (hl : Covers 0x6001ae106 l) (s : State) (h0 : Steady l s0 s) :
    Steady l s0 (afterRunOut s) := by
  unfold afterRunOut
  split
  · refine Steady.ite ?_ ?_
    · refine repairRunStart_steady (hl.sub (by decide)) _ ?_
      assumption
    · split
      · refine planTo_steady (hl.sub (by decide)) _ _ _ _ ?_
        assumption
      · assumption
  · assumption

theorem homingFails_steady {l : Nat} {s0 : State} (hl : Covers 0x400000104 l) (x0 : Nat) (s : State) (h0 : Steady l
    s0 s) :
    Steady l s0 (homingFails x0 s) := by
  unfold homingFails
  refine planHalt_steady (hl.sub (by decide)) _ _ ?_
  exact plnResult_steady (hl.sub (by decide)) _ _ (by assumption)

theorem homingDone_steady {l : Nat} {s0 : State} (hl : Covers 0x400000104 l) (x0 : Nat) (s : State) (h0 : Steady l
    s0 s) :
    Steady l s0 (homingDone x0 s) := by
  unfold homingDone
  extract_lets +onlyGivenNames t1
  refine Steady.cut (t := t1) ?_ (fun ht1 => ?_)
  · unfold t1
    exact setMotion_steady (hl.sub (by decide)) _ _ (by assumption)
  clear_value t1
  split
  · refine plnResult_steady (hl.sub (by decide)) _ _ ?_
    refine State_set_steady (hl.sub (by decide)) _ _ _ ?_
    exact setCmdPos_steady (hl.sub (by decide)) _ _ _ (by assumption)
  · refine plnResult_steady (hl.sub (by decide)) _ _ ?_
    assumption

theorem plannerDone_steady {l : Nat} {s0 : State} (hl : Covers 0x6001ae106 l) (x0 x1 : Int) (s : State)
    (h0 : Steady l s0 s) :
    Steady l s0 (plannerDone x0 x1 s) := by
  unfold plannerDone
  refine Steady.ite ?_ ?_
  · assumption
  · split
    · assumption
    · refine plnResult_steady (hl.sub (by decide)) _ _ ?_
      exact setMotion_steady (hl.sub (by decide)) _ _ (by assumption)
    · refine homingFails_steady (hl.sub (by decide)) _ _ ?_
      assumption
    · refine homeCheck_steady (hl.sub (by decide)) _ ?_
      exact planAxis_steady (hl.sub (by decide)) _ _ _ _ (by assumption)
    · refine homingFails_steady (hl.sub (by decide)) _ _ ?_
      assumption
    · refine homingDone_steady (hl.sub (by decide)) _ _ ?_
      assumption
    · refine setMotion_steady (hl.sub (by decide)) _ _ ?_
      assumption
    · refine afterRunOut_steady (hl.sub (by decide)) _ ?_
      exact setMotion_steady (hl.sub (by decide)) _ _ (by assumption)
    · refine setMotion_steady (hl.sub (by decide)) _ _ ?_
      assumption
    · assumption
    · assumption
    · extract_lets +onlyGivenNames t1
      refine Steady.cut (t := t1) ?_ (fun ht1 => ?_)
      · unfold t1
        exact setMotion_steady (hl.sub (by decide)) _ _ (by assumption)
      clear_value t1
      refine Steady.ite ?_ ?_
      · refine plnResult_steady (hl.sub (by decide)) _ _ ?_
        assumption
      · assumption

theorem dwellEnd_steady {l : Nat} {s0 : State} (hl : Covers 0x400000104 l) (s : State) (h0 : Steady l s0 s) :
    Steady l s0 (dwellEnd s) := by
  unfold dwellEnd
  refine Steady.ite ?_ ?_
  · refine setMotion_steady (hl.sub (by decide)) _ _ ?_
    assumption
  · assumption

theorem segmentStart_steady {l : Nat} {s0 : State} (hl : Covers 0x400002104 l) (s : State) (h0 : Steady l s0 s) :
    Steady l s0 (segmentStart s) := by
  unfold segmentStart
  split
  · extract_lets +onlyGivenNames t1
    clear_value t1
    refine Steady.ite ?_ ?_
    · assumption
    · split
      extract_lets +onlyGivenNames t2
      clear_value t2
      extract_lets +onlyGivenNames t3
      refine Steady.cut (t := t3) ?_ (fun ht3 => ?_)
      · unfold t3
        refine setRun_steady (hl.sub (by decide)) _ _ ?_
        refine Steady.ite ?_ ?_
        · assumption
        · refine leadBegin_steady (hl.sub (by decide)) _ ?_
          assumption
      clear_value t3
      extract_lets +onlyGivenNames t4
      refine Steady.cut (t := t4) ?_ (fun ht4 => ?_)
      · unfold t4
        refine jobState_steady (hl.sub (by decide)) _ _ _ ?_
        exact shtState_steady (hl.sub (by decide)) _ _ (by assumption)
      clear_value t4
      refine planTo_steady (hl.sub (by decide)) _ _ _ _ ?_
      refine Steady.ite ?_ ?_
      · refine repairState_steady (hl.sub (by decide)) _ _ ?_
        assumption
      · assumption
  · assumption

theorem plnStop_steady {l : Nat} {s0 : State} (hl : Covers 0x600106106 l) (s : State) (h0 : Steady l s0 s) :
    Steady l s0 (plnStop s) := by
  unfold plnStop
  refine Steady.ite ?_ ?_
  · refine raiseCause_steady (hl.sub (by decide)) _ _ ?_
    exact State_set_steady (hl.sub (by decide)) _ _ _ (by assumption)
  · extract_lets +onlyGivenNames t1
    clear_value t1
    extract_lets +onlyGivenNames t2
    clear_value t2
    extract_lets +onlyGivenNames t3
    refine Steady.cut (t := t3) ?_ (fun ht3 => ?_)
    · unfold t3
      exact plannerStop_steady (hl.sub (by decide)) _ (by assumption)
    clear_value t3
    refine Steady.ite ?_ ?_
    · assumption
    · refine plnResult_steady (hl.sub (by decide)) _ _ ?_
      assumption

theorem homeCmd_steady {l : Nat} {s0 : State} (hl : Covers 0x590000104 l) (x0 : Nat) (s : State) (h0 : Steady l s0
    s) :
    Steady l s0 (homeCmd x0 s) := by
  unfold homeCmd
  refine homeCheck_steady (hl.sub (by decide)) _ ?_
  exact plnHome_steady (hl.sub (by decide)) _ _ (by assumption)

theorem setRegBit_steady {l : Nat} {s0 : State} (hl : Covers 0x4 l) (x0 : Nat) (x1 : Nat) (x2 : Bool) (s : State)
    (h0 : Steady l s0 s) :
    Steady l s0 (setRegBit x0 x1 x2 s) := by
  unfold setRegBit
  exact State_wr_steady (hl.sub (by decide)) _ _ _ (by assumption)

theorem switchEdge_steady {l : Nat} {s0 : State} (hl : Covers 0x400000004 l) (x0 : Nat) (s : State) (h0 : Steady l
    s0 s) :
    Steady l s0 (switchEdge x0 s) := by
  unfold switchEdge
  extract_lets +onlyGivenNames t1
  clear_value t1
  extract_lets +onlyGivenNames t2
  clear_value t2
  refine Steady.ite ?_ ?_
  · assumption
  · extract_lets +onlyGivenNames t3
    clear_value t3
    extract_lets +onlyGivenNames t4
    clear_value t4
    extract_lets +onlyGivenNames t5
    refine Steady.cut (t := t5) ?_ (fun ht5 => ?_)
    · unfold t5
      refine Steady.ite ?_ ?_
      · refine State_wr_steady (hl.sub (by decide)) _ _ _ ?_
        assumption
      · assumption
    clear_value t5
    extract_lets +onlyGivenNames t6
    clear_value t6
    extract_lets +onlyGivenNames t7
    refine Steady.cut (t := t7) ?_ (fun ht7 => ?_)
    · unfold t7
      exact Steady.upd (m := 0x400000000) (hl.sub (by decide))
        (by intro x; cases x <;> first | exact fun _ => rfl | exact fun h => absurd h (by decide)) (by assumption) rfl rfl rfl
    clear_value t7
    extract_lets +onlyGivenNames t8
    refine Steady.cut (t := t8) ?_ (fun ht8 => ?_)
    · unfold t8
      exact setRegBit_steady (hl.sub (by decide)) _ _ _ _ (by assumption)
    clear_value t8
    refine Steady.ite ?_ ?_
    · extract_lets +onlyGivenNames t9
      clear_value t9
      extract_lets +onlyGivenNames t10
      refine Steady.cut (t := t10) ?_ (fun ht10 => ?_)
      · unfold t10
        refine setRegBit_steady (hl.sub (by decide)) _ _ _ _ ?_
        exact State_wr_steady (hl.sub (by decide)) _ _ _ (by assumption)
      clear_value t10
      exact Steady.upd (m := 0x400000000) (hl.sub (by decide))
        (by intro x; cases x <;> first | exact fun _ => rfl | exact fun h => absurd h (by decide)) (by assumption) rfl rfl rfl
    · assumption

theorem switchRaw_steady {l : Nat} {s0 : State} (hl : Covers 0x400000005 l) (x0 : Nat) (x1 x2 : Bool) (s : State)
    (h0 : Steady l s0 s) :
    Steady l s0 (switchRaw x0 x1 x2 s) := by
  unfold switchRaw
  refine Steady.ite ?_ ?_
  · assumption
  · extract_lets +onlyGivenNames t1
    clear_value t1
    extract_lets +onlyGivenNames t2
    refine Steady.cut (t := t2) ?_ (fun ht2 => ?_)
    · unfold t2
      exact Steady.upd (m := 0x1) (hl.sub (by decide))
        (by intro x; cases x <;> first | exact fun _ => rfl | exact fun h => absurd h (by decide)) (by assumption) rfl rfl rfl
    clear_value t2
    refine Steady.ite ?_ ?_
    · refine switchEdge_steady (hl.sub (by decide)) _ _ ?_
      assumption
    · assumption

theorem filterElapsed_steady {l : Nat} {s0 : State} (hl : Covers 0x400000000 l) (x0 : Nat) (s : State) (h0 : Steady
    l s0 s) :
    Steady l s0 (filterElapsed x0 s) := by
  unfold filterElapsed
  exact Steady.upd (m := 0x400000000) (hl.sub (by decide))
    (by intro x; cases x <;> first | exact fun _ => rfl | exact fun h => absurd h (by decide)) (by assumption) rfl rfl rfl

theorem switchTrip_steady {l : Nat} {s0 : State} (hl : Covers 0x600106106 l) (x0 : Nat) (x1 : Nat) (s : State) (h0 :
    Steady l s0 s) :
    Steady l s0 (switchTrip x0 x1 s) := by
  unfold switchTrip
  extract_lets +onlyGivenNames t1
  refine Steady.cut (t := t1) ?_ (fun ht1 => ?_)
  · unfold t1
    refine event_steady (hl.sub (by decide)) _ _ _ ?_
    exact setRegBit_steady (hl.sub (by decide)) _ _ _ _ (by assumption)
  clear_value t1
  extract_lets +onlyGivenNames t2
  refine Steady.cut (t := t2) ?_ (fun ht2 => ?_)
  · unfold t2
    refine Steady.ite ?_ ?_
    · refine plannerHardStop_steady (hl.sub (by decide)) _ ?_
      assumption
    · refine plannerStop_steady (hl.sub (by decide)) _ ?_
      assumption
  clear_value t2
  split
  · assumption
  · extract_lets +onlyGivenNames t3
    clear_value t3
    refine stageFallow_steady (hl.sub (by decide)) _ _ _ ?_
    exact Steady.upd (m := 0x400000000) (hl.sub (by decide))
      (by intro x; cases x <;> first | exact fun _ => rfl | exact fun h => absurd h (by decide)) (by assumption) rfl rfl rfl

theorem switchHoming_steady {l : Nat} {s0 : State} (hl : Covers 0x400100106 l) (x0 : Nat) (x1 : Nat) (x2 : Nat) (s :
    State) (h0 : Steady l s0 s) :
    Steady l s0 (switchHoming x0 x1 x2 s) := by
  unfold switchHoming
  refine Steady.ite ?_ ?_
  · refine Steady.ite ?_ ?_
    · refine homeCheck_steady (hl.sub (by decide)) _ ?_
      assumption
    · assumption
  · refine Steady.ite ?_ ?_
    · extract_lets +onlyGivenNames t1
      refine Steady.cut (t := t1) ?_ (fun ht1 => ?_)
      · unfold t1
        exact event_steady (hl.sub (by decide)) _ _ _ (by assumption)
      clear_value t1
      extract_lets +onlyGivenNames t2
      refine Steady.cut (t := t2) ?_ (fun ht2 => ?_)
      · unfold t2
        refine Steady.ite ?_ ?_
        · assumption
        · refine homingFails_steady (hl.sub (by decide)) _ _ ?_
          assumption
      clear_value t2
      exact plnResult_steady (hl.sub (by decide)) _ _ (by assumption)
    · refine Steady.ite ?_ ?_
      · refine plannerStop_steady (hl.sub (by decide)) _ ?_
        assumption
      · assumption

theorem switchFiltered_steady {l : Nat} {s0 : State} (hl : Covers 0x600106106 l) (x0 : Nat) (s : State) (h0 : Steady
    l s0 s) :
    Steady l s0 (switchFiltered x0 s) := by
  unfold switchFiltered
  extract_lets +onlyGivenNames t1
  clear_value t1
  refine Steady.ite ?_ ?_
  · assumption
  · extract_lets +onlyGivenNames t2
    refine Steady.cut (t := t2) ?_ (fun ht2 => ?_)
    · unfold t2
      refine setRegBit_steady (hl.sub (by decide)) _ _ _ _ ?_
      exact filterElapsed_steady (hl.sub (by decide)) _ _ (by assumption)
    clear_value t2
    extract_lets +onlyGivenNames t3
    clear_value t3
    extract_lets +onlyGivenNames t4
    clear_value t4
    extract_lets +onlyGivenNames t5
    clear_value t5
    extract_lets +onlyGivenNames t6
    refine Steady.cut (t := t6) ?_ (fun ht6 => ?_)
    · unfold t6
      refine Steady.ite ?_ ?_
      · refine homeCheck_steady (hl.sub (by decide)) _ ?_
        refine event_steady (hl.sub (by decide)) _ _ _ ?_
        exact setRegBit_steady (hl.sub (by decide)) _ _ _ _ (by assumption)
      · refine Steady.ite ?_ ?_
        · assumption
        · refine switchTrip_steady (hl.sub (by decide)) _ _ _ ?_
          assumption
    clear_value t6
    split
    · refine switchHoming_steady (hl.sub (by decide)) _ _ _ _ ?_
      assumption
    · assumption

theorem switchInactive_steady {l : Nat} {s0 : State} (hl : Covers 0x400000104 l) (x0 : Nat) (s : State) (h0 : Steady
    l s0 s) :
    Steady l s0 (switchInactive x0 s) := by
  unfold switchInactive
  extract_lets +onlyGivenNames t1
  clear_value t1
  refine Steady.ite ?_ ?_
  · assumption
  · refine homeCheck_steady (hl.sub (by decide)) _ ?_
    refine setRegBit_steady (hl.sub (by decide)) _ _ _ _ ?_
    exact filterElapsed_steady (hl.sub (by decide)) _ _ (by assumption)

theorem switchAck_steady {l : Nat} {s0 : State} (hl : Covers 0x4 l) (x0 : Nat) (s : State) (h0 : Steady l s0 s) :
    Steady l s0 (switchAck x0 s) := by
  unfold switchAck
  extract_lets +onlyGivenNames t1
  clear_value t1
  refine Steady.foldl _ ?_ (fun _ _ _ => ?_)
  · assumption
  · refine setRegBit_steady (hl.sub (by decide)) _ _ _ _ ?_
    assumption

end Sys2Proof.Machine
end

