-- ==== Sys2Proof/Laws/Steady13.lean ====
section
/-! SUPPORT. What the operations of MemOps, TilthJobs keep (Laws/Steady.lean). -/

set_option linter.unusedVariables false
set_option maxRecDepth 4000

namespace Sys2Proof.Machine

theorem memMapWrite_steady {l : Nat} {s0 : State} (hl : Covers 0x84004 l) (x0 : Nat) (s : State) (h0 : Steady l s0
    s) :
    Steady l s0 (memMapWrite x0 s) := by
  unfold memMapWrite
  extract_lets +onlyGivenNames t1
  clear_value t1
  refine Steady.ite ?_ ?_
  · refine State_set_steady (hl.sub (by decide)) _ _ _ ?_
    assumption
  · extract_lets +onlyGivenNames t2
    refine Steady.cut (t := t2) ?_ (fun ht2 => ?_)
    · unfold t2
      refine State_set_steady (hl.sub (by decide)) _ _ _ ?_
      exact State_set_steady (hl.sub (by decide)) _ _ _ (by assumption)
    clear_value t2
    extract_lets +onlyGivenNames t3
    refine Steady.cut (t := t3) ?_ (fun ht3 => ?_)
    · unfold t3
      refine Steady.foldl _ ?_ (fun _ _ _ => ?_)
      · assumption
      · refine setPcMap_steady (hl.sub (by decide)) _ _ _ _ ?_
        assumption
    clear_value t3
    extract_lets +onlyGivenNames t4
    refine Steady.cut (t := t4) ?_ (fun ht4 => ?_)
    · unfold t4
      exact State_set_steady (hl.sub (by decide)) _ _ _ (by assumption)
    clear_value t4
    extract_lets +onlyGivenNames t5
    refine Steady.cut (t := t5) ?_ (fun ht5 => ?_)
    · unfold t5
      refine Steady.ite ?_ ?_
      · refine State_set_steady (hl.sub (by decide)) _ _ _ ?_
        exact State_set_steady (hl.sub (by decide)) _ _ _ (by assumption)
      · assumption
    clear_value t5
    refine mapsClear_steady (hl.sub (by decide)) _ ?_
    refine dramLost_steady (hl.sub (by decide)) _ ?_
    exact Steady.upd (m := 0x80000) (hl.sub (by decide))
      (by intro x; cases x <;> first | exact fun _ => rfl | exact fun h => absurd h (by decide)) (by assumption) rfl rfl rfl

theorem rangeResult_steady {l : Nat} {s0 : State} (hl : Covers 0x4 l) (x0 : Nat) (s : State) (h0 : Steady l s0 s) :
    Steady l s0 (rangeResult x0 s) := by
  unfold rangeResult
  exact State_set_steady (hl.sub (by decide)) _ _ _ (by assumption)

theorem wakeStacks_steady {l : Nat} {s0 : State} (hl : Covers 0x4 l) (x0 : List Nat) (s : State) (h0 : Steady l s0
    s) :
    Steady l s0 (wakeStacks x0 s) := by
  unfold wakeStacks
  refine Steady.foldl _ ?_ (fun _ _ _ => ?_)
  · assumption
  · refine Steady.ite ?_ ?_
    · refine State_set_steady (hl.sub (by decide)) _ _ _ ?_
      assumption
    · assumption

theorem memScrub_steady {l : Nat} {s0 : State} (hl : Covers 0x80004 l) (s : State) (h0 : Steady l s0 s) :
    Steady l s0 (memScrub s) := by
  unfold memScrub
  refine Steady.ite ?_ ?_
  · refine rangeResult_steady (hl.sub (by decide)) _ _ ?_
    assumption
  · split
    refine wakeStacks_steady (hl.sub (by decide)) _ _ ?_
    refine rangeResult_steady (hl.sub (by decide)) _ _ ?_
    exact Steady.upd (m := 0x80000) (hl.sub (by decide))
      (by intro x; cases x <;> first | exact fun _ => rfl | exact fun h => absurd h (by decide)) (by assumption) rfl rfl rfl

theorem memInvalidate_steady {l : Nat} {s0 : State} (hl : Covers 0x80004 l) (s : State) (h0 : Steady l s0 s) :
    Steady l s0 (memInvalidate s) := by
  unfold memInvalidate
  split
  refine Steady.ite ?_ ?_
  · refine rangeResult_steady (hl.sub (by decide)) _ _ ?_
    assumption
  · refine Steady.ite ?_ ?_
    · refine rangeResult_steady (hl.sub (by decide)) _ _ ?_
      assumption
    · refine rangeResult_steady (hl.sub (by decide)) _ _ ?_
      exact Steady.upd (m := 0x80000) (hl.sub (by decide))
        (by intro x; cases x <;> first | exact fun _ => rfl | exact fun h => absurd h (by decide)) (by assumption) rfl rfl rfl

theorem clearValid_steady {l : Nat} {s0 : State} (hl : Covers 0x80000 l) (x0 : Nat) (x1 : Nat) (s : State) (h0 :
    Steady l s0 s) :
    Steady l s0 (clearValid x0 x1 s) := by
  exact clear_steady (hl.sub (by decide)) _ _ _ h0 rfl

theorem invalidateDone_steady {l : Nat} {s0 : State} (hl : Covers 0x80004 l) (s : State) (h0 : Steady l s0 s) :
    Steady l s0 (invalidateDone s) := by
  unfold invalidateDone
  split
  · refine Steady.ite ?_ ?_
    · assumption
    · refine rangeResult_steady (hl.sub (by decide)) _ _ ?_
      refine clearValid_steady (hl.sub (by decide)) _ _ _ ?_
      exact Steady.upd (m := 0x80000) (hl.sub (by decide))
        (by intro x; cases x <;> first | exact fun _ => rfl | exact fun h => absurd h (by decide)) (by assumption) rfl rfl rfl
  · assumption

theorem scrubWord_steady {l : Nat} {s0 : State} (hl : Covers 0x180106 l) (x0 : Nat × Nat) (x1 : ScrubCount × State)
    (h0 : Steady l s0 x1.2) :
    Steady l s0 (scrubWord x0 x1).2 := by
  unfold scrubWord
  split
  extract_lets +onlyGivenNames t1
  clear_value t1
  extract_lets +onlyGivenNames t2
  extract_lets +onlyGivenNames t3
  split
  · refine Steady.pair ?_
    assumption
  · simp only [t2]
    refine corrected_steady (hl.sub (by decide)) _ _ ?_
    exact Steady.upd (m := 0x80000) (hl.sub (by decide))
      (by intro x; cases x <;> first | exact fun _ => rfl | exact fun h => absurd h (by decide)) (by assumption) rfl rfl rfl
  · simp only [t3]
    exact uncorrectable_steady (hl.sub (by decide)) _ _ _ (by assumption)
  · split
    rename_i t4 heq4
    have hk4 := congrArg Prod.snd heq4
    dsimp only at hk4
    refine Steady.cut (t := t4) ?_ (fun ht4 => ?_)
    · rw [← hk4]
      exact State_fresh_steady (hl.sub (by decide)) _ (by assumption)
    clear heq4 hk4
    refine Steady.ite_snd ?_ ?_
    · simp only [t3]
      exact uncorrectable_steady (hl.sub (by decide)) _ _ _ (by assumption)
    · simp only [t2]
      refine corrected_steady (hl.sub (by decide)) _ _ ?_
      exact put_steady (hl.sub (by decide)) _ _ _ ht4 rfl

theorem scrubAll_steady {l : Nat} {s0 : State} (hl : Covers 0x180106 l) (x0 : Nat → Bool) (s : State) (h0 : Steady l
    s0 s) :
    Steady l s0 (scrubAll x0 s).2 := by
  unfold scrubAll
  refine Steady.foldl_snd _ ?_ (fun _ _ _ => ?_)
  · refine Steady.pair ?_
    assumption
  · refine scrubWord_steady (hl.sub (by decide)) _ _ ?_
    assumption

theorem nominateCe_steady {l : Nat} {s0 : State} (hl : Covers 0x180106 l) (x0 : ScrubCount) (s : State) (h0 : Steady
    l s0 s) :
    Steady l s0 (nominateCe x0 s) := by
  unfold nominateCe
  refine Steady.ite ?_ ?_
  · assumption
  · extract_lets +onlyGivenNames t1
    clear_value t1
    refine Steady.foldl _ ?_ (fun _ _ _ => ?_)
    · assumption
    · refine Steady.ite ?_ ?_
      · refine nominate_steady (hl.sub (by decide)) _ _ ?_
        assumption
      · assumption

theorem scrubPassEnd_steady {l : Nat} {s0 : State} (hl : Covers 0x180106 l) (x0 : Nat) (s : State) (h0 : Steady l s0
    s) :
    Steady l s0 (scrubPassEnd x0 s) := by
  unfold scrubPassEnd
  split
  · extract_lets +onlyGivenNames t1
    clear_value t1
    refine Steady.ite ?_ ?_
    · assumption
    · extract_lets +onlyGivenNames t2
      clear_value t2
      split
      rename_i t3 heq3
      have hk3 := congrArg Prod.snd heq3
      dsimp only at hk3
      refine Steady.cut (t := t3) ?_ (fun ht3 => ?_)
      · rw [← hk3]
        refine scrubAll_steady (hl.sub (by decide)) _ _ ?_
        refine wakeStacks_steady (hl.sub (by decide)) _ _ ?_
        exact Steady.upd (m := 0x80000) (hl.sub (by decide))
          (by intro x; cases x <;> first | exact fun _ => rfl | exact fun h => absurd h (by decide)) (by assumption) rfl rfl rfl
      clear heq3 hk3
      extract_lets +onlyGivenNames t4
      refine Steady.cut (t := t4) ?_ (fun ht4 => ?_)
      · unfold t4
        refine State_wr_steady (hl.sub (by decide)) _ _ _ ?_
        exact State_wr_steady (hl.sub (by decide)) _ _ _ (by assumption)
      clear_value t4
      extract_lets +onlyGivenNames t5
      refine Steady.cut (t := t5) ?_ (fun ht5 => ?_)
      · unfold t5
        refine State_wr_steady (hl.sub (by decide)) _ _ _ ?_
        exact State_wr_steady (hl.sub (by decide)) _ _ _ (by assumption)
      clear_value t5
      extract_lets +onlyGivenNames t6
      clear_value t6
      extract_lets +onlyGivenNames t7
      refine Steady.cut (t := t7) ?_ (fun ht7 => ?_)
      · unfold t7
        refine State_wr_steady (hl.sub (by decide)) _ _ _ ?_
        exact State_wr_steady (hl.sub (by decide)) _ _ _ (by assumption)
      clear_value t7
      refine raise_steady (hl.sub (by decide)) _ _ ?_
      refine rangeResult_steady (hl.sub (by decide)) _ _ ?_
      exact nominateCe_steady (hl.sub (by decide)) _ _ (by assumption)
  · assumption

theorem upset_steady {l : Nat} {s0 : State} (hl : Covers 0x80000 l) (x0 : Nat × Nat) (s : State) (h0 : Steady l s0
    s) :
    Steady l s0 (upset x0 s) := by
  unfold upset
  refine Steady.ite ?_ ?_
  · assumption
  · extract_lets +onlyGivenNames t1
    clear_value t1
    exact Steady.upd (m := 0x80000) (hl.sub (by decide))
      (by intro x; cases x <;> first | exact fun _ => rfl | exact fun h => absurd h (by decide)) (by assumption) rfl rfl rfl

theorem patrolPassEnd_steady {l : Nat} {s0 : State} (hl : Covers 0x180106 l) (x0 : List (Nat × Nat)) (s : State) (h0
    : Steady l s0 s) :
    Steady l s0 (patrolPassEnd x0 s) := by
  unfold patrolPassEnd
  extract_lets +onlyGivenNames t1
  refine Steady.cut (t := t1) ?_ (fun ht1 => ?_)
  · unfold t1
    refine Steady.foldl _ ?_ (fun _ _ _ => ?_)
    · assumption
    · refine upset_steady (hl.sub (by decide)) _ _ ?_
      assumption
  clear_value t1
  refine Steady.ite ?_ ?_
  · assumption
  · split
    rename_i t2 heq2
    have hk2 := congrArg Prod.snd heq2
    dsimp only at hk2
    refine Steady.cut (t := t2) ?_ (fun ht2 => ?_)
    · rw [← hk2]
      exact scrubAll_steady (hl.sub (by decide)) _ _ (by assumption)
    clear heq2 hk2
    refine nominateCe_steady (hl.sub (by decide)) _ _ ?_
    exact State_inc_steady (hl.sub (by decide)) _ _ _ (by assumption)

theorem pcCopyDone_steady {l : Nat} {s0 : State} (hl : Covers 0x180106 l) (s : State) (h0 : Steady l s0 s) :
    Steady l s0 (pcCopyDone s) := by
  unfold pcCopyDone
  split
  · assumption
  · extract_lets +onlyGivenNames t1
    clear_value t1
    refine Steady.ite ?_ ?_
    · assumption
    · extract_lets +onlyGivenNames t2
      refine Steady.cut (t := t2) ?_ (fun ht2 => ?_)
      · unfold t2
        exact wakeStacks_steady (hl.sub (by decide)) _ _ (by assumption)
      clear_value t2
      extract_lets +onlyGivenNames t3
      clear_value t3
      extract_lets +onlyGivenNames t4
      clear_value t4
      extract_lets +onlyGivenNames t5
      clear_value t5
      extract_lets +onlyGivenNames t6
      refine Steady.cut (t := t6) ?_ (fun ht6 => ?_)
      · unfold t6
        refine State_set_steady (hl.sub (by decide)) _ _ _ ?_
        exact State_inc_steady (hl.sub (by decide)) _ _ _ (by assumption)
      clear_value t6
      extract_lets +onlyGivenNames t7
      extract_lets +onlyGivenNames t8
      refine Steady.cut (t := t8) ?_ (fun ht8 => ?_)
      · unfold t8
        exact Steady.upd (m := 0x80000) (hl.sub (by decide))
          (by intro x; cases x <;> first | exact fun _ => rfl | exact fun h => absurd h (by decide)) (by assumption) rfl rfl rfl
      clear_value t8
      refine Steady.ite ?_ ?_
      · refine State_set_steady (hl.sub (by decide)) _ _ _ ?_
        assumption
      · refine pcSwap_steady (hl.sub (by decide)) _ ?_
        assumption

theorem memRetire_steady {l : Nat} {s0 : State} (hl : Covers 0x180106 l) (x0 : Nat) (s : State) (h0 : Steady l s0 s) :
    Steady l s0 (memRetire x0 s) := by
  unfold memRetire
  exact nominate_steady (hl.sub (by decide)) _ _ (by assumption)

theorem stackReading_steady {l : Nat} {s0 : State} (hl : Covers 0x4 l) (x0 : Nat) (x1 : Int) (s : State) (h0 :
    Steady l s0 s) :
    Steady l s0 (stackReading x0 x1 s) := by
  unfold stackReading
  extract_lets +onlyGivenNames t1
  clear_value t1
  refine State_set_steady (hl.sub (by decide)) _ _ _ ?_
  exact State_set_steady (hl.sub (by decide)) _ _ _ (by assumption)

theorem refreshStale_steady {l : Nat} {s0 : State} (hl : Covers 0x4 l) (x0 : Nat) (s : State) (h0 : Steady l s0 s) :
    Steady l s0 (refreshStale x0 s) := by
  unfold refreshStale
  refine Steady.ite ?_ ?_
  · refine State_set_steady (hl.sub (by decide)) _ _ _ ?_
    assumption
  · assumption

theorem retrainBurst_steady {l : Nat} {s0 : State} (hl : Covers 0x80004 l) (x0 : Nat) (s : State) (h0 : Steady l s0
    s) :
    Steady l s0 (retrainBurst x0 s) := by
  unfold retrainBurst
  refine Steady.ite ?_ ?_
  · assumption
  · refine Steady.ite ?_ ?_
    · refine State_inc_steady (hl.sub (by decide)) _ _ _ ?_
      exact Steady.upd (m := 0x80000) (hl.sub (by decide))
        (by intro x; cases x <;> first | exact fun _ => rfl | exact fun h => absurd h (by decide)) (by assumption) rfl rfl rfl
    · refine burstStart_steady (hl.sub (by decide)) _ _ ?_
      assumption

theorem selfRefreshEnter_steady {l : Nat} {s0 : State} (hl : Covers 0x4 l) (x0 : Nat) (s : State) (h0 : Steady l s0
    s) :
    Steady l s0 (selfRefreshEnter x0 s) := by
  unfold selfRefreshEnter
  refine Steady.ite ?_ ?_
  · refine State_set_steady (hl.sub (by decide)) _ _ _ ?_
    assumption
  · assumption

theorem selfRefreshExit_steady {l : Nat} {s0 : State} (hl : Covers 0x4 l) (x0 : Nat) (s : State) (h0 : Steady l s0
    s) :
    Steady l s0 (selfRefreshExit x0 s) := by
  unfold selfRefreshExit
  refine Steady.ite ?_ ?_
  · refine State_set_steady (hl.sub (by decide)) _ _ _ ?_
    assumption
  · assumption

theorem selfRefreshAuto_steady {l : Nat} {s0 : State} (hl : Covers 0x4 l) (x0 : Nat) (s : State) (h0 : Steady l s0
    s) :
    Steady l s0 (selfRefreshAuto x0 s) := by
  unfold selfRefreshAuto
  refine Steady.ite ?_ ?_
  · assumption
  · refine selfRefreshEnter_steady (hl.sub (by decide)) _ _ ?_
    assumption

theorem freqStart_steady {l : Nat} {s0 : State} (hl : Covers 0x8000c l) (s : State) (h0 : Steady l s0 s) :
    Steady l s0 (freqStart s) := by
  unfold freqStart
  refine Steady.foldl _ ?_ (fun _ _ _ => ?_)
  · refine Steady.upd (m := 0x80000) (hl.sub (by decide)) (by intro x; cases x <;> first | exact fun _ => rfl | exact fun h => absurd h (by decide)) ?_ ?_ ?_ ?_
    · assumption
    · exact rfl
    · exact rfl
    · exact rfl
  · extract_lets +onlyGivenNames t1
    clear_value t1
    extract_lets +onlyGivenNames t2
    refine Steady.cut (t := t2) ?_ (fun ht2 => ?_)
    · unfold t2
      exact State_setGate_steady (hl.sub (by decide)) _ _ _ (by assumption)
    clear_value t2
    exact State_set_steady (hl.sub (by decide)) _ _ _ (by assumption)

theorem freqChange_steady {l : Nat} {s0 : State} (hl : Covers 0x8000c l) (s : State) (h0 : Steady l s0 s) :
    Steady l s0 (freqChange s) := by
  unfold freqChange
  extract_lets +onlyGivenNames t1
  clear_value t1
  extract_lets +onlyGivenNames t2
  clear_value t2
  refine Steady.ite ?_ ?_
  · refine State_set_steady (hl.sub (by decide)) _ _ _ ?_
    assumption
  · extract_lets +onlyGivenNames t3
    refine Steady.cut (t := t3) ?_ (fun ht3 => ?_)
    · unfold t3
      exact State_set_steady (hl.sub (by decide)) _ _ _ (by assumption)
    clear_value t3
    extract_lets +onlyGivenNames t4
    extract_lets +onlyGivenNames t5
    refine Steady.cut (t := t5) ?_ (fun ht5 => ?_)
    · unfold t5
      exact Steady.upd (m := 0x80000) (hl.sub (by decide))
        (by intro x; cases x <;> first | exact fun _ => rfl | exact fun h => absurd h (by decide)) (by assumption) rfl rfl rfl
    clear_value t5
    refine Steady.ite ?_ ?_
    · refine freqStart_steady (hl.sub (by decide)) _ ?_
      assumption
    · refine Steady.upd (m := 0x80000) (hl.sub (by decide)) (by intro x; cases x <;> first | exact fun _ => rfl | exact fun h => absurd h (by decide)) ?_ ?_ ?_ ?_
      · assumption
      · exact rfl
      · exact rfl
      · exact rfl

theorem freqDone_steady {l : Nat} {s0 : State} (hl : Covers 0x8000c l) (s : State) (h0 : Steady l s0 s) :
    Steady l s0 (freqDone s) := by
  unfold freqDone
  split
  · assumption
  · refine Steady.ite ?_ ?_
    · assumption
    · extract_lets +onlyGivenNames t1
      refine Steady.cut (t := t1) ?_ (fun ht1 => ?_)
      · unfold t1
        refine Steady.foldl _ ?_ (fun _ _ _ => ?_)
        · assumption
        · extract_lets +onlyGivenNames t2
          clear_value t2
          extract_lets +onlyGivenNames t3
          refine Steady.cut (t := t3) ?_ (fun ht3 => ?_)
          · unfold t3
            exact State_setGate_steady (hl.sub (by decide)) _ _ _ (by assumption)
          clear_value t3
          refine State_set_steady (hl.sub (by decide)) _ _ _ ?_
          exact State_set_steady (hl.sub (by decide)) _ _ _ (by assumption)
      clear_value t1
      refine State_set_steady (hl.sub (by decide)) _ _ _ ?_
      exact Steady.upd (m := 0x80000) (hl.sub (by decide))
        (by intro x; cases x <;> first | exact fun _ => rfl | exact fun h => absurd h (by decide)) (by assumption) rfl rfl rfl

theorem retrainDone_steady {l : Nat} {s0 : State} (hl : Covers 0x8000c l) (x0 : Nat) (s : State) (h0 : Steady l s0
    s) :
    Steady l s0 (retrainDone x0 s) := by
  unfold retrainDone
  refine Steady.ite ?_ ?_
  · assumption
  · extract_lets +onlyGivenNames t1
    extract_lets +onlyGivenNames t2
    refine Steady.cut (t := t2) ?_ (fun ht2 => ?_)
    · unfold t2
      exact Steady.upd (m := 0x80000) (hl.sub (by decide))
        (by intro x; cases x <;> first | exact fun _ => rfl | exact fun h => absurd h (by decide)) (by assumption) rfl rfl rfl
    clear_value t2
    refine Steady.ite ?_ ?_
    · assumption
    · extract_lets +onlyGivenNames t3
      extract_lets +onlyGivenNames t4
      refine Steady.cut (t := t4) ?_ (fun ht4 => ?_)
      · unfold t4
        exact Steady.upd (m := 0x80000) (hl.sub (by decide))
          (by intro x; cases x <;> first | exact fun _ => rfl | exact fun h => absurd h (by decide)) (by assumption) rfl rfl rfl
      clear_value t4
      refine Steady.ite ?_ ?_
      · refine freqStart_steady (hl.sub (by decide)) _ ?_
        assumption
      · assumption

theorem flipArm_steady {l : Nat} {s0 : State} (hl : Covers 0x4 l) (s : State) (h0 : Steady l s0 s) :
    Steady l s0 (flipArm s) := by
  unfold flipArm
  extract_lets +onlyGivenNames t1
  clear_value t1
  refine Steady.ite ?_ ?_
  · refine State_set_steady (hl.sub (by decide)) _ _ _ ?_
    assumption
  · refine State_set_steady (hl.sub (by decide)) _ _ _ ?_
    assumption

theorem sramUpset_steady {l : Nat} {s0 : State} (hl : Covers 0x80000 l) (x0 : Nat) (x1 : Nat × Nat) (s : State) (h0
    : Steady l s0 s) :
    Steady l s0 (sramUpset x0 x1 s) := by
  unfold sramUpset
  refine Steady.ite ?_ ?_
  · assumption
  · extract_lets +onlyGivenNames t1
    clear_value t1
    extract_lets +onlyGivenNames t2
    clear_value t2
    exact Steady.upd (m := 0x80000) (hl.sub (by decide))
      (by intro x; cases x <;> first | exact fun _ => rfl | exact fun h => absurd h (by decide)) (by assumption) rfl rfl rfl

theorem sramWord_steady {l : Nat} {s0 : State} (hl : Covers 0x80000 l) (x0 : Nat × Nat) (x1 : (Nat × Nat) × State)
    (h0 : Steady l s0 x1.2) :
    Steady l s0 (sramWord x0 x1).2 := by
  unfold sramWord
  split
  extract_lets +onlyGivenNames t1
  split
  · refine Steady.pair ?_
    assumption
  · simp only [t1]
    exact Steady.upd (m := 0x80000) (hl.sub (by decide))
      (by intro x; cases x <;> first | exact fun _ => rfl | exact fun h => absurd h (by decide)) (by assumption) rfl rfl rfl
  · refine Steady.pair ?_
    assumption
  · split
    rename_i t2 heq2
    have hk2 := congrArg Prod.snd heq2
    dsimp only at hk2
    refine Steady.cut (t := t2) ?_ (fun ht2 => ?_)
    · rw [← hk2]
      exact State_fresh_steady (hl.sub (by decide)) _ (by assumption)
    clear heq2 hk2
    refine Steady.ite_snd ?_ ?_
    · refine Steady.pair ?_
      assumption
    · simp only [t1]
      exact Steady.upd (m := 0x80000) (hl.sub (by decide))
        (by intro x; cases x <;> first | exact fun _ => rfl | exact fun h => absurd h (by decide)) (by assumption) rfl rfl rfl

theorem sramPatrol_steady {l : Nat} {s0 : State} (hl : Covers 0x6001a6106 l) (x0 : Nat) (x1 : List (Nat × Nat)) (s :
    State) (h0 : Steady l s0 s) :
    Steady l s0 (sramPatrol x0 x1 s) := by
  unfold sramPatrol
  extract_lets +onlyGivenNames t1
  refine Steady.cut (t := t1) ?_ (fun ht1 => ?_)
  · unfold t1
    refine Steady.foldl _ ?_ (fun _ _ _ => ?_)
    · assumption
    · refine sramUpset_steady (hl.sub (by decide)) _ _ _ ?_
      assumption
  clear_value t1
  refine Steady.ite ?_ ?_
  · assumption
  · refine Steady.ite ?_ ?_
    · refine Steady.foldl _ ?_ (fun _ _ _ => ?_)
      · assumption
      · refine fwWord_steady (hl.sub (by decide)) _ _ _ _ ?_
        assumption
    · split
      rename_i t2 heq2
      have hk2 := congrArg Prod.snd heq2
      dsimp only at hk2
      refine Steady.cut (t := t2) ?_ (fun ht2 => ?_)
      · rw [← hk2]
        refine Steady.foldl_snd _ ?_ (fun _ _ _ => ?_)
        · refine Steady.pair ?_
          assumption
        · refine sramWord_steady (hl.sub (by decide)) _ _ ?_
          assumption
      clear heq2 hk2
      extract_lets +onlyGivenNames t3
      refine Steady.cut (t := t3) ?_ (fun ht3 => ?_)
      · unfold t3
        exact tallyEcc_steady (hl.sub (by decide)) _ _ _ (by assumption)
      clear_value t3
      refine Steady.ite ?_ ?_
      · extract_lets +onlyGivenNames t4
        clear_value t4
        extract_lets +onlyGivenNames t5
        refine Steady.cut (t := t5) ?_ (fun ht5 => ?_)
        · unfold t5
          refine State_inc_steady (hl.sub (by decide)) _ _ _ ?_
          exact State_inc_steady (hl.sub (by decide)) _ _ _ (by assumption)
        clear_value t5
        refine Steady.ite ?_ ?_
        · assumption
        · refine retireTile_steady (hl.sub (by decide)) _ _ _ _ ?_
          assumption
      · refine Steady.ite ?_ ?_
        · extract_lets +onlyGivenNames t6
          clear_value t6
          extract_lets +onlyGivenNames t7
          refine Steady.cut (t := t7) ?_ (fun ht7 => ?_)
          · unfold t7
            refine State_inc_steady (hl.sub (by decide)) _ _ _ ?_
            exact State_inc_steady (hl.sub (by decide)) _ _ _ (by assumption)
          clear_value t7
          refine Steady.ite ?_ ?_
          · assumption
          · refine settleSwaps_steady (hl.sub (by decide)) _ ?_
            exact retireSlice_steady (hl.sub (by decide)) _ _ _ _ (by assumption)
        · assumption

theorem tiltState_steady {l : Nat} {s0 : State} (hl : Covers 0x4 l) (x0 : Nat) (x1 : Nat) (s : State) (h0 : Steady l
    s0 s) :
    Steady l s0 (tiltState x0 x1 s) := by
  unfold tiltState
  refine State_set_steady (hl.sub (by decide)) _ _ _ ?_
  exact State_set_steady (hl.sub (by decide)) _ _ _ (by assumption)

theorem tiltEnd_steady {l : Nat} {s0 : State} (hl : Covers 0x104 l) (x0 : Nat) (x1 : Nat) (s : State) (h0 : Steady l
    s0 s) :
    Steady l s0 (tiltEnd x0 x1 s) := by
  unfold tiltEnd
  refine raise_steady (hl.sub (by decide)) _ _ ?_
  exact tiltState_steady (hl.sub (by decide)) _ _ _ (by assumption)

theorem tiltStart_steady {l : Nat} {s0 : State} (hl : Covers 0x4004 l) (x0 : Bool) (s : State) (h0 : Steady l s0 s) :
    Steady l s0 (tiltStart x0 s) := by
  unfold tiltStart
  refine Steady.ite ?_ ?_
  · assumption
  · extract_lets +onlyGivenNames t1
    clear_value t1
    extract_lets +onlyGivenNames t2
    clear_value t2
    extract_lets +onlyGivenNames t3
    clear_value t3
    extract_lets +onlyGivenNames t4
    clear_value t4
    refine Steady.ite ?_ ?_
    · refine State_set_steady (hl.sub (by decide)) _ _ _ ?_
      assumption
    · extract_lets +onlyGivenNames t5
      clear_value t5
      extract_lets +onlyGivenNames t6
      clear_value t6
      extract_lets +onlyGivenNames t7
      refine Steady.cut (t := t7) ?_ (fun ht7 => ?_)
      · unfold t7
        refine State_wr_steady (hl.sub (by decide)) _ _ _ ?_
        refine State_wr_steady (hl.sub (by decide)) _ _ _ ?_
        exact State_wr_steady (hl.sub (by decide)) _ _ _ (by assumption)
      clear_value t7
      refine tiltState_steady (hl.sub (by decide)) _ _ _ ?_
      exact Steady.upd (m := 0x4000) (hl.sub (by decide))
        (by intro x; cases x <;> first | exact fun _ => rfl | exact fun h => absurd h (by decide)) (by assumption) rfl rfl rfl

theorem tiltResume_steady {l : Nat} {s0 : State} (hl : Covers 0x4004 l) (s : State) (h0 : Steady l s0 s) :
    Steady l s0 (tiltResume s) := by
  unfold tiltResume
  split
  · refine Steady.ite ?_ ?_
    · assumption
    · extract_lets +onlyGivenNames t1
      clear_value t1
      refine tiltState_steady (hl.sub (by decide)) _ _ _ ?_
      exact Steady.upd (m := 0x4000) (hl.sub (by decide))
        (by intro x; cases x <;> first | exact fun _ => rfl | exact fun h => absurd h (by decide)) (by assumption) rfl rfl rfl
  · assumption

theorem tiltAbort_steady {l : Nat} {s0 : State} (hl : Covers 0x4000 l) (s : State) (h0 : Steady l s0 s) :
    Steady l s0 (tiltAbort s) := by
  unfold tiltAbort
  split
  · refine Steady.ite ?_ ?_
    · refine Steady.upd (m := 0x4000) (hl.sub (by decide)) (by intro x; cases x <;> first | exact fun _ => rfl | exact fun h => absurd h (by decide)) ?_ ?_ ?_ ?_
      · assumption
      · exact rfl
      · exact rfl
      · exact rfl
    · assumption
  · assumption

theorem tiltSave_steady {l : Nat} {s0 : State} (hl : Covers 0x180106 l) (s : State) (h0 : Steady l s0 s) :
    Steady l s0 (tiltSave s) := by
  unfold tiltSave
  split
  · refine Steady.ite ?_ ?_
    · refine engineWrite_steady (hl.sub (by decide)) _ _ _ _ ?_
      assumption
    · assumption
  · assumption

theorem tiltRestore_steady {l : Nat} {s0 : State} (hl : Covers 0x184106 l) (s : State) (h0 : Steady l s0 s) :
    Steady l s0 (tiltRestore s) := by
  unfold tiltRestore
  refine Steady.ite ?_ ?_
  · assumption
  · split
    rename_i t1 heq1
    have hk1 := congrArg Prod.snd heq1
    dsimp only at hk1
    refine Steady.cut (t := t1) ?_ (fun ht1 => ?_)
    · rw [← hk1]
      exact memRead_steady (hl.sub (by decide)) _ _ _ _ (by assumption)
    clear heq1 hk1
    refine Steady.ite ?_ ?_
    · refine tiltEnd_steady (hl.sub (by decide)) _ _ _ ?_
      assumption
    · refine Steady.ite ?_ ?_
      · refine State_set_steady (hl.sub (by decide)) _ _ _ ?_
        assumption
      · extract_lets +onlyGivenNames t2
        clear_value t2
        extract_lets +onlyGivenNames t3
        clear_value t3
        extract_lets +onlyGivenNames t4
        clear_value t4
        extract_lets +onlyGivenNames t5
        clear_value t5
        extract_lets +onlyGivenNames t6
        refine Steady.cut (t := t6) ?_ (fun ht6 => ?_)
        · unfold t6
          refine State_wr_steady (hl.sub (by decide)) _ _ _ ?_
          refine State_wr_steady (hl.sub (by decide)) _ _ _ ?_
          exact State_wr_steady (hl.sub (by decide)) _ _ _ (by assumption)
        clear_value t6
        refine tiltState_steady (hl.sub (by decide)) _ _ _ ?_
        exact Steady.upd (m := 0x4000) (hl.sub (by decide))
          (by intro x; cases x <;> first | exact fun _ => rfl | exact fun h => absurd h (by decide)) (by assumption) rfl rfl rfl

theorem tiltTile_steady {l : Nat} {s0 : State} (hl : Covers 0x4104 l) (x0 : TilthJob) (x1 : List Byte) (x2 : Bool)
    (s : State) (h0 : Steady l s0 s) :
    Steady l s0 (tiltTile x0 x1 x2 s) := by
  unfold tiltTile
  extract_lets +onlyGivenNames t1
  clear_value t1
  extract_lets +onlyGivenNames t2
  refine Steady.cut (t := t2) ?_ (fun ht2 => ?_)
  · unfold t2
    refine State_wr_steady (hl.sub (by decide)) _ _ _ ?_
    exact State_wr_steady (hl.sub (by decide)) _ _ _ (by assumption)
  clear_value t2
  extract_lets +onlyGivenNames t3
  refine Steady.cut (t := t3) ?_ (fun ht3 => ?_)
  · unfold t3
    refine Steady.ite ?_ ?_
    · refine State_wr_steady (hl.sub (by decide)) _ _ _ ?_
      assumption
    · assumption
  clear_value t3
  extract_lets +onlyGivenNames t4
  clear_value t4
  extract_lets +onlyGivenNames t5
  refine Steady.cut (t := t5) ?_ (fun ht5 => ?_)
  · unfold t5
    exact Steady.upd (m := 0x4000) (hl.sub (by decide))
      (by intro x; cases x <;> first | exact fun _ => rfl | exact fun h => absurd h (by decide)) (by assumption) rfl rfl rfl
  clear_value t5
  refine Steady.ite ?_ ?_
  · refine tiltEnd_steady (hl.sub (by decide)) _ _ _ ?_
    assumption
  · assumption

theorem tiltDecode_steady {l : Nat} {s0 : State} (hl : Covers 0x184106 l) (x0 : TilthJob) (s : State) (h0 : Steady l
    s0 s) :
    Steady l s0 (tiltDecode x0 s) := by
  unfold tiltDecode
  extract_lets +onlyGivenNames t1
  clear_value t1
  extract_lets +onlyGivenNames t2
  clear_value t2
  split
  rename_i t3 heq3
  have hk3 := congrArg Prod.snd heq3
  dsimp only at hk3
  refine Steady.cut (t := t3) ?_ (fun ht3 => ?_)
  · rw [← hk3]
    exact memRead_steady (hl.sub (by decide)) _ _ _ _ (by assumption)
  clear heq3 hk3
  refine Steady.ite ?_ ?_
  · refine tiltEnd_steady (hl.sub (by decide)) _ _ _ ?_
    assumption
  · extract_lets +onlyGivenNames t4
    clear_value t4
    extract_lets +onlyGivenNames t5
    split
    · refine Steady.ite ?_ ?_
      · refine tiltEnd_steady (hl.sub (by decide)) _ _ _ ?_
        assumption
      · split
        rename_i t6 heq6
        have hk6 := congrArg Prod.snd heq6
        dsimp only at hk6
        refine Steady.cut (t := t6) ?_ (fun ht6 => ?_)
        · rw [← hk6]
          exact memRead_steady (hl.sub (by decide)) _ _ _ _ (by assumption)
        clear heq6 hk6
        refine Steady.ite ?_ ?_
        · refine tiltEnd_steady (hl.sub (by decide)) _ _ _ ?_
          assumption
        · simp only [t5]
          refine tiltTile_steady (hl.sub (by decide)) _ _ _ _ ?_
          exact engineWrite_steady (hl.sub (by decide)) _ _ _ _ (by assumption)
    · split
      extract_lets +onlyGivenNames t7
      refine Steady.cut (t := t7) ?_ (fun ht7 => ?_)
      · unfold t7
        refine Steady.ite ?_ ?_
        · refine State_inc_steady (hl.sub (by decide)) _ _ _ ?_
          exact State_set_steady (hl.sub (by decide)) _ _ _ (by assumption)
        · assumption
      clear_value t7
      simp only [t5]
      refine tiltTile_steady (hl.sub (by decide)) _ _ _ _ ?_
      exact engineWrite_steady (hl.sub (by decide)) _ _ _ _ (by assumption)

theorem tiltEncode_steady {l : Nat} {s0 : State} (hl : Covers 0x184106 l) (x0 : TilthJob) (s : State) (h0 : Steady l
    s0 s) :
    Steady l s0 (tiltEncode x0 s) := by
  unfold tiltEncode
  extract_lets +onlyGivenNames t1
  clear_value t1
  extract_lets +onlyGivenNames t2
  clear_value t2
  extract_lets +onlyGivenNames t3
  clear_value t3
  split
  rename_i t4 heq4
  have hk4 := congrArg Prod.snd heq4
  dsimp only at hk4
  refine Steady.cut (t := t4) ?_ (fun ht4 => ?_)
  · rw [← hk4]
    exact memRead_steady (hl.sub (by decide)) _ _ _ _ (by assumption)
  clear heq4 hk4
  extract_lets +onlyGivenNames t5
  refine Steady.ite ?_ ?_
  · refine tiltEnd_steady (hl.sub (by decide)) _ _ _ ?_
    assumption
  · split
    · refine tiltTile_steady (hl.sub (by decide)) _ _ _ _ ?_
      simp only [t5]
      exact engineWrite_steady (hl.sub (by decide)) _ _ _ _ (by assumption)
    · refine Steady.ite ?_ ?_
      · refine tiltEnd_steady (hl.sub (by decide)) _ _ _ ?_
        assumption
      · refine tiltTile_steady (hl.sub (by decide)) _ _ _ _ ?_
        refine engineWrite_steady (hl.sub (by decide)) _ _ _ _ ?_
        simp only [t5]
        exact engineWrite_steady (hl.sub (by decide)) _ _ _ _ (by assumption)

theorem tiltStep_steady {l : Nat} {s0 : State} (hl : Covers 0x184106 l) (s : State) (h0 : Steady l s0 s) :
    Steady l s0 (tiltStep s) := by
  unfold tiltStep
  split
  · assumption
  · extract_lets +onlyGivenNames t1
    clear_value t1
    refine Steady.ite ?_ ?_
    · assumption
    · refine Steady.ite ?_ ?_
      · refine tiltEnd_steady (hl.sub (by decide)) _ _ _ ?_
        assumption
      · refine Steady.ite ?_ ?_
        · refine tiltEnd_steady (hl.sub (by decide)) _ _ _ ?_
          assumption
        · refine Steady.ite ?_ ?_
          · refine tiltEnd_steady (hl.sub (by decide)) _ _ _ ?_
            assumption
          · refine Steady.ite ?_ ?_
            · assumption
            · refine Steady.ite ?_ ?_
              · refine tiltDecode_steady (hl.sub (by decide)) _ _ ?_
                assumption
              · refine tiltEncode_steady (hl.sub (by decide)) _ _ ?_
                assumption

theorem tiltCommand_steady {l : Nat} {s0 : State} (hl : Covers 0x184106 l) (x0 : Nat) (s : State) (h0 : Steady l s0
    s) :
    Steady l s0 (tiltCommand x0 s) := by
  unfold tiltCommand
  split
  · refine tiltStart_steady (hl.sub (by decide)) _ _ ?_
    assumption
  · refine tiltStart_steady (hl.sub (by decide)) _ _ ?_
    assumption
  · refine tiltResume_steady (hl.sub (by decide)) _ ?_
    assumption
  · refine tiltSave_steady (hl.sub (by decide)) _ ?_
    assumption
  · refine tiltRestore_steady (hl.sub (by decide)) _ ?_
    assumption
  · refine tiltAbort_steady (hl.sub (by decide)) _ ?_
    assumption
  · assumption

end Sys2Proof.Machine
end

