-- ==== Sys2Proof/Laws/Steady14.lean ====
section
/-! SUPPORT. What the operations of CalOps, Image, NvlOps keep (Laws/Steady.lean). -/

set_option linter.unusedVariables false
set_option maxRecDepth 4000

namespace Sys2Proof.Machine

theorem calRun_steady {l : Nat} {s0 : State} (hl : Covers 0x20000 l) (x0 : Nat) (x1 : Nat) (s : State) (h0 : Steady
    l s0 s) :
    Steady l s0 (calRun x0 x1 s) := by
  unfold calRun
  refine Steady.foldl _ ?_ (fun _ _ _ => ?_)
  · assumption
  · extract_lets +onlyGivenNames t1
    clear_value t1
    exact setCal_steady (hl.sub (by decide)) _ _ _ (by assumption)

theorem calDueAge_steady {l : Nat} {s0 : State} (hl : Covers 0x20000 l) (x0 : Nat) (x1 : Nat) (s : State) (h0 :
    Steady l s0 s) :
    Steady l s0 (calDueAge x0 x1 s) := by
  unfold calDueAge
  refine Steady.ite ?_ ?_
  · refine calDue_steady (hl.sub (by decide)) _ _ ?_
    assumption
  · assumption

theorem calTempDue_steady {l : Nat} {s0 : State} (hl : Covers 0x20000 l) (s : State) (h0 : Steady l s0 s) :
    Steady l s0 (calTempDue s) := by
  unfold calTempDue
  refine Steady.foldl _ ?_ (fun _ _ _ => ?_)
  · assumption
  · extract_lets +onlyGivenNames t1
    clear_value t1
    split
    refine Steady.ite ?_ ?_
    · assumption
    · split
      · refine setCal_steady (hl.sub (by decide)) _ _ _ ?_
        assumption
      · refine Steady.ite ?_ ?_
        · refine calDue_steady (hl.sub (by decide)) _ _ ?_
          assumption
        · assumption

theorem calIslandReset_steady {l : Nat} {s0 : State} (hl : Covers 0x20000 l) (x0 : Nat) (s : State) (h0 : Steady l
    s0 s) :
    Steady l s0 (calIslandReset x0 s) := by
  unfold calIslandReset
  extract_lets +onlyGivenNames t1
  clear_value t1
  refine Steady.foldl _ ?_ (fun _ _ _ => ?_)
  · assumption
  · refine calDue_steady (hl.sub (by decide)) _ _ ?_
    assumption

theorem calAge_steady {l : Nat} {s0 : State} (hl : Covers 0x20000 l) (s : State) (h0 : Steady l s0 s) :
    Steady l s0 (calAge s) := by
  unfold calAge
  exact Steady.upd (m := 0x20000) (hl.sub (by decide))
    (by intro x; cases x <;> first | exact fun _ => rfl | exact fun h => absurd h (by decide)) (by assumption) rfl rfl rfl

theorem calBegin_steady {l : Nat} {s0 : State} (hl : Covers 0x12c106 l) (x0 : Nat) (s : State) (h0 : Steady l s0 s) :
    Steady l s0 (calBegin x0 s) := by
  unfold calBegin
  extract_lets +onlyGivenNames t1
  clear_value t1
  extract_lets +onlyGivenNames t2
  clear_value t2
  extract_lets +onlyGivenNames t3
  clear_value t3
  extract_lets +onlyGivenNames t4
  refine Steady.cut (t := t4) ?_ (fun ht4 => ?_)
  · unfold t4
    exact Steady.upd (m := 0x20000) (hl.sub (by decide))
      (by intro x; cases x <;> first | exact fun _ => rfl | exact fun h => absurd h (by decide)) (by assumption) rfl rfl rfl
  clear_value t4
  extract_lets +onlyGivenNames t5
  refine Steady.cut (t := t5) ?_ (fun ht5 => ?_)
  · unfold t5
    refine State_set_steady (hl.sub (by decide)) _ _ _ ?_
    refine State_set_steady (hl.sub (by decide)) _ _ _ ?_
    exact State_set_steady (hl.sub (by decide)) _ _ _ (by assumption)
  clear_value t5
  split
  · refine Steady.ite ?_ ?_
    · assumption
    · refine rollStart_steady (hl.sub (by decide)) _ _ ?_
      assumption
  · refine fillTileAuditor_steady (hl.sub (by decide)) _ ?_
    refine setRole_steady (hl.sub (by decide)) _ _ _ _ _ ?_
    extract_lets +onlyGivenNames t6
    refine Steady.cut (t := t6) ?_ (fun ht6 => ?_)
    · unfold t6
      exact takeUnit_steady (hl.sub (by decide)) _ _ _ (by assumption)
    clear_value t6
    exact Steady.upd (m := 0x20000) (hl.sub (by decide))
      (by intro x; cases x <;> first | exact fun _ => rfl | exact fun h => absurd h (by decide)) (by assumption) rfl rfl rfl
  · refine fillSliceAuditor_steady (hl.sub (by decide)) _ ?_
    refine setRole_steady (hl.sub (by decide)) _ _ _ _ _ ?_
    extract_lets +onlyGivenNames t7
    refine Steady.cut (t := t7) ?_ (fun ht7 => ?_)
    · unfold t7
      exact takeUnit_steady (hl.sub (by decide)) _ _ _ (by assumption)
    clear_value t7
    exact Steady.upd (m := 0x20000) (hl.sub (by decide))
      (by intro x; cases x <;> first | exact fun _ => rfl | exact fun h => absurd h (by decide)) (by assumption) rfl rfl rfl
  · assumption

theorem calStart_steady {l : Nat} {s0 : State} (hl : Covers 0x12c106 l) (s : State) (h0 : Steady l s0 s) :
    Steady l s0 (calStart s) := by
  unfold calStart
  refine Steady.ite ?_ ?_
  · assumption
  · split
    · refine calBegin_steady (hl.sub (by decide)) _ _ ?_
      assumption
    · extract_lets +onlyGivenNames t1
      clear_value t1
      exact State_set_steady (hl.sub (by decide)) _ _ _ (by assumption)

theorem calReturn_steady {l : Nat} {s0 : State} (hl : Covers 0x124106 l) (x0 : Nat) (s : State) (h0 : Steady l s0 s) :
    Steady l s0 (calReturn x0 s) := by
  unfold calReturn
  extract_lets +onlyGivenNames t1
  clear_value t1
  extract_lets +onlyGivenNames t2
  refine Steady.cut (t := t2) ?_ (fun ht2 => ?_)
  · unfold t2
    exact Steady.upd (m := 0x20000) (hl.sub (by decide))
      (by intro x; cases x <;> first | exact fun _ => rfl | exact fun h => absurd h (by decide)) (by assumption) rfl rfl rfl
  clear_value t2
  extract_lets +onlyGivenNames t3
  refine Steady.cut (t := t3) ?_ (fun ht3 => ?_)
  · unfold t3
    exact State_set_steady (hl.sub (by decide)) _ _ _ (by assumption)
  clear_value t3
  refine Steady.ite ?_ ?_
  · refine standbyTile_steady (hl.sub (by decide)) _ _ ?_
    assumption
  · refine Steady.ite ?_ ?_
    · refine standbySlice_steady (hl.sub (by decide)) _ _ ?_
      assumption
    · assumption

theorem calDone_steady {l : Nat} {s0 : State} (hl : Covers 0x124106 l) (x0 : Nat) (s : State) (h0 : Steady l s0 s) :
    Steady l s0 (calDone x0 s) := by
  unfold calDone
  split
  · assumption
  · refine Steady.ite ?_ ?_
    · assumption
    · refine raise_steady (hl.sub (by decide)) _ _ ?_
      refine calComplete_steady (hl.sub (by decide)) _ _ _ ?_
      exact calReturn_steady (hl.sub (by decide)) _ _ (by assumption)

theorem calDisable_steady {l : Nat} {s0 : State} (hl : Covers 0x12c106 l) (s : State) (h0 : Steady l s0 s) :
    Steady l s0 (calDisable s) := by
  unfold calDisable
  extract_lets +onlyGivenNames t1
  refine Steady.cut (t := t1) ?_ (fun ht1 => ?_)
  · unfold t1
    split
    · assumption
    · extract_lets +onlyGivenNames t2
      clear_value t2
      extract_lets +onlyGivenNames t3
      clear_value t3
      extract_lets +onlyGivenNames t4
      clear_value t4
      extract_lets +onlyGivenNames t5
      refine Steady.cut (t := t5) ?_ (fun ht5 => ?_)
      · unfold t5
        exact setGrp_steady (hl.sub (by decide)) _ _ _ (by assumption)
      clear_value t5
      extract_lets +onlyGivenNames t6
      clear_value t6
      extract_lets +onlyGivenNames t7
      refine Steady.cut (t := t7) ?_ (fun ht7 => ?_)
      · unfold t7
        refine Steady.ite ?_ ?_
        · refine queueCmd_steady (hl.sub (by decide)) _ _ _ _ ?_
          assumption
        · assumption
      clear_value t7
      extract_lets +onlyGivenNames t8
      refine Steady.cut (t := t8) ?_ (fun ht8 => ?_)
      · unfold t8
        exact State_set_steady (hl.sub (by decide)) _ _ _ (by assumption)
      clear_value t8
      extract_lets +onlyGivenNames t9
      clear_value t9
      extract_lets +onlyGivenNames t10
      clear_value t10
      extract_lets +onlyGivenNames t11
      refine Steady.cut (t := t11) ?_ (fun ht11 => ?_)
      · unfold t11
        refine Steady.ite ?_ ?_
        · refine Steady.ite ?_ ?_
          · refine setGrp_steady (hl.sub (by decide)) _ _ _ ?_
            assumption
          · assumption
        · assumption
      clear_value t11
      exact calReturn_steady (hl.sub (by decide)) _ _ (by assumption)
  clear_value t1
  exact State_set_steady (hl.sub (by decide)) _ _ _ (by assumption)

theorem calRetry_steady {l : Nat} {s0 : State} (hl : Covers 0x20000 l) (x0 : Nat) (x1 : Nat) (s : State) (h0 :
    Steady l s0 s) :
    Steady l s0 (calRetry x0 x1 s) := by
  unfold calRetry
  exact setCal_steady (hl.sub (by decide)) _ _ _ (by assumption)

theorem calOverdue_steady {l : Nat} {s0 : State} (hl : Covers 0x120106 l) (x0 : Nat) (x1 : Nat) (s : State) (h0 :
    Steady l s0 s) :
    Steady l s0 (calOverdue x0 x1 s) := by
  unfold calOverdue
  extract_lets +onlyGivenNames t1
  clear_value t1
  refine Steady.ite ?_ ?_
  · assumption
  · extract_lets +onlyGivenNames t2
    refine Steady.cut (t := t2) ?_ (fun ht2 => ?_)
    · unfold t2
      exact setCal_steady (hl.sub (by decide)) _ _ _ (by assumption)
    clear_value t2
    exact event_steady (hl.sub (by decide)) _ _ _ (by assumption)

theorem testCompose_steady {l : Nat} {s0 : State} (hl : Covers 0x1a0106 l) (s : State) (h0 : Steady l s0 s) :
    Steady l s0 (testCompose s) := by
  unfold testCompose
  extract_lets +onlyGivenNames t1
  clear_value t1
  extract_lets +onlyGivenNames t2
  clear_value t2
  extract_lets +onlyGivenNames t3
  clear_value t3
  extract_lets +onlyGivenNames t4
  clear_value t4
  extract_lets +onlyGivenNames t5
  clear_value t5
  extract_lets +onlyGivenNames t6
  clear_value t6
  extract_lets +onlyGivenNames t7
  refine Steady.ite ?_ ?_
  · assumption
  · refine Steady.ite ?_ ?_
    · simp only [t7]
      exact State_set_steady (hl.sub (by decide)) _ _ _ (by assumption)
    · refine Steady.ite ?_ ?_
      · simp only [t7]
        exact State_set_steady (hl.sub (by decide)) _ _ _ (by assumption)
      · refine Steady.ite ?_ ?_
        · simp only [t7]
          exact State_set_steady (hl.sub (by decide)) _ _ _ (by assumption)
        · extract_lets +onlyGivenNames t8
          refine Steady.cut (t := t8) ?_ (fun ht8 => ?_)
          · unfold t8
            exact engineWrite_steady (hl.sub (by decide)) _ _ _ _ (by assumption)
          clear_value t8
          simp only [t7]
          refine State_set_steady (hl.sub (by decide)) _ _ _ ?_
          exact Steady.upd (m := 0x20000) (hl.sub (by decide))
            (by intro x; cases x <;> first | exact fun _ => rfl | exact fun h => absurd h (by decide)) (by assumption) rfl rfl rfl

theorem testDone_steady {l : Nat} {s0 : State} (hl : Covers 0x4 l) (s : State) (h0 : Steady l s0 s) :
    Steady l s0 (testDone s) := by
  unfold testDone
  refine Steady.ite ?_ ?_
  · refine State_wr_steady (hl.sub (by decide)) _ _ _ ?_
    exact State_set_steady (hl.sub (by decide)) _ _ _ (by assumption)
  · assumption

theorem applyDefault_steady {l : Nat} {s0 : State} (hl : Covers 0x4 l) (x0 : Nat) (x1 : Nat) (s : State) (h0 :
    Steady l s0 s) :
    Steady l s0 (applyDefault x0 x1 s) := by
  unfold applyDefault
  split
  · assumption
  · extract_lets +onlyGivenNames t1
    clear_value t1
    extract_lets +onlyGivenNames t2
    refine Steady.cut (t := t2) ?_ (fun ht2 => ?_)
    · unfold t2
      exact State_wr_steady (hl.sub (by decide)) _ _ _ (by assumption)
    clear_value t2
    refine Steady.ite ?_ ?_
    · refine State_set_steady (hl.sub (by decide)) _ _ _ ?_
      assumption
    · assumption

theorem applyDefaults_steady {l : Nat} {s0 : State} (hl : Covers 0x4 l) (x0 : Nat) (x1 : Bool) (x2 : List (Nat ×
    Nat)) (s : State) (h0 : Steady l s0 s) :
    Steady l s0 (applyDefaults x0 x1 x2 s) := by
  unfold applyDefaults
  refine Steady.foldl _ ?_ (fun _ _ _ => ?_)
  · assumption
  · refine applyDefault_steady (hl.sub (by decide)) _ _ _ ?_
    assumption

theorem applyLayers_steady {l : Nat} {s0 : State} (hl : Covers 0x4 l) (x0 : Nat) (x1 : Bool) (x2 : Nat) (s : State)
    (h0 : Steady l s0 s) :
    Steady l s0 (applyLayers x0 x1 x2 s) := by
  unfold applyLayers
  extract_lets +onlyGivenNames t1
  refine Steady.cut (t := t1) ?_ (fun ht1 => ?_)
  · unfold t1
    exact applyDefaults_steady (hl.sub (by decide)) _ _ _ _ (by assumption)
  clear_value t1
  refine Steady.ite ?_ ?_
  · assumption
  · refine applyDefaults_steady (hl.sub (by decide)) _ _ _ _ ?_
    assumption

theorem nvlFail_steady {l : Nat} {s0 : State} (hl : Covers 0x4 l) (x0 : Nat) (x1 : ImageFail) (s : State) (h0 :
    Steady l s0 s) :
    Steady l s0 (nvlFail x0 x1 s) := by
  unfold nvlFail
  exact State_wr_steady (hl.sub (by decide)) _ _ _ (by assumption)

theorem slotResult_steady {l : Nat} {s0 : State} (hl : Covers 0x4 l) (x0 : Nat) (x1 : Nat) (s : State) (h0 : Steady
    l s0 s) :
    Steady l s0 (slotResult x0 x1 s) := by
  unfold slotResult
  exact State_set_steady (hl.sub (by decide)) _ _ _ (by assumption)

theorem fncStore_steady {l : Nat} {s0 : State} (hl : Covers 0x4 l) (x0 : Nat) (x1 : Nat) (s : State) (h0 : Steady l
    s0 s) :
    Steady l s0 (fncStore x0 x1 s) := by
  unfold fncStore
  extract_lets +onlyGivenNames t1
  clear_value t1
  refine Steady.ite ?_ ?_
  · refine State_wr_steady (hl.sub (by decide)) _ _ _ ?_
    assumption
  · refine Steady.ite ?_ ?_
    · refine State_wr_steady (hl.sub (by decide)) _ _ _ ?_
      assumption
    · refine Steady.ite ?_ ?_
      · refine State_wr_steady (hl.sub (by decide)) _ _ _ ?_
        assumption
      · refine Steady.ite ?_ ?_
        · refine State_wr_steady (hl.sub (by decide)) _ _ _ ?_
          assumption
        · refine Steady.ite ?_ ?_
          · refine State_wr_steady (hl.sub (by decide)) _ _ _ ?_
            assumption
          · refine Steady.ite ?_ ?_
            · refine State_wr_steady (hl.sub (by decide)) _ _ _ ?_
              assumption
            · refine Steady.ite ?_ ?_
              · refine State_wr_steady (hl.sub (by decide)) _ _ _ ?_
                assumption
              · refine Steady.ite ?_ ?_
                · refine State_wr_steady (hl.sub (by decide)) _ _ _ ?_
                  assumption
                · assumption

theorem applySealed_steady {l : Nat} {s0 : State} (hl : Covers 0x4 l) (x0 : Reader) (s : State) (h0 : Steady l s0 s) :
    Steady l s0 (applySealed x0 s) := by
  unfold applySealed
  split
  · refine Steady.foldl _ ?_ (fun _ _ _ => ?_)
    · assumption
    · refine fncStore_steady (hl.sub (by decide)) _ _ _ ?_
      assumption
  · assumption

theorem applyTables_steady {l : Nat} {s0 : State} (hl : Covers 0x3000004 l) (x0 : Reader) (s : State) (h0 : Steady l
    s0 s) :
    Steady l s0 (applyTables x0 s) := by
  unfold applyTables
  extract_lets +onlyGivenNames t1
  refine Steady.cut (t := t1) ?_ (fun ht1 => ?_)
  · unfold t1
    refine Steady.foldl _ ?_ (fun _ _ _ => ?_)
    · assumption
    · extract_lets +onlyGivenNames t2
      clear_value t2
      refine Steady.foldl _ ?_ (fun _ _ _ => ?_)
      · assumption
      · extract_lets +onlyGivenNames t3
        clear_value t3
        refine setBank_steady (hl.sub (by decide)) _ _ _ _ ?_
        exact setBank_steady (hl.sub (by decide)) _ _ _ _ (by assumption)
  clear_value t1
  extract_lets +onlyGivenNames t4
  clear_value t4
  refine State_wr_steady (hl.sub (by decide)) _ _ _ ?_
  exact State_wr_steady (hl.sub (by decide)) _ _ _ (by assumption)

theorem nvlResult_steady {l : Nat} {s0 : State} (hl : Covers 0x4 l) (x0 : Nat) (s : State) (h0 : Steady l s0 s) :
    Steady l s0 (nvlResult x0 s) := by
  unfold nvlResult
  exact State_set_steady (hl.sub (by decide)) _ _ _ (by assumption)

theorem nvlRefuse_steady {l : Nat} {s0 : State} (hl : Covers 0x4 l) (x0 : Nat) (x1 : ImageFail) (s : State) (h0 :
    Steady l s0 s) :
    Steady l s0 (nvlRefuse x0 x1 s) := by
  unfold nvlRefuse
  refine nvlResult_steady (hl.sub (by decide)) _ _ ?_
  exact nvlFail_steady (hl.sub (by decide)) _ _ _ (by assumption)

theorem updateEnd_steady {l : Nat} {s0 : State} (hl : Covers 0x400004 l) (x0 : Nat) (s : State) (h0 : Steady l s0 s) :
    Steady l s0 (updateEnd x0 s) := by
  unfold updateEnd
  refine nvlResult_steady (hl.sub (by decide)) _ _ ?_
  extract_lets +onlyGivenNames t1
  refine Steady.cut (t := t1) ?_ (fun ht1 => ?_)
  · unfold t1
    exact State_set_steady (hl.sub (by decide)) _ _ _ (by assumption)
  refine Steady.upd (m := 0x400000) (hl.sub (by decide))
    (by intro x; cases x <;> first | exact fun _ => rfl | exact fun h => absurd h (by decide)) ?_ ?_ ?_ ?_
  · assumption
  · exact rfl
  · exact rfl
  · rfl

theorem showProgress_steady {l : Nat} {s0 : State} (hl : Covers 0x4 l) (x0 : Update) (s : State) (h0 : Steady l s0
    s) :
    Steady l s0 (showProgress x0 s) := by
  unfold showProgress
  split
  exact State_wr_steady (hl.sub (by decide)) _ _ _ (by assumption)

theorem flashNext_steady {l : Nat} {s0 : State} (hl : Covers 0x500106 l) (s : State) (h0 : Steady l s0 s) :
    Steady l s0 (flashNext s) := by
  unfold flashNext
  extract_lets +onlyGivenNames t1
  clear_value t1
  extract_lets +onlyGivenNames t2
  extract_lets +onlyGivenNames t3
  refine Steady.cut (t := t3) ?_ (fun ht3 => ?_)
  · unfold t3
    split
    · refine Steady.ite ?_ ?_
      · refine nvlResult_steady (hl.sub (by decide)) _ _ ?_
        refine storeProgram_steady (hl.sub (by decide)) _ _ ?_
        exact Steady.upd (m := 0x2) (hl.sub (by decide))
          (by intro x; cases x <;> first | exact fun _ => rfl | exact fun h => absurd h (by decide)) (by assumption) rfl rfl rfl
      · assumption
    · assumption
  clear_value t3
  extract_lets +onlyGivenNames t4
  refine Steady.cut (t := t4) ?_ (fun ht4 => ?_)
  · unfold t4
    refine Steady.ite ?_ ?_
    · refine clearProceed_steady (hl.sub (by decide)) _ ?_
      assumption
    · assumption
  clear_value t4
  split
  · assumption
  · refine Steady.ite ?_ ?_
    · assumption
    · refine Steady.ite ?_ ?_
      · refine updateEnd_steady (hl.sub (by decide)) _ _ ?_
        assumption
      · refine Steady.ite ?_ ?_
        · refine State_set_steady (hl.sub (by decide)) _ _ _ ?_
          assumption
        · extract_lets +onlyGivenNames t5
          refine Steady.cut (t := t5) ?_ (fun ht5 => ?_)
          · unfold t5
            exact State_set_steady (hl.sub (by decide)) _ _ _ (by assumption)
          clear_value t5
          refine showProgress_steady (hl.sub (by decide)) _ _ ?_
          exact Steady.upd (m := 0x400000) (hl.sub (by decide))
            (by intro x; cases x <;> first | exact fun _ => rfl | exact fun h => absurd h (by decide)) (by assumption) rfl rfl rfl

theorem flashWindow_steady {l : Nat} {s0 : State} (hl : Covers 0x500106 l) (s : State) (h0 : Steady l s0 s) :
    Steady l s0 (flashWindow s) := by
  unfold flashWindow
  refine Steady.ite ?_ ?_
  · extract_lets +onlyGivenNames t1
    clear_value t1
    extract_lets +onlyGivenNames t2
    extract_lets +onlyGivenNames t3
    refine Steady.cut (t := t3) ?_ (fun ht3 => ?_)
    · unfold t3
      exact Steady.upd (m := 0x400000) (hl.sub (by decide))
        (by intro x; cases x <;> first | exact fun _ => rfl | exact fun h => absurd h (by decide)) (by assumption) rfl rfl rfl
    clear_value t3
    refine Steady.ite ?_ ?_
    · refine State_set_steady (hl.sub (by decide)) _ _ _ ?_
      assumption
    · assumption
  · refine flashNext_steady (hl.sub (by decide)) _ ?_
    assumption

theorem stagedImage_steady {l : Nat} {s0 : State} (hl : Covers 0x180106 l) (s : State) (h0 : Steady l s0 s) :
    Steady l s0 (stagedImage s).2 := by
  unfold stagedImage
  extract_lets +onlyGivenNames t1
  clear_value t1
  refine Steady.ite_snd ?_ ?_
  · refine Steady.pair ?_
    assumption
  · split
    rename_i t2 heq2
    have hk2 := congrArg Prod.snd heq2
    dsimp only at hk2
    refine Steady.cut (t := t2) ?_ (fun ht2 => ?_)
    · rw [← hk2]
      exact memRead_steady (hl.sub (by decide)) _ _ _ _ (by assumption)
    clear heq2 hk2
    refine Steady.ite_snd ?_ ?_
    · refine Steady.pair ?_
      assumption
    · extract_lets +onlyGivenNames t3
      clear_value t3
      extract_lets +onlyGivenNames t4
      clear_value t4
      refine Steady.ite_snd ?_ ?_
      · refine Steady.pair ?_
        assumption
      · refine Steady.ite_snd ?_ ?_
        · refine Steady.pair ?_
          assumption
        · refine Steady.pair ?_
          assumption

theorem nvlUpdate_steady {l : Nat} {s0 : State} (hl : Covers 0x580106 l) (x0 : Nat) (s : State) (h0 : Steady l s0 s) :
    Steady l s0 (nvlUpdate x0 s) := by
  unfold nvlUpdate
  extract_lets +onlyGivenNames t1
  clear_value t1
  refine Steady.ite ?_ ?_
  · refine nvlResult_steady (hl.sub (by decide)) _ _ ?_
    assumption
  · refine Steady.ite ?_ ?_
    · refine nvlRefuse_steady (hl.sub (by decide)) _ _ _ ?_
      assumption
    · refine Steady.ite ?_ ?_
      · refine nvlResult_steady (hl.sub (by decide)) _ _ ?_
        assumption
      · split
        rename_i t2 heq2
        have hk2 := congrArg Prod.snd heq2
        dsimp only at hk2
        refine Steady.cut (t := t2) ?_ (fun ht2 => ?_)
        · rw [← hk2]
          exact stagedImage_steady (hl.sub (by decide)) _ (by assumption)
        clear heq2 hk2
        split
        · refine nvlRefuse_steady (hl.sub (by decide)) _ _ _ ?_
          assumption
        · extract_lets +onlyGivenNames t3
          clear_value t3
          extract_lets +onlyGivenNames t4
          clear_value t4
          extract_lets +onlyGivenNames t5
          clear_value t5
          extract_lets +onlyGivenNames t6
          clear_value t6
          refine flashNext_steady (hl.sub (by decide)) _ ?_
          refine nvlResult_steady (hl.sub (by decide)) _ _ ?_
          exact Steady.upd (m := 0x400000) (hl.sub (by decide))
            (by intro x; cases x <;> first | exact fun _ => rfl | exact fun h => absurd h (by decide)) (by assumption) rfl rfl rfl

theorem nvlAbort_steady {l : Nat} {s0 : State} (hl : Covers 0x500106 l) (s : State) (h0 : Steady l s0 s) :
    Steady l s0 (nvlAbort s) := by
  unfold nvlAbort
  split
  · refine Steady.ite ?_ ?_
    · assumption
    · refine flashNext_steady (hl.sub (by decide)) _ ?_
      exact Steady.upd (m := 0x400000) (hl.sub (by decide))
        (by intro x; cases x <;> first | exact fun _ => rfl | exact fun h => absurd h (by decide)) (by assumption) rfl rfl rfl
  · assumption

theorem nvlConfirm_steady {l : Nat} {s0 : State} (hl : Covers 0x500106 l) (s : State) (h0 : Steady l s0 s) :
    Steady l s0 (nvlConfirm s) := by
  unfold nvlConfirm
  extract_lets +onlyGivenNames t1
  clear_value t1
  refine Steady.ite ?_ ?_
  · refine nvlResult_steady (hl.sub (by decide)) _ _ ?_
    assumption
  · refine Steady.ite ?_ ?_
    · assumption
    · refine flashNext_steady (hl.sub (by decide)) _ ?_
      refine nvlResult_steady (hl.sub (by decide)) _ _ ?_
      exact Steady.upd (m := 0x2) (hl.sub (by decide))
        (by intro x; cases x <;> first | exact fun _ => rfl | exact fun h => absurd h (by decide)) (by assumption) rfl rfl rfl

theorem nvlAdopt_steady {l : Nat} {s0 : State} (hl : Covers 0x4 l) (s : State) (h0 : Steady l s0 s) :
    Steady l s0 (nvlAdopt s) := by
  unfold nvlAdopt
  extract_lets +onlyGivenNames t1
  clear_value t1
  refine Steady.ite ?_ ?_
  · refine nvlResult_steady (hl.sub (by decide)) _ _ ?_
    assumption
  · refine Steady.ite ?_ ?_
    · refine nvlResult_steady (hl.sub (by decide)) _ _ ?_
      refine State_set_steady (hl.sub (by decide)) _ _ _ ?_
      exact State_set_steady (hl.sub (by decide)) _ _ _ (by assumption)
    · refine nvlRefuse_steady (hl.sub (by decide)) _ _ _ ?_
      assumption

theorem nvlVerify_steady {l : Nat} {s0 : State} (hl : Covers 0x500106 l) (x0 : Nat) (s : State) (h0 : Steady l s0 s) :
    Steady l s0 (nvlVerify x0 s) := by
  unfold nvlVerify
  extract_lets +onlyGivenNames t1
  clear_value t1
  refine Steady.ite ?_ ?_
  · refine nvlResult_steady (hl.sub (by decide)) _ _ ?_
    assumption
  · refine Steady.ite ?_ ?_
    · refine slotResult_steady (hl.sub (by decide)) _ _ _ ?_
      exact nvlRefuse_steady (hl.sub (by decide)) _ _ _ (by assumption)
    · refine flashNext_steady (hl.sub (by decide)) _ ?_
      refine nvlResult_steady (hl.sub (by decide)) _ _ ?_
      exact Steady.upd (m := 0x400000) (hl.sub (by decide))
        (by intro x; cases x <;> first | exact fun _ => rfl | exact fun h => absurd h (by decide)) (by assumption) rfl rfl rfl

theorem verifyDone_steady {l : Nat} {s0 : State} (hl : Covers 0x580106 l) (x0 : Update) (s : State) (h0 : Steady l
    s0 s) :
    Steady l s0 (verifyDone x0 s) := by
  unfold verifyDone
  refine Steady.ite ?_ ?_
  · split
    rename_i t1 heq1
    have hk1 := congrArg Prod.snd heq1
    dsimp only at hk1
    refine Steady.cut (t := t1) ?_ (fun ht1 => ?_)
    · rw [← hk1]
      exact stagedImage_steady (hl.sub (by decide)) _ (by assumption)
    clear heq1 hk1
    split
    · refine nvlFail_steady (hl.sub (by decide)) _ _ _ ?_
      exact updateEnd_steady (hl.sub (by decide)) _ _ (by assumption)
    · refine updateEnd_steady (hl.sub (by decide)) _ _ ?_
      assumption
  · split
    · refine slotResult_steady (hl.sub (by decide)) _ _ _ ?_
      refine nvlFail_steady (hl.sub (by decide)) _ _ _ ?_
      exact updateEnd_steady (hl.sub (by decide)) _ _ (by assumption)
    · refine slotResult_steady (hl.sub (by decide)) _ _ _ ?_
      exact updateEnd_steady (hl.sub (by decide)) _ _ (by assumption)

theorem updateGoto_steady {l : Nat} {s0 : State} (hl : Covers 0x400000 l) (x0 : Update) (x1 : UpdPhase) (s : State)
    (h0 : Steady l s0 s) :
    Steady l s0 (updateGoto x0 x1 s) := by
  unfold updateGoto
  exact Steady.upd (m := 0x400000) (hl.sub (by decide))
    (by intro x; cases x <;> first | exact fun _ => rfl | exact fun h => absurd h (by decide)) (by assumption) rfl rfl rfl

theorem updatePos_steady {l : Nat} {s0 : State} (hl : Covers 0x400000 l) (x0 : Update) (s : State) (h0 : Steady l s0
    s) :
    Steady l s0 (updatePos x0 s) := by
  unfold updatePos
  exact Steady.upd (m := 0x400000) (hl.sub (by decide))
    (by intro x; cases x <;> first | exact fun _ => rfl | exact fun h => absurd h (by decide)) (by assumption) rfl rfl rfl

theorem updateStep_steady {l : Nat} {s0 : State} (hl : Covers 0x580106 l) (x0 : Update) (s : State) (h0 : Steady l
    s0 s) :
    Steady l s0 (updateStep x0 s) := by
  unfold updateStep
  extract_lets +onlyGivenNames t1
  clear_value t1
  split
  · extract_lets +onlyGivenNames t2
    clear_value t2
    extract_lets +onlyGivenNames t3
    refine Steady.cut (t := t3) ?_ (fun ht3 => ?_)
    · unfold t3
      exact storeProgram_steady (hl.sub (by decide)) _ _ (by assumption)
    clear_value t3
    exact updateGoto_steady (hl.sub (by decide)) _ _ _ (by assumption)
  · extract_lets +onlyGivenNames t4
    refine Steady.cut (t := t4) ?_ (fun ht4 => ?_)
    · unfold t4
      exact flashErase_steady (hl.sub (by decide)) _ _ _ (by assumption)
    clear_value t4
    refine Steady.ite ?_ ?_
    · refine updatePos_steady (hl.sub (by decide)) _ _ ?_
      assumption
    · refine updateGoto_steady (hl.sub (by decide)) _ _ _ ?_
      assumption
  · extract_lets +onlyGivenNames t5
    clear_value t5
    split
    rename_i t6 heq6
    have hk6 := congrArg Prod.snd heq6
    dsimp only at hk6
    refine Steady.cut (t := t6) ?_ (fun ht6 => ?_)
    · rw [← hk6]
      refine Steady.ite_snd ?_ ?_
      · refine memRead_steady (hl.sub (by decide)) _ _ _ _ ?_
        assumption
      · refine Steady.pair ?_
        assumption
    clear heq6 hk6
    refine Steady.ite ?_ ?_
    · refine nvlFail_steady (hl.sub (by decide)) _ _ _ ?_
      exact updateEnd_steady (hl.sub (by decide)) _ _ (by assumption)
    · extract_lets +onlyGivenNames t7
      refine Steady.cut (t := t7) ?_ (fun ht7 => ?_)
      · unfold t7
        exact flashProgram_steady (hl.sub (by decide)) _ _ _ (by assumption)
      clear_value t7
      refine Steady.ite ?_ ?_
      · refine updatePos_steady (hl.sub (by decide)) _ _ ?_
        assumption
      · refine updateGoto_steady (hl.sub (by decide)) _ _ _ ?_
        assumption
  · extract_lets +onlyGivenNames t8
    clear_value t8
    extract_lets +onlyGivenNames t9
    clear_value t9
    split
    · refine slotResult_steady (hl.sub (by decide)) _ _ _ ?_
      refine nvlFail_steady (hl.sub (by decide)) _ _ _ ?_
      exact updateEnd_steady (hl.sub (by decide)) _ _ (by assumption)
    · refine updateGoto_steady (hl.sub (by decide)) _ _ _ ?_
      assumption
  · extract_lets +onlyGivenNames t10
    clear_value t10
    extract_lets +onlyGivenNames t11
    refine Steady.cut (t := t11) ?_ (fun ht11 => ?_)
    · unfold t11
      exact flashProgram_steady (hl.sub (by decide)) _ _ _ (by assumption)
    clear_value t11
    refine Steady.ite ?_ ?_
    · refine updatePos_steady (hl.sub (by decide)) _ _ ?_
      assumption
    · refine updateGoto_steady (hl.sub (by decide)) _ _ _ ?_
      assumption
  · extract_lets +onlyGivenNames t12
    refine Steady.cut (t := t12) ?_ (fun ht12 => ?_)
    · unfold t12
      exact storeProgram_steady (hl.sub (by decide)) _ _ (by assumption)
    clear_value t12
    extract_lets +onlyGivenNames t13
    refine Steady.cut (t := t13) ?_ (fun ht13 => ?_)
    · unfold t13
      exact event_steady (hl.sub (by decide)) _ _ _ (by assumption)
    clear_value t13
    refine slotResult_steady (hl.sub (by decide)) _ _ _ ?_
    exact updateEnd_steady (hl.sub (by decide)) _ _ (by assumption)
  · refine verifyDone_steady (hl.sub (by decide)) _ _ ?_
    assumption

theorem flashDone_steady {l : Nat} {s0 : State} (hl : Covers 0x580106 l) (s : State) (h0 : Steady l s0 s) :
    Steady l s0 (flashDone s) := by
  unfold flashDone
  refine Steady.ite ?_ ?_
  · assumption
  · refine Steady.ite ?_ ?_
    · extract_lets +onlyGivenNames t1
      refine Steady.cut (t := t1) ?_ (fun ht1 => ?_)
      · unfold t1
        exact clearSectorDone_steady (hl.sub (by decide)) _ (by assumption)
      clear_value t1
      refine Steady.ite ?_ ?_
      · refine flashNext_steady (hl.sub (by decide)) _ ?_
        assumption
      · refine flashWindow_steady (hl.sub (by decide)) _ ?_
        assumption
    · split
      · refine flashNext_steady (hl.sub (by decide)) _ ?_
        exact Steady.upd (m := 0x400000) (hl.sub (by decide))
          (by intro x; cases x <;> first | exact fun _ => rfl | exact fun h => absurd h (by decide)) (by assumption) rfl rfl rfl
      · extract_lets +onlyGivenNames t2
        extract_lets +onlyGivenNames t3
        refine Steady.cut (t := t3) ?_ (fun ht3 => ?_)
        · unfold t3
          refine updateStep_steady (hl.sub (by decide)) _ _ ?_
          exact Steady.upd (m := 0x400000) (hl.sub (by decide))
            (by intro x; cases x <;> first | exact fun _ => rfl | exact fun h => absurd h (by decide)) (by assumption) rfl rfl rfl
        clear_value t3
        exact flashNext_steady (hl.sub (by decide)) _ (by assumption)

end Sys2Proof.Machine
end

