-- ==== Sys2Proof/Laws/Steady15.lean ====
section
/-! SUPPORT. What the operations of Reset, FenceOps keep (Laws/Steady.lean). -/

set_option linter.unusedVariables false
set_option maxRecDepth 4000

namespace Sys2Proof.Machine

theorem clearKept_steady {l : Nat} {s0 : State} (hl : Covers 0x8 l) (x0 : Nat) (s : State) (h0 : Steady l s0 s) :
    Steady l s0 (clearKept x0 s) := by
  unfold clearKept
  exact Steady.upd (m := 0x8) (hl.sub (by decide))
    (by intro x; cases x <;> first | exact fun _ => rfl | exact fun h => absurd h (by decide)) (by assumption) rfl rfl rfl

theorem resetRegs_steady {l : Nat} {s0 : State} (hl : Covers 0x4 l) (x0 : Nat) (x1 : Bool) (s : State) (h0 : Steady
    l s0 s) :
    Steady l s0 (resetRegs x0 x1 s) := by
  refine h0.put hl ⟨⟨rfl, rfl, id, id, fun h => alSorted_filterMap _ _ (fun e y hy => ?_) h, by intro x; cases x <;> first | exact fun _ => rfl | exact fun h => absurd h (by decide)⟩, rfl⟩
  split at hy
  · cases hy; rfl
  · split at hy
    · cases hy
    · obtain ⟨m, -, rfl⟩ := Option.map_eq_some_iff.1 hy
      rfl

theorem showScan_steady {l : Nat} {s0 : State} (hl : Covers 0x100004 l) (x0 : LogScan) (s : State) (h0 : Steady l s0
    s) :
    Steady l s0 (showScan x0 s) := by
  unfold showScan
  extract_lets +onlyGivenNames t1
  refine Steady.cut (t := t1) ?_ (fun ht1 => ?_)
  · unfold t1
    refine State_set_steady (hl.sub (by decide)) _ _ _ ?_
    exact State_set_steady (hl.sub (by decide)) _ _ _ (by assumption)
  clear_value t1
  extract_lets +onlyGivenNames t2
  refine Steady.cut (t := t2) ?_ (fun ht2 => ?_)
  · unfold t2
    exact State_set_steady (hl.sub (by decide)) _ _ _ (by assumption)
  clear_value t2
  refine showLedger_steady (hl.sub (by decide)) _ ?_
  exact Steady.upd (m := 0x100000) (hl.sub (by decide))
    (by intro x; cases x <;> first | exact fun _ => rfl | exact fun h => absurd h (by decide)) (by assumption) rfl rfl rfl

theorem portGone_steady {l : Nat} {s0 : State} (hl : Covers 0x140526 l) (x0 : Nat) (s : State) (h0 : Steady l s0 s) :
    Steady l s0 (portGone x0 s) := by
  unfold portGone
  extract_lets +onlyGivenNames t1
  refine Steady.cut (t := t1) ?_ (fun ht1 => ?_)
  · unfold t1
    refine Steady.ite ?_ ?_
    · refine leaseEnd_steady (hl.sub (by decide)) _ _ ?_
      assumption
    · assumption
  clear_value t1
  extract_lets +onlyGivenNames t2
  refine Steady.cut (t := t2) ?_ (fun ht2 => ?_)
  · unfold t2
    refine chkRelease_steady (hl.sub (by decide)) _ _ ?_
    refine endFreezeOf_steady (hl.sub (by decide)) _ _ ?_
    exact dmaDropAll_steady (hl.sub (by decide)) _ _ (by assumption)
  clear_value t2
  exact Steady.upd (m := 0x420) (hl.sub (by decide))
    (by intro x; cases x <;> first | exact fun _ => rfl | exact fun h => absurd h (by decide)) (by assumption) rfl rfl rfl

theorem calHalt_steady {l : Nat} {s0 : State} (hl : Covers 0x12c106 l) (s : State) (h0 : Steady l s0 s) :
    Steady l s0 (calHalt s) := by
  unfold calHalt
  refine Steady.ite ?_ ?_
  · refine calDisable_steady (hl.sub (by decide)) _ ?_
    assumption
  · assumption

theorem resetHk_steady {l : Nat} {s0 : State} (hl : Covers 0x72c106 l) (s : State) (h0 : Steady l s0 s) :
    Steady l s0 (resetHk s) := by
  unfold resetHk
  extract_lets +onlyGivenNames t1
  clear_value t1
  extract_lets +onlyGivenNames t2
  refine Steady.cut (t := t2) ?_ (fun ht2 => ?_)
  · unfold t2
    exact calHalt_steady (hl.sub (by decide)) _ (by assumption)
  clear_value t2
  extract_lets +onlyGivenNames t3
  refine Steady.cut (t := t3) ?_ (fun ht3 => ?_)
  · unfold t3
    refine Steady.foldl _ ?_ (fun _ _ _ => ?_)
    · refine resetRegs_steady (hl.sub (by decide)) _ _ _ ?_
      assumption
    · refine State_wr_steady (hl.sub (by decide)) _ _ _ ?_
      assumption
  clear_value t3
  extract_lets +onlyGivenNames t4
  clear_value t4
  extract_lets +onlyGivenNames t5
  extract_lets +onlyGivenNames t6
  refine Steady.cut (t := t6) ?_ (fun ht6 => ?_)
  · unfold t6
    exact Steady.upd (m := 0x700000) (hl.sub (by decide))
      (by intro x; cases x <;> first | exact fun _ => rfl | exact fun h => absurd h (by decide)) (by assumption) rfl rfl rfl
  clear_value t6
  refine showScan_steady (hl.sub (by decide)) _ _ ?_
  exact State_set_steady (hl.sub (by decide)) _ _ _ (by assumption)

theorem resetTables_steady {l : Nat} {s0 : State} (hl : Covers 0x3000000 l) (x0 : Nat) (s : State) (h0 : Steady l s0
    s) :
    Steady l s0 (resetTables x0 s) := by
  unfold resetTables
  exact Steady.upd (m := 0x3000000) (hl.sub (by decide))
    (by intro x; cases x <;> first | exact fun _ => rfl | exact fun h => absurd h (by decide)) (by assumption) rfl rfl rfl

theorem resetJob_steady {l : Nat} {s0 : State} (hl : Covers 0x7996104 l) (s : State) (h0 : Steady l s0 s) :
    Steady l s0 (resetJob s) := by
  unfold resetJob
  extract_lets +onlyGivenNames t1
  refine Steady.cut (t := t1) ?_ (fun ht1 => ?_)
  · unfold t1
    refine dropPre_steady (hl.sub (by decide)) _ ?_
    refine sowAuditEnable_steady (hl.sub (by decide)) _ _ ?_
    refine harrowAuditEnable_steady (hl.sub (by decide)) _ _ ?_
    exact resetTables_steady (hl.sub (by decide)) _ _ (by assumption)
  extract_lets +onlyGivenNames t2
  refine Steady.cut (t := t2) ?_ (fun ht2 => ?_)
  · unfold t2
    exact resetRegs_steady (hl.sub (by decide)) _ _ _ (by assumption)
  clear_value t2
  extract_lets +onlyGivenNames t3
  clear_value t3
  extract_lets +onlyGivenNames t4
  clear_value t4
  extract_lets +onlyGivenNames t5
  extract_lets +onlyGivenNames t6
  clear_value t6
  extract_lets +onlyGivenNames t7
  refine Steady.cut (t := t7) ?_ (fun ht7 => ?_)
  · unfold t7
    exact Steady.upd (m := 0x4992000) (hl.sub (by decide))
      (by intro x; cases x <;> first | exact fun _ => rfl | exact fun h => absurd h (by decide)) (by assumption) rfl rfl rfl
  clear_value t7
  refine showQueue_steady (hl.sub (by decide)) _ ?_
  refine Steady.ite ?_ ?_
  · assumption
  · refine jobState_steady (hl.sub (by decide)) _ _ _ ?_
    assumption

theorem resetStage_steady {l : Nat} {s0 : State} (hl : Covers 0x7f8000004 l) (s : State) (h0 : Steady l s0 s) :
    Steady l s0 (resetStage s) := by
  unfold resetStage
  extract_lets +onlyGivenNames t1
  refine Steady.cut (t := t1) ?_ (fun ht1 => ?_)
  · unfold t1
    refine State_wr_steady (hl.sub (by decide)) _ _ _ ?_
    exact resetRegs_steady (hl.sub (by decide)) _ _ _ (by assumption)
  clear_value t1
  exact Steady.upd (m := 0x7f8000000) (hl.sub (by decide))
    (by intro x; cases x <;> first | exact fun _ => rfl | exact fun h => absurd h (by decide)) (by assumption) rfl rfl rfl

theorem resetUnit_steady {l : Nat} {s0 : State} (hl : Covers 0x124106 l) (x0 : Nat) (x1 : Nat) (x2 : Nat) (s :
    State) (h0 : Steady l s0 s) :
    Steady l s0 (resetUnit x0 x1 x2 s) := by
  unfold resetUnit
  extract_lets +onlyGivenNames t1
  refine Steady.cut (t := t1) ?_ (fun ht1 => ?_)
  · unfold t1
    refine setRole_steady (hl.sub (by decide)) _ _ _ _ _ ?_
    refine resetRegs_steady (hl.sub (by decide)) _ _ _ ?_
    exact takeUnit_steady (hl.sub (by decide)) _ _ _ (by assumption)
  clear_value t1
  refine Steady.ite ?_ ?_
  · refine fillTileAuditor_steady (hl.sub (by decide)) _ ?_
    assumption
  · refine fillSliceAuditor_steady (hl.sub (by decide)) _ ?_
    assumption

theorem resetLink_steady {l : Nat} {s0 : State} (hl : Covers 0x28104 l) (x0 : Nat) (s : State) (h0 : Steady l s0 s) :
    Steady l s0 (resetLink x0 s) := by
  unfold resetLink
  extract_lets +onlyGivenNames t1
  refine Steady.cut (t := t1) ?_ (fun ht1 => ?_)
  · unfold t1
    exact resetRegs_steady (hl.sub (by decide)) _ _ _ (by assumption)
  clear_value t1
  extract_lets +onlyGivenNames t2
  refine Steady.cut (t := t2) ?_ (fun ht2 => ?_)
  · unfold t2
    exact Steady.upd (m := 0x8000) (hl.sub (by decide))
      (by intro x; cases x <;> first | exact fun _ => rfl | exact fun h => absurd h (by decide)) (by assumption) rfl rfl rfl
  clear_value t2
  refine linkState_steady (hl.sub (by decide)) _ _ _ ?_
  exact State_wr_steady (hl.sub (by decide)) _ _ _ (by assumption)

theorem latchFurrow_steady {l : Nat} {s0 : State} (hl : Covers 0x4 l) (s : State) (h0 : Steady l s0 s) :
    Steady l s0 (latchFurrow s) := by
  unfold latchFurrow
  refine Steady.ite ?_ ?_
  · refine State_wr_steady (hl.sub (by decide)) _ _ _ ?_
    assumption
  · assumption

theorem islandReset_steady {l : Nat} {s0 : State} (hl : Covers 0x17ffffe52e l) (x0 : Nat) (s : State) (h0 : Steady l
    s0 s) :
    Steady l s0 (islandReset x0 s) := by
  unfold islandReset
  extract_lets +onlyGivenNames t1
  refine Steady.cut (t := t1) ?_ (fun ht1 => ?_)
  · unfold t1
    exact clearKept_steady (hl.sub (by decide)) _ _ (by assumption)
  clear_value t1
  extract_lets +onlyGivenNames t2
  extract_lets +onlyGivenNames t3
  refine Steady.cut (t := t3) ?_ (fun ht3 => ?_)
  · unfold t3
    exact Steady.upd (m := 0x80000) (hl.sub (by decide))
      (by intro x; cases x <;> first | exact fun _ => rfl | exact fun h => absurd h (by decide)) (by assumption) rfl rfl rfl
  clear_value t3
  extract_lets +onlyGivenNames t4
  refine Steady.cut (t := t4) ?_ (fun ht4 => ?_)
  · unfold t4
    exact resetRegs_steady (hl.sub (by decide)) _ _ _ (by assumption)
  clear_value t4
  extract_lets +onlyGivenNames t5
  refine Steady.cut (t := t5) ?_ (fun ht5 => ?_)
  · unfold t5
    refine dropPre_steady (hl.sub (by decide)) _ ?_
    exact resetRegs_steady (hl.sub (by decide)) _ _ _ (by assumption)
  clear_value t5
  extract_lets +onlyGivenNames t6
  clear_value t6
  extract_lets +onlyGivenNames t7
  refine Steady.cut (t := t7) ?_ (fun ht7 => ?_)
  · unfold t7
    refine mapsClear_steady (hl.sub (by decide)) _ ?_
    refine resetTables_steady (hl.sub (by decide)) _ _ ?_
    exact resetRegs_steady (hl.sub (by decide)) _ _ _ (by assumption)
  clear_value t7
  extract_lets +onlyGivenNames t8
  clear_value t8
  extract_lets +onlyGivenNames t9
  refine Steady.cut (t := t9) ?_ (fun ht9 => ?_)
  · unfold t9
    refine resetTables_steady (hl.sub (by decide)) _ _ ?_
    exact resetRegs_steady (hl.sub (by decide)) _ _ _ (by assumption)
  clear_value t9
  extract_lets +onlyGivenNames t10
  clear_value t10
  extract_lets +onlyGivenNames t11
  refine Steady.cut (t := t11) ?_ (fun ht11 => ?_)
  · unfold t11
    refine Steady.ite ?_ ?_
    · refine resetHk_steady (hl.sub (by decide)) _ ?_
      assumption
    · refine Steady.ite ?_ ?_
      · refine resetRegs_steady (hl.sub (by decide)) _ _ _ ?_
        exact portGone_steady (hl.sub (by decide)) _ _ (by assumption)
      · refine Steady.ite ?_ ?_
        · refine Steady.upd (m := 0x1000000400) (hl.sub (by decide)) (by intro x; cases x <;> first | exact fun _ => rfl | exact fun h => absurd h (by decide)) ?_ ?_ ?_ ?_
          · assumption
          · exact rfl
          · exact rfl
          · exact rfl
        · refine Steady.ite ?_ ?_
          · refine resetJob_steady (hl.sub (by decide)) _ ?_
            assumption
          · refine Steady.ite ?_ ?_
            · refine Steady.upd (m := 0x40000) (hl.sub (by decide)) (by intro x; cases x <;> first | exact fun _ => rfl | exact fun h => absurd h (by decide)) ?_ ?_ ?_ ?_
              · assumption
              · exact rfl
              · exact rfl
              · exact rfl
            · refine Steady.ite ?_ ?_
              · refine State_set_steady (hl.sub (by decide)) _ _ _ ?_
                exact resetRegs_steady (hl.sub (by decide)) _ _ _ (by assumption)
              · refine Steady.ite ?_ ?_
                · refine Steady.upd (m := 0x4000) (hl.sub (by decide)) (by intro x; cases x <;> first | exact fun _ => rfl | exact fun h => absurd h (by decide)) ?_ ?_ ?_ ?_
                  · assumption
                  · exact rfl
                  · exact rfl
                  · exact rfl
                · refine Steady.ite ?_ ?_
                  · refine Steady.upd (m := 0x4000) (hl.sub (by decide)) (by intro x; cases x <;> first | exact fun _ => rfl | exact fun h => absurd h (by decide)) ?_ ?_ ?_ ?_
                    · assumption
                    · exact rfl
                    · exact rfl
                    · exact rfl
                  · refine Steady.ite ?_ ?_
                    · refine Steady.upd (m := 0x4000) (hl.sub (by decide)) (by intro x; cases x <;> first | exact fun _ => rfl | exact fun h => absurd h (by decide)) ?_ ?_ ?_ ?_
                      · assumption
                      · exact rfl
                      · exact rfl
                      · exact rfl
                    · refine Steady.ite ?_ ?_
                      · refine resetStage_steady (hl.sub (by decide)) _ ?_
                        assumption
                      · refine Steady.ite ?_ ?_
                        · refine resetUnit_steady (hl.sub (by decide)) _ _ _ _ ?_
                          assumption
                        · refine Steady.ite ?_ ?_
                          · refine resetUnit_steady (hl.sub (by decide)) _ _ _ _ ?_
                            assumption
                          · refine Steady.ite ?_ ?_
                            · refine resetLink_steady (hl.sub (by decide)) _ _ ?_
                              assumption
                            · refine resetRegs_steady (hl.sub (by decide)) _ _ _ ?_
                              assumption
  clear_value t11
  exact calIslandReset_steady (hl.sub (by decide)) _ _ (by assumption)

theorem showRaw_steady {l : Nat} {s0 : State} (hl : Covers 0x4 l) (s : State) (h0 : Steady l s0 s) :
    Steady l s0 (showRaw s) := by
  unfold showRaw
  refine Steady.foldl _ ?_ (fun _ _ _ => ?_)
  · assumption
  · refine setRegBit_steady (hl.sub (by decide)) _ _ _ _ ?_
    assumption

theorem releaseIsland_steady {l : Nat} {s0 : State} (hl : Covers 0xc l) (x0 : Nat) (s : State) (h0 : Steady l s0 s) :
    Steady l s0 (releaseIsland x0 s) := by
  unfold releaseIsland
  extract_lets +onlyGivenNames t1
  refine Steady.cut (t := t1) ?_ (fun ht1 => ?_)
  · unfold t1
    exact applyLayers_steady (hl.sub (by decide)) _ _ _ _ (by assumption)
  clear_value t1
  extract_lets +onlyGivenNames t2
  refine Steady.cut (t := t2) ?_ (fun ht2 => ?_)
  · unfold t2
    refine Steady.ite ?_ ?_
    · refine showRaw_steady (hl.sub (by decide)) _ ?_
      assumption
    · assumption
  clear_value t2
  exact State_setGate_steady (hl.sub (by decide)) _ _ _ (by assumption)

theorem coreDown_steady {l : Nat} {s0 : State} (hl : Covers 0x1ffffff53f l) (s : State) (h0 : Steady l s0 s) :
    Steady l s0 (coreDown s) := by
  unfold coreDown
  extract_lets +onlyGivenNames t1
  clear_value t1
  extract_lets +onlyGivenNames t2
  extract_lets +onlyGivenNames t3
  clear_value t3
  extract_lets +onlyGivenNames t4
  clear_value t4
  extract_lets +onlyGivenNames t5
  clear_value t5
  extract_lets +onlyGivenNames t6
  refine Steady.cut (t := t6) ?_ (fun ht6 => ?_)
  · unfold t6
    exact latchFurrow_steady (hl.sub (by decide)) _ (by assumption)
  clear_value t6
  extract_lets +onlyGivenNames t7
  extract_lets +onlyGivenNames t8
  extract_lets +onlyGivenNames t9
  extract_lets +onlyGivenNames t10
  clear_value t10
  extract_lets +onlyGivenNames t11
  refine Steady.cut (t := t11) ?_ (fun ht11 => ?_)
  · unfold t11
    exact ht6.put hl ⟨⟨rfl, rfl, fun _ => rfl, id, fun h => alSorted_filter _ _ h, by intro x; cases x <;> first | exact fun _ => rfl | exact fun h => absurd h (by decide)⟩, rfl⟩
  clear_value t11
  extract_lets +onlyGivenNames t12
  refine Steady.cut (t := t12) ?_ (fun ht12 => ?_)
  · unfold t12
    exact State_wr_steady (hl.sub (by decide)) _ _ _ (by assumption)
  clear_value t12
  extract_lets +onlyGivenNames t13
  clear_value t13
  extract_lets +onlyGivenNames t14
  refine Steady.cut (t := t14) ?_ (fun ht14 => ?_)
  · unfold t14
    refine Steady.ite ?_ ?_
    · refine Steady.upd (m := 0x100000) (hl.sub (by decide)) (by intro x; cases x <;> first | exact fun _ => rfl | exact fun h => absurd h (by decide)) ?_ ?_ ?_ ?_
      · assumption
      · exact rfl
      · exact rfl
      · exact rfl
    · assumption
  clear_value t14
  extract_lets +onlyGivenNames t15
  refine Steady.cut (t := t15) ?_ (fun ht15 => ?_)
  · unfold t15
    refine Steady.ite ?_ ?_
    · refine State_set_steady (hl.sub (by decide)) _ _ _ ?_
      assumption
    · assumption
  clear_value t15
  extract_lets +onlyGivenNames t16
  refine Steady.cut (t := t16) ?_ (fun ht16 => ?_)
  · unfold t16
    refine Steady.ite ?_ ?_
    · refine leaseEnd_steady (hl.sub (by decide)) _ _ ?_
      assumption
    · assumption
  clear_value t16
  extract_lets +onlyGivenNames t17
  refine Steady.cut (t := t17) ?_ (fun ht17 => ?_)
  · unfold t17
    refine State_set_steady (hl.sub (by decide)) _ _ _ ?_
    exact State_set_steady (hl.sub (by decide)) _ _ _ (by assumption)
  clear_value t17
  extract_lets +onlyGivenNames t18
  refine Steady.cut (t := t18) ?_ (fun ht18 => ?_)
  · unfold t18
    refine State_set_steady (hl.sub (by decide)) _ _ _ ?_
    exact State_set_steady (hl.sub (by decide)) _ _ _ (by assumption)
  clear_value t18
  refine updateBlank_steady (hl.sub (by decide)) _ ?_
  exact showMode'_steady (hl.sub (by decide)) _ (by assumption)

theorem corePowerFall_steady {l : Nat} {s0 : State} (hl : Covers 0x1ffffff53f l) (s : State) (h0 : Steady l s0 s) :
    Steady l s0 (corePowerFall s) := by
  unfold corePowerFall
  refine Steady.ite ?_ ?_
  · assumption
  · refine coreDown_steady (hl.sub (by decide)) _ ?_
    exact Steady.upd (m := 0x1) (hl.sub (by decide))
      (by intro x; cases x <;> first | exact fun _ => rfl | exact fun h => absurd h (by decide)) (by assumption) rfl rfl rfl

theorem tripChanged_steady {l : Nat} {s0 : State} (hl : Covers 0xe00106107 l) (x0 : Bool) (s : State) (h0 : Steady l
    s0 s) :
    Steady l s0 (tripChanged x0 s) := by
  unfold tripChanged
  extract_lets +onlyGivenNames t1
  refine Steady.cut (t := t1) ?_ (fun ht1 => ?_)
  · unfold t1
    exact updateBlank_steady (hl.sub (by decide)) _ (by assumption)
  clear_value t1
  refine Steady.ite ?_ ?_
  · refine raiseCause_steady (hl.sub (by decide)) _ _ ?_
    assumption
  · assumption

theorem holdEdge_steady {l : Nat} {s0 : State} (hl : Covers 0xe00106107 l) (s : State) (h0 : Steady l s0 s) :
    Steady l s0 (holdEdge s) := by
  unfold holdEdge
  extract_lets +onlyGivenNames t1
  clear_value t1
  extract_lets +onlyGivenNames t2
  clear_value t2
  extract_lets +onlyGivenNames t3
  refine Steady.cut (t := t3) ?_ (fun ht3 => ?_)
  · unfold t3
    exact Steady.upd (m := 0x1) (hl.sub (by decide))
      (by intro x; cases x <;> first | exact fun _ => rfl | exact fun h => absurd h (by decide)) (by assumption) rfl rfl rfl
  clear_value t3
  refine Steady.ite ?_ ?_
  · assumption
  · extract_lets +onlyGivenNames t4
    refine Steady.cut (t := t4) ?_ (fun ht4 => ?_)
    · unfold t4
      exact State_set_steady (hl.sub (by decide)) _ _ _ (by assumption)
    clear_value t4
    refine Steady.ite ?_ ?_
    · refine raiseCause_steady (hl.sub (by decide)) _ _ ?_
      refine updateBlank_steady (hl.sub (by decide)) _ ?_
      exact Steady.upd (m := 0x800000000) (hl.sub (by decide))
        (by intro x; cases x <;> first | exact fun _ => rfl | exact fun h => absurd h (by decide)) (by assumption) rfl rfl rfl
    · assumption

theorem doorStop_steady {l : Nat} {s0 : State} (hl : Covers 0x400000104 l) (s : State) (h0 : Steady l s0 s) :
    Steady l s0 (doorStop s) := by
  unfold doorStop
  refine Steady.ite ?_ ?_
  · refine plannerStop_steady (hl.sub (by decide)) _ ?_
    assumption
  · assumption

theorem doorEdge_steady {l : Nat} {s0 : State} (hl : Covers 0xe00106107 l) (s : State) (h0 : Steady l s0 s) :
    Steady l s0 (doorEdge s) := by
  unfold doorEdge
  extract_lets +onlyGivenNames t1
  clear_value t1
  extract_lets +onlyGivenNames t2
  clear_value t2
  extract_lets +onlyGivenNames t3
  refine Steady.cut (t := t3) ?_ (fun ht3 => ?_)
  · unfold t3
    exact Steady.upd (m := 0x1) (hl.sub (by decide))
      (by intro x; cases x <;> first | exact fun _ => rfl | exact fun h => absurd h (by decide)) (by assumption) rfl rfl rfl
  clear_value t3
  refine Steady.ite ?_ ?_
  · assumption
  · extract_lets +onlyGivenNames t4
    refine Steady.cut (t := t4) ?_ (fun ht4 => ?_)
    · unfold t4
      exact State_set_steady (hl.sub (by decide)) _ _ _ (by assumption)
    clear_value t4
    refine Steady.ite ?_ ?_
    · refine doorStop_steady (hl.sub (by decide)) _ ?_
      refine raiseCause_steady (hl.sub (by decide)) _ _ ?_
      refine updateBlank_steady (hl.sub (by decide)) _ ?_
      exact Steady.upd (m := 0x800000000) (hl.sub (by decide))
        (by intro x; cases x <;> first | exact fun _ => rfl | exact fun h => absurd h (by decide)) (by assumption) rfl rfl rfl
    · assumption

theorem interlockRelease_steady {l : Nat} {s0 : State} (hl : Covers 0x800000005 l) (x0 : Bool) (s : State) (h0 :
    Steady l s0 s) :
    Steady l s0 (interlockRelease x0 s) := by
  unfold interlockRelease
  refine Steady.ite ?_ ?_
  · refine Steady.ite ?_ ?_
    · refine updateBlank_steady (hl.sub (by decide)) _ ?_
      exact Steady.upd (m := 0x800000000) (hl.sub (by decide))
        (by intro x; cases x <;> first | exact fun _ => rfl | exact fun h => absurd h (by decide)) (by assumption) rfl rfl rfl
    · assumption
  · refine Steady.ite ?_ ?_
    · refine updateBlank_steady (hl.sub (by decide)) _ ?_
      exact Steady.upd (m := 0x800000000) (hl.sub (by decide))
        (by intro x; cases x <;> first | exact fun _ => rfl | exact fun h => absurd h (by decide)) (by assumption) rfl rfl rfl
    · assumption

theorem watchdogExpiry_steady {l : Nat} {s0 : State} (hl : Covers 0xe00106107 l) (s : State) (h0 : Steady l s0 s) :
    Steady l s0 (watchdogExpiry s) := by
  unfold watchdogExpiry
  refine Steady.ite ?_ ?_
  · assumption
  · refine tripChanged_steady (hl.sub (by decide)) _ _ ?_
    exact State_set_steady (hl.sub (by decide)) _ _ _ (by assumption)

theorem serviceRights_steady {l : Nat} {s0 : State} (hl : Covers 0x100054032e l) (s : State) (h0 : Steady l s0 s) :
    Steady l s0 (serviceRights s) := by
  unfold serviceRights
  extract_lets +onlyGivenNames t1
  clear_value t1
  extract_lets +onlyGivenNames t2
  clear_value t2
  extract_lets +onlyGivenNames t3
  refine Steady.cut (t := t3) ?_ (fun ht3 => ?_)
  · unfold t3
    exact State_set_steady (hl.sub (by decide)) _ _ _ (by assumption)
  clear_value t3
  refine Steady.ite ?_ ?_
  · extract_lets +onlyGivenNames t4
    refine Steady.cut (t := t4) ?_ (fun ht4 => ?_)
    · unfold t4
      refine Steady.ite ?_ ?_
      · refine leaseEnd_steady (hl.sub (by decide)) _ _ ?_
        assumption
      · assumption
    clear_value t4
    extract_lets +onlyGivenNames t5
    refine Steady.cut (t := t5) ?_ (fun ht5 => ?_)
    · unfold t5
      refine chkRelease_steady (hl.sub (by decide)) _ _ ?_
      refine endFreezeOf_steady (hl.sub (by decide)) _ _ ?_
      exact dmaDropAll_steady (hl.sub (by decide)) _ _ (by assumption)
    clear_value t5
    extract_lets +onlyGivenNames t6
    refine Steady.cut (t := t6) ?_ (fun ht6 => ?_)
    · unfold t6
      exact Steady.upd (m := 0x1000000328) (hl.sub (by decide))
        (by intro x; cases x <;> first | exact fun _ => rfl | exact fun h => absurd h (by decide)) (by assumption) rfl rfl rfl
    clear_value t6
    refine Steady.ite ?_ ?_
    · refine nvlAbort_steady (hl.sub (by decide)) _ ?_
      assumption
    · assumption
  · assumption

theorem podSense_steady {l : Nat} {s0 : State} (hl : Covers 0x100054032f l) (x0 : Bool) (s : State) (h0 : Steady l
    s0 s) :
    Steady l s0 (podSense x0 s) := by
  unfold podSense
  refine Steady.ite ?_ ?_
  · assumption
  · refine serviceRights_steady (hl.sub (by decide)) _ ?_
    exact Steady.upd (m := 0x1) (hl.sub (by decide))
      (by intro x; cases x <;> first | exact fun _ => rfl | exact fun h => absurd h (by decide)) (by assumption) rfl rfl rfl

theorem fenceFallow_steady {l : Nat} {s0 : State} (hl : Covers 0xe00106107 l) (x0 : Bool) (s : State) (h0 : Steady l
    s0 s) :
    Steady l s0 (fenceFallow x0 s) := by
  unfold fenceFallow
  refine tripChanged_steady (hl.sub (by decide)) _ _ ?_
  exact State_set_steady (hl.sub (by decide)) _ _ _ (by assumption)

theorem revokeLease_steady {l : Nat} {s0 : State} (hl : Covers 0x100106 l) (s : State) (h0 : Steady l s0 s) :
    Steady l s0 (revokeLease s) := by
  unfold revokeLease
  exact leaseEnd_steady (hl.sub (by decide)) _ _ (by assumption)

theorem leaseLock_steady {l : Nat} {s0 : State} (hl : Covers 0x4 l) (x0 : Bool) (s : State) (h0 : Steady l s0 s) :
    Steady l s0 (leaseLock x0 s) := by
  unfold leaseLock
  exact State_set_steady (hl.sub (by decide)) _ _ _ (by assumption)

theorem tripRelease_steady {l : Nat} {s0 : State} (hl : Covers 0x800000005 l) (s : State) (h0 : Steady l s0 s) :
    Steady l s0 (tripRelease s) := by
  unfold tripRelease
  extract_lets +onlyGivenNames t1
  refine Steady.cut (t := t1) ?_ (fun ht1 => ?_)
  · unfold t1
    exact State_set_steady (hl.sub (by decide)) _ _ _ (by assumption)
  clear_value t1
  exact Steady.upd (m := 0x800000001) (hl.sub (by decide))
    (by intro x; cases x <;> first | exact fun _ => rfl | exact fun h => absurd h (by decide)) (by assumption) rfl rfl rfl

theorem thermtripRelease_steady {l : Nat} {s0 : State} (hl : Covers 0x800000005 l) (s : State) (h0 : Steady l s0 s) :
    Steady l s0 (thermtripRelease s) := by
  unfold thermtripRelease
  refine Steady.ite ?_ ?_
  · refine tripRelease_steady (hl.sub (by decide)) _ ?_
    assumption
  · assumption

theorem tripClear_steady {l : Nat} {s0 : State} (hl : Covers 0xe00106107 l) (x0 : Nat) (s : State) (h0 : Steady l s0
    s) :
    Steady l s0 (tripClear x0 s) := by
  unfold tripClear
  extract_lets +onlyGivenNames t1
  clear_value t1
  extract_lets +onlyGivenNames t2
  clear_value t2
  extract_lets +onlyGivenNames t3
  clear_value t3
  extract_lets +onlyGivenNames t4
  clear_value t4
  refine tripChanged_steady (hl.sub (by decide)) _ _ ?_
  exact State_wr_steady (hl.sub (by decide)) _ _ _ (by assumption)

theorem txEnable_steady {l : Nat} {s0 : State} (hl : Covers 0x6001be10e l) (x0 : Nat) (s : State) (h0 : Steady l s0
    s) :
    Steady l s0 (txEnable x0 s) := by
  unfold txEnable
  extract_lets +onlyGivenNames t1
  clear_value t1
  extract_lets +onlyGivenNames t2
  clear_value t2
  extract_lets +onlyGivenNames t3
  refine Steady.cut (t := t3) ?_ (fun ht3 => ?_)
  · unfold t3
    refine Steady.foldl _ ?_ (fun _ _ _ => ?_)
    · assumption
    · refine Steady.ite ?_ ?_
      · refine groupDown_steady (hl.sub (by decide)) _ _ ?_
        exact groupFallow_steady (hl.sub (by decide)) _ _ _ (by assumption)
      · assumption
  clear_value t3
  extract_lets +onlyGivenNames t4
  refine Steady.cut (t := t4) ?_ (fun ht4 => ?_)
  · unfold t4
    exact State_wr_steady (hl.sub (by decide)) _ _ _ (by assumption)
  clear_value t4
  refine Steady.foldl _ ?_ (fun _ _ _ => ?_)
  · assumption
  · refine Steady.ite ?_ ?_
    · assumption
    · extract_lets +onlyGivenNames t5
      refine Steady.cut (t := t5) ?_ (fun ht5 => ?_)
      · unfold t5
        refine Steady.ite ?_ ?_
        · refine releaseIsland_steady (hl.sub (by decide)) _ _ ?_
          assumption
        · assumption
      clear_value t5
      refine Steady.ite ?_ ?_
      · assumption
      · refine trainStart_steady (hl.sub (by decide)) _ _ _ ?_
        assumption

theorem limitForce_steady {l : Nat} {s0 : State} (hl : Covers 0x4 l) (x0 : Nat) (s : State) (h0 : Steady l s0 s) :
    Steady l s0 (limitForce x0 s) := by
  unfold limitForce
  exact State_set_steady (hl.sub (by decide)) _ _ _ (by assumption)

theorem serviceEnable_steady {l : Nat} {s0 : State} (hl : Covers 0x100054032e l) (x0 : Bool) (s : State) (h0 :
    Steady l s0 s) :
    Steady l s0 (serviceEnable x0 s) := by
  unfold serviceEnable
  refine serviceRights_steady (hl.sub (by decide)) _ ?_
  exact State_set_steady (hl.sub (by decide)) _ _ _ (by assumption)

theorem interlockCfg_steady {l : Nat} {s0 : State} (hl : Covers 0x140054032e l) (x0 : Nat) (s : State) (h0 : Steady
    l s0 s) :
    Steady l s0 (interlockCfg x0 s) := by
  unfold interlockCfg
  refine doorStop_steady (hl.sub (by decide)) _ ?_
  refine serviceRights_steady (hl.sub (by decide)) _ ?_
  exact State_wr_steady (hl.sub (by decide)) _ _ _ (by assumption)

theorem doseCeiling_steady {l : Nat} {s0 : State} (hl : Covers 0xe00106107 l) (x0 : Nat) (s : State) (h0 : Steady l
    s0 s) :
    Steady l s0 (doseCeiling x0 s) := by
  unfold doseCeiling
  split
  extract_lets +onlyGivenNames t1
  refine Steady.cut (t := t1) ?_ (fun ht1 => ?_)
  · unfold t1
    exact State_wr_steady (hl.sub (by decide)) _ _ _ (by assumption)
  clear_value t1
  split
  refine Steady.ite ?_ ?_
  · refine raiseCause_steady (hl.sub (by decide)) _ _ ?_
    refine updateBlank_steady (hl.sub (by decide)) _ ?_
    exact Steady.upd (m := 0x800000000) (hl.sub (by decide))
      (by intro x; cases x <;> first | exact fun _ => rfl | exact fun h => absurd h (by decide)) (by assumption) rfl rfl rfl
  · assumption

theorem ledgerKey_steady {l : Nat} {s0 : State} (hl : Covers 0x4 l) (x0 : Nat) (s : State) (h0 : Steady l s0 s) :
    Steady l s0 (ledgerKey x0 s) := by
  unfold ledgerKey
  refine Steady.ite ?_ ?_
  · refine ledgerAuthorise_steady (hl.sub (by decide)) _ _ ?_
    assumption
  · assumption

theorem fncWrite_steady {l : Nat} {s0 : State} (hl : Covers 0x1e005fe32f l) (x0 : Nat) (x1 : Nat) (s : State) (h0 :
    Steady l s0 s) :
    Steady l s0 (fncWrite x0 x1 s) := by
  unfold fncWrite
  refine Steady.ite ?_ ?_
  · assumption
  · refine Steady.ite ?_ ?_
    · extract_lets +onlyGivenNames t1
      refine Steady.cut (t := t1) ?_ (fun ht1 => ?_)
      · unfold t1
        refine Steady.ite ?_ ?_
        · refine revokeLease_steady (hl.sub (by decide)) _ ?_
          assumption
        · assumption
      clear_value t1
      extract_lets +onlyGivenNames t2
      refine Steady.cut (t := t2) ?_ (fun ht2 => ?_)
      · unfold t2
        exact leaseLock_steady (hl.sub (by decide)) _ _ (by assumption)
      clear_value t2
      extract_lets +onlyGivenNames t3
      refine Steady.cut (t := t3) ?_ (fun ht3 => ?_)
      · unfold t3
        refine Steady.ite ?_ ?_
        · refine thermtripRelease_steady (hl.sub (by decide)) _ ?_
          assumption
        · assumption
      clear_value t3
      exact fenceFallow_steady (hl.sub (by decide)) _ _ (by assumption)
    · refine Steady.ite ?_ ?_
      · refine tripClear_steady (hl.sub (by decide)) _ _ ?_
        assumption
      · refine Steady.ite ?_ ?_
        · refine interlockCfg_steady (hl.sub (by decide)) _ _ ?_
          assumption
        · refine Steady.ite ?_ ?_
          · refine fncStore_steady (hl.sub (by decide)) _ _ _ ?_
            assumption
          · refine Steady.ite ?_ ?_
            · refine headLevels_steady (hl.sub (by decide)) _ ?_
              exact fncStore_steady (hl.sub (by decide)) _ _ _ (by assumption)
            · refine Steady.ite ?_ ?_
              · refine limitForce_steady (hl.sub (by decide)) _ _ ?_
                assumption
              · refine Steady.ite ?_ ?_
                · refine txEnable_steady (hl.sub (by decide)) _ _ ?_
                  assumption
                · refine Steady.ite ?_ ?_
                  · refine ledgerKey_steady (hl.sub (by decide)) _ _ ?_
                    assumption
                  · refine Steady.ite ?_ ?_
                    · refine doseCeiling_steady (hl.sub (by decide)) _ _ ?_
                      assumption
                    · assumption

theorem fenceAnswer_steady {l : Nat} {s0 : State} (hl : Covers 0x800000000 l) (x0 : List Byte) (s : State) (h0 :
    Steady l s0 s) :
    Steady l s0 (fenceAnswer x0 s) := by
  unfold fenceAnswer
  extract_lets +onlyGivenNames t1
  refine Steady.cut (t := t1) ?_ (fun ht1 => ?_)
  · unfold t1
    exact State_emit_steady (hl.sub (by decide)) _ _ (by assumption)
  clear_value t1
  exact Steady.upd (m := 0x800000000) (hl.sub (by decide))
    (by intro x; cases x <;> first | exact fun _ => rfl | exact fun h => absurd h (by decide)) (by assumption) rfl rfl rfl

theorem fenceRequest_steady {l : Nat} {s0 : State} (hl : Covers 0x1e005fe32f l) (x0 : Nat) (x1 : Nat) (x2 : Nat) (x3
    : Nat) (s : State) (h0 : Steady l s0 s) :
    Steady l s0 (fenceRequest x0 x1 x2 x3 s) := by
  unfold fenceRequest
  extract_lets +onlyGivenNames t1
  refine Steady.cut (t := t1) ?_ (fun ht1 => ?_)
  · unfold t1
    exact State_inc_steady (hl.sub (by decide)) _ _ _ (by assumption)
  clear_value t1
  refine Steady.ite ?_ ?_
  · refine fenceAnswer_steady (hl.sub (by decide)) _ _ ?_
    assumption
  · refine Steady.ite ?_ ?_
    · refine fenceAnswer_steady (hl.sub (by decide)) _ _ ?_
      assumption
    · refine Steady.ite ?_ ?_
      · refine fenceAnswer_steady (hl.sub (by decide)) _ _ ?_
        assumption
      · refine Steady.ite ?_ ?_
        · refine fenceAnswer_steady (hl.sub (by decide)) _ _ ?_
          assumption
        · extract_lets +onlyGivenNames t2
          clear_value t2
          extract_lets +onlyGivenNames t3
          refine Steady.cut (t := t3) ?_ (fun ht3 => ?_)
          · unfold t3
            exact fncWrite_steady (hl.sub (by decide)) _ _ _ (by assumption)
          clear_value t3
          exact fenceAnswer_steady (hl.sub (by decide)) _ _ (by assumption)

theorem fenceFrame_steady {l : Nat} {s0 : State} (hl : Covers 0x1e005fe32f l) (x0 : Nat) (x1 : List Byte) (s :
    State) (h0 : Steady l s0 s) :
    Steady l s0 (fenceFrame x0 x1 s) := by
  unfold fenceFrame
  extract_lets +onlyGivenNames t1
  clear_value t1
  refine Steady.ite ?_ ?_
  · refine fenceAnswer_steady (hl.sub (by decide)) _ _ ?_
    exact State_inc_steady (hl.sub (by decide)) _ _ _ (by assumption)
  · refine Steady.ite ?_ ?_
    · refine fenceAnswer_steady (hl.sub (by decide)) _ _ ?_
      exact State_inc_steady (hl.sub (by decide)) _ _ _ (by assumption)
    · refine fenceRequest_steady (hl.sub (by decide)) _ _ _ _ _ ?_
      assumption

theorem thermalTrip_steady {l : Nat} {s0 : State} (hl : Covers 0x1ffffff53f l) (x0 : Bool) (x1 : Nat) (x2 : Int) (s
    : State) (h0 : Steady l s0 s) :
    Steady l s0 (thermalTrip x0 x1 x2 s) := by
  unfold thermalTrip
  extract_lets +onlyGivenNames t1
  clear_value t1
  extract_lets +onlyGivenNames t2
  refine Steady.cut (t := t2) ?_ (fun ht2 => ?_)
  · unfold t2
    exact State_set_steady (hl.sub (by decide)) _ _ _ (by assumption)
  clear_value t2
  refine Steady.ite ?_ ?_
  · refine tripChanged_steady (hl.sub (by decide)) _ _ ?_
    assumption
  · extract_lets +onlyGivenNames t3
    clear_value t3
    extract_lets +onlyGivenNames t4
    refine Steady.cut (t := t4) ?_ (fun ht4 => ?_)
    · unfold t4
      exact State_set_steady (hl.sub (by decide)) _ _ _ (by assumption)
    clear_value t4
    extract_lets +onlyGivenNames t5
    clear_value t5
    extract_lets +onlyGivenNames t6
    refine Steady.cut (t := t6) ?_ (fun ht6 => ?_)
    · unfold t6
      exact Steady.upd (m := 0x800000000) (hl.sub (by decide))
        (by intro x; cases x <;> first | exact fun _ => rfl | exact fun h => absurd h (by decide)) (by assumption) rfl rfl rfl
    clear_value t6
    extract_lets +onlyGivenNames t7
    refine Steady.cut (t := t7) ?_ (fun ht7 => ?_)
    · unfold t7
      exact tripChanged_steady (hl.sub (by decide)) _ _ (by assumption)
    clear_value t7
    refine Steady.ite ?_ ?_
    · refine coreDown_steady (hl.sub (by decide)) _ ?_
      assumption
    · refine plannerStop_steady (hl.sub (by decide)) _ ?_
      assumption

theorem thermalStopLimit_steady {l : Nat} {s0 : State} (hl : Covers 0x400000104 l) (s : State) (h0 : Steady l s0 s) :
    Steady l s0 (thermalStopLimit s) := by
  unfold thermalStopLimit
  refine Steady.ite ?_ ?_
  · refine plannerHardStop_steady (hl.sub (by decide)) _ ?_
    assumption
  · assumption

theorem thermalShutdown_steady {l : Nat} {s0 : State} (hl : Covers 0x1ffffff53f l) (x0 : Nat) (x1 : Nat) (s : State)
    (h0 : Steady l s0 s) :
    Steady l s0 (thermalShutdown x0 x1 s) := by
  unfold thermalShutdown
  refine Steady.ite ?_ ?_
  · assumption
  · extract_lets +onlyGivenNames t1
    extract_lets +onlyGivenNames t2
    refine Steady.cut (t := t2) ?_ (fun ht2 => ?_)
    · unfold t2
      exact Steady.upd (m := 0x2) (hl.sub (by decide))
        (by intro x; cases x <;> first | exact fun _ => rfl | exact fun h => absurd h (by decide)) (by assumption) rfl rfl rfl
    clear_value t2
    extract_lets +onlyGivenNames t3
    refine Steady.cut (t := t3) ?_ (fun ht3 => ?_)
    · unfold t3
      split
      · refine writeResume_steady (hl.sub (by decide)) _ _ ?_
        assumption
      · assumption
    clear_value t3
    extract_lets +onlyGivenNames t4
    refine Steady.cut (t := t4) ?_ (fun ht4 => ?_)
    · unfold t4
      exact coreDown_steady (hl.sub (by decide)) _ (by assumption)
    clear_value t4
    extract_lets +onlyGivenNames t5
    refine Steady.cut (t := t5) ?_ (fun ht5 => ?_)
    · unfold t5
      exact State_set_steady (hl.sub (by decide)) _ _ _ (by assumption)
    clear_value t5
    exact Steady.upd (m := 0x800000001) (hl.sub (by decide))
      (by intro x; cases x <;> first | exact fun _ => rfl | exact fun h => absurd h (by decide)) (by assumption) rfl rfl rfl

theorem cooling_steady {l : Nat} {s0 : State} (hl : Covers 0xe00106107 l) (x0 : Int) (s : State) (h0 : Steady l s0
    s) :
    Steady l s0 (cooling x0 s) := by
  unfold cooling
  refine Steady.ite ?_ ?_
  · assumption
  · extract_lets +onlyGivenNames t1
    clear_value t1
    extract_lets +onlyGivenNames t2
    refine Steady.cut (t := t2) ?_ (fun ht2 => ?_)
    · unfold t2
      exact State_set_steady (hl.sub (by decide)) _ _ _ (by assumption)
    clear_value t2
    refine Steady.ite ?_ ?_
    · extract_lets +onlyGivenNames t3
      clear_value t3
      refine tripChanged_steady (hl.sub (by decide)) _ _ ?_
      refine tripRelease_steady (hl.sub (by decide)) _ ?_
      exact State_set_steady (hl.sub (by decide)) _ _ _ (by assumption)
    · assumption

theorem comparatorRead_steady {l : Nat} {s0 : State} (hl : Covers 0x1ffffff53f l) (x0 : List Int) (s : State) (h0 :
    Steady l s0 s) :
    Steady l s0 (comparatorRead x0 s) := by
  unfold comparatorRead
  extract_lets +onlyGivenNames t1
  clear_value t1
  extract_lets +onlyGivenNames t2
  clear_value t2
  extract_lets +onlyGivenNames t3
  refine Steady.cut (t := t3) ?_ (fun ht3 => ?_)
  · unfold t3
    exact Steady.upd (m := 0x800000000) (hl.sub (by decide))
      (by intro x; cases x <;> first | exact fun _ => rfl | exact fun h => absurd h (by decide)) (by assumption) rfl rfl rfl
  clear_value t3
  split
  · assumption
  · extract_lets +onlyGivenNames t4
    refine Steady.cut (t := t4) ?_ (fun ht4 => ?_)
    · unfold t4
      exact cooling_steady (hl.sub (by decide)) _ _ (by assumption)
    clear_value t4
    refine Steady.ite ?_ ?_
    · refine thermalTrip_steady (hl.sub (by decide)) _ _ _ _ ?_
      assumption
    · assumption

end Sys2Proof.Machine
end

