-- ==== Sys2Proof/Laws/Steady16.lean ====
section
/-! SUPPORT. What the operations of TeleOps, Bringup keep (Laws/Steady.lean). -/

set_option linter.unusedVariables false
set_option maxRecDepth 4000

namespace Sys2Proof.Machine

theorem takeReading_steady {l : Nat} {s0 : State} (hl : Covers 0x4 l) (x0 : Nat) (x1 : Int) (s : State) (h0 : Steady
    l s0 s) :
    Steady l s0 (takeReading x0 x1 s) := by
  unfold takeReading
  exact State_wr_steady (hl.sub (by decide)) _ _ _ (by assumption)

theorem showRange_steady {l : Nat} {s0 : State} (hl : Covers 0x4 l) (s : State) (h0 : Steady l s0 s) :
    Steady l s0 (showRange s) := by
  unfold showRange
  split
  · extract_lets +onlyGivenNames t1
    refine Steady.cut (t := t1) ?_ (fun ht1 => ?_)
    · unfold t1
      exact State_wr_steady (hl.sub (by decide)) _ _ _ (by assumption)
    clear_value t1
    extract_lets +onlyGivenNames t2
    clear_value t2
    exact State_set_steady (hl.sub (by decide)) _ _ _ (by assumption)
  · refine State_set_steady (hl.sub (by decide)) _ _ _ ?_
    assumption

theorem levelCheck_steady {l : Nat} {s0 : State} (hl : Covers 0x1ffffff53f l) (x0 : Bool) (x1 : Nat) (x2 : Int) (s :
    State) (h0 : Steady l s0 s) :
    Steady l s0 (levelCheck x0 x1 x2 s) := by
  unfold levelCheck
  extract_lets +onlyGivenNames t1
  clear_value t1
  extract_lets +onlyGivenNames t2
  refine Steady.cut (t := t2) ?_ (fun ht2 => ?_)
  · unfold t2
    exact State_set_steady (hl.sub (by decide)) _ _ _ (by assumption)
  clear_value t2
  extract_lets +onlyGivenNames t3
  refine Steady.cut (t := t3) ?_ (fun ht3 => ?_)
  · unfold t3
    refine Steady.ite ?_ ?_
    · refine raise_steady (hl.sub (by decide)) _ _ ?_
      exact event_steady (hl.sub (by decide)) _ _ _ (by assumption)
    · assumption
  clear_value t3
  refine Steady.ite ?_ ?_
  · refine thermalTrip_steady (hl.sub (by decide)) _ _ _ _ ?_
    assumption
  · assumption

theorem supplyCheck_steady {l : Nat} {s0 : State} (hl : Covers 0x800100106 l) (x0 : Nat) (x1 : Int) (s : State) (h0
    : Steady l s0 s) :
    Steady l s0 (supplyCheck x0 x1 s) := by
  unfold supplyCheck
  split
  extract_lets +onlyGivenNames t1
  clear_value t1
  extract_lets +onlyGivenNames t2
  clear_value t2
  extract_lets +onlyGivenNames t3
  clear_value t3
  extract_lets +onlyGivenNames t4
  refine Steady.cut (t := t4) ?_ (fun ht4 => ?_)
  · unfold t4
    exact Steady.upd (m := 0x800000000) (hl.sub (by decide))
      (by intro x; cases x <;> first | exact fun _ => rfl | exact fun h => absurd h (by decide)) (by assumption) rfl rfl rfl
  clear_value t4
  refine Steady.ite ?_ ?_
  · refine raise_steady (hl.sub (by decide)) _ _ ?_
    exact event_steady (hl.sub (by decide)) _ _ _ (by assumption)
  · assumption

theorem channelRound_steady {l : Nat} {s0 : State} (hl : Covers 0x800100106 l) (x0 : List (Option Int)) (s : State)
    (x2 : Nat) (h0 : Steady l s0 s) :
    Steady l s0 (channelRound x0 s x2) := by
  unfold channelRound
  split
  · assumption
  · extract_lets +onlyGivenNames t1
    refine Steady.cut (t := t1) ?_ (fun ht1 => ?_)
    · unfold t1
      exact takeReading_steady (hl.sub (by decide)) _ _ _ (by assumption)
    clear_value t1
    refine Steady.ite ?_ ?_
    · refine stackReading_steady (hl.sub (by decide)) _ _ _ ?_
      assumption
    · refine Steady.ite ?_ ?_
      · refine supplyCheck_steady (hl.sub (by decide)) _ _ _ ?_
        assumption
      · assumption

theorem levelRound_steady {l : Nat} {s0 : State} (hl : Covers 0x1ffffff53f l) (x0 : List (Option Int)) (s : State)
    (x2 : Nat) (h0 : Steady l s0 s) :
    Steady l s0 (levelRound x0 s x2) := by
  unfold levelRound
  split
  · assumption
  · refine Steady.ite ?_ ?_
    · assumption
    · refine levelCheck_steady (hl.sub (by decide)) _ _ _ _ ?_
      assumption

theorem tallyRound_steady {l : Nat} {s0 : State} (hl : Covers 0x100000 l) (x0 : Bool) (s : State) (h0 : Steady l s0
    s) :
    Steady l s0 (tallyRound x0 s) := by
  unfold tallyRound
  extract_lets +onlyGivenNames t1
  clear_value t1
  extract_lets +onlyGivenNames t2
  clear_value t2
  extract_lets +onlyGivenNames t3
  refine Steady.cut (t := t3) ?_ (fun ht3 => ?_)
  · unfold t3
    exact Steady.upd (m := 0x100000) (hl.sub (by decide))
      (by intro x; cases x <;> first | exact fun _ => rfl | exact fun h => absurd h (by decide)) (by assumption) rfl rfl rfl
  clear_value t3
  refine Steady.ite ?_ ?_
  · refine tallyHead_steady (hl.sub (by decide)) _ ?_
    assumption
  · assumption

theorem hkRound_steady {l : Nat} {s0 : State} (hl : Covers 0x1ffffff53f l) (x0 : List (Option Int)) (x1 : Bool) (s :
    State) (h0 : Steady l s0 s) :
    Steady l s0 (hkRound x0 x1 s) := by
  unfold hkRound
  refine Steady.ite ?_ ?_
  · assumption
  · refine Steady.ite ?_ ?_
    · refine tallyRound_steady (hl.sub (by decide)) _ _ ?_
      exact State_inc_steady (hl.sub (by decide)) _ _ _ (by assumption)
    · extract_lets +onlyGivenNames t1
      refine Steady.cut (t := t1) ?_ (fun ht1 => ?_)
      · unfold t1
        exact State_set_steady (hl.sub (by decide)) _ _ _ (by assumption)
      clear_value t1
      extract_lets +onlyGivenNames t2
      refine Steady.cut (t := t2) ?_ (fun ht2 => ?_)
      · unfold t2
        refine Steady.foldl _ ?_ (fun _ _ _ => ?_)
        · assumption
        · refine channelRound_steady (hl.sub (by decide)) _ _ _ ?_
          assumption
      clear_value t2
      extract_lets +onlyGivenNames t3
      refine Steady.cut (t := t3) ?_ (fun ht3 => ?_)
      · unfold t3
        refine tallyRound_steady (hl.sub (by decide)) _ _ ?_
        exact showRange_steady (hl.sub (by decide)) _ (by assumption)
      clear_value t3
      extract_lets +onlyGivenNames t4
      refine Steady.cut (t := t4) ?_ (fun ht4 => ?_)
      · unfold t4
        exact calTempDue_steady (hl.sub (by decide)) _ (by assumption)
      clear_value t4
      extract_lets +onlyGivenNames t5
      refine Steady.cut (t := t5) ?_ (fun ht5 => ?_)
      · unfold t5
        refine Steady.foldl _ ?_ (fun _ _ _ => ?_)
        · assumption
        · refine levelRound_steady (hl.sub (by decide)) _ _ _ ?_
          assumption
      clear_value t5
      refine Steady.ite ?_ ?_
      · refine showLedger_steady (hl.sub (by decide)) _ ?_
        exact flashWindow_steady (hl.sub (by decide)) _ (by assumption)
      · assumption

theorem telemetryRecord_steady {l : Nat} {s0 : State} (hl : Covers 0x180106 l) (s : State) (h0 : Steady l s0 s) :
    Steady l s0 (telemetryRecord s) := by
  unfold telemetryRecord
  refine Steady.ite ?_ ?_
  · assumption
  · extract_lets +onlyGivenNames t1
    clear_value t1
    extract_lets +onlyGivenNames t2
    clear_value t2
    extract_lets +onlyGivenNames t3
    clear_value t3
    extract_lets +onlyGivenNames t4
    refine Steady.cut (t := t4) ?_ (fun ht4 => ?_)
    · unfold t4
      refine Steady.foldl _ ?_ (fun _ _ _ => ?_)
      · assumption
      · refine State_wr_steady (hl.sub (by decide)) _ _ _ ?_
        assumption
    clear_value t4
    extract_lets +onlyGivenNames t5
    clear_value t5
    extract_lets +onlyGivenNames t6
    clear_value t6
    extract_lets +onlyGivenNames t7
    refine Steady.cut (t := t7) ?_ (fun ht7 => ?_)
    · unfold t7
      refine Steady.ite ?_ ?_
      · assumption
      · refine Steady.ite ?_ ?_
        · refine State_set_steady (hl.sub (by decide)) _ _ _ ?_
          assumption
        · refine engineWrite_steady (hl.sub (by decide)) _ _ _ _ ?_
          assumption
    clear_value t7
    exact Steady.upd (m := 0x100000) (hl.sub (by decide))
      (by intro x; cases x <;> first | exact fun _ => rfl | exact fun h => absurd h (by decide)) (by assumption) rfl rfl rfl

theorem usageClear_steady {l : Nat} {s0 : State} (hl : Covers 0x900000 l) (s : State) (h0 : Steady l s0 s) :
    Steady l s0 (usageClear s) := by
  unfold usageClear
  exact Steady.upd (m := 0x900000) (hl.sub (by decide))
    (by intro x; cases x <;> first | exact fun _ => rfl | exact fun h => absurd h (by decide)) (by assumption) rfl rfl rfl

theorem usageClearDone_steady {l : Nat} {s0 : State} (hl : Covers 0x900000 l) (s : State) (h0 : Steady l s0 s) :
    Steady l s0 (usageClearDone s) := by
  unfold usageClearDone
  refine Steady.ite ?_ ?_
  · refine Steady.upd (m := 0x900000) (hl.sub (by decide)) (by intro x; cases x <;> first | exact fun _ => rfl | exact fun h => absurd h (by decide)) ?_ ?_ ?_ ?_
    · assumption
    · exact rfl
    · exact rfl
    · exact rfl
  · assumption

theorem secondTick_steady {l : Nat} {s0 : State} (hl : Covers 0x20002 l) (s : State) (h0 : Canon l s0 s) :
    Canon l s0 (secondTick s) := by
  unfold secondTick
  refine Canon.ite ?_ ?_
  · assumption
  · extract_lets +onlyGivenNames t1
    extract_lets +onlyGivenNames t2
    refine Canon.cut (t := t2) ?_ (fun ht2 => ?_)
    · unfold t2
      refine Canon.upd (m := 0x2) (hl.sub (by decide))
        (by intro x; cases x <;> first | exact fun _ => rfl | exact fun h => absurd h (by decide)) ?_ ?_ ?_
      · assumption
      · exact rfl
      · exact rfl
    clear_value t2
    refine Canon.ite ?_ ?_
    · refine Canon.step ?_ (calAge_steady (hl.sub (by decide)) _ (Steady.refl _))
      assumption
    · assumption

theorem showStraps_steady {l : Nat} {s0 : State} (hl : Covers 0x4 l) (s : State) (h0 : Steady l s0 s) :
    Steady l s0 (showStraps s) := by
  unfold showStraps
  extract_lets +onlyGivenNames t1
  refine Steady.cut (t := t1) ?_ (fun ht1 => ?_)
  · unfold t1
    exact State_set_steady (hl.sub (by decide)) _ _ _ (by assumption)
  clear_value t1
  extract_lets +onlyGivenNames t2
  refine Steady.cut (t := t2) ?_ (fun ht2 => ?_)
  · unfold t2
    exact State_set_steady (hl.sub (by decide)) _ _ _ (by assumption)
  clear_value t2
  exact State_set_steady (hl.sub (by decide)) _ _ _ (by assumption)

theorem aonPowerUp_steady {l : Nat} {s0 : State} (hl : Covers 0x800001805 l) (x0 : Nat) (s : State) (h0 : Steady l
    s0 s) :
    Steady l s0 (aonPowerUp x0 s) := by
  unfold aonPowerUp
  refine Steady.ite ?_ ?_
  · assumption
  · extract_lets +onlyGivenNames t1
    clear_value t1
    extract_lets +onlyGivenNames t2
    clear_value t2
    extract_lets +onlyGivenNames t3
    refine Steady.cut (t := t3) ?_ (fun ht3 => ?_)
    · unfold t3
      exact Steady.upd (m := 0x800001801) (hl.sub (by decide))
        (by intro x; cases x <;> first | exact fun _ => rfl | exact fun h => absurd h (by decide)) (by assumption) rfl rfl rfl
    clear_value t3
    extract_lets +onlyGivenNames t4
    refine Steady.cut (t := t4) ?_ (fun ht4 => ?_)
    · unfold t4
      exact State_set_steady (hl.sub (by decide)) _ _ _ (by assumption)
    clear_value t4
    extract_lets +onlyGivenNames t5
    refine Steady.cut (t := t5) ?_ (fun ht5 => ?_)
    · unfold t5
      exact State_set_steady (hl.sub (by decide)) _ _ _ (by assumption)
    clear_value t5
    extract_lets +onlyGivenNames t6
    refine Steady.cut (t := t6) ?_ (fun ht6 => ?_)
    · unfold t6
      exact State_set_steady (hl.sub (by decide)) _ _ _ (by assumption)
    clear_value t6
    refine updateBlank_steady (hl.sub (by decide)) _ ?_
    exact showMode'_steady (hl.sub (by decide)) _ (by assumption)

theorem vddAonLoss_steady {l : Nat} {s0 : State} (hl : Covers 0x1fffffffff l) (s : State) (h0 : Canon l s0 s) :
    Canon l s0 (vddAonLoss s) := by
  exact h0.put hl ⟨rfl, rfl, fun _ => rfl, id, fun _ => rfl, by intro x; cases x <;> first | exact fun _ => rfl | exact fun h => absurd h (by decide)⟩

theorem xtalStart_steady {l : Nat} {s0 : State} (hl : Covers 0x1 l) (x0 : Bool) (s : State) (h0 : Steady l s0 s) :
    Steady l s0 (xtalStart x0 s) := by
  unfold xtalStart
  exact Steady.upd (m := 0x1) (hl.sub (by decide))
    (by intro x; cases x <;> first | exact fun _ => rfl | exact fun h => absurd h (by decide)) (by assumption) rfl rfl rfl

theorem readStore_steady {l : Nat} {s0 : State} (hl : Covers 0x400004 l) (s : State) (h0 : Steady l s0 s) :
    Steady l s0 (readStore s) := by
  unfold readStore
  extract_lets +onlyGivenNames t1
  clear_value t1
  extract_lets +onlyGivenNames t2
  extract_lets +onlyGivenNames t3
  refine Steady.cut (t := t3) ?_ (fun ht3 => ?_)
  · unfold t3
    split
    · refine Steady.upd (m := 0x400000) (hl.sub (by decide)) (by intro x; cases x <;> first | exact fun _ => rfl | exact fun h => absurd h (by decide)) ?_ ?_ ?_ ?_
      · assumption
      · exact rfl
      · exact rfl
      · exact rfl
    · refine Steady.upd (m := 0x400000) (hl.sub (by decide)) (by intro x; cases x <;> first | exact fun _ => rfl | exact fun h => absurd h (by decide)) ?_ ?_ ?_ ?_
      · assumption
      · exact rfl
      · exact rfl
      · exact rfl
  clear_value t3
  extract_lets +onlyGivenNames t4
  refine Steady.cut (t := t4) ?_ (fun ht4 => ?_)
  · unfold t4
    refine Steady.ite ?_ ?_
    · refine Steady.foldl _ ?_ (fun _ _ _ => ?_)
      · assumption
      · extract_lets +onlyGivenNames t5
        clear_value t5
        extract_lets +onlyGivenNames t6
        clear_value t6
        refine Steady.ite ?_ ?_
        · refine Steady.upd (m := 0x400000) (hl.sub (by decide)) (by intro x; cases x <;> first | exact fun _ => rfl | exact fun h => absurd h (by decide)) ?_ ?_ ?_ ?_
          · assumption
          · exact rfl
          · exact rfl
          · exact rfl
        · assumption
    · assumption
  clear_value t4
  refine Steady.ite ?_ ?_
  · assumption
  · refine Steady.foldl _ ?_ (fun _ _ _ => ?_)
    · assumption
    · refine State_wr_steady (hl.sub (by decide)) _ _ _ ?_
      assumption

theorem slotChecks_steady {l : Nat} {s0 : State} (hl : Covers 0x4 l) (s : State) (h0 : Steady l s0 s) :
    Steady l s0 (slotChecks s) := by
  unfold slotChecks
  refine Steady.foldl _ ?_ (fun _ _ _ => ?_)
  · assumption
  · extract_lets +onlyGivenNames t1
    clear_value t1
    refine Steady.ite ?_ ?_
    · refine slotResult_steady (hl.sub (by decide)) _ _ _ ?_
      exact nvlFail_steady (hl.sub (by decide)) _ _ _ (by assumption)
    · refine Steady.ite ?_ ?_
      · refine slotResult_steady (hl.sub (by decide)) _ _ _ ?_
        exact nvlFail_steady (hl.sub (by decide)) _ _ _ (by assumption)
      · assumption

theorem trySlots_steady {l : Nat} {s0 : State} (hl : Covers 0x500106 l) (x0 : Bool) (x1 : List Nat) (s : State) (h0
    : Steady l s0 s) :
    Steady l s0 (trySlots x0 x1 s).2 := by
  induction x1 generalizing x0 s
  · unfold trySlots
    refine Steady.pair ?_
    assumption
  · rename_i a l ih
    unfold trySlots
    extract_lets +onlyGivenNames t1
    clear_value t1
    extract_lets +onlyGivenNames t2
    clear_value t2
    extract_lets +onlyGivenNames t3
    clear_value t3
    refine Steady.ite_snd ?_ ?_
    · extract_lets +onlyGivenNames t4
      refine Steady.cut (t := t4) ?_ (fun ht4 => ?_)
      · unfold t4
        refine Steady.ite ?_ ?_
        · refine storeProgram_steady (hl.sub (by decide)) _ _ ?_
          assumption
        · assumption
      clear_value t4
      refine ih _ _ ?_
      refine slotResult_steady (hl.sub (by decide)) _ _ _ ?_
      exact nvlFail_steady (hl.sub (by decide)) _ _ _ (by assumption)
    · refine Steady.ite_snd ?_ ?_
      · refine ih _ _ ?_
        assumption
      · extract_lets +onlyGivenNames t5
        refine Steady.cut (t := t5) ?_ (fun ht5 => ?_)
        · unfold t5
          refine Steady.ite ?_ ?_
          · refine storeProgram_steady (hl.sub (by decide)) _ _ ?_
            assumption
          · assumption
        clear_value t5
        split
        · refine Steady.pair ?_
          exact slotResult_steady (hl.sub (by decide)) _ _ _ (by assumption)
        · extract_lets +onlyGivenNames t6
          refine Steady.cut (t := t6) ?_ (fun ht6 => ?_)
          · unfold t6
            refine slotResult_steady (hl.sub (by decide)) _ _ _ ?_
            exact nvlFail_steady (hl.sub (by decide)) _ _ _ (by assumption)
          clear_value t6
          extract_lets +onlyGivenNames t7
          refine Steady.cut (t := t7) ?_ (fun ht7 => ?_)
          · unfold t7
            exact State_set_steady (hl.sub (by decide)) _ _ _ (by assumption)
          clear_value t7
          refine ih _ _ ?_
          exact event_steady (hl.sub (by decide)) _ _ _ (by assumption)

theorem bootStall_steady {l : Nat} {s0 : State} (hl : Covers 0x5 l) (x0 : Nat) (x1 : Nat) (s : State) (h0 : Steady l
    s0 s) :
    Steady l s0 (bootStall x0 x1 s) := by
  unfold bootStall
  extract_lets +onlyGivenNames t1
  refine Steady.cut (t := t1) ?_ (fun ht1 => ?_)
  · unfold t1
    refine State_set_steady (hl.sub (by decide)) _ _ _ ?_
    exact bootAt_steady (hl.sub (by decide)) _ _ _ (by assumption)
  clear_value t1
  refine showMode'_steady (hl.sub (by decide)) _ ?_
  exact Steady.upd (m := 0x1) (hl.sub (by decide))
    (by intro x; cases x <;> first | exact fun _ => rfl | exact fun h => absurd h (by decide)) (by assumption) rfl rfl rfl

theorem fncReset_steady {l : Nat} {s0 : State} (hl : Covers 0x4 l) (s : State) (h0 : Steady l s0 s) :
    Steady l s0 (fncReset s) := by
  exact h0.put hl ⟨⟨rfl, rfl, id, id, fun h => alSorted_filter _ _ h, by intro x; cases x <;> first | exact fun _ => rfl | exact fun h => absurd h (by decide)⟩, rfl⟩

theorem bootStep1_steady {l : Nat} {s0 : State} (hl : Covers 0x180054032f l) (s : State) (h0 : Steady l s0 s) :
    Steady l s0 (bootStep1 s) := by
  unfold bootStep1
  extract_lets +onlyGivenNames t1
  clear_value t1
  extract_lets +onlyGivenNames t2
  extract_lets +onlyGivenNames t3
  refine Steady.cut (t := t3) ?_ (fun ht3 => ?_)
  · unfold t3
    exact Steady.upd (m := 0x3) (hl.sub (by decide))
      (by intro x; cases x <;> first | exact fun _ => rfl | exact fun h => absurd h (by decide)) (by assumption) rfl rfl rfl
  clear_value t3
  extract_lets +onlyGivenNames t4
  refine Steady.cut (t := t4) ?_ (fun ht4 => ?_)
  · unfold t4
    refine showStraps_steady (hl.sub (by decide)) _ ?_
    refine bootAt_steady (hl.sub (by decide)) _ _ _ ?_
    refine State_set_steady (hl.sub (by decide)) _ _ _ ?_
    exact State_wr_steady (hl.sub (by decide)) _ _ _ (by assumption)
  clear_value t4
  extract_lets +onlyGivenNames t5
  refine Steady.cut (t := t5) ?_ (fun ht5 => ?_)
  · unfold t5
    refine State_set_steady (hl.sub (by decide)) _ _ _ ?_
    exact fncReset_steady (hl.sub (by decide)) _ (by assumption)
  clear_value t5
  refine serviceRights_steady (hl.sub (by decide)) _ ?_
  refine updateBlank_steady (hl.sub (by decide)) _ ?_
  exact showMode'_steady (hl.sub (by decide)) _ (by assumption)

theorem showSlot_steady {l : Nat} {s0 : State} (hl : Covers 0x4 l) (x0 : Nat) (s : State) (h0 : Steady l s0 s) :
    Steady l s0 (showSlot x0 s) := by
  unfold showSlot
  refine State_set_steady (hl.sub (by decide)) _ _ _ ?_
  exact State_set_steady (hl.sub (by decide)) _ _ _ (by assumption)

theorem bootStep2_steady {l : Nat} {s0 : State} (hl : Covers 0x500106 l) (x0 : StartEnv) (s : State) (h0 : Steady l
    s0 s) :
    Steady l s0 (bootStep2 x0 s) := by
  unfold bootStep2
  extract_lets +onlyGivenNames t1
  clear_value t1
  extract_lets +onlyGivenNames t2
  clear_value t2
  extract_lets +onlyGivenNames t3
  refine Steady.cut (t := t3) ?_ (fun ht3 => ?_)
  · unfold t3
    exact State_set_steady (hl.sub (by decide)) _ _ _ (by assumption)
  clear_value t3
  extract_lets +onlyGivenNames t4
  refine Steady.cut (t := t4) ?_ (fun ht4 => ?_)
  · unfold t4
    exact State_set_steady (hl.sub (by decide)) _ _ _ (by assumption)
  clear_value t4
  extract_lets +onlyGivenNames t5
  refine Steady.cut (t := t5) ?_ (fun ht5 => ?_)
  · unfold t5
    exact State_set_steady (hl.sub (by decide)) _ _ _ (by assumption)
  clear_value t5
  extract_lets +onlyGivenNames t6
  refine Steady.cut (t := t6) ?_ (fun ht6 => ?_)
  · unfold t6
    refine Steady.ite ?_ ?_
    · assumption
    · refine State_set_steady (hl.sub (by decide)) _ _ _ ?_
      assumption
  clear_value t6
  extract_lets +onlyGivenNames t7
  refine Steady.cut (t := t7) ?_ (fun ht7 => ?_)
  · unfold t7
    exact readStore_steady (hl.sub (by decide)) _ (by assumption)
  clear_value t7
  extract_lets +onlyGivenNames t8
  refine Steady.cut (t := t8) ?_ (fun ht8 => ?_)
  · unfold t8
    refine Steady.ite ?_ ?_
    · assumption
    · refine slotChecks_steady (hl.sub (by decide)) _ ?_
      assumption
  clear_value t8
  refine showSlot_steady (hl.sub (by decide)) _ _ ?_
  exact showStore_steady (hl.sub (by decide)) _ (by assumption)

theorem bootStep3_steady {l : Nat} {s0 : State} (hl : Covers 0x180054032f l) (x0 : StartEnv) (s : State) (h0 :
    Steady l s0 s) :
    Steady l s0 (bootStep3 x0 s) := by
  unfold bootStep3
  extract_lets +onlyGivenNames t1
  clear_value t1
  split
  rename_i t2 heq2
  have hk2 := congrArg Prod.snd heq2
  dsimp only at hk2
  refine Steady.cut (t := t2) ?_ (fun ht2 => ?_)
  · rw [← hk2]
    exact trySlots_steady (hl.sub (by decide)) _ _ _ (by assumption)
  clear heq2 hk2
  extract_lets +onlyGivenNames t3
  refine Steady.cut (t := t3) ?_ (fun ht3 => ?_)
  · unfold t3
    split
    · refine State_set_steady (hl.sub (by decide)) _ _ _ ?_
      refine applySealed_steady (hl.sub (by decide)) _ _ ?_
      exact showSlot_steady (hl.sub (by decide)) _ _ (by assumption)
    · assumption
  clear_value t3
  extract_lets +onlyGivenNames t4
  clear_value t4
  extract_lets +onlyGivenNames t5
  refine Steady.cut (t := t5) ?_ (fun ht5 => ?_)
  · unfold t5
    exact Steady.upd (m := 0x1) (hl.sub (by decide))
      (by intro x; cases x <;> first | exact fun _ => rfl | exact fun h => absurd h (by decide)) (by assumption) rfl rfl rfl
  clear_value t5
  refine updateBlank_steady (hl.sub (by decide)) _ ?_
  refine serviceRights_steady (hl.sub (by decide)) _ ?_
  exact showStore_steady (hl.sub (by decide)) _ (by assumption)

theorem showKeys_steady {l : Nat} {s0 : State} (hl : Covers 0x4 l) (s : State) (h0 : Steady l s0 s) :
    Steady l s0 (showKeys s) := by
  unfold showKeys
  extract_lets +onlyGivenNames t1
  clear_value t1
  extract_lets +onlyGivenNames t2
  clear_value t2
  extract_lets +onlyGivenNames t3
  refine Steady.cut (t := t3) ?_ (fun ht3 => ?_)
  · unfold t3
    refine State_set_steady (hl.sub (by decide)) _ _ _ ?_
    exact State_set_steady (hl.sub (by decide)) _ _ _ (by assumption)
  clear_value t3
  exact State_wr_steady (hl.sub (by decide)) _ _ _ (by assumption)

theorem ledgerBoot_steady {l : Nat} {s0 : State} (hl : Covers 0x100006 l) (s : State) (h0 : Canon l s0 s) :
    Canon l s0 (ledgerBoot s) := by
  unfold ledgerBoot
  extract_lets +onlyGivenNames t1
  clear_value t1
  extract_lets +onlyGivenNames t2
  clear_value t2
  extract_lets +onlyGivenNames t3
  extract_lets +onlyGivenNames t4
  refine Canon.cut (t := t4) ?_ (fun ht4 => ?_)
  · unfold t4
    refine Canon.ite ?_ ?_
    · refine Canon.upd (m := 0x2) (hl.sub (by decide)) (by intro x; cases x <;> first | exact fun _ => rfl | exact fun h => absurd h (by decide)) ?_ ?_ ?_
      · assumption
      · exact rfl
      · exact rfl
    · assumption
  clear_value t4
  extract_lets +onlyGivenNames t5
  refine Canon.cut (t := t5) ?_ (fun ht5 => ?_)
  · unfold t5
    refine Canon.step ?_ (closeOpenRec_steady (hl.sub (by decide)) _ (Steady.refl _))
    refine Canon.step ?_ (showScan_steady (hl.sub (by decide)) _ _ (Steady.refl _))
    assumption
  clear_value t5
  extract_lets +onlyGivenNames t6
  extract_lets +onlyGivenNames t7
  refine Canon.cut (t := t7) ?_ (fun ht7 => ?_)
  · unfold t7
    split
    · refine Canon.step ?_ (enqueueRec_steady (hl.sub (by decide)) _ _ (Steady.refl _))
      refine Canon.upd (m := 0x2) (hl.sub (by decide))
        (by intro x; cases x <;> first | exact fun _ => rfl | exact fun h => absurd h (by decide)) ?_ ?_ ?_
      · assumption
      · exact rfl
      · exact rfl
    · assumption
  clear_value t7
  extract_lets +onlyGivenNames t8
  refine Canon.cut (t := t8) ?_ (fun ht8 => ?_)
  · unfold t8
    refine Canon.ite ?_ ?_
    · refine Canon.step ?_ (enqueueRec_steady (hl.sub (by decide)) _ _ (Steady.refl _))
      assumption
    · assumption
  clear_value t8
  extract_lets +onlyGivenNames t9
  clear_value t9
  refine Canon.step ?_ (enqueueRec_steady (hl.sub (by decide)) _ _ (Steady.refl _))
  assumption

theorem clearBoot_steady {l : Nat} {s0 : State} (hl : Covers 0x400000 l) (s : State) (h0 : Steady l s0 s) :
    Steady l s0 (clearBoot s) := by
  unfold clearBoot
  refine Steady.ite ?_ ?_
  · refine Steady.upd (m := 0x400000) (hl.sub (by decide)) (by intro x; cases x <;> first | exact fun _ => rfl | exact fun h => absurd h (by decide)) ?_ ?_ ?_ ?_
    · assumption
    · exact rfl
    · exact rfl
    · exact rfl
  · assumption

theorem bootStep4_steady {l : Nat} {s0 : State} (hl : Covers 0x52010e l) (x0 : StartEnv) (s : State) (h0 : Canon l
    s0 s) :
    Canon l s0 (bootStep4 x0 s) := by
  unfold bootStep4
  extract_lets +onlyGivenNames t1
  refine Canon.cut (t := t1) ?_ (fun ht1 => ?_)
  · unfold t1
    refine Canon.step ?_ (showKeys_steady (hl.sub (by decide)) _ (Steady.refl _))
    refine Canon.step ?_ (State_set_steady (hl.sub (by decide)) _ _ _ (Steady.refl _))
    refine Canon.step ?_ (releaseIsland_steady (hl.sub (by decide)) _ _ (Steady.refl _))
    assumption
  clear_value t1
  extract_lets +onlyGivenNames t2
  refine Canon.cut (t := t2) ?_ (fun ht2 => ?_)
  · unfold t2
    refine Canon.step ?_ (State_set_steady (hl.sub (by decide)) _ _ _ (Steady.refl _))
    assumption
  clear_value t2
  extract_lets +onlyGivenNames t3
  refine Canon.cut (t := t3) ?_ (fun ht3 => ?_)
  · unfold t3
    refine Canon.step ?_ (drainEvents_steady (hl.sub (by decide)) _ (Steady.refl _))
    exact ledgerBoot_steady (hl.sub (by decide)) _ (by assumption)
  clear_value t3
  refine Canon.step ?_ (flashWindow_steady (hl.sub (by decide)) _ (Steady.refl _))
  refine Canon.step ?_ (calBootItem_steady (hl.sub (by decide)) _ _ (Steady.refl _))
  refine Canon.step ?_ (calBootItem_steady (hl.sub (by decide)) _ _ (Steady.refl _))
  refine Canon.step ?_ (clearBoot_steady (hl.sub (by decide)) _ (Steady.refl _))
  assumption

theorem releaseAll_steady {l : Nat} {s0 : State} (hl : Covers 0xc l) (x0 : List Nat) (s : State) (h0 : Steady l s0
    s) :
    Steady l s0 (releaseAll x0 s) := by
  unfold releaseAll
  refine Steady.foldl _ ?_ (fun _ _ _ => ?_)
  · assumption
  · refine releaseIsland_steady (hl.sub (by decide)) _ _ ?_
    assumption

theorem bootStep6_steady {l : Nat} {s0 : State} (hl : Covers 0xd l) (s : State) (h0 : Steady l s0 s) :
    Steady l s0 (bootStep6 s) := by
  unfold bootStep6
  extract_lets +onlyGivenNames t1
  clear_value t1
  extract_lets +onlyGivenNames t2
  clear_value t2
  extract_lets +onlyGivenNames t3
  refine Steady.cut (t := t3) ?_ (fun ht3 => ?_)
  · unfold t3
    refine releaseAll_steady (hl.sub (by decide)) _ _ ?_
    exact Steady.upd (m := 0x1) (hl.sub (by decide))
      (by intro x; cases x <;> first | exact fun _ => rfl | exact fun h => absurd h (by decide)) (by assumption) rfl rfl rfl
  clear_value t3
  refine Steady.foldl _ ?_ (fun _ _ _ => ?_)
  · assumption
  · refine State_set_steady (hl.sub (by decide)) _ _ _ ?_
    assumption

theorem bootStep7_steady {l : Nat} {s0 : State} (hl : Covers 0x300000c l) (s : State) (h0 : Steady l s0 s) :
    Steady l s0 (bootStep7 s) := by
  unfold bootStep7
  extract_lets +onlyGivenNames t1
  refine Steady.cut (t := t1) ?_ (fun ht1 => ?_)
  · unfold t1
    exact releaseAll_steady (hl.sub (by decide)) _ _ (by assumption)
  clear_value t1
  refine Steady.ite ?_ ?_
  · assumption
  · refine applyTables_steady (hl.sub (by decide)) _ _ ?_
    assumption

theorem bootRoles_steady {l : Nat} {s0 : State} (hl : Covers 0x4 l) (x0 : Nat) (x1 : Nat) (x2 : Nat) (x3 : List Nat)
    (x4 : List Nat) (x5 : Nat → Nat → State → State) (s : State) (h0 : Steady l s0 s) (h1 : ∀ y0 y1 y2, Steady l s0
    y2 → Steady l s0 (x5 y0 y1 y2)) :
    Steady l s0 (bootRoles x0 x1 x2 x3 x4 x5 s) := by
  unfold bootRoles
  extract_lets +onlyGivenNames t1
  clear_value t1
  extract_lets +onlyGivenNames t2
  refine Steady.cut (t := t2) ?_ (fun ht2 => ?_)
  · unfold t2
    refine Steady.foldl _ ?_ (fun _ _ _ => ?_)
    · assumption
    · refine Steady.ite ?_ ?_
      · refine setRole_steady (hl.sub (by decide)) _ _ _ _ _ ?_
        assumption
      · assumption
  clear_value t2
  refine Steady.foldl _ ?_ (fun _ _ _ => ?_)
  · assumption
  · split
    · apply_assumption <;> assumption
    · extract_lets +onlyGivenNames t3
      clear_value t3
      refine setRole_steady (hl.sub (by decide)) _ _ _ _ _ ?_
      apply_assumption <;> assumption

theorem bootStep8_steady {l : Nat} {s0 : State} (hl : Covers 0x2400c l) (x0 : StartEnv) (s : State) (h0 : Steady l
    s0 s) :
    Steady l s0 (bootStep8 x0 s) := by
  unfold bootStep8
  extract_lets +onlyGivenNames t1
  clear_value t1
  extract_lets +onlyGivenNames t2
  refine Steady.cut (t := t2) ?_ (fun ht2 => ?_)
  · unfold t2
    exact releaseAll_steady (hl.sub (by decide)) _ _ (by assumption)
  clear_value t2
  extract_lets +onlyGivenNames t3
  refine Steady.cut (t := t3) ?_ (fun ht3 => ?_)
  · unfold t3
    refine bootRoles_steady (hl.sub (by decide)) _ _ _ _ _ _ _ ?_ (fun _ _ _ _ => ?_)
    · assumption
    · refine serveTile_steady (hl.sub (by decide)) _ _ _ ?_
      assumption
  clear_value t3
  extract_lets +onlyGivenNames t4
  refine Steady.cut (t := t4) ?_ (fun ht4 => ?_)
  · unfold t4
    refine bootRoles_steady (hl.sub (by decide)) _ _ _ _ _ _ _ ?_ (fun _ _ _ _ => ?_)
    · assumption
    · refine serveSlice_steady (hl.sub (by decide)) _ _ _ ?_
      assumption
  clear_value t4
  refine calBootItem_steady (hl.sub (by decide)) _ _ ?_
  refine calBootItem_steady (hl.sub (by decide)) _ _ ?_
  refine fillSliceAuditor_steady (hl.sub (by decide)) _ ?_
  exact fillTileAuditor_steady (hl.sub (by decide)) _ (by assumption)

theorem bootStep9_steady {l : Nat} {s0 : State} (hl : Covers 0x13a10e l) (s : State) (h0 : Steady l s0 s) :
    Steady l s0 (bootStep9 s) := by
  unfold bootStep9
  refine bootLinks_steady (hl.sub (by decide)) _ ?_
  refine Steady.foldl _ ?_ (fun _ _ _ => ?_)
  · assumption
  · refine trainStart_steady (hl.sub (by decide)) _ _ _ ?_
    exact releaseIsland_steady (hl.sub (by decide)) _ _ (by assumption)

theorem bootStep_steady {l : Nat} {s0 : State} (hl : Covers 0x180357e32f l) (x0 : StartEnv) (s : State) (x2 : Nat)
    (h0 : Canon l s0 s) :
    Canon l s0 (bootStep x0 s x2) := by
  unfold bootStep
  extract_lets +onlyGivenNames t1
  refine Canon.cut (t := t1) ?_ (fun ht1 => ?_)
  · unfold t1
    refine Canon.ite ?_ ?_
    · assumption
    · refine Canon.step ?_ (bootAt_steady (hl.sub (by decide)) _ _ _ (Steady.refl _))
      assumption
  clear_value t1
  refine Canon.ite ?_ ?_
  · refine Canon.step ?_ (bootStep2_steady (hl.sub (by decide)) _ _ (Steady.refl _))
    assumption
  · refine Canon.ite ?_ ?_
    · refine Canon.step ?_ (bootStep3_steady (hl.sub (by decide)) _ _ (Steady.refl _))
      assumption
    · refine Canon.ite ?_ ?_
      · refine bootStep4_steady (hl.sub (by decide)) _ _ ?_
        assumption
      · refine Canon.ite ?_ ?_
        · refine Canon.step ?_ (bootStep6_steady (hl.sub (by decide)) _ (Steady.refl _))
          assumption
        · refine Canon.ite ?_ ?_
          · refine Canon.step ?_ (bootStep7_steady (hl.sub (by decide)) _ (Steady.refl _))
            assumption
          · refine Canon.ite ?_ ?_
            · refine Canon.step ?_ (bootStep8_steady (hl.sub (by decide)) _ _ (Steady.refl _))
              assumption
            · refine Canon.ite ?_ ?_
              · refine Canon.step ?_ (bootStep9_steady (hl.sub (by decide)) _ (Steady.refl _))
                assumption
              · assumption

theorem corePowerRise_steady {l : Nat} {s0 : State} (hl : Covers 0x180357e32f l) (x0 : StartEnv) (s : State) (h0 :
    Canon l s0 s) :
    Canon l s0 (corePowerRise x0 s) := by
  unfold corePowerRise
  refine Canon.ite ?_ ?_
  · assumption
  · extract_lets +onlyGivenNames t1
    refine Canon.cut (t := t1) ?_ (fun ht1 => ?_)
    · unfold t1
      refine Canon.step ?_ (bootStep1_steady (hl.sub (by decide)) _ (Steady.refl _))
      assumption
    clear_value t1
    refine Canon.ite ?_ ?_
    · refine Canon.step ?_ (bootStall_steady (hl.sub (by decide)) _ _ _ (Steady.refl _))
      assumption
    · refine Canon.ite ?_ ?_
      · refine Canon.step ?_ (bootStall_steady (hl.sub (by decide)) _ _ _ (Steady.refl _))
        assumption
      · extract_lets +onlyGivenNames t2
        clear_value t2
        extract_lets +onlyGivenNames t3
        refine Canon.cut (t := t3) ?_ (fun ht3 => ?_)
        · unfold t3
          refine Canon.foldl _ ?_ (fun _ _ _ => ?_)
          · assumption
          · refine bootStep_steady (hl.sub (by decide)) _ _ _ ?_
            assumption
        clear_value t3
        refine Canon.ite ?_ ?_
        · refine bootStep_steady (hl.sub (by decide)) _ _ _ ?_
          assumption
        · refine Canon.step ?_ (bootAt_steady (hl.sub (by decide)) _ _ _ (Steady.refl _))
          assumption

theorem startTimeout_steady {l : Nat} {s0 : State} (hl : Covers 0x5 l) (x0 : Nat) (s : State) (h0 : Steady l s0 s) :
    Steady l s0 (startTimeout x0 s) := by
  unfold startTimeout
  refine Steady.ite ?_ ?_
  · refine bootStall_steady (hl.sub (by decide)) _ _ _ ?_
    assumption
  · assumption

theorem sysclkLoss_steady {l : Nat} {s0 : State} (hl : Covers 0x1ffffff53f l) (s : State) (h0 : Steady l s0 s) :
    Steady l s0 (sysclkLoss s) := by
  unfold sysclkLoss
  refine corePowerFall_steady (hl.sub (by decide)) _ ?_
  exact Steady.upd (m := 0x1) (hl.sub (by decide))
    (by intro x; cases x <;> first | exact fun _ => rfl | exact fun h => absurd h (by decide)) (by assumption) rfl rfl rfl

theorem sysclkRestored_steady {l : Nat} {s0 : State} (hl : Covers 0x1 l) (s : State) (h0 : Steady l s0 s) :
    Steady l s0 (sysclkRestored s) := by
  unfold sysclkRestored
  exact Steady.upd (m := 0x1) (hl.sub (by decide))
    (by intro x; cases x <;> first | exact fun _ => rfl | exact fun h => absurd h (by decide)) (by assumption) rfl rfl rfl

theorem refLoss_steady {l : Nat} {s0 : State} (hl : Covers 0x600106107 l) (s : State) (h0 : Steady l s0 s) :
    Steady l s0 (refLoss s) := by
  unfold refLoss
  refine dueCause_steady (hl.sub (by decide)) _ _ ?_
  exact Steady.upd (m := 0x1) (hl.sub (by decide))
    (by intro x; cases x <;> first | exact fun _ => rfl | exact fun h => absurd h (by decide)) (by assumption) rfl rfl rfl

theorem refRestored_steady {l : Nat} {s0 : State} (hl : Covers 0x1 l) (s : State) (h0 : Steady l s0 s) :
    Steady l s0 (refRestored s) := by
  unfold refRestored
  exact Steady.upd (m := 0x1) (hl.sub (by decide))
    (by intro x; cases x <;> first | exact fun _ => rfl | exact fun h => absurd h (by decide)) (by assumption) rfl rfl rfl

theorem jtagInstruction_steady {l : Nat} {s0 : State} (hl : Covers 0x5 l) (x0 : Bool) (s : State) (h0 : Steady l s0
    s) :
    Steady l s0 (jtagInstruction x0 s) := by
  unfold jtagInstruction
  refine showMode'_steady (hl.sub (by decide)) _ ?_
  exact Steady.upd (m := 0x1) (hl.sub (by decide))
    (by intro x; cases x <;> first | exact fun _ => rfl | exact fun h => absurd h (by decide)) (by assumption) rfl rfl rfl

theorem keysChanged_steady {l : Nat} {s0 : State} (hl : Covers 0x4 l) (s : State) (h0 : Steady l s0 s) :
    Steady l s0 (keysChanged s) := by
  unfold keysChanged
  refine Steady.ite ?_ ?_
  · refine showKeys_steady (hl.sub (by decide)) _ ?_
    assumption
  · assumption

/-- Other fuses in both states change nothing of the rest. -/
theorem Steady.refuse {l : Nat} {s t : State} (f : Fuses) (h : Steady l s t) :
    Steady l { s with fuses := f } { t with fuses := f } :=
  ⟨⟨h.pending, rfl, h.cells, h.flash, h.regs, by intro x hx; cases x <;> exact h.parts _ hx⟩, h.seconds⟩

/-- KEY_PROGRAM changes the fuses and else keeps what every operation keeps. -/
theorem keyProgram_refuse {l : Nat} (hl : Covers 0x5 l) (w : Nat) (k : List Byte) (s : State) :
    ∃ f, Steady l { s with fuses := f } (keyProgram w k s) := by
  have h1 : Steady l s (jtagInstruction false s) := jtagInstruction_steady (hl.sub (by decide)) _ _ (Steady.refl _)
  unfold keyProgram
  extract_lets t b
  split
  · exact ⟨_, (h1.refuse _).trans (keysChanged_steady (hl.sub (by decide)) _ (Steady.refl _))⟩
  · split
    · exact ⟨_, (h1.refuse _).trans (keysChanged_steady (hl.sub (by decide)) _ (Steady.refl _))⟩
    · exact ⟨s.fuses, h1⟩

/-- KEY_REVOKE changes the fuses and else keeps what every operation keeps. -/
theorem keyRevoke_refuse {l : Nat} (hl : Covers 0x5 l) (w : Nat) (s : State) :
    ∃ f, Steady l { s with fuses := f } (keyRevoke w s) := by
  have h1 : Steady l s (jtagInstruction false s) := jtagInstruction_steady (hl.sub (by decide)) _ _ (Steady.refl _)
  unfold keyRevoke
  extract_lets t
  split
  · exact ⟨_, (h1.refuse _).trans (keysChanged_steady (hl.sub (by decide)) _ (Steady.refl _))⟩
  · split
    · exact ⟨_, (h1.refuse _).trans (keysChanged_steady (hl.sub (by decide)) _ (Steady.refl _))⟩
    · exact ⟨s.fuses, h1⟩

theorem pcieLinkUp_steady {l : Nat} {s0 : State} (hl : Covers 0x4 l) (x0 : Nat) (x1 : Nat) (x2 : Nat) (s : State)
    (h0 : Steady l s0 s) :
    Steady l s0 (pcieLinkUp x0 x1 x2 s) := by
  unfold pcieLinkUp
  refine Steady.ite ?_ ?_
  · refine State_wr_steady (hl.sub (by decide)) _ _ _ ?_
    assumption
  · assumption

end Sys2Proof.Machine
end

