-- ==== Sys2Proof/Laws/Steady17.lean ====
section
/-! SUPPORT. What the operations of GateCmds, RegActions keep (Laws/Steady.lean). -/

set_option linter.unusedVariables false
set_option maxRecDepth 4000

namespace Sys2Proof.Machine

theorem gateResult_steady {l : Nat} {s0 : State} (hl : Covers 0x4 l) (x0 : Nat) (s : State) (h0 : Steady l s0 s) :
    Steady l s0 (gateResult x0 s) := by
  unfold gateResult
  exact State_set_steady (hl.sub (by decide)) _ _ _ (by assumption)

theorem gateExpired_steady {l : Nat} {s0 : State} (hl : Covers 0x104 l) (x0 : Nat) (s : State) (h0 : Steady l s0 s) :
    Steady l s0 (gateExpired x0 s) := by
  unfold gateExpired
  refine Steady.ite ?_ ?_
  · refine raise_steady (hl.sub (by decide)) _ _ ?_
    exact State_set_steady (hl.sub (by decide)) _ _ _ (by assumption)
  · refine Steady.ite ?_ ?_
    · refine raise_steady (hl.sub (by decide)) _ _ ?_
      exact State_set_steady (hl.sub (by decide)) _ _ _ (by assumption)
    · assumption

theorem gateEnd_steady {l : Nat} {s0 : State} (hl : Covers 0x114 l) (x0 : Nat) (s : State) (h0 : Steady l s0 s) :
    Steady l s0 (gateEnd x0 s) := by
  unfold gateEnd
  refine raise_steady (hl.sub (by decide)) _ _ ?_
  refine gateResult_steady (hl.sub (by decide)) _ _ ?_
  refine State_set_steady (hl.sub (by decide)) _ _ _ ?_
  exact Steady.upd (m := 0x10) (hl.sub (by decide))
    (by intro x; cases x <;> first | exact fun _ => rfl | exact fun h => absurd h (by decide)) (by assumption) rfl rfl rfl

theorem gateForget_steady {l : Nat} {s0 : State} (hl : Covers 0x28 l) (x0 : Nat) (s : State) (h0 : Steady l s0 s) :
    Steady l s0 (gateForget x0 s) := by
  unfold gateForget
  extract_lets +onlyGivenNames t1
  clear_value t1
  extract_lets +onlyGivenNames t2
  clear_value t2
  extract_lets +onlyGivenNames t3
  refine Steady.cut (t := t3) ?_ (fun ht3 => ?_)
  · unfold t3
    exact State_setGate_steady (hl.sub (by decide)) _ _ _ (by assumption)
  clear_value t3
  exact Steady.upd (m := 0x20) (hl.sub (by decide))
    (by intro x; cases x <;> first | exact fun _ => rfl | exact fun h => absurd h (by decide)) (by assumption) rfl rfl rfl

theorem gateClosed_steady {l : Nat} {s0 : State} (hl : Covers 0x17ffffe53e l) (x0 : GateCmd) (s : State) (h0 :
    Steady l s0 s) :
    Steady l s0 (gateClosed x0 s) := by
  unfold gateClosed
  extract_lets +onlyGivenNames t1
  clear_value t1
  extract_lets +onlyGivenNames t2
  refine Steady.cut (t := t2) ?_ (fun ht2 => ?_)
  · unfold t2
    refine Steady.ite ?_ ?_
    · refine latchFurrow_steady (hl.sub (by decide)) _ ?_
      assumption
    · assumption
  clear_value t2
  extract_lets +onlyGivenNames t3
  clear_value t3
  extract_lets +onlyGivenNames t4
  refine Steady.cut (t := t4) ?_ (fun ht4 => ?_)
  · unfold t4
    exact State_setGate_steady (hl.sub (by decide)) _ _ _ (by assumption)
  clear_value t4
  refine Steady.ite ?_ ?_
  · refine gateEnd_steady (hl.sub (by decide)) _ _ ?_
    exact State_setGate_steady (hl.sub (by decide)) _ _ _ (by assumption)
  · refine islandReset_steady (hl.sub (by decide)) _ _ ?_
    assumption

theorem gateCommand_steady {l : Nat} {s0 : State} (hl : Covers 0x17ffffe53e l) (x0 : Nat) (x1 : Nat) (s : State) (h0
    : Steady l s0 s) :
    Steady l s0 (gateCommand x0 x1 s) := by
  unfold gateCommand
  refine Steady.ite ?_ ?_
  · refine gateResult_steady (hl.sub (by decide)) _ _ ?_
    assumption
  · extract_lets +onlyGivenNames t1
    refine Steady.cut (t := t1) ?_ (fun ht1 => ?_)
    · unfold t1
      exact State_set_steady (hl.sub (by decide)) _ _ _ (by assumption)
    clear_value t1
    extract_lets +onlyGivenNames t2
    refine Steady.ite ?_ ?_
    · simp only [t2]
      refine raise_steady (hl.sub (by decide)) _ _ ?_
      exact gateResult_steady (hl.sub (by decide)) _ _ (by assumption)
    · refine Steady.ite ?_ ?_
      · simp only [t2]
        refine raise_steady (hl.sub (by decide)) _ _ ?_
        exact gateResult_steady (hl.sub (by decide)) _ _ (by assumption)
      · extract_lets +onlyGivenNames t3
        clear_value t3
        refine Steady.ite ?_ ?_
        · refine Steady.ite ?_ ?_
          · simp only [t2]
            refine raise_steady (hl.sub (by decide)) _ _ ?_
            exact gateResult_steady (hl.sub (by decide)) _ _ (by assumption)
          · refine Steady.ite ?_ ?_
            · refine raise_steady (hl.sub (by decide)) _ _ ?_
              refine gateResult_steady (hl.sub (by decide)) _ _ ?_
              extract_lets +onlyGivenNames t4
              refine Steady.cut (t := t4) ?_ (fun ht4 => ?_)
              · unfold t4
                exact State_setGate_steady (hl.sub (by decide)) _ _ _ (by assumption)
              clear_value t4
              refine Steady.ite ?_ ?_
              · refine drainEvents_steady (hl.sub (by decide)) _ ?_
                assumption
              · assumption
            · simp only [t2]
              refine raise_steady (hl.sub (by decide)) _ _ ?_
              exact gateResult_steady (hl.sub (by decide)) _ _ (by assumption)
        · refine Steady.ite ?_ ?_
          · simp only [t2]
            refine raise_steady (hl.sub (by decide)) _ _ ?_
            exact gateResult_steady (hl.sub (by decide)) _ _ (by assumption)
          · extract_lets +onlyGivenNames t5
            clear_value t5
            extract_lets +onlyGivenNames t6
            refine Steady.cut (t := t6) ?_ (fun ht6 => ?_)
            · unfold t6
              refine State_set_steady (hl.sub (by decide)) _ _ _ ?_
              exact Steady.upd (m := 0x10) (hl.sub (by decide))
                (by intro x; cases x <;> first | exact fun _ => rfl | exact fun h => absurd h (by decide)) (by assumption) rfl rfl rfl
            clear_value t6
            refine Steady.ite ?_ ?_
            · refine gateClosed_steady (hl.sub (by decide)) _ _ ?_
              exact State_setGate_steady (hl.sub (by decide)) _ _ _ (by assumption)
            · refine State_setGate_steady (hl.sub (by decide)) _ _ _ ?_
              assumption

theorem gateDrainDone_steady {l : Nat} {s0 : State} (hl : Covers 0x17ffffe53e l) (x0 : Nat) (s : State) (h0 : Steady
    l s0 s) :
    Steady l s0 (gateDrainDone x0 s) := by
  unfold gateDrainDone
  extract_lets +onlyGivenNames t1
  clear_value t1
  refine Steady.ite ?_ ?_
  · assumption
  · split
    · refine Steady.ite ?_ ?_
      · refine gateClosed_steady (hl.sub (by decide)) _ _ ?_
        assumption
      · refine State_setGate_steady (hl.sub (by decide)) _ _ _ ?_
        assumption
    · refine State_setGate_steady (hl.sub (by decide)) _ _ _ ?_
      assumption

theorem gateDrainLimit_steady {l : Nat} {s0 : State} (hl : Covers 0x17ffffe53e l) (x0 : Nat) (s : State) (h0 :
    Steady l s0 s) :
    Steady l s0 (gateDrainLimit x0 s) := by
  unfold gateDrainLimit
  extract_lets +onlyGivenNames t1
  clear_value t1
  split
  · refine Steady.ite ?_ ?_
    · assumption
    · extract_lets +onlyGivenNames t2
      clear_value t2
      extract_lets +onlyGivenNames t3
      clear_value t3
      extract_lets +onlyGivenNames t4
      refine Steady.cut (t := t4) ?_ (fun ht4 => ?_)
      · unfold t4
        refine State_set_steady (hl.sub (by decide)) _ _ _ ?_
        exact Steady.upd (m := 0x10) (hl.sub (by decide))
          (by intro x; cases x <;> first | exact fun _ => rfl | exact fun h => absurd h (by decide)) (by assumption) rfl rfl rfl
      clear_value t4
      refine gateClosed_steady (hl.sub (by decide)) _ _ ?_
      exact gateForget_steady (hl.sub (by decide)) _ _ (by assumption)
  · assumption

theorem releaseEffects_steady {l : Nat} {s0 : State} (hl : Covers 0x13e106 l) (x0 : Nat) (x1 : Bool) (s : State) (h0
    : Steady l s0 s) :
    Steady l s0 (releaseEffects x0 x1 s) := by
  unfold releaseEffects
  refine Steady.ite ?_ ?_
  · refine drainEvents_steady (hl.sub (by decide)) _ ?_
    assumption
  · refine Steady.ite ?_ ?_
    · refine rereadStart_steady (hl.sub (by decide)) _ ?_
      refine sowAuditEnable_steady (hl.sub (by decide)) _ _ ?_
      exact harrowAuditEnable_steady (hl.sub (by decide)) _ _ (by assumption)
    · refine Steady.ite ?_ ?_
      · refine showRaw_steady (hl.sub (by decide)) _ ?_
        assumption
      · refine Steady.ite ?_ ?_
        · refine returnTile_steady (hl.sub (by decide)) _ _ _ ?_
          assumption
        · refine Steady.ite ?_ ?_
          · refine returnSlice_steady (hl.sub (by decide)) _ _ _ ?_
            assumption
          · refine Steady.ite ?_ ?_
            · refine Steady.ite ?_ ?_
              · assumption
              · refine trainStart_steady (hl.sub (by decide)) _ _ _ ?_
                assumption
            · assumption

theorem islandResetDone_steady {l : Nat} {s0 : State} (hl : Covers 0x13e11e l) (x0 : Bool) (s : State) (h0 : Steady
    l s0 s) :
    Steady l s0 (islandResetDone x0 s) := by
  unfold islandResetDone
  split
  · assumption
  · extract_lets +onlyGivenNames t1
    clear_value t1
    extract_lets +onlyGivenNames t2
    clear_value t2
    refine Steady.ite ?_ ?_
    · assumption
    · extract_lets +onlyGivenNames t3
      clear_value t3
      split
      · refine gateEnd_steady (hl.sub (by decide)) _ _ ?_
        refine nvlFail_steady (hl.sub (by decide)) _ _ _ ?_
        exact State_setGate_steady (hl.sub (by decide)) _ _ _ (by assumption)
      · refine Steady.ite ?_ ?_
        · refine gateEnd_steady (hl.sub (by decide)) _ _ ?_
          exact State_setGate_steady (hl.sub (by decide)) _ _ _ (by assumption)
        · extract_lets +onlyGivenNames t4
          refine Steady.cut (t := t4) ?_ (fun ht4 => ?_)
          · unfold t4
            exact applyLayers_steady (hl.sub (by decide)) _ _ _ _ (by assumption)
          clear_value t4
          extract_lets +onlyGivenNames t5
          refine Steady.cut (t := t5) ?_ (fun ht5 => ?_)
          · unfold t5
            exact State_setGate_steady (hl.sub (by decide)) _ _ _ (by assumption)
          clear_value t5
          refine gateEnd_steady (hl.sub (by decide)) _ _ ?_
          exact releaseEffects_steady (hl.sub (by decide)) _ _ _ (by assumption)

theorem clearRc_steady {l : Nat} {s0 : State} (hl : Covers 0x4 l) (x0 : Nat) (x1 : RegRow) (s : State) (h0 : Steady
    l s0 s) :
    Steady l s0 (clearRc x0 x1 s) := by
  unfold clearRc
  refine Steady.foldl _ ?_ (fun _ _ _ => ?_)
  · assumption
  · refine Steady.ite ?_ ?_
    · refine State_wr_steady (hl.sub (by decide)) _ _ _ ?_
      assumption
    · assumption

theorem regRead_steady {l : Nat} {s0 : State} (hl : Covers 0x100006 l) (x0 : Nat) (x1 : Nat) (s : State) (h0 :
    Steady l s0 s) :
    Steady l s0 (regRead x0 x1 s).2 := by
  unfold regRead
  extract_lets +onlyGivenNames t1
  clear_value t1
  refine Steady.ite_snd ?_ ?_
  · refine Steady.pair ?_
    assumption
  · split
    · refine Steady.pair ?_
      assumption
    · extract_lets +onlyGivenNames t2
      extract_lets +onlyGivenNames t3
      refine Steady.cut (t := t3) ?_ (fun ht3 => ?_)
      · unfold t3
        refine Steady.ite ?_ ?_
        · refine Steady.upd (m := 0x2) (hl.sub (by decide)) (by intro x; cases x <;> first | exact fun _ => rfl | exact fun h => absurd h (by decide)) ?_ ?_ ?_ ?_
          · assumption
          · exact rfl
          · exact rfl
          · exact rfl
        · refine Steady.ite ?_ ?_
          · refine ledgerAdvance_steady (hl.sub (by decide)) _ _ ?_
            assumption
          · assumption
      clear_value t3
      refine Steady.pair ?_
      exact clearRc_steady (hl.sub (by decide)) _ _ _ (by assumption)

theorem refuse_steady {l : Nat} {s0 : State} (hl : Covers 0x4 l) (x0 : Nat) (x1 : Nat) (x2 : Nat) (s : State) (h0 :
    Steady l s0 s) :
    Steady l s0 (refuse x0 x1 x2 s) := by
  unfold refuse
  extract_lets +onlyGivenNames t1
  clear_value t1
  refine Steady.ite ?_ ?_
  · refine State_wr_steady (hl.sub (by decide)) _ _ _ ?_
    exact State_inc_steady (hl.sub (by decide)) _ _ _ (by assumption)
  · assumption

theorem mdrMapBase_steady {l : Nat} {s0 : State} (hl : Covers 0x4004 l) (x0 : Nat) (x1 : Nat) (s : State) (h0 :
    Steady l s0 s) :
    Steady l s0 (mdrMapBase x0 x1 s) := by
  unfold mdrMapBase
  refine Steady.ite ?_ ?_
  · refine State_set_steady (hl.sub (by decide)) _ _ _ ?_
    assumption
  · refine mapsClear_steady (hl.sub (by decide)) _ ?_
    exact State_wr_steady (hl.sub (by decide)) _ _ _ (by assumption)

theorem storeFields_steady {l : Nat} {s0 : State} (hl : Covers 0x4001ac346 l) (x0 : Nat) (x1 : Nat) (x2 : Nat) (x3 :
    Nat) (s : State) (h0 : Steady l s0 s) :
    Steady l s0 (storeFields x0 x1 x2 x3 s) := by
  unfold storeFields
  extract_lets +onlyGivenNames t1
  clear_value t1
  extract_lets +onlyGivenNames t2
  refine Steady.ite ?_ ?_
  · assumption
  · refine Steady.ite ?_ ?_
    · extract_lets +onlyGivenNames t3
      refine Steady.cut (t := t3) ?_ (fun ht3 => ?_)
      · unfold t3
        exact Steady.upd (m := 0x40) (hl.sub (by decide))
          (by intro x; cases x <;> first | exact fun _ => rfl | exact fun h => absurd h (by decide)) (by assumption) rfl rfl rfl
      clear_value t3
      exact State_wr_steady (hl.sub (by decide)) _ _ _ (by assumption)
    · refine Steady.ite ?_ ?_
      · refine Steady.upd (m := 0x200) (hl.sub (by decide)) (by intro x; cases x <;> first | exact fun _ => rfl | exact fun h => absurd h (by decide)) ?_ ?_ ?_ ?_
        · assumption
        · exact rfl
        · exact rfl
        · exact rfl
      · refine Steady.ite ?_ ?_
        · refine State_wr_steady (hl.sub (by decide)) _ _ _ ?_
          assumption
        · refine Steady.ite ?_ ?_
          · refine Steady.upd (m := 0x100000) (hl.sub (by decide)) (by intro x; cases x <;> first | exact fun _ => rfl | exact fun h => absurd h (by decide)) ?_ ?_ ?_ ?_
            · assumption
            · exact rfl
            · exact rfl
            · exact rfl
          · refine Steady.ite ?_ ?_
            · refine memMapWrite_steady (hl.sub (by decide)) _ _ ?_
              assumption
            · refine Steady.ite ?_ ?_
              · refine mdrMapBase_steady (hl.sub (by decide)) _ _ _ ?_
                assumption
              · refine Steady.ite ?_ ?_
                · refine State_set_steady (hl.sub (by decide)) _ _ _ ?_
                  assumption
                · split
                  · refine Steady.ite ?_ ?_
                    · simp only [t2]
                      refine raise_steady (hl.sub (by decide)) _ _ ?_
                      exact State_set_steady (hl.sub (by decide)) _ _ _ (by assumption)
                    · extract_lets +onlyGivenNames t4
                      refine Steady.cut (t := t4) ?_ (fun ht4 => ?_)
                      · unfold t4
                        exact State_wr_steady (hl.sub (by decide)) _ _ _ (by assumption)
                      clear_value t4
                      refine Steady.ite ?_ ?_
                      · refine switchEdge_steady (hl.sub (by decide)) _ _ ?_
                        assumption
                      · assumption
                  · refine Steady.ite ?_ ?_
                    · extract_lets +onlyGivenNames t5
                      clear_value t5
                      extract_lets +onlyGivenNames t6
                      refine Steady.cut (t := t6) ?_ (fun ht6 => ?_)
                      · unfold t6
                        exact State_wr_steady (hl.sub (by decide)) _ _ _ (by assumption)
                      clear_value t6
                      refine Steady.ite ?_ ?_
                      · refine calDisable_steady (hl.sub (by decide)) _ ?_
                        assumption
                      · refine Steady.ite ?_ ?_
                        · refine State_set_steady (hl.sub (by decide)) _ _ _ ?_
                          assumption
                        · assumption
                    · refine Steady.ite ?_ ?_
                      · refine harrowAuditEnable_steady (hl.sub (by decide)) _ _ ?_
                        assumption
                      · refine Steady.ite ?_ ?_
                        · refine sowAuditEnable_steady (hl.sub (by decide)) _ _ ?_
                          assumption
                        · refine Steady.ite ?_ ?_
                          · refine showChk_steady (hl.sub (by decide)) _ _ ?_
                            exact State_wr_steady (hl.sub (by decide)) _ _ _ (by assumption)
                          · refine State_wr_steady (hl.sub (by decide)) _ _ _ ?_
                            assumption

theorem clearBits_steady {l : Nat} {s0 : State} (hl : Covers 0x10000104 l) (x0 : Nat) (x1 : Nat) (x2 : Nat) (s :
    State) (h0 : Steady l s0 s) :
    Steady l s0 (clearBits x0 x1 x2 s) := by
  unfold clearBits
  refine Steady.ite ?_ ?_
  · assumption
  · refine Steady.ite ?_ ?_
    · extract_lets +onlyGivenNames t1
      clear_value t1
      exact Steady.upd (m := 0x100) (hl.sub (by decide))
        (by intro x; cases x <;> first | exact fun _ => rfl | exact fun h => absurd h (by decide)) (by assumption) rfl rfl rfl
    · refine Steady.ite ?_ ?_
      · refine encFaultAck_steady (hl.sub (by decide)) _ _ ?_
        assumption
      · extract_lets +onlyGivenNames t2
        clear_value t2
        extract_lets +onlyGivenNames t3
        refine Steady.cut (t := t3) ?_ (fun ht3 => ?_)
        · unfold t3
          refine Steady.ite ?_ ?_
          · refine switchAck_steady (hl.sub (by decide)) _ _ ?_
            assumption
          · refine State_wr_steady (hl.sub (by decide)) _ _ _ ?_
            assumption
        clear_value t3
        refine Steady.ite ?_ ?_
        · refine raise_steady (hl.sub (by decide)) _ _ ?_
          assumption
        · assumption

theorem feedWrite_steady {l : Nat} {s0 : State} (hl : Covers 0x200004 l) (x0 : Nat) (x1 : Nat) (s : State) (h0 :
    Steady l s0 s) :
    Steady l s0 (feedWrite x0 x1 s) := by
  unfold feedWrite
  extract_lets +onlyGivenNames t1
  clear_value t1
  extract_lets +onlyGivenNames t2
  clear_value t2
  exact chkFeed_steady (hl.sub (by decide)) _ _ _ (by assumption)

theorem tablePartyWrite_steady {l : Nat} {s0 : State} (hl : Covers 0x3000004 l) (x0 : Nat) (x1 : Nat) (x2 : Nat) (s
    : State) (h0 : Steady l s0 s) :
    Steady l s0 (tablePartyWrite x0 x1 x2 s) := by
  unfold tablePartyWrite
  extract_lets +onlyGivenNames t1
  clear_value t1
  extract_lets +onlyGivenNames t2
  clear_value t2
  refine Steady.ite ?_ ?_
  · refine Steady.ite ?_ ?_
    · refine tableWrite_steady (hl.sub (by decide)) _ _ _ ?_
      assumption
    · refine Steady.ite ?_ ?_
      · refine refuse_steady (hl.sub (by decide)) _ _ _ _ ?_
        assumption
      · assumption
  · refine Steady.ite ?_ ?_
    · refine Steady.ite ?_ ?_
      · refine refuse_steady (hl.sub (by decide)) _ _ _ _ ?_
        assumption
      · assumption
    · assumption

theorem ctxWrite_steady {l : Nat} {s0 : State} (hl : Covers 0x2404 l) (x0 : Nat) (x1 : Nat) (x2 : Nat) (s : State)
    (h0 : Steady l s0 s) :
    Steady l s0 (ctxWrite x0 x1 x2 s) := by
  unfold ctxWrite
  extract_lets +onlyGivenNames t1
  clear_value t1
  refine Steady.ite ?_ ?_
  · assumption
  · refine Steady.ite ?_ ?_
    · refine jobTailWrite_steady (hl.sub (by decide)) _ _ _ ?_
      assumption
    · refine Steady.ite ?_ ?_
      · refine State_setCtx_steady (hl.sub (by decide)) _ _ _ ?_
        assumption
      · refine Steady.ite ?_ ?_
        · refine Steady.ite ?_ ?_
          · assumption
          · refine State_setCtx_steady (hl.sub (by decide)) _ _ _ ?_
            assumption
        · refine Steady.ite ?_ ?_
          · refine streamReady_steady (hl.sub (by decide)) _ _ _ ?_
            assumption
          · refine Steady.ite ?_ ?_
            · refine Steady.ite ?_ ?_
              · refine State_setCtx_steady (hl.sub (by decide)) _ _ _ ?_
                assumption
              · assumption
            · refine Steady.ite ?_ ?_
              · refine State_setCtx_steady (hl.sub (by decide)) _ _ _ ?_
                assumption
              · refine Steady.ite ?_ ?_
                · refine State_setCtx_steady (hl.sub (by decide)) _ _ _ ?_
                  assumption
                · assumption

theorem setBits'_steady {l : Nat} {s0 : State} (hl : Covers 0x1fffffe5bf l) (x0 : Nat) (x1 : Nat) (x2 : Nat) (x3 :
    Bool) (s : State) (h0 : Steady l s0 s) :
    Steady l s0 (setBits' x0 x1 x2 x3 s) := by
  unfold setBits'
  extract_lets +onlyGivenNames t1
  clear_value t1
  refine Steady.ite ?_ ?_
  · assumption
  · refine Steady.ite ?_ ?_
    · extract_lets +onlyGivenNames t2
      clear_value t2
      refine Steady.ite ?_ ?_
      · refine leaseAcquire_steady (hl.sub (by decide)) _ _ ?_
        assumption
      · refine Steady.ite ?_ ?_
        · refine leaseResult_steady (hl.sub (by decide)) _ _ _ ?_
          assumption
        · refine Steady.ite ?_ ?_
          · refine leaseRelease_steady (hl.sub (by decide)) _ _ ?_
            assumption
          · refine Steady.ite ?_ ?_
            · refine leaseKeepalive_steady (hl.sub (by decide)) _ _ ?_
              assumption
            · refine leaseResult_steady (hl.sub (by decide)) _ _ _ ?_
              assumption
    · refine Steady.ite ?_ ?_
      · refine gateCommand_steady (hl.sub (by decide)) _ _ _ ?_
        assumption
      · refine Steady.ite ?_ ?_
        · extract_lets +onlyGivenNames t3
          refine Steady.cut (t := t3) ?_ (fun ht3 => ?_)
          · unfold t3
            refine Steady.ite ?_ ?_
            · refine ledgerFreeze_steady (hl.sub (by decide)) _ _ ?_
              assumption
            · assumption
          clear_value t3
          extract_lets +onlyGivenNames t4
          refine Steady.cut (t := t4) ?_ (fun ht4 => ?_)
          · unfold t4
            refine Steady.ite ?_ ?_
            · refine ledgerUnfreeze_steady (hl.sub (by decide)) _ _ ?_
              assumption
            · assumption
          clear_value t4
          extract_lets +onlyGivenNames t5
          refine Steady.cut (t := t5) ?_ (fun ht5 => ?_)
          · unfold t5
            refine Steady.ite ?_ ?_
            · refine clearRequest_steady (hl.sub (by decide)) _ _ ?_
              assumption
            · assumption
          clear_value t5
          refine Steady.ite ?_ ?_
          · refine clearConfirm_steady (hl.sub (by decide)) _ _ ?_
            assumption
          · assumption
        · refine Steady.ite ?_ ?_
          · refine usageClear_steady (hl.sub (by decide)) _ ?_
            assumption
          · refine Steady.ite ?_ ?_
            · refine calRun_steady (hl.sub (by decide)) _ _ _ ?_
              assumption
            · refine Steady.ite ?_ ?_
              · refine testCompose_steady (hl.sub (by decide)) _ ?_
                assumption
              · refine Steady.ite ?_ ?_
                · split
                  · refine nvlUpdate_steady (hl.sub (by decide)) _ _ ?_
                    assumption
                  · refine nvlAbort_steady (hl.sub (by decide)) _ ?_
                    assumption
                  · refine nvlConfirm_steady (hl.sub (by decide)) _ ?_
                    assumption
                  · refine nvlAdopt_steady (hl.sub (by decide)) _ ?_
                    assumption
                  · refine nvlVerify_steady (hl.sub (by decide)) _ _ ?_
                    assumption
                  · assumption
                · refine Steady.ite ?_ ?_
                  · extract_lets +onlyGivenNames t6
                    clear_value t6
                    extract_lets +onlyGivenNames t7
                    refine Steady.cut (t := t7) ?_ (fun ht7 => ?_)
                    · unfold t7
                      refine Steady.ite ?_ ?_
                      · refine chkClaim_steady (hl.sub (by decide)) _ _ ?_
                        assumption
                      · assumption
                    clear_value t7
                    extract_lets +onlyGivenNames t8
                    refine Steady.cut (t := t8) ?_ (fun ht8 => ?_)
                    · unfold t8
                      refine Steady.ite ?_ ?_
                      · refine chkDoInit_steady (hl.sub (by decide)) _ _ ?_
                        assumption
                      · assumption
                    clear_value t8
                    refine Steady.ite ?_ ?_
                    · refine chkRelease_steady (hl.sub (by decide)) _ _ ?_
                      assumption
                    · assumption
                  · refine Steady.ite ?_ ?_
                    · split
                      · refine jobAck_steady (hl.sub (by decide)) _ ?_
                        assumption
                      · refine cancelHead_steady (hl.sub (by decide)) _ ?_
                        assumption
                      · refine cancelJob_steady (hl.sub (by decide)) _ ?_
                        assumption
                      · refine cancelAll_steady (hl.sub (by decide)) _ ?_
                        assumption
                      · assumption
                    · refine Steady.ite ?_ ?_
                      · refine repairSkip_steady (hl.sub (by decide)) _ ?_
                        assumption
                      · refine Steady.ite ?_ ?_
                        · refine bankSwapRequest_steady (hl.sub (by decide)) _ _ ?_
                          assumption
                        · refine Steady.ite ?_ ?_
                          · extract_lets +onlyGivenNames t9
                            clear_value t9
                            extract_lets +onlyGivenNames t10
                            refine Steady.cut (t := t10) ?_ (fun ht10 => ?_)
                            · unfold t10
                              refine Steady.ite ?_ ?_
                              · refine dmaClaim_steady (hl.sub (by decide)) _ _ _ ?_
                                assumption
                              · assumption
                            clear_value t10
                            extract_lets +onlyGivenNames t11
                            refine Steady.cut (t := t11) ?_ (fun ht11 => ?_)
                            · unfold t11
                              refine Steady.ite ?_ ?_
                              · refine dmaAbort_steady (hl.sub (by decide)) _ _ ?_
                                assumption
                              · assumption
                            clear_value t11
                            extract_lets +onlyGivenNames t12
                            refine Steady.cut (t := t12) ?_ (fun ht12 => ?_)
                            · unfold t12
                              refine Steady.ite ?_ ?_
                              · refine dmaStart_steady (hl.sub (by decide)) _ _ ?_
                                assumption
                              · assumption
                            clear_value t12
                            refine Steady.ite ?_ ?_
                            · refine dmaRelease_steady (hl.sub (by decide)) _ _ ?_
                              assumption
                            · assumption
                          · refine Steady.ite ?_ ?_
                            · extract_lets +onlyGivenNames t13
                              clear_value t13
                              extract_lets +onlyGivenNames t14
                              refine Steady.cut (t := t14) ?_ (fun ht14 => ?_)
                              · unfold t14
                                refine Steady.ite ?_ ?_
                                · refine selfRefreshEnter_steady (hl.sub (by decide)) _ _ ?_
                                  assumption
                                · assumption
                              clear_value t14
                              refine Steady.ite ?_ ?_
                              · refine selfRefreshExit_steady (hl.sub (by decide)) _ _ ?_
                                assumption
                              · assumption
                            · refine Steady.ite ?_ ?_
                              · refine memRetire_steady (hl.sub (by decide)) _ _ ?_
                                assumption
                              · refine Steady.ite ?_ ?_
                                · refine freqChange_steady (hl.sub (by decide)) _ ?_
                                  assumption
                                · refine Steady.ite ?_ ?_
                                  · split
                                    · refine memScrub_steady (hl.sub (by decide)) _ ?_
                                      assumption
                                    · refine memInvalidate_steady (hl.sub (by decide)) _ ?_
                                      assumption
                                    · assumption
                                  · refine Steady.ite ?_ ?_
                                    · refine flipArm_steady (hl.sub (by decide)) _ ?_
                                      assumption
                                    · refine Steady.ite ?_ ?_
                                      · refine tiltCommand_steady (hl.sub (by decide)) _ _ ?_
                                        assumption
                                      · refine Steady.ite ?_ ?_
                                        · split
                                          rename_i t15 heq15
                                          have hk15 := congrArg Prod.snd heq15
                                          dsimp only at hk15
                                          refine Steady.cut (t := t15) ?_ (fun ht15 => ?_)
                                          · rw [← hk15]
                                            exact retireTile_steady (hl.sub (by decide)) _ _ _ _ (by assumption)
                                          clear heq15 hk15
                                          exact State_set_steady (hl.sub (by decide)) _ _ _ (by assumption)
                                        · refine Steady.ite ?_ ?_
                                          · split
                                            rename_i t16 heq16
                                            have hk16 := congrArg Prod.snd heq16
                                            dsimp only at hk16
                                            refine Steady.cut (t := t16) ?_ (fun ht16 => ?_)
                                            · rw [← hk16]
                                              exact retireSlice_steady (hl.sub (by decide)) _ _ _ _ (by assumption)
                                            clear heq16 hk16
                                            refine settleSwaps_steady (hl.sub (by decide)) _ ?_
                                            exact State_set_steady (hl.sub (by decide)) _ _ _ (by assumption)
                                          · refine Steady.ite ?_ ?_
                                            · extract_lets +onlyGivenNames t17
                                              clear_value t17
                                              extract_lets +onlyGivenNames t18
                                              refine Steady.cut (t := t18) ?_ (fun ht18 => ?_)
                                              · unfold t18
                                                refine Steady.ite ?_ ?_
                                                · refine trainCmd_steady (hl.sub (by decide)) _ _ ?_
                                                  assumption
                                                · assumption
                                              clear_value t18
                                              extract_lets +onlyGivenNames t19
                                              refine Steady.cut (t := t19) ?_ (fun ht19 => ?_)
                                              · unfold t19
                                                refine Steady.ite ?_ ?_
                                                · refine bkSlip_steady (hl.sub (by decide)) _ _ ?_
                                                  assumption
                                                · assumption
                                              clear_value t19
                                              refine Steady.ite ?_ ?_
                                              · refine spareGo_steady (hl.sub (by decide)) _ _ _ ?_
                                                assumption
                                              · assumption
                                            · refine Steady.ite ?_ ?_
                                              · refine encReref_steady (hl.sub (by decide)) _ _ ?_
                                                assumption
                                              · refine Steady.ite ?_ ?_
                                                · extract_lets +onlyGivenNames t20
                                                  refine Steady.cut (t := t20) ?_ (fun ht20 => ?_)
                                                  · unfold t20
                                                    refine Steady.ite ?_ ?_
                                                    · refine encZero_steady (hl.sub (by decide)) _ _ ?_
                                                      assumption
                                                    · assumption
                                                  clear_value t20
                                                  refine Steady.ite ?_ ?_
                                                  · refine encZero_steady (hl.sub (by decide)) _ _ ?_
                                                    assumption
                                                  · assumption
                                                · refine Steady.ite ?_ ?_
                                                  · split
                                                    · refine homeCmd_steady (hl.sub (by decide)) _ _ ?_
                                                      assumption
                                                    · refine homeCmd_steady (hl.sub (by decide)) _ _ ?_
                                                      assumption
                                                    · refine plnMove_steady (hl.sub (by decide)) _ ?_
                                                      assumption
                                                    · refine plnStop_steady (hl.sub (by decide)) _ ?_
                                                      assumption
                                                    · assumption
                                                  · assumption

theorem regWriteOk_steady {l : Nat} {s0 : State} (hl : Covers 0x1fffffe7ff l) (x0 : Nat) (x1 : Nat) (x2 : Nat) (x3 :
    Bool) (s : State) (h0 : Steady l s0 s) :
    Steady l s0 (regWriteOk x0 x1 x2 x3 s) := by
  unfold regWriteOk
  refine Steady.ite ?_ ?_
  · assumption
  · refine Steady.ite ?_ ?_
    · refine tablePartyWrite_steady (hl.sub (by decide)) _ _ _ _ ?_
      assumption
    · split
      · refine Steady.ite ?_ ?_
        · assumption
        · refine refuse_steady (hl.sub (by decide)) _ _ _ _ ?_
          assumption
      · extract_lets +onlyGivenNames t1
        clear_value t1
        extract_lets +onlyGivenNames t2
        clear_value t2
        extract_lets +onlyGivenNames t3
        clear_value t3
        extract_lets +onlyGivenNames t4
        clear_value t4
        extract_lets +onlyGivenNames t5
        clear_value t5
        extract_lets +onlyGivenNames t6
        refine Steady.cut (t := t6) ?_ (fun ht6 => ?_)
        · unfold t6
          split
          · refine refuse_steady (hl.sub (by decide)) _ _ _ _ ?_
            assumption
          · assumption
        clear_value t6
        extract_lets +onlyGivenNames t7
        refine Steady.cut (t := t7) ?_ (fun ht7 => ?_)
        · unfold t7
          exact storeFields_steady (hl.sub (by decide)) _ _ _ _ _ (by assumption)
        clear_value t7
        extract_lets +onlyGivenNames t8
        refine Steady.cut (t := t8) ?_ (fun ht8 => ?_)
        · unfold t8
          refine Steady.ite ?_ ?_
          · assumption
          · refine feedWrite_steady (hl.sub (by decide)) _ _ _ ?_
            assumption
        clear_value t8
        refine setBits'_steady (hl.sub (by decide)) _ _ _ _ _ ?_
        exact clearBits_steady (hl.sub (by decide)) _ _ _ _ (by assumption)

theorem regWrite_steady {l : Nat} {s0 : State} (hl : Covers 0x1fffffe7ff l) (x0 : Nat) (x1 : Nat) (x2 : Nat) (s :
    State) (h0 : Steady l s0 s) :
    Steady l s0 (regWrite x0 x1 x2 s) := by
  unfold regWrite
  refine Steady.ite ?_ ?_
  · split
    rename_i t1 heq1
    have hk1 := congrArg Prod.snd heq1
    dsimp only at hk1
    refine Steady.cut (t := t1) ?_ (fun ht1 => ?_)
    · rw [← hk1]
      exact State_fresh_steady (hl.sub (by decide)) _ (by assumption)
    clear heq1 hk1
    exact regWriteOk_steady (hl.sub (by decide)) _ _ _ _ _ (by assumption)
  · refine regWriteOk_steady (hl.sub (by decide)) _ _ _ _ _ ?_
    assumption

end Sys2Proof.Machine
end

