-- ==== Sys2Proof/Laws/Steady18.lean ====
section
/-! SUPPORT. What the operations of Access, CmdAccess, CmdFence keep (Laws/Steady.lean). -/

set_option linter.unusedVariables false
set_option maxRecDepth 4000

namespace Sys2Proof.Machine

theorem answer_steady {l : Nat} {s0 : State} (hl : Covers 0x1000 l) (x0 : Req) (x1 : Nat) (x2 : Nat) (s : State) (h0
    : Steady l s0 s) :
    Steady l s0 (answer x0 x1 x2 s) := by
  unfold answer
  refine Steady.ite ?_ ?_
  · refine State_emit_steady (hl.sub (by decide)) _ _ ?_
    exact Steady.upd (m := 0x1000) (hl.sub (by decide))
      (by intro x; cases x <;> first | exact fun _ => rfl | exact fun h => absurd h (by decide)) (by assumption) rfl rfl rfl
  · refine State_emit_steady (hl.sub (by decide)) _ _ ?_
    assumption

theorem requestFailed_steady {l : Nat} {s0 : State} (hl : Covers 0x600166106 l) (x0 : Nat) (x1 : Nat) (s : State)
    (h0 : Steady l s0 s) :
    Steady l s0 (requestFailed x0 x1 s) := by
  unfold requestFailed
  refine Steady.ite ?_ ?_
  · assumption
  · refine Steady.ite ?_ ?_
    · refine Steady.ite ?_ ?_
      · refine dmaFail_steady (hl.sub (by decide)) _ _ ?_
        assumption
      · assumption
    · refine Steady.ite ?_ ?_
      · refine retireTile_steady (hl.sub (by decide)) _ _ _ _ ?_
        assumption
      · refine Steady.ite ?_ ?_
        · refine settleSwaps_steady (hl.sub (by decide)) _ ?_
          exact retireSlice_steady (hl.sub (by decide)) _ _ _ _ (by assumption)
        · assumption

theorem outOfService_steady {l : Nat} {s0 : State} (hl : Covers 0x600167106 l) (x0 : Nat) (x1 : Req) (s : State) (h0
    : Steady l s0 s) :
    Steady l s0 (outOfService x0 x1 s) := by
  unfold outOfService
  extract_lets +onlyGivenNames t1
  refine Steady.cut (t := t1) ?_ (fun ht1 => ?_)
  · unfold t1
    exact answer_steady (hl.sub (by decide)) _ _ _ _ (by assumption)
  clear_value t1
  refine Steady.ite ?_ ?_
  · refine gateExpired_steady (hl.sub (by decide)) _ _ ?_
    assumption
  · refine Steady.ite ?_ ?_
    · assumption
    · refine requestFailed_steady (hl.sub (by decide)) _ _ _ ?_
      exact event_steady (hl.sub (by decide)) _ _ _ (by assumption)

theorem request_steady {l : Nat} {s0 : State} (hl : Covers 0x8 l) (x0 : Nat) (x1 : Nat) (x2 : Bool) (x3 : Bool) (x4
    : Bool) (x5 : Word) (s : State) (h0 : Steady l s0 s) :
    Steady l s0 (request x0 x1 x2 x3 x4 x5 s).2 := by
  unfold request
  extract_lets +onlyGivenNames t1
  clear_value t1
  refine Steady.ite_snd ?_ ?_
  · extract_lets +onlyGivenNames t2
    clear_value t2
    extract_lets +onlyGivenNames t3
    clear_value t3
    refine Steady.pair ?_
    exact State_setGate_steady (hl.sub (by decide)) _ _ _ (by assumption)
  · refine Steady.pair ?_
    assumption

theorem keepReply_steady {l : Nat} {s0 : State} (hl : Covers 0x8 l) (x0 : Nat) (x1 : Req) (x2 : Nat) (s : State) (h0
    : Steady l s0 s) :
    Steady l s0 (keepReply x0 x1 x2 s) := by
  unfold keepReply
  extract_lets +onlyGivenNames t1
  clear_value t1
  refine Steady.ite ?_ ?_
  · refine State_setGate_steady (hl.sub (by decide)) _ _ _ ?_
    assumption
  · assumption

theorem requesterTimeout_steady {l : Nat} {s0 : State} (hl : Covers 0x60016610e l) (x0 : Nat) (x1 : Nat) (s : State)
    (h0 : Steady l s0 s) :
    Steady l s0 (requesterTimeout x0 x1 s) := by
  unfold requesterTimeout
  extract_lets +onlyGivenNames t1
  clear_value t1
  split
  · assumption
  · refine Steady.ite ?_ ?_
    · refine State_setGate_steady (hl.sub (by decide)) _ _ _ ?_
      assumption
    · extract_lets +onlyGivenNames t2
      refine Steady.cut (t := t2) ?_ (fun ht2 => ?_)
      · unfold t2
        exact State_setGate_steady (hl.sub (by decide)) _ _ _ (by assumption)
      clear_value t2
      extract_lets +onlyGivenNames t3
      refine Steady.cut (t := t3) ?_ (fun ht3 => ?_)
      · unfold t3
        exact event_steady (hl.sub (by decide)) _ _ _ (by assumption)
      clear_value t3
      exact requestFailed_steady (hl.sub (by decide)) _ _ _ (by assumption)

theorem hostReadExpiry_steady {l : Nat} {s0 : State} (hl : Covers 0x1124 l) (x0 : Nat) (s : State) (h0 : Steady l s0
    s) :
    Steady l s0 (hostReadExpiry x0 s) := by
  unfold hostReadExpiry
  refine Steady.ite ?_ ?_
  · split
    · assumption
    · refine gateExpired_steady (hl.sub (by decide)) _ _ ?_
      refine answer_steady (hl.sub (by decide)) _ _ _ _ ?_
      exact Steady.upd (m := 0x20) (hl.sub (by decide))
        (by intro x; cases x <;> first | exact fun _ => rfl | exact fun h => absurd h (by decide)) (by assumption) rfl rfl rfl
  · assumption

theorem pcieReset_steady {l : Nat} {s0 : State} (hl : Covers 0x17ffffe52e l) (x0 : Nat) (s : State) (h0 : Steady l
    s0 s) :
    Steady l s0 (pcieReset x0 s) := by
  unfold pcieReset
  extract_lets +onlyGivenNames t1
  clear_value t1
  refine Steady.ite ?_ ?_
  · assumption
  · refine applyLayers_steady (hl.sub (by decide)) _ _ _ _ ?_
    exact islandReset_steady (hl.sub (by decide)) _ _ (by assumption)

theorem smbusNext_steady {l : Nat} {s0 : State} (hl : Covers 0x800 l) (s : State) (h0 : Steady l s0 s) :
    Steady l s0 (smbusNext s) := by
  unfold smbusNext
  exact Steady.upd (m := 0x800) (hl.sub (by decide))
    (by intro x; cases x <;> first | exact fun _ => rfl | exact fun h => absurd h (by decide)) (by assumption) rfl rfl rfl

theorem smbusAddress_steady {l : Nat} {s0 : State} (hl : Covers 0x800 l) (x0 : Nat) (x1 : Bool) (s : State) (h0 :
    Steady l s0 s) :
    Steady l s0 (smbusAddress x0 x1 s) := by
  unfold smbusAddress
  refine Steady.ite ?_ ?_
  · refine Steady.upd (m := 0x800) (hl.sub (by decide)) (by intro x; cases x <;> first | exact fun _ => rfl | exact fun h => absurd h (by decide)) ?_ ?_ ?_ ?_
    · assumption
    · exact rfl
    · exact rfl
    · exact rfl
  · assumption

theorem smbusTimeout_steady {l : Nat} {s0 : State} (hl : Covers 0x1020 l) (s : State) (h0 : Steady l s0 s) :
    Steady l s0 (smbusTimeout s) := by
  unfold smbusTimeout
  split
  · assumption
  · refine answer_steady (hl.sub (by decide)) _ _ _ _ ?_
    exact Steady.upd (m := 0x20) (hl.sub (by decide))
      (by intro x; cases x <;> first | exact fun _ => rfl | exact fun h => absurd h (by decide)) (by assumption) rfl rfl rfl

theorem usbReply_steady {l : Nat} {s0 : State} (hl : Covers 0x0 l) (x0 : UsbReq) (x1 : Nat) (x2 : List Byte) (s :
    State) (h0 : Steady l s0 s) :
    Steady l s0 (usbReply x0 x1 x2 s) := by
  unfold usbReply
  exact State_emit_steady (hl.sub (by decide)) _ _ (by assumption)

theorem perform_steady {l : Nat} {s0 : State} (hl : Covers 0x1fffffe7ff l) (x0 : Req) (s : State) (h0 : Steady l s0
    s) :
    Steady l s0 (perform x0 s).2 := by
  unfold perform
  refine Steady.ite_snd ?_ ?_
  · refine Steady.pair ?_
    exact regWrite_steady (hl.sub (by decide)) _ _ _ _ (by assumption)
  · refine regRead_steady (hl.sub (by decide)) _ _ _ ?_
    assumption

theorem usbAccess_steady {l : Nat} {s0 : State} (hl : Covers 0x1fffffe7ff l) (x0 : Bool) (x1 : Nat) (x2 : Nat) (s :
    State) (h0 : Steady l s0 s) :
    Steady l s0 (usbAccess x0 x1 x2 s).2 := by
  unfold usbAccess
  split
  rename_i t1 heq1
  have hk1 := congrArg Prod.snd heq1
  dsimp only at hk1
  refine Steady.cut (t := t1) ?_ (fun ht1 => ?_)
  · rw [← hk1]
    exact request_steady (hl.sub (by decide)) _ _ _ _ _ _ _ (by assumption)
  clear heq1 hk1
  split
  rename_i t2 heq2
  have hk2 := congrArg Prod.snd heq2
  dsimp only at hk2
  refine Steady.cut (t := t2) ?_ (fun ht2 => ?_)
  · rw [← hk2]
    exact perform_steady (hl.sub (by decide)) _ _ (by assumption)
  clear heq2 hk2
  refine Steady.pair ?_
  exact keepReply_steady (hl.sub (by decide)) _ _ _ _ (by assumption)

theorem usbWords_steady {l : Nat} {s0 : State} (hl : Covers 0x1fffffe7ff l) (x0 : Nat) (x1 : UsbReq) (s : State) (h0
    : Steady l s0 s) :
    Steady l s0 (usbWords x0 x1 s).2 := by
  induction x0 generalizing x1 s with
  | zero => exact h0
  | succ n ih =>
    unfold usbWords
    extract_lets +onlyGivenNames off w
    refine Steady.ite_snd (ih _ _ h0) (Steady.ite_snd h0 ?_)
    extract_lets +onlyGivenNames st
    split
    rename_i v s2 heq
    have hk := congrArg Prod.snd heq
    dsimp only at hk
    exact ih _ _ (by rw [← hk]; exact usbAccess_steady (hl.sub (by decide)) _ _ _ _ h0)

theorem usbWriteCtx_steady {l : Nat} {s0 : State} (hl : Covers 0x2404 l) (x0 : Nat) (x1 : List Nat) (s : State) (h0
    : Steady l s0 s) :
    Steady l s0 (usbWriteCtx x0 x1 s) := by
  induction x1 generalizing x0 s
  · unfold usbWriteCtx
    assumption
  · rename_i a l ih
    unfold usbWriteCtx
    refine ih _ _ ?_
    exact ctxWrite_steady (hl.sub (by decide)) _ _ _ _ (by assumption)

theorem usbDramRead_steady {l : Nat} {s0 : State} (hl : Covers 0x180106 l) (x0 : UsbReq) (s : State) (h0 : Steady l
    s0 s) :
    Steady l s0 (usbDramRead x0 s) := by
  unfold usbDramRead
  split
  rename_i t1 heq1
  have hk1 := congrArg Prod.snd heq1
  dsimp only at hk1
  refine Steady.cut (t := t1) ?_ (fun ht1 => ?_)
  · rw [← hk1]
    exact memRead_steady (hl.sub (by decide)) _ _ _ _ (by assumption)
  clear heq1 hk1
  refine Steady.ite ?_ ?_
  · refine usbReply_steady (hl.sub (by decide)) _ _ _ _ ?_
    assumption
  · refine Steady.ite ?_ ?_
    · refine usbReply_steady (hl.sub (by decide)) _ _ _ _ ?_
      assumption
    · split
      rename_i t2 heq2
      have hk2 := congrArg Prod.snd heq2
      dsimp only at hk2
      refine Steady.cut (t := t2) ?_ (fun ht2 => ?_)
      · rw [← hk2]
        exact State_fresh_steady (hl.sub (by decide)) _ (by assumption)
      clear heq2 hk2
      exact usbReply_steady (hl.sub (by decide)) _ _ _ _ (by assumption)

theorem usbDramWrite_steady {l : Nat} {s0 : State} (hl : Covers 0x180106 l) (x0 : UsbReq) (s : State) (h0 : Steady l
    s0 s) :
    Steady l s0 (usbDramWrite x0 s) := by
  unfold usbDramWrite
  extract_lets +onlyGivenNames t1
  clear_value t1
  refine Steady.ite ?_ ?_
  · refine usbReply_steady (hl.sub (by decide)) _ _ _ _ ?_
    assumption
  · split
    rename_i t2 heq2
    have hk2 := congrArg Prod.snd heq2
    dsimp only at hk2
    refine Steady.cut (t := t2) ?_ (fun ht2 => ?_)
    · rw [← hk2]
      exact memWrite_steady (hl.sub (by decide)) _ _ _ _ (by assumption)
    clear heq2 hk2
    refine Steady.ite ?_ ?_
    · refine usbReply_steady (hl.sub (by decide)) _ _ _ _ ?_
      assumption
    · refine Steady.ite ?_ ?_
      · refine usbReply_steady (hl.sub (by decide)) _ _ _ _ ?_
        assumption
      · split
        rename_i t3 heq3
        have hk3 := congrArg Prod.snd heq3
        dsimp only at hk3
        refine Steady.cut (t := t3) ?_ (fun ht3 => ?_)
        · rw [← hk3]
          exact State_fresh_steady (hl.sub (by decide)) _ (by assumption)
        clear heq3 hk3
        exact usbReply_steady (hl.sub (by decide)) _ _ _ _ (by assumption)

theorem usbStep_steady {l : Nat} {s0 : State} (hl : Covers 0x1fffffe7ff l) (x0 : UsbReq) (s : State) (h0 : Steady l
    s0 s) :
    Steady l s0 (usbStep x0 s).2 := by
  unfold usbStep
  refine Steady.ite_snd ?_ ?_
  · refine Steady.pair ?_
    exact usbReply_steady (hl.sub (by decide)) _ _ _ _ (by assumption)
  · refine Steady.ite_snd ?_ ?_
    · refine Steady.pair ?_
      exact usbReply_steady (hl.sub (by decide)) _ _ _ _ (by assumption)
    · refine Steady.ite_snd ?_ ?_
      · split
        rename_i t1 heq1
        have hk1 := congrArg Prod.snd heq1
        dsimp only at hk1
        refine Steady.cut (t := t1) ?_ (fun ht1 => ?_)
        · rw [← hk1]
          exact usbWords_steady (hl.sub (by decide)) _ _ _ (by assumption)
        clear heq1 hk1
        refine Steady.ite_snd ?_ ?_
        · refine Steady.pair ?_
          exact usbReply_steady (hl.sub (by decide)) _ _ _ _ (by assumption)
        · refine Steady.pair ?_
          assumption
      · refine Steady.ite_snd ?_ ?_
        · refine Steady.pair ?_
          refine Steady.ite ?_ ?_
          · refine usbReply_steady (hl.sub (by decide)) _ _ _ _ ?_
            assumption
          · refine usbReply_steady (hl.sub (by decide)) _ _ _ _ ?_
            exact usbWriteCtx_steady (hl.sub (by decide)) _ _ _ (by assumption)
        · refine Steady.ite_snd ?_ ?_
          · refine Steady.pair ?_
            assumption
          · refine Steady.pair ?_
            refine Steady.ite ?_ ?_
            · refine usbDramRead_steady (hl.sub (by decide)) _ _ ?_
              assumption
            · refine usbDramWrite_steady (hl.sub (by decide)) _ _ ?_
              assumption

theorem usbRun_steady {l : Nat} {s0 : State} (hl : Covers 0x1fffffe7ff l) (x0 : Nat) (s : State) (h0 : Steady l s0
    s) :
    Steady l s0 (usbRun x0 s) := by
  induction x0 generalizing s with
  | zero => exact h0
  | succ n ih =>
    unfold usbRun
    split
    · exact h0
    · rename_i q t hq
      split
      rename_i left s2 heq
      have hk := congrArg Prod.snd heq
      dsimp only at hk
      have h1 : Steady l s0 { s with usb := t } :=
        h0.put (hl.sub (by decide)) (m := 0x1000000000) ⟨⟨rfl, rfl, id, id, id, by intro x; cases x <;> first | exact fun _ => rfl | exact fun h => absurd h (by decide)⟩, rfl⟩
      have h2 : Steady l s0 s2 := by rw [← hk]; exact usbStep_steady (hl.sub (by decide)) _ _ h1
      split
      · exact ih _ h2
      · exact h2.put (hl.sub (by decide)) (m := 0x1000000000) ⟨⟨rfl, rfl, id, id, id, by intro x; cases x <;> first | exact fun _ => rfl | exact fun h => absurd h (by decide)⟩, rfl⟩

theorem usbReceive_steady {l : Nat} {s0 : State} (hl : Covers 0x1fffffe7ff l) (x0 : UsbReq) (s : State) (h0 : Steady
    l s0 s) :
    Steady l s0 (usbReceive x0 s) := by
  unfold usbReceive
  refine Steady.ite ?_ ?_
  · assumption
  · extract_lets +onlyGivenNames t1
    refine Steady.cut (t := t1) ?_ (fun ht1 => ?_)
    · unfold t1
      exact Steady.upd (m := 0x1000000000) (hl.sub (by decide))
        (by intro x; cases x <;> first | exact fun _ => rfl | exact fun h => absurd h (by decide)) (by assumption) rfl rfl rfl
    clear_value t1
    exact usbRun_steady (hl.sub (by decide)) _ _ (by assumption)

theorem usbRead_steady {l : Nat} {s0 : State} (hl : Covers 0x1fffffe7ff l) (x0 : Nat) (x1 : Nat) (x2 : Nat) (x3 :
    Nat) (s : State) (h0 : Steady l s0 s) :
    Steady l s0 (usbRead x0 x1 x2 x3 s) := by
  unfold usbRead
  exact usbReceive_steady (hl.sub (by decide)) _ _ (by assumption)

theorem usbWrite_steady {l : Nat} {s0 : State} (hl : Covers 0x1fffffe7ff l) (x0 : Nat) (x1 : Nat) (x2 : Nat) (x3 :
    Nat) (x4 : List Byte) (s : State) (h0 : Steady l s0 s) :
    Steady l s0 (usbWrite x0 x1 x2 x3 x4 s) := by
  unfold usbWrite
  exact usbReceive_steady (hl.sub (by decide)) _ _ (by assumption)

theorem acceptReq_takeReq_steady {l : Nat} {s0 : State} (hl : Covers 0x1ffffff7ff l) (x0 : Nat) (x1 : Req) (s :
    State) (h0 : Steady l s0 s) :
    Steady l s0 (acceptReq.takeReq x0 x1 s) := by
  unfold acceptReq.takeReq
  refine Steady.ite ?_ ?_
  · split
    rename_i t1 heq1
    have hk1 := congrArg Prod.snd heq1
    dsimp only at hk1
    refine Steady.cut (t := t1) ?_ (fun ht1 => ?_)
    · rw [← hk1]
      exact perform_steady (hl.sub (by decide)) _ _ (by assumption)
    clear heq1 hk1
    extract_lets +onlyGivenNames t2
    refine Steady.cut (t := t2) ?_ (fun ht2 => ?_)
    · unfold t2
      exact keepReply_steady (hl.sub (by decide)) _ _ _ _ (by assumption)
    clear_value t2
    refine Steady.ite ?_ ?_
    · assumption
    · refine answer_steady (hl.sub (by decide)) _ _ _ _ ?_
      assumption
  · extract_lets +onlyGivenNames t3
    clear_value t3
    refine Steady.ite ?_ ?_
    · assumption
    · refine State_setGate_steady (hl.sub (by decide)) _ _ _ ?_
      assumption

theorem gateReply_steady {l : Nat} {s0 : State} (hl : Covers 0x1ffffff7ff l) (x0 : Nat) (x1 : Nat) (s : State) (h0 :
    Steady l s0 s) :
    Steady l s0 (gateReply x0 x1 s) := by
  unfold gateReply
  extract_lets +onlyGivenNames t1
  clear_value t1
  split
  · assumption
  · extract_lets +onlyGivenNames t2
    clear_value t2
    extract_lets +onlyGivenNames t3
    refine Steady.cut (t := t3) ?_ (fun ht3 => ?_)
    · unfold t3
      exact State_setGate_steady (hl.sub (by decide)) _ _ _ (by assumption)
    clear_value t3
    split
    rename_i t4 heq4
    have hk4 := congrArg Prod.snd heq4
    dsimp only at hk4
    refine Steady.cut (t := t4) ?_ (fun ht4 => ?_)
    · rw [← hk4]
      exact perform_steady (hl.sub (by decide)) _ _ (by assumption)
    clear heq4 hk4
    extract_lets +onlyGivenNames t5
    clear_value t5
    extract_lets +onlyGivenNames t6
    clear_value t6
    refine Steady.ite ?_ ?_
    · refine State_setGate_steady (hl.sub (by decide)) _ _ _ ?_
      assumption
    · refine answer_steady (hl.sub (by decide)) _ _ _ _ ?_
      exact keepReply_steady (hl.sub (by decide)) _ _ _ _ (by assumption)

theorem acceptReq_steady {l : Nat} {s0 : State} (hl : Covers 0x1ffffff7ff l) (x0 : Nat) (x1 : Req) (s : State) (h0 :
    Steady l s0 s) :
    Steady l s0 (acceptReq x0 x1 s) := by
  unfold acceptReq
  extract_lets +onlyGivenNames t1
  clear_value t1
  split
  · refine Steady.ite ?_ ?_
    · refine answer_steady (hl.sub (by decide)) _ _ _ _ ?_
      assumption
    · refine acceptReq_takeReq_steady (hl.sub (by decide)) _ _ _ ?_
      assumption
  · refine acceptReq_takeReq_steady (hl.sub (by decide)) _ _ _ ?_
    assumption

theorem present_steady {l : Nat} {s0 : State} (hl : Covers 0x1ffffff7ff l) (x0 : Nat) (x1 : Req) (s : State) (h0 :
    Steady l s0 s) :
    Steady l s0 (present x0 x1 s) := by
  unfold present
  refine Steady.ite ?_ ?_
  · split
    rename_i t1 heq1
    have hk1 := congrArg Prod.snd heq1
    dsimp only at hk1
    refine Steady.cut (t := t1) ?_ (fun ht1 => ?_)
    · rw [← hk1]
      exact perform_steady (hl.sub (by decide)) _ _ (by assumption)
    clear heq1 hk1
    refine Steady.ite ?_ ?_
    · assumption
    · refine answer_steady (hl.sub (by decide)) _ _ _ _ ?_
      assumption
  · extract_lets +onlyGivenNames t2
    clear_value t2
    refine Steady.ite ?_ ?_
    · refine outOfService_steady (hl.sub (by decide)) _ _ _ ?_
      assumption
    · refine Steady.ite ?_ ?_
      · refine acceptReq_steady (hl.sub (by decide)) _ _ _ ?_
        assumption
      · refine Steady.ite ?_ ?_
        · assumption
        · extract_lets +onlyGivenNames t3
          refine Steady.cut (t := t3) ?_ (fun ht3 => ?_)
          · unfold t3
            refine Steady.ite ?_ ?_
            · assumption
            · refine answer_steady (hl.sub (by decide)) _ _ _ _ ?_
              assumption
          clear_value t3
          exact Steady.upd (m := 0x20) (hl.sub (by decide))
            (by intro x; cases x <;> first | exact fun _ => rfl | exact fun h => absurd h (by decide)) (by assumption) rfl rfl rfl

theorem gateRequest_steady {l : Nat} {s0 : State} (hl : Covers 0x1ffffff7ff l) (x0 x1 x2 : Nat) (x3 x4 : Bool)
    (x5 : Nat) (x6 : Word) (s : State) (h0 : Steady l s0 s) :
    Steady l s0 (gateRequest x0 x1 x2 x3 x4 x5 x6 s) := by
  unfold gateRequest
  refine Steady.ite ?_ ?_
  · split
    rename_i t1 heq1
    have hk1 := congrArg Prod.snd heq1
    dsimp only at hk1
    refine Steady.cut (t := t1) ?_ (fun ht1 => ?_)
    · rw [← hk1]
      exact request_steady (hl.sub (by decide)) _ _ _ _ _ _ _ (by assumption)
    clear heq1 hk1
    exact present_steady (hl.sub (by decide)) _ _ _ (by assumption)
  · assumption

theorem representReq_steady {l : Nat} {s0 : State} (hl : Covers 0x1ffffff7ff l) (x0 : Nat) (x1 : Nat) (s : State)
    (h0 : Steady l s0 s) :
    Steady l s0 (representReq x0 x1 s) := by
  unfold representReq
  split
  · assumption
  · extract_lets +onlyGivenNames t1
    clear_value t1
    refine Steady.ite ?_ ?_
    · refine outOfService_steady (hl.sub (by decide)) _ _ _ ?_
      exact Steady.upd (m := 0x20) (hl.sub (by decide))
        (by intro x; cases x <;> first | exact fun _ => rfl | exact fun h => absurd h (by decide)) (by assumption) rfl rfl rfl
    · refine Steady.ite ?_ ?_
      · extract_lets +onlyGivenNames t2
        refine Steady.cut (t := t2) ?_ (fun ht2 => ?_)
        · unfold t2
          exact Steady.upd (m := 0x20) (hl.sub (by decide))
            (by intro x; cases x <;> first | exact fun _ => rfl | exact fun h => absurd h (by decide)) (by assumption) rfl rfl rfl
        clear_value t2
        refine Steady.ite ?_ ?_
        · assumption
        · refine acceptReq_steady (hl.sub (by decide)) _ _ _ ?_
          assumption
      · assumption

theorem partyWrite_steady {l : Nat} {s0 : State} (hl : Covers 0x1ffffff7ff l) (x0 : Nat) (x1 : Nat) (x2 : Nat) (s :
    State) (h0 : Steady l s0 s) :
    Steady l s0 (partyWrite x0 x1 x2 s) := by
  unfold partyWrite
  refine Steady.ite ?_ ?_
  · split
    rename_i t1 heq1
    have hk1 := congrArg Prod.snd heq1
    dsimp only at hk1
    refine Steady.cut (t := t1) ?_ (fun ht1 => ?_)
    · rw [← hk1]
      exact request_steady (hl.sub (by decide)) _ _ _ _ _ _ _ (by assumption)
    clear heq1 hk1
    exact present_steady (hl.sub (by decide)) _ _ _ (by assumption)
  · assumption

theorem partyRead_steady {l : Nat} {s0 : State} (hl : Covers 0x1ffffff7ff l) (x0 : Nat) (x1 : Nat) (s : State) (h0 :
    Steady l s0 s) :
    Steady l s0 (partyRead x0 x1 s) := by
  unfold partyRead
  refine Steady.ite ?_ ?_
  · split
    rename_i t1 heq1
    have hk1 := congrArg Prod.snd heq1
    dsimp only at hk1
    refine Steady.cut (t := t1) ?_ (fun ht1 => ?_)
    · rw [← hk1]
      exact request_steady (hl.sub (by decide)) _ _ _ _ _ _ _ (by assumption)
    clear heq1 hk1
    exact present_steady (hl.sub (by decide)) _ _ _ (by assumption)
  · assumption

theorem partyField_steady {l : Nat} {s0 : State} (hl : Covers 0x1ffffff7ff l) (x0 : Nat) (x1 : Fld) (x2 : Nat) (x3 :
    Nat) (s : State) (h0 : Steady l s0 s) :
    Steady l s0 (partyField x0 x1 x2 x3 s) := by
  unfold partyField
  exact partyWrite_steady (hl.sub (by decide)) _ _ _ _ (by assumption)

theorem partyFields_steady {l : Nat} {s0 : State} (hl : Covers 0x1ffffff7ff l) (x0 : Nat) (x1 : Fld) (x2 : Fld) (x3
    : Nat) (x4 : Nat) (x5 : Nat) (s : State) (h0 : Steady l s0 s) :
    Steady l s0 (partyFields x0 x1 x2 x3 x4 x5 s) := by
  unfold partyFields
  exact partyWrite_steady (hl.sub (by decide)) _ _ _ _ (by assumption)

theorem partyAct_steady {l : Nat} {s0 : State} (hl : Covers 0x1ffffff7ff l) (x0 : Nat) (x1 : Nat) (x2 : Nat) (s :
    State) (h0 : Steady l s0 s) :
    Steady l s0 (partyAct x0 x1 x2 s) := by
  unfold partyAct
  exact partyWrite_steady (hl.sub (by decide)) _ _ _ _ (by assumption)

theorem registerWrite_steady {l : Nat} {s0 : State} (hl : Covers 0x1ffffff7ff l) (x0 : Nat) (x1 : Bool) (x2 : Nat)
    (x3 : Nat) (s : State) (h0 : Steady l s0 s) :
    Steady l s0 (registerWrite x0 x1 x2 x3 s) := by
  unfold registerWrite
  refine Steady.ite ?_ ?_
  · refine Steady.ite ?_ ?_
    · refine ctxWrite_steady (hl.sub (by decide)) _ _ _ _ ?_
      assumption
    · assumption
  · refine partyWrite_steady (hl.sub (by decide)) _ _ _ _ ?_
    assumption

theorem swapWrite_steady {l : Nat} {s0 : State} (hl : Covers 0x1ffffff7ff l) (x0 : Nat) (x1 : Bool) (s : State) (h0
    : Steady l s0 s) :
    Steady l s0 (swapWrite x0 x1 s) := by
  unfold swapWrite
  extract_lets +onlyGivenNames t1
  clear_value t1
  split
  rename_i t2 heq1
  have hk1 := congrArg Prod.snd heq1
  dsimp only at hk1
  refine Steady.cut (t := t2) ?_ (fun ht1 => ?_)
  · rw [← hk1]
    exact request_steady (hl.sub (by decide)) _ _ _ _ _ _ _ (by assumption)
  clear heq1 hk1
  refine Steady.ite ?_ ?_
  · refine keepReply_steady (hl.sub (by decide)) _ _ _ _ ?_
    exact regWriteOk_steady (hl.sub (by decide)) _ _ _ _ _ (by assumption)
  · refine partyWrite_steady (hl.sub (by decide)) _ _ _ _ ?_
    assumption

theorem smbusRead_steady {l : Nat} {s0 : State} (hl : Covers 0x1fffffffff l) (x0 : Bool) (s : State) (h0 : Steady l
    s0 s) :
    Steady l s0 (smbusRead x0 s) := by
  unfold smbusRead
  refine Steady.ite ?_ ?_
  · assumption
  · refine partyRead_steady (hl.sub (by decide)) _ _ _ ?_
    exact smbusNext_steady (hl.sub (by decide)) _ (by assumption)

theorem smbusWrite_steady {l : Nat} {s0 : State} (hl : Covers 0x1fffffffff l) (x0 : Nat) (x1 : Bool) (s : State) (h0
    : Steady l s0 s) :
    Steady l s0 (smbusWrite x0 x1 s) := by
  unfold smbusWrite
  refine Steady.ite ?_ ?_
  · assumption
  · extract_lets +onlyGivenNames t1
    clear_value t1
    extract_lets +onlyGivenNames t2
    clear_value t2
    extract_lets +onlyGivenNames t3
    refine Steady.cut (t := t3) ?_ (fun ht3 => ?_)
    · unfold t3
      exact smbusNext_steady (hl.sub (by decide)) _ (by assumption)
    clear_value t3
    refine Steady.ite ?_ ?_
    · extract_lets +onlyGivenNames t4
      refine Steady.cut (t := t4) ?_ (fun ht4 => ?_)
      · unfold t4
        exact partyWrite_steady (hl.sub (by decide)) _ _ _ _ (by assumption)
      clear_value t4
      exact Steady.upd (m := 0x1000) (hl.sub (by decide))
        (by intro x; cases x <;> first | exact fun _ => rfl | exact fun h => absurd h (by decide)) (by assumption) rfl rfl rfl
    · refine Steady.upd (m := 0x1000) (hl.sub (by decide)) (by intro x; cases x <;> first | exact fun _ => rfl | exact fun h => absurd h (by decide)) ?_ ?_ ?_ ?_
      · assumption
      · exact rfl
      · exact rfl
      · exact rfl

theorem retryRepresent_steady {l : Nat} {s0 : State} (hl : Covers 0x1ffffff7ff l) (x0 : Nat) (x1 : Nat) (s : State)
    (h0 : Steady l s0 s) :
    Steady l s0 (retryRepresent x0 x1 s) := by
  unfold retryRepresent
  extract_lets +onlyGivenNames t1
  refine Steady.cut (t := t1) ?_ (fun ht1 => ?_)
  · unfold t1
    exact representReq_steady (hl.sub (by decide)) _ _ _ (by assumption)
  clear_value t1
  refine Steady.ite ?_ ?_
  · refine usbRun_steady (hl.sub (by decide)) _ _ ?_
    assumption
  · assumption

theorem leaseExpiry_steady {l : Nat} {s0 : State} (hl : Covers 0x100106 l) (s : State) (h0 : Steady l s0 s) :
    Steady l s0 (leaseExpiry s) := by
  unfold leaseExpiry
  refine Steady.ite ?_ ?_
  · assumption
  · refine leaseEnd_steady (hl.sub (by decide)) _ _ ?_
    assumption

theorem gateWrite_steady {l : Nat} {s0 : State} (hl : Covers 0x1ffffff7ff l) (x0 : Nat) (x1 : Nat) (x2 : Nat) (s :
    State) (h0 : Steady l s0 s) :
    Steady l s0 (gateWrite x0 x1 x2 s) := by
  unfold gateWrite
  exact partyWrite_steady (hl.sub (by decide)) _ _ _ _ (by assumption)

theorem awake_steady {l : Nat} {s0 : State} (hl : Covers 0x0 l) (x0 : State → State) (s : State) (h0 : Steady l s0
    s) (h1 : ∀ y0, Steady l s0 y0 → Steady l s0 (x0 y0)) :
    Steady l s0 (awake x0 s) := by
  unfold awake
  refine Steady.ite ?_ ?_
  · apply_assumption <;> assumption
  · assumption

theorem fenceDo_steady {l : Nat} {s0 : State} (hl : Covers 0x0 l) (x0 : State → State) (s : State) (h0 : Steady l s0
    s) (h1 : ∀ y0, Steady l s0 y0 → Steady l s0 (x0 y0)) :
    Steady l s0 (fenceDo x0 s) := by
  unfold fenceDo
  refine Steady.ite ?_ ?_
  · apply_assumption <;> assumption
  · assumption

end Sys2Proof.Machine
end

