-- ==== Sys2Proof/Laws/Commands.lean ====
section
/-! SUPPORT. What every command keeps: one lemma per command, from those of the operations (Laws/Steady.lean). The mask
names the parts the command may change from its first state (State.begin). -/

namespace Sys2Proof.Machine

/-- The parts outside a mask stand; in terms of the parts' names. -/
theorem Canon.only {m : Nat} {s t : State} {l : List Part} (h : Canon m s.begin t)
    (hl : ∀ x : Part, m.testBit x.bit = true → x ∈ l) : OnlyParts l s t := by
  intro x hx
  refine h.parts x ?_
  cases hb : m.testBit x.bit
  · rfl
  · exact absurd (hl x hb) hx

theorem execOperatingSecondsRead_steady (party : Nat) (s : State) :
    ∃ t, execOperatingSecondsRead party s = .next t ∧ Steady 0x1ffffff7ff s.begin t := by
  have hl : Covers 0x1ffffff7ff 0x1ffffff7ff := rfl
  refine ⟨_, rfl, ?_⟩
  refine partyRead_steady (hl.sub (by decide)) _ _ _ ?_
  exact Steady.refl _

theorem execRegisterWrite_steady (party : Nat) (bar2 : Bool) (off : Nat) (value : Word) (s : State) :
    ∃ t, execRegisterWrite party bar2 off value s = .next t ∧ Steady 0x1ffffff7ff s.begin t := by
  have hl : Covers 0x1ffffff7ff 0x1ffffff7ff := rfl
  refine ⟨_, rfl, ?_⟩
  refine registerWrite_steady (hl.sub (by decide)) _ _ _ _ _ ?_
  exact Steady.refl _

theorem execReadClear_steady (party : Nat) (off : Nat) (s : State) :
    ∃ t, execReadClear party off s = .next t ∧ Steady 0x1ffffff7ff s.begin t := by
  have hl : Covers 0x1ffffff7ff 0x1ffffff7ff := rfl
  refine ⟨_, rfl, ?_⟩
  refine partyRead_steady (hl.sub (by decide)) _ _ _ ?_
  exact Steady.refl _

theorem execLeaseAcquire_steady (party : Nat) (s : State) :
    ∃ t, execLeaseAcquire party s = .next t ∧ Steady 0x1ffffff7ff s.begin t := by
  have hl : Covers 0x1ffffff7ff 0x1ffffff7ff := rfl
  refine ⟨_, rfl, ?_⟩
  refine partyField_steady (hl.sub (by decide)) _ _ _ _ _ ?_
  exact Steady.refl _

theorem execLeaseRelease_steady (party : Nat) (s : State) :
    ∃ t, execLeaseRelease party s = .next t ∧ Steady 0x1ffffff7ff s.begin t := by
  have hl : Covers 0x1ffffff7ff 0x1ffffff7ff := rfl
  refine ⟨_, rfl, ?_⟩
  refine partyField_steady (hl.sub (by decide)) _ _ _ _ _ ?_
  exact Steady.refl _

theorem execLeaseKeepalive_steady (party : Nat) (s : State) :
    ∃ t, execLeaseKeepalive party s = .next t ∧ Steady 0x1ffffff7ff s.begin t := by
  have hl : Covers 0x1ffffff7ff 0x1ffffff7ff := rfl
  refine ⟨_, rfl, ?_⟩
  refine partyField_steady (hl.sub (by decide)) _ _ _ _ _ ?_
  exact Steady.refl _

theorem execLeaseWatchdogExpiry_steady (s : State) :
    ∃ t, execLeaseWatchdogExpiry s = .next t ∧ Steady 0x100106 s.begin t := by
  have hl : Covers 0x100106 0x100106 := rfl
  refine ⟨_, rfl, ?_⟩
  refine leaseExpiry_steady (hl.sub (by decide)) _ ?_
  exact Steady.refl _

theorem execServicePodPresent_steady (s : State) :
    ∃ t, execServicePodPresent s = .next t ∧ Steady 0x100054032f s.begin t := by
  have hl : Covers 0x100054032f 0x100054032f := rfl
  refine ⟨_, rfl, ?_⟩
  refine podSense_steady (hl.sub (by decide)) _ _ ?_
  exact Steady.refl _

theorem execServicePodRemoved_steady (s : State) :
    ∃ t, execServicePodRemoved s = .next t ∧ Steady 0x100054032f s.begin t := by
  have hl : Covers 0x100054032f 0x100054032f := rfl
  refine ⟨_, rfl, ?_⟩
  refine podSense_steady (hl.sub (by decide)) _ _ ?_
  exact Steady.refl _

theorem execGateClose_steady (party : Nat) (island : Nat) (s : State) :
    ∃ t, execGateClose party island s = .next t ∧ Steady 0x1ffffff7ff s.begin t := by
  have hl : Covers 0x1ffffff7ff 0x1ffffff7ff := rfl
  refine ⟨_, rfl, ?_⟩
  refine gateWrite_steady (hl.sub (by decide)) _ _ _ _ ?_
  exact Steady.refl _

theorem execGateOpen_steady (party : Nat) (island : Nat) (s : State) :
    ∃ t, execGateOpen party island s = .next t ∧ Steady 0x1ffffff7ff s.begin t := by
  have hl : Covers 0x1ffffff7ff 0x1ffffff7ff := rfl
  refine ⟨_, rfl, ?_⟩
  refine gateWrite_steady (hl.sub (by decide)) _ _ _ _ ?_
  exact Steady.refl _

theorem execGateReset_steady (party : Nat) (island : Nat) (s : State) :
    ∃ t, execGateReset party island s = .next t ∧ Steady 0x1ffffff7ff s.begin t := by
  have hl : Covers 0x1ffffff7ff 0x1ffffff7ff := rfl
  refine ⟨_, rfl, ?_⟩
  refine gateWrite_steady (hl.sub (by decide)) _ _ _ _ ?_
  exact Steady.refl _

theorem execGateLoad_steady (party : Nat) (island : Nat) (s : State) :
    ∃ t, execGateLoad party island s = .next t ∧ Steady 0x1ffffff7ff s.begin t := by
  have hl : Covers 0x1ffffff7ff 0x1ffffff7ff := rfl
  refine ⟨_, rfl, ?_⟩
  refine gateWrite_steady (hl.sub (by decide)) _ _ _ _ ?_
  exact Steady.refl _

theorem execIslandResetDone_steady (pass : Bool) (s : State) :
    ∃ t, execIslandResetDone pass s = .next t ∧ Steady 0x13e11e s.begin t := by
  have hl : Covers 0x13e11e 0x13e11e := rfl
  refine ⟨_, rfl, ?_⟩
  refine islandResetDone_steady (hl.sub (by decide)) _ _ ?_
  exact Steady.refl _

theorem execGateRequest_steady (island requester seq : Nat) (nonIdem write : Bool) (off : Nat) (value : Word)
    (s : State) :
    ∃ t, execGateRequest island requester seq nonIdem write off value s = .next t ∧ Steady 0x1ffffff7ff s.begin t := by
  have hl : Covers 0x1ffffff7ff 0x1ffffff7ff := rfl
  refine ⟨_, rfl, ?_⟩
  refine gateRequest_steady (hl.sub (by decide)) _ _ _ _ _ _ _ _ ?_
  exact Steady.refl _

theorem execGateReply_steady (island : Nat) (requester : Nat) (s : State) :
    ∃ t, execGateReply island requester s = .next t ∧ Steady 0x1ffffff7ff s.begin t := by
  have hl : Covers 0x1ffffff7ff 0x1ffffff7ff := rfl
  refine ⟨_, rfl, ?_⟩
  refine gateReply_steady (hl.sub (by decide)) _ _ _ ?_
  exact Steady.refl _

theorem execGateDrainDone_steady (island : Nat) (s : State) :
    ∃ t, execGateDrainDone island s = .next t ∧ Steady 0x17ffffe53e s.begin t := by
  have hl : Covers 0x17ffffe53e 0x17ffffe53e := rfl
  refine ⟨_, rfl, ?_⟩
  refine gateDrainDone_steady (hl.sub (by decide)) _ _ ?_
  exact Steady.refl _

theorem execGateDrainLimit_steady (island : Nat) (s : State) :
    ∃ t, execGateDrainLimit island s = .next t ∧ Steady 0x17ffffe53e s.begin t := by
  have hl : Covers 0x17ffffe53e 0x17ffffe53e := rfl
  refine ⟨_, rfl, ?_⟩
  refine gateDrainLimit_steady (hl.sub (by decide)) _ _ ?_
  exact Steady.refl _

theorem execRetryRepresent_steady (party : Nat) (island : Nat) (s : State) :
    ∃ t, execRetryRepresent party island s = .next t ∧ Steady 0x1ffffff7ff s.begin t := by
  have hl : Covers 0x1ffffff7ff 0x1ffffff7ff := rfl
  refine ⟨_, rfl, ?_⟩
  refine retryRepresent_steady (hl.sub (by decide)) _ _ _ ?_
  exact Steady.refl _

theorem execRequesterTimeout_steady (island : Nat) (requester : Nat) (s : State) :
    ∃ t, execRequesterTimeout island requester s = .next t ∧ Steady 0x60016610e s.begin t := by
  have hl : Covers 0x60016610e 0x60016610e := rfl
  refine ⟨_, rfl, ?_⟩
  refine requesterTimeout_steady (hl.sub (by decide)) _ _ _ ?_
  exact Steady.refl _

theorem execHostReadExpiry_steady (party : Nat) (s : State) :
    ∃ t, execHostReadExpiry party s = .next t ∧ Steady 0x1124 s.begin t := by
  have hl : Covers 0x1124 0x1124 := rfl
  refine ⟨_, rfl, ?_⟩
  refine hostReadExpiry_steady (hl.sub (by decide)) _ _ ?_
  exact Steady.refl _

theorem execPcieFunctionReset_steady (party : Nat) (s : State) :
    ∃ t, execPcieFunctionReset party s = .next t ∧ Steady 0x17ffffe52e s.begin t := by
  have hl : Covers 0x17ffffe52e 0x17ffffe52e := rfl
  refine ⟨_, rfl, ?_⟩
  refine pcieReset_steady (hl.sub (by decide)) _ _ ?_
  exact Steady.refl _

theorem execSmbusAddress_steady (addr : Nat) (pecOk : Bool) (s : State) :
    ∃ t, execSmbusAddress addr pecOk s = .next t ∧ Steady 0x800 s.begin t := by
  have hl : Covers 0x800 0x800 := rfl
  refine ⟨_, rfl, ?_⟩
  refine smbusAddress_steady (hl.sub (by decide)) _ _ _ ?_
  exact Steady.refl _

theorem execSmbusRead_steady (pecOk : Bool) (s : State) :
    ∃ t, execSmbusRead pecOk s = .next t ∧ Steady 0x1fffffffff s.begin t := by
  have hl : Covers 0x1fffffffff 0x1fffffffff := rfl
  refine ⟨_, rfl, ?_⟩
  refine smbusRead_steady (hl.sub (by decide)) _ _ ?_
  exact Steady.refl _

theorem execSmbusWrite_steady (value : Word) (pecOk : Bool) (s : State) :
    ∃ t, execSmbusWrite value pecOk s = .next t ∧ Steady 0x1fffffffff s.begin t := by
  have hl : Covers 0x1fffffffff 0x1fffffffff := rfl
  refine ⟨_, rfl, ?_⟩
  refine smbusWrite_steady (hl.sub (by decide)) _ _ _ ?_
  exact Steady.refl _

theorem execSmbusReadTimeout_steady (s : State) :
    ∃ t, execSmbusReadTimeout s = .next t ∧ Steady 0x1020 s.begin t := by
  have hl : Covers 0x1020 0x1020 := rfl
  refine ⟨_, rfl, ?_⟩
  refine smbusTimeout_steady (hl.sub (by decide)) _ ?_
  exact Steady.refl _

theorem execUsbRead_steady (space : Nat) (seq : Nat) (length : Nat) (addr : Nat) (s : State) :
    ∃ t, execUsbRead space seq length addr s = .next t ∧ Steady 0x1fffffe7ff s.begin t := by
  have hl : Covers 0x1fffffe7ff 0x1fffffe7ff := rfl
  refine ⟨_, rfl, ?_⟩
  refine usbRead_steady (hl.sub (by decide)) _ _ _ _ _ ?_
  exact Steady.refl _

theorem execUsbWrite_steady (space : Nat) (seq : Nat) (length : Nat) (addr : Nat) (data : List Byte) (s : State) :
    ∃ t, execUsbWrite space seq length addr data s = .next t ∧ Steady 0x1fffffe7ff s.begin t := by
  have hl : Covers 0x1fffffe7ff 0x1fffffe7ff := rfl
  refine ⟨_, rfl, ?_⟩
  refine usbWrite_steady (hl.sub (by decide)) _ _ _ _ _ _ ?_
  exact Steady.refl _

theorem execTilthTileDecode_steady (inst : Nat) (s : State) :
    ∃ t, execTilthTileDecode inst s = .next t ∧ Steady 0x600186106 s.begin t := by
  have hl : Covers 0x600186106 0x600186106 := rfl
  refine ⟨_, rfl, ?_⟩
  refine tilthTile_steady (hl.sub (by decide)) _ _ ?_
  exact Steady.refl _

theorem execHarrowSegmentDone_steady (tile : Nat) (bad : List (Nat × Nat)) (s : State) :
    ∃ t, execHarrowSegmentDone tile bad s = .next t ∧ Steady 0x6001a6506 s.begin t := by
  have hl : Covers 0x6001a6506 0x6001a6506 := rfl
  refine ⟨_, rfl, ?_⟩
  refine harrowSegment_steady (hl.sub (by decide)) _ _ _ ?_
  exact Steady.refl _

theorem execHarrowSecondOpinionDone_steady (bad : List (Nat × Nat)) (s : State) :
    ∃ t, execHarrowSecondOpinionDone bad s = .next t ∧ Steady 0x600126106 s.begin t := by
  have hl : Covers 0x600126106 0x600126106 := rfl
  refine ⟨_, rfl, ?_⟩
  refine harrowSecond_steady (hl.sub (by decide)) _ _ ?_
  exact Steady.refl _

theorem execHarrowRetire_steady (party : Nat) (tile : Nat) (s : State) :
    ∃ t, execHarrowRetire party tile s = .next t ∧ Steady 0x1ffffff7ff s.begin t := by
  have hl : Covers 0x1ffffff7ff 0x1ffffff7ff := rfl
  refine ⟨_, rfl, ?_⟩
  refine partyField_steady (hl.sub (by decide)) _ _ _ _ _ ?_
  exact Steady.refl _

theorem execHarrowAuditEnable_steady (party : Nat) (enable : Bool) (s : State) :
    ∃ t, execHarrowAuditEnable party enable s = .next t ∧ Steady 0x1ffffff7ff s.begin t := by
  have hl : Covers 0x1ffffff7ff 0x1ffffff7ff := rfl
  refine ⟨_, rfl, ?_⟩
  refine partyField_steady (hl.sub (by decide)) _ _ _ _ _ ?_
  exact Steady.refl _

theorem execMadderMultRow_steady (row : Nat) (s : State) :
    ∃ t, execMadderMultRow row s = .next t ∧ Steady 0x600186106 s.begin t := by
  have hl : Covers 0x600186106 0x600186106 := rfl
  refine ⟨_, rfl, ?_⟩
  refine multRow_steady (hl.sub (by decide)) _ _ ?_
  exact Steady.refl _

theorem execMadderRowConvert_steady (row : Nat) (s : State) :
    ∃ t, execMadderRowConvert row s = .next t ∧ Steady 0x184106 s.begin t := by
  have hl : Covers 0x184106 0x184106 := rfl
  refine ⟨_, rfl, ?_⟩
  refine rowConvert_steady (hl.sub (by decide)) _ _ ?_
  exact Steady.refl _

theorem execMdrMapBaseWrite_steady (party : Nat) (hi : Bool) (value : Word) (s : State) :
    ∃ t, execMdrMapBaseWrite party hi value s = .next t ∧ Steady 0x1ffffff7ff s.begin t := by
  have hl : Covers 0x1ffffff7ff 0x1ffffff7ff := rfl
  refine ⟨_, rfl, ?_⟩
  refine partyWrite_steady (hl.sub (by decide)) _ _ _ _ ?_
  exact Steady.refl _

theorem execSowShotCompute_steady (group : Nat) (bad : List (Nat × Nat × Nat)) (s : State) :
    ∃ t, execSowShotCompute group bad s = .next t ∧ Steady 0x6001a6106 s.begin t := by
  have hl : Covers 0x6001a6106 0x6001a6106 := rfl
  refine ⟨_, rfl, ?_⟩
  refine sowShot_steady (hl.sub (by decide)) _ _ _ ?_
  exact Steady.refl _

theorem execSowAuditorSelfTestDone_steady (pass : Bool) (s : State) :
    ∃ t, execSowAuditorSelfTestDone pass s = .next t ∧ Steady 0x600126106 s.begin t := by
  have hl : Covers 0x600126106 0x600126106 := rfl
  refine ⟨_, rfl, ?_⟩
  refine sowSelfTest_steady (hl.sub (by decide)) _ _ ?_
  exact Steady.refl _

theorem execSowRetire_steady (party : Nat) (slice : Nat) (s : State) :
    ∃ t, execSowRetire party slice s = .next t ∧ Steady 0x1ffffff7ff s.begin t := by
  have hl : Covers 0x1ffffff7ff 0x1ffffff7ff := rfl
  refine ⟨_, rfl, ?_⟩
  refine partyField_steady (hl.sub (by decide)) _ _ _ _ _ ?_
  exact Steady.refl _

theorem execSowAuditEnable_steady (party : Nat) (enable : Bool) (s : State) :
    ∃ t, execSowAuditEnable party enable s = .next t ∧ Steady 0x1ffffff7ff s.begin t := by
  have hl : Covers 0x1ffffff7ff 0x1ffffff7ff := rfl
  refine ⟨_, rfl, ?_⟩
  refine partyField_steady (hl.sub (by decide)) _ _ _ _ _ ?_
  exact Steady.refl _

theorem execTilthEncode_steady (party : Nat) (s : State) :
    ∃ t, execTilthEncode party s = .next t ∧ Steady 0x1ffffff7ff s.begin t := by
  have hl : Covers 0x1ffffff7ff 0x1ffffff7ff := rfl
  refine ⟨_, rfl, ?_⟩
  refine partyField_steady (hl.sub (by decide)) _ _ _ _ _ ?_
  exact Steady.refl _

theorem execTilthDecode_steady (party : Nat) (s : State) :
    ∃ t, execTilthDecode party s = .next t ∧ Steady 0x1ffffff7ff s.begin t := by
  have hl : Covers 0x1ffffff7ff 0x1ffffff7ff := rfl
  refine ⟨_, rfl, ?_⟩
  refine partyField_steady (hl.sub (by decide)) _ _ _ _ _ ?_
  exact Steady.refl _

theorem execTilthResume_steady (party : Nat) (s : State) :
    ∃ t, execTilthResume party s = .next t ∧ Steady 0x1ffffff7ff s.begin t := by
  have hl : Covers 0x1ffffff7ff 0x1ffffff7ff := rfl
  refine ⟨_, rfl, ?_⟩
  refine partyField_steady (hl.sub (by decide)) _ _ _ _ _ ?_
  exact Steady.refl _

theorem execTilthSave_steady (party : Nat) (s : State) :
    ∃ t, execTilthSave party s = .next t ∧ Steady 0x1ffffff7ff s.begin t := by
  have hl : Covers 0x1ffffff7ff 0x1ffffff7ff := rfl
  refine ⟨_, rfl, ?_⟩
  refine partyField_steady (hl.sub (by decide)) _ _ _ _ _ ?_
  exact Steady.refl _

theorem execTilthRestore_steady (party : Nat) (s : State) :
    ∃ t, execTilthRestore party s = .next t ∧ Steady 0x1ffffff7ff s.begin t := by
  have hl : Covers 0x1ffffff7ff 0x1ffffff7ff := rfl
  refine ⟨_, rfl, ?_⟩
  refine partyField_steady (hl.sub (by decide)) _ _ _ _ _ ?_
  exact Steady.refl _

theorem execTilthAbort_steady (party : Nat) (s : State) :
    ∃ t, execTilthAbort party s = .next t ∧ Steady 0x1ffffff7ff s.begin t := by
  have hl : Covers 0x1ffffff7ff 0x1ffffff7ff := rfl
  refine ⟨_, rfl, ?_⟩
  refine partyField_steady (hl.sub (by decide)) _ _ _ _ _ ?_
  exact Steady.refl _

theorem execTilthJobTileDone_steady (s : State) :
    ∃ t, execTilthJobTileDone s = .next t ∧ Steady 0x184106 s.begin t := by
  have hl : Covers 0x184106 0x184106 := rfl
  refine ⟨_, rfl, ?_⟩
  refine tiltStep_steady (hl.sub (by decide)) _ ?_
  exact Steady.refl _

theorem execFenceNop_steady (seq : Nat) (off : Nat) (data : Nat) (s : State) :
    ∃ t, execFenceNop seq off data s = .next t ∧ Steady 0x1e005fe32f s.begin t := by
  have hl : Covers 0x1e005fe32f 0x1e005fe32f := rfl
  refine ⟨_, rfl, ?_⟩
  refine awake_steady (hl.sub (by decide)) _ _ ?_ (fun _ _ => ?_)
  · exact Steady.refl _
  · refine fenceRequest_steady (hl.sub (by decide)) _ _ _ _ _ ?_
    assumption

theorem execFenceRead_steady (seq : Nat) (off : Nat) (data : Nat) (s : State) :
    ∃ t, execFenceRead seq off data s = .next t ∧ Steady 0x1e005fe32f s.begin t := by
  have hl : Covers 0x1e005fe32f 0x1e005fe32f := rfl
  refine ⟨_, rfl, ?_⟩
  refine awake_steady (hl.sub (by decide)) _ _ ?_ (fun _ _ => ?_)
  · exact Steady.refl _
  · refine fenceRequest_steady (hl.sub (by decide)) _ _ _ _ _ ?_
    assumption

theorem execFenceWrite_steady (seq : Nat) (off : Nat) (data : Nat) (s : State) :
    ∃ t, execFenceWrite seq off data s = .next t ∧ Steady 0x1e005fe32f s.begin t := by
  have hl : Covers 0x1e005fe32f 0x1e005fe32f := rfl
  refine ⟨_, rfl, ?_⟩
  refine awake_steady (hl.sub (by decide)) _ _ ?_ (fun _ _ => ?_)
  · exact Steady.refl _
  · refine fenceRequest_steady (hl.sub (by decide)) _ _ _ _ _ ?_
    assumption

theorem execFenceBadFrame_steady (cycles : Nat) (bytes : List Byte) (s : State) :
    ∃ t, execFenceBadFrame cycles bytes s = .next t ∧ Steady 0x1e005fe32f s.begin t := by
  have hl : Covers 0x1e005fe32f 0x1e005fe32f := rfl
  refine ⟨_, rfl, ?_⟩
  refine awake_steady (hl.sub (by decide)) _ _ ?_ (fun _ _ => ?_)
  · exact Steady.refl _
  · refine fenceFrame_steady (hl.sub (by decide)) _ _ _ ?_
    assumption

theorem execFenceWatchdogExpiry_steady (s : State) :
    ∃ t, execFenceWatchdogExpiry s = .next t ∧ Steady 0xe00106107 s.begin t := by
  have hl : Covers 0xe00106107 0xe00106107 := rfl
  refine ⟨_, rfl, ?_⟩
  refine awake_steady (hl.sub (by decide)) _ _ ?_ (fun _ _ => ?_)
  · exact Steady.refl _
  · refine watchdogExpiry_steady (hl.sub (by decide)) _ ?_
    assumption

theorem execFenceFallow_steady (on : Bool) (s : State) :
    ∃ t, execFenceFallow on s = .next t ∧ Steady 0xe00106107 s.begin t := by
  have hl : Covers 0xe00106107 0xe00106107 := rfl
  refine ⟨_, rfl, ?_⟩
  refine fenceDo_steady (hl.sub (by decide)) _ _ ?_ (fun _ _ => ?_)
  · exact Steady.refl _
  · refine fenceFallow_steady (hl.sub (by decide)) _ _ ?_
    assumption

theorem execRevokeLease_steady (s : State) :
    ∃ t, execRevokeLease s = .next t ∧ Steady 0x100106 s.begin t := by
  have hl : Covers 0x100106 0x100106 := rfl
  refine ⟨_, rfl, ?_⟩
  refine fenceDo_steady (hl.sub (by decide)) _ _ ?_ (fun _ _ => ?_)
  · exact Steady.refl _
  · refine revokeLease_steady (hl.sub (by decide)) _ ?_
    assumption

theorem execLeaseLock_steady (on : Bool) (s : State) :
    ∃ t, execLeaseLock on s = .next t ∧ Steady 0x4 s.begin t := by
  have hl : Covers 0x4 0x4 := rfl
  refine ⟨_, rfl, ?_⟩
  refine fenceDo_steady (hl.sub (by decide)) _ _ ?_ (fun _ _ => ?_)
  · exact Steady.refl _
  · refine leaseLock_steady (hl.sub (by decide)) _ _ ?_
    assumption

theorem execThermtripRelease_steady (s : State) :
    ∃ t, execThermtripRelease s = .next t ∧ Steady 0x800000005 s.begin t := by
  have hl : Covers 0x800000005 0x800000005 := rfl
  refine ⟨_, rfl, ?_⟩
  refine fenceDo_steady (hl.sub (by decide)) _ _ ?_ (fun _ _ => ?_)
  · exact Steady.refl _
  · refine thermtripRelease_steady (hl.sub (by decide)) _ ?_
    assumption

theorem execFenceTripClear_steady (mask : Nat) (s : State) :
    ∃ t, execFenceTripClear mask s = .next t ∧ Steady 0xe00106107 s.begin t := by
  have hl : Covers 0xe00106107 0xe00106107 := rfl
  refine ⟨_, rfl, ?_⟩
  refine fenceDo_steady (hl.sub (by decide)) _ _ ?_ (fun _ _ => ?_)
  · exact Steady.refl _
  · refine tripClear_steady (hl.sub (by decide)) _ _ ?_
    assumption

theorem execTxEnableWrite_steady (value : Nat) (s : State) :
    ∃ t, execTxEnableWrite value s = .next t ∧ Steady 0x6001be10e s.begin t := by
  have hl : Covers 0x6001be10e 0x6001be10e := rfl
  refine ⟨_, rfl, ?_⟩
  refine fenceDo_steady (hl.sub (by decide)) _ _ ?_ (fun _ _ => ?_)
  · exact Steady.refl _
  · refine txEnable_steady (hl.sub (by decide)) _ _ ?_
    assumption

theorem execLimitForceWrite_steady (value : Nat) (s : State) :
    ∃ t, execLimitForceWrite value s = .next t ∧ Steady 0x4 s.begin t := by
  have hl : Covers 0x4 0x4 := rfl
  refine ⟨_, rfl, ?_⟩
  refine fenceDo_steady (hl.sub (by decide)) _ _ ?_ (fun _ _ => ?_)
  · exact Steady.refl _
  · refine limitForce_steady (hl.sub (by decide)) _ _ ?_
    assumption

theorem execServiceEnableWrite_steady (on : Bool) (s : State) :
    ∃ t, execServiceEnableWrite on s = .next t ∧ Steady 0x100054032e s.begin t := by
  have hl : Covers 0x100054032e 0x100054032e := rfl
  refine ⟨_, rfl, ?_⟩
  refine fenceDo_steady (hl.sub (by decide)) _ _ ?_ (fun _ _ => ?_)
  · exact Steady.refl _
  · refine serviceEnable_steady (hl.sub (by decide)) _ _ ?_
    assumption

theorem execDoseCeilingWrite_steady (value : Nat) (s : State) :
    ∃ t, execDoseCeilingWrite value s = .next t ∧ Steady 0xe00106107 s.begin t := by
  have hl : Covers 0xe00106107 0xe00106107 := rfl
  refine ⟨_, rfl, ?_⟩
  refine fenceDo_steady (hl.sub (by decide)) _ _ ?_ (fun _ _ => ?_)
  · exact Steady.refl _
  · refine doseCeiling_steady (hl.sub (by decide)) _ _ ?_
    assumption

theorem execLedgerAuthorise_steady (key : Nat) (s : State) :
    ∃ t, execLedgerAuthorise key s = .next t ∧ Steady 0x4 s.begin t := by
  have hl : Covers 0x4 0x4 := rfl
  refine ⟨_, rfl, ?_⟩
  refine fenceDo_steady (hl.sub (by decide)) _ _ ?_ (fun _ _ => ?_)
  · exact Steady.refl _
  · refine ledgerKey_steady (hl.sub (by decide)) _ _ ?_
    assumption

theorem execHoldReqEdge_steady (s : State) :
    ∃ t, execHoldReqEdge s = .next t ∧ Steady 0xe00106107 s.begin t := by
  have hl : Covers 0xe00106107 0xe00106107 := rfl
  refine ⟨_, rfl, ?_⟩
  refine holdEdge_steady (hl.sub (by decide)) _ ?_
  exact Steady.refl _

theorem execDoorOkEdge_steady (s : State) :
    ∃ t, execDoorOkEdge s = .next t ∧ Steady 0xe00106107 s.begin t := by
  have hl : Covers 0xe00106107 0xe00106107 := rfl
  refine ⟨_, rfl, ?_⟩
  refine doorEdge_steady (hl.sub (by decide)) _ ?_
  exact Steady.refl _

theorem execInterlockRelease_steady (door : Bool) (s : State) :
    ∃ t, execInterlockRelease door s = .next t ∧ Steady 0x800000005 s.begin t := by
  have hl : Covers 0x800000005 0x800000005 := rfl
  refine ⟨_, rfl, ?_⟩
  refine awake_steady (hl.sub (by decide)) _ _ ?_ (fun _ _ => ?_)
  · exact Steady.refl _
  · refine interlockRelease_steady (hl.sub (by decide)) _ _ ?_
    assumption

theorem execAonComparatorRead_steady (readings : List Int) (s : State) :
    ∃ t, execAonComparatorRead readings s = .next t ∧ Steady 0x1ffffff53f s.begin t := by
  have hl : Covers 0x1ffffff53f 0x1ffffff53f := rfl
  refine ⟨_, rfl, ?_⟩
  refine awake_steady (hl.sub (by decide)) _ _ ?_ (fun _ _ => ?_)
  · exact Steady.refl _
  · refine comparatorRead_steady (hl.sub (by decide)) _ _ ?_
    assumption

theorem execThermalStopLimit_steady (s : State) :
    ∃ t, execThermalStopLimit s = .next t ∧ Steady 0x400000104 s.begin t := by
  have hl : Covers 0x400000104 0x400000104 := rfl
  refine ⟨_, rfl, ?_⟩
  refine awake_steady (hl.sub (by decide)) _ _ ?_ (fun _ _ => ?_)
  · exact Steady.refl _
  · refine thermalStopLimit_steady (hl.sub (by decide)) _ ?_
    assumption

theorem execThermalShutdown_steady (heldMs : Nat) (stopMs : Nat) (s : State) :
    ∃ t, execThermalShutdown heldMs stopMs s = .next t ∧ Steady 0x1ffffff53f s.begin t := by
  have hl : Covers 0x1ffffff53f 0x1ffffff53f := rfl
  refine ⟨_, rfl, ?_⟩
  refine awake_steady (hl.sub (by decide)) _ _ ?_ (fun _ _ => ?_)
  · exact Steady.refl _
  · refine thermalShutdown_steady (hl.sub (by decide)) _ _ _ ?_
    assumption

theorem execHkRound_steady (readings : List (Option Int)) (taken : Bool) (s : State) :
    ∃ t, execHkRound readings taken s = .next t ∧ Steady 0x1ffffff53f s.begin t := by
  have hl : Covers 0x1ffffff53f 0x1ffffff53f := rfl
  refine ⟨_, rfl, ?_⟩
  refine hkRound_steady (hl.sub (by decide)) _ _ _ ?_
  exact Steady.refl _

theorem execCalRun_steady (party : Nat) (item : Nat) (s : State) :
    ∃ t, execCalRun party item s = .next t ∧ Steady 0x1ffffff7ff s.begin t := by
  have hl : Covers 0x1ffffff7ff 0x1ffffff7ff := rfl
  refine ⟨_, rfl, ?_⟩
  refine partyFields_steady (hl.sub (by decide)) _ _ _ _ _ _ _ ?_
  exact Steady.refl _

theorem execCalDueAge_steady (item : Nat) (inst : Nat) (s : State) :
    ∃ t, execCalDueAge item inst s = .next t ∧ Steady 0x20000 s.begin t := by
  have hl : Covers 0x20000 0x20000 := rfl
  refine ⟨_, rfl, ?_⟩
  refine calDueAge_steady (hl.sub (by decide)) _ _ _ ?_
  exact Steady.refl _

theorem execCalInstanceStart_steady (s : State) :
    ∃ t, execCalInstanceStart s = .next t ∧ Steady 0x12c106 s.begin t := by
  have hl : Covers 0x12c106 0x12c106 := rfl
  refine ⟨_, rfl, ?_⟩
  refine calStart_steady (hl.sub (by decide)) _ ?_
  exact Steady.refl _

theorem execCalInstanceDone_steady (choice : Nat) (s : State) :
    ∃ t, execCalInstanceDone choice s = .next t ∧ Steady 0x124106 s.begin t := by
  have hl : Covers 0x124106 0x124106 := rfl
  refine ⟨_, rfl, ?_⟩
  refine calDone_steady (hl.sub (by decide)) _ _ ?_
  exact Steady.refl _

theorem execCalRetryEligible_steady (item : Nat) (inst : Nat) (s : State) :
    ∃ t, execCalRetryEligible item inst s = .next t ∧ Steady 0x20000 s.begin t := by
  have hl : Covers 0x20000 0x20000 := rfl
  refine ⟨_, rfl, ?_⟩
  refine calRetry_steady (hl.sub (by decide)) _ _ _ ?_
  exact Steady.refl _

theorem execCalOverdue_steady (item : Nat) (inst : Nat) (s : State) :
    ∃ t, execCalOverdue item inst s = .next t ∧ Steady 0x120106 s.begin t := by
  have hl : Covers 0x120106 0x120106 := rfl
  refine ⟨_, rfl, ?_⟩
  refine calOverdue_steady (hl.sub (by decide)) _ _ _ ?_
  exact Steady.refl _

theorem execCalTestCompose_steady (party : Nat) (s : State) :
    ∃ t, execCalTestCompose party s = .next t ∧ Steady 0x1ffffff7ff s.begin t := by
  have hl : Covers 0x1ffffff7ff 0x1ffffff7ff := rfl
  refine ⟨_, rfl, ?_⟩
  refine partyAct_steady (hl.sub (by decide)) _ _ _ _ ?_
  exact Steady.refl _

theorem execCalTestDone_steady (s : State) :
    ∃ t, execCalTestDone s = .next t ∧ Steady 0x4 s.begin t := by
  have hl : Covers 0x4 0x4 := rfl
  refine ⟨_, rfl, ?_⟩
  refine testDone_steady (hl.sub (by decide)) _ ?_
  exact Steady.refl _

theorem execLedgerHoldExpiry_steady (s : State) :
    ∃ t, execLedgerHoldExpiry s = .next t ∧ Steady 0x6 s.begin t := by
  have hl : Covers 0x6 0x6 := rfl
  refine ⟨_, rfl, ?_⟩
  refine ledgerHoldExpiry_steady (hl.sub (by decide)) _ ?_
  exact Steady.refl _

theorem execLedgerCommit_steady (s : State) :
    ∃ t, execLedgerCommit s = .next t ∧ Steady 0x500006 s.begin t := by
  have hl : Covers 0x500006 0x500006 := rfl
  refine ⟨_, rfl, ?_⟩
  refine ledgerCommit_steady (hl.sub (by decide)) _ ?_
  exact Steady.refl _

theorem execLedgerFreeze_steady (party : Nat) (s : State) :
    ∃ t, execLedgerFreeze party s = .next t ∧ Steady 0x1ffffff7ff s.begin t := by
  have hl : Covers 0x1ffffff7ff 0x1ffffff7ff := rfl
  refine ⟨_, rfl, ?_⟩
  refine partyAct_steady (hl.sub (by decide)) _ _ _ _ ?_
  exact Steady.refl _

theorem execLedgerUnfreeze_steady (party : Nat) (s : State) :
    ∃ t, execLedgerUnfreeze party s = .next t ∧ Steady 0x1ffffff7ff s.begin t := by
  have hl : Covers 0x1ffffff7ff 0x1ffffff7ff := rfl
  refine ⟨_, rfl, ?_⟩
  refine partyAct_steady (hl.sub (by decide)) _ _ _ _ ?_
  exact Steady.refl _

theorem execFreezeTimeout_steady (s : State) :
    ∃ t, execFreezeTimeout s = .next t ∧ Steady 0x100004 s.begin t := by
  have hl : Covers 0x100004 0x100004 := rfl
  refine ⟨_, rfl, ?_⟩
  refine endFreeze_steady (hl.sub (by decide)) _ ?_
  exact Steady.refl _

theorem execLdgReadData_steady (party : Nat) (s : State) :
    ∃ t, execLdgReadData party s = .next t ∧ Steady 0x1ffffff7ff s.begin t := by
  have hl : Covers 0x1ffffff7ff 0x1ffffff7ff := rfl
  refine ⟨_, rfl, ?_⟩
  refine partyRead_steady (hl.sub (by decide)) _ _ _ ?_
  exact Steady.refl _

theorem execClearRequest_steady (party : Nat) (s : State) :
    ∃ t, execClearRequest party s = .next t ∧ Steady 0x1ffffff7ff s.begin t := by
  have hl : Covers 0x1ffffff7ff 0x1ffffff7ff := rfl
  refine ⟨_, rfl, ?_⟩
  refine partyAct_steady (hl.sub (by decide)) _ _ _ _ ?_
  exact Steady.refl _

theorem execClearConfirm_steady (party : Nat) (s : State) :
    ∃ t, execClearConfirm party s = .next t ∧ Steady 0x1ffffff7ff s.begin t := by
  have hl : Covers 0x1ffffff7ff 0x1ffffff7ff := rfl
  refine ⟨_, rfl, ?_⟩
  refine partyAct_steady (hl.sub (by decide)) _ _ _ _ ?_
  exact Steady.refl _

theorem execAuthorisationExpiry_steady (s : State) :
    ∃ t, execAuthorisationExpiry s = .next t ∧ Steady 0x4 s.begin t := by
  have hl : Covers 0x4 0x4 := rfl
  refine ⟨_, rfl, ?_⟩
  refine authorisationExpiry_steady (hl.sub (by decide)) _ ?_
  exact Steady.refl _

theorem execTelemetryRecord_steady (s : State) :
    ∃ t, execTelemetryRecord s = .next t ∧ Steady 0x180106 s.begin t := by
  have hl : Covers 0x180106 0x180106 := rfl
  refine ⟨_, rfl, ?_⟩
  refine telemetryRecord_steady (hl.sub (by decide)) _ ?_
  exact Steady.refl _

theorem execUsageClear_steady (party : Nat) (s : State) :
    ∃ t, execUsageClear party s = .next t ∧ Steady 0x1ffffff7ff s.begin t := by
  have hl : Covers 0x1ffffff7ff 0x1ffffff7ff := rfl
  refine ⟨_, rfl, ?_⟩
  refine partyAct_steady (hl.sub (by decide)) _ _ _ _ ?_
  exact Steady.refl _

theorem execUsageClearDone_steady (s : State) :
    ∃ t, execUsageClearDone s = .next t ∧ Steady 0x900000 s.begin t := by
  have hl : Covers 0x900000 0x900000 := rfl
  refine ⟨_, rfl, ?_⟩
  refine usageClearDone_steady (hl.sub (by decide)) _ ?_
  exact Steady.refl _

theorem execChkClaim_steady (party : Nat) (s : State) :
    ∃ t, execChkClaim party s = .next t ∧ Steady 0x1ffffff7ff s.begin t := by
  have hl : Covers 0x1ffffff7ff 0x1ffffff7ff := rfl
  refine ⟨_, rfl, ?_⟩
  refine partyAct_steady (hl.sub (by decide)) _ _ _ _ ?_
  exact Steady.refl _

theorem execChkRelease_steady (party : Nat) (s : State) :
    ∃ t, execChkRelease party s = .next t ∧ Steady 0x1ffffff7ff s.begin t := by
  have hl : Covers 0x1ffffff7ff 0x1ffffff7ff := rfl
  refine ⟨_, rfl, ?_⟩
  refine partyAct_steady (hl.sub (by decide)) _ _ _ _ ?_
  exact Steady.refl _

theorem execChkInit_steady (party : Nat) (unit : Nat) (s : State) :
    ∃ t, execChkInit party unit s = .next t ∧ Steady 0x1ffffff7ff s.begin t := by
  have hl : Covers 0x1ffffff7ff 0x1ffffff7ff := rfl
  refine ⟨_, rfl, ?_⟩
  refine partyAct_steady (hl.sub (by decide)) _ _ _ _ ?_
  exact Steady.refl _

theorem execChkFeed8_steady (party : Nat) (unit : Nat) (value : Word) (s : State) :
    ∃ t, execChkFeed8 party unit value s = .next t ∧ Steady 0x1ffffff7ff s.begin t := by
  have hl : Covers 0x1ffffff7ff 0x1ffffff7ff := rfl
  refine ⟨_, rfl, ?_⟩
  refine partyWrite_steady (hl.sub (by decide)) _ _ _ _ ?_
  exact Steady.refl _

theorem execChkFeed16_steady (party : Nat) (unit : Nat) (value : Word) (s : State) :
    ∃ t, execChkFeed16 party unit value s = .next t ∧ Steady 0x1ffffff7ff s.begin t := by
  have hl : Covers 0x1ffffff7ff 0x1ffffff7ff := rfl
  refine ⟨_, rfl, ?_⟩
  refine partyWrite_steady (hl.sub (by decide)) _ _ _ _ ?_
  exact Steady.refl _

theorem execChkFeed32_steady (party : Nat) (unit : Nat) (value : Word) (s : State) :
    ∃ t, execChkFeed32 party unit value s = .next t ∧ Steady 0x1ffffff7ff s.begin t := by
  have hl : Covers 0x1ffffff7ff 0x1ffffff7ff := rfl
  refine ⟨_, rfl, ?_⟩
  refine partyWrite_steady (hl.sub (by decide)) _ _ _ _ ?_
  exact Steady.refl _

theorem execChkResult_steady (party : Nat) (unit : Nat) (s : State) :
    ∃ t, execChkResult party unit s = .next t ∧ Steady 0x1ffffff7ff s.begin t := by
  have hl : Covers 0x1ffffff7ff 0x1ffffff7ff := rfl
  refine ⟨_, rfl, ?_⟩
  refine partyRead_steady (hl.sub (by decide)) _ _ _ ?_
  exact Steady.refl _

theorem execNvlUpdate_steady (party : Nat) (s : State) :
    ∃ t, execNvlUpdate party s = .next t ∧ Steady 0x1ffffff7ff s.begin t := by
  have hl : Covers 0x1ffffff7ff 0x1ffffff7ff := rfl
  refine ⟨_, rfl, ?_⟩
  refine partyField_steady (hl.sub (by decide)) _ _ _ _ _ ?_
  exact Steady.refl _

theorem execNvlAbort_steady (party : Nat) (s : State) :
    ∃ t, execNvlAbort party s = .next t ∧ Steady 0x1ffffff7ff s.begin t := by
  have hl : Covers 0x1ffffff7ff 0x1ffffff7ff := rfl
  refine ⟨_, rfl, ?_⟩
  refine partyField_steady (hl.sub (by decide)) _ _ _ _ _ ?_
  exact Steady.refl _

theorem execNvlConfirm_steady (party : Nat) (s : State) :
    ∃ t, execNvlConfirm party s = .next t ∧ Steady 0x1ffffff7ff s.begin t := by
  have hl : Covers 0x1ffffff7ff 0x1ffffff7ff := rfl
  refine ⟨_, rfl, ?_⟩
  refine partyField_steady (hl.sub (by decide)) _ _ _ _ _ ?_
  exact Steady.refl _

theorem execNvlAdopt_steady (party : Nat) (s : State) :
    ∃ t, execNvlAdopt party s = .next t ∧ Steady 0x1ffffff7ff s.begin t := by
  have hl : Covers 0x1ffffff7ff 0x1ffffff7ff := rfl
  refine ⟨_, rfl, ?_⟩
  refine partyField_steady (hl.sub (by decide)) _ _ _ _ _ ?_
  exact Steady.refl _

theorem execNvlVerify_steady (party : Nat) (target : Nat) (s : State) :
    ∃ t, execNvlVerify party target s = .next t ∧ Steady 0x1ffffff7ff s.begin t := by
  have hl : Covers 0x1ffffff7ff 0x1ffffff7ff := rfl
  refine ⟨_, rfl, ?_⟩
  refine partyFields_steady (hl.sub (by decide)) _ _ _ _ _ _ _ ?_
  exact Steady.refl _

theorem execFlashOperationDone_steady (s : State) :
    ∃ t, execFlashOperationDone s = .next t ∧ Steady 0x580106 s.begin t := by
  have hl : Covers 0x580106 0x580106 := rfl
  refine ⟨_, rfl, ?_⟩
  refine flashDone_steady (hl.sub (by decide)) _ ?_
  exact Steady.refl _

theorem execJobTailWrite_steady (party : Nat) (value : Nat) (s : State) :
    ∃ t, execJobTailWrite party value s = .next t ∧ Steady 0x1ffffff7ff s.begin t := by
  have hl : Covers 0x1ffffff7ff 0x1ffffff7ff := rfl
  refine ⟨_, rfl, ?_⟩
  refine registerWrite_steady (hl.sub (by decide)) _ _ _ _ _ ?_
  exact Steady.refl _

theorem execTakeDescriptor_steady (s : State) :
    ∃ t, execTakeDescriptor s = .next t ∧ Steady 0x2504 s.begin t := by
  have hl : Covers 0x2504 0x2504 := rfl
  refine ⟨_, rfl, ?_⟩
  refine takeDescriptor_steady (hl.sub (by decide)) _ ?_
  exact Steady.refl _

theorem execStreamReady_steady (party : Nat) (value : Nat) (s : State) :
    ∃ t, execStreamReady party value s = .next t ∧ Steady 0x1ffffff7ff s.begin t := by
  have hl : Covers 0x1ffffff7ff 0x1ffffff7ff := rfl
  refine ⟨_, rfl, ?_⟩
  refine registerWrite_steady (hl.sub (by decide)) _ _ _ _ _ ?_
  exact Steady.refl _

theorem execAdmissionStart_steady (s : State) :
    ∃ t, execAdmissionStart s = .next t ∧ Steady 0x2000 s.begin t := by
  have hl : Covers 0x2000 0x2000 := rfl
  refine ⟨_, rfl, ?_⟩
  refine admissionStart_steady (hl.sub (by decide)) _ ?_
  exact Steady.refl _

theorem execAdmissionEnd_steady (s : State) :
    ∃ t, execAdmissionEnd s = .next t ∧ Steady 0x186106 s.begin t := by
  have hl : Covers 0x186106 0x186106 := rfl
  refine ⟨_, rfl, ?_⟩
  refine admissionEnd_steady (hl.sub (by decide)) _ ?_
  exact Steady.refl _

theorem execArmFurrow_steady (s : State) :
    ∃ t, execArmFurrow s = .next t ∧ Steady 0x6001ae506 s.begin t := by
  have hl : Covers 0x6001ae506 0x6001ae506 := rfl
  refine ⟨_, rfl, ?_⟩
  refine armFurrow_steady (hl.sub (by decide)) _ ?_
  exact Steady.refl _

theorem execPreRunStart_steady (s : State) :
    ∃ t, execPreRunStart s = .next t ∧ Steady 0x4004 s.begin t := by
  have hl : Covers 0x4004 0x4004 := rfl
  refine ⟨_, rfl, ?_⟩
  refine preRunStart_steady (hl.sub (by decide)) _ ?_
  exact Steady.refl _

theorem execJobAck_steady (party : Nat) (s : State) :
    ∃ t, execJobAck party s = .next t ∧ Steady 0x1ffffff7ff s.begin t := by
  have hl : Covers 0x1ffffff7ff 0x1ffffff7ff := rfl
  refine ⟨_, rfl, ?_⟩
  refine partyField_steady (hl.sub (by decide)) _ _ _ _ _ ?_
  exact Steady.refl _

theorem execJobCancelHead_steady (party : Nat) (s : State) :
    ∃ t, execJobCancelHead party s = .next t ∧ Steady 0x1ffffff7ff s.begin t := by
  have hl : Covers 0x1ffffff7ff 0x1ffffff7ff := rfl
  refine ⟨_, rfl, ?_⟩
  refine partyField_steady (hl.sub (by decide)) _ _ _ _ _ ?_
  exact Steady.refl _

theorem execJobCancelJob_steady (party : Nat) (s : State) :
    ∃ t, execJobCancelJob party s = .next t ∧ Steady 0x1ffffff7ff s.begin t := by
  have hl : Covers 0x1ffffff7ff 0x1ffffff7ff := rfl
  refine ⟨_, rfl, ?_⟩
  refine partyField_steady (hl.sub (by decide)) _ _ _ _ _ ?_
  exact Steady.refl _

theorem execJobCancelAll_steady (party : Nat) (s : State) :
    ∃ t, execJobCancelAll party s = .next t ∧ Steady 0x1ffffff7ff s.begin t := by
  have hl : Covers 0x1ffffff7ff 0x1ffffff7ff := rfl
  refine ⟨_, rfl, ?_⟩
  refine partyField_steady (hl.sub (by decide)) _ _ _ _ _ ?_
  exact Steady.refl _

theorem execFurrowComplete_steady (microcodeOk : Bool) (s : State) :
    ∃ t, execFurrowComplete microcodeOk s = .next t ∧ Steady 0xe001be507 s.begin t := by
  have hl : Covers 0xe001be507 0xe001be507 := rfl
  refine ⟨_, rfl, ?_⟩
  refine furrowComplete_steady (hl.sub (by decide)) _ _ ?_
  exact Steady.refl _

theorem execCheckpointWriteDone_steady (s : State) :
    ∃ t, execCheckpointWriteDone s = .next t ∧ Steady 0x182106 s.begin t := by
  have hl : Covers 0x182106 0x182106 := rfl
  refine ⟨_, rfl, ?_⟩
  refine checkpointDone_steady (hl.sub (by decide)) _ ?_
  exact Steady.refl _

theorem execResumeFurrow_steady (s : State) :
    ∃ t, execResumeFurrow s = .next t ∧ Steady 0xe001be507 s.begin t := by
  have hl : Covers 0xe001be507 0xe001be507 := rfl
  refine ⟨_, rfl, ?_⟩
  refine resumeFurrow_steady (hl.sub (by decide)) _ ?_
  exact Steady.refl _

theorem execRepairTraverseArm_steady (s : State) :
    ∃ t, execRepairTraverseArm s = .next t ∧ Steady 0x6001be106 s.begin t := by
  have hl : Covers 0x6001be106 0x6001be106 := rfl
  refine ⟨_, rfl, ?_⟩
  refine traverseArm_steady (hl.sub (by decide)) _ ?_
  exact Steady.refl _

theorem execRepairSkip_steady (party : Nat) (s : State) :
    ∃ t, execRepairSkip party s = .next t ∧ Steady 0x1ffffff7ff s.begin t := by
  have hl : Covers 0x1ffffff7ff 0x1ffffff7ff := rfl
  refine ⟨_, rfl, ?_⟩
  refine partyAct_steady (hl.sub (by decide)) _ _ _ _ ?_
  exact Steady.refl _

theorem execBankSwapRequest_steady (party : Nat) (microcodeOk : Bool) (s : State) :
    ∃ t, execBankSwapRequest party microcodeOk s = .next t ∧ Steady 0x1ffffff7ff s.begin t := by
  have hl : Covers 0x1ffffff7ff 0x1ffffff7ff := rfl
  refine ⟨_, rfl, ?_⟩
  refine swapWrite_steady (hl.sub (by decide)) _ _ _ ?_
  exact Steady.refl _

theorem execLaneFrameBoundary_steady (group : Nat) (lane : Nat) (s : State) :
    ∃ t, execLaneFrameBoundary group lane s = .next t ∧ Steady 0xe001be107 s.begin t := by
  have hl : Covers 0xe001be107 0xe001be107 := rfl
  refine ⟨_, rfl, ?_⟩
  refine frameBoundary_steady (hl.sub (by decide)) _ _ _ ?_
  exact Steady.refl _

theorem execAckShot_steady (group : Nat) (shot : Nat) (mask : Nat) (s : State) :
    ∃ t, execAckShot group shot mask s = .next t ∧ Steady 0x6001be106 s.begin t := by
  have hl : Covers 0x6001be106 0x6001be106 := rfl
  refine ⟨_, rfl, ?_⟩
  refine ackShot_steady (hl.sub (by decide)) _ _ _ _ ?_
  exact Steady.refl _

theorem execAckFrame_steady (group : Nat) (seq : Nat) (s : State) :
    ∃ t, execAckFrame group seq s = .next t ∧ Steady 0x6001be106 s.begin t := by
  have hl : Covers 0x6001be106 0x6001be106 := rfl
  refine ⟨_, rfl, ?_⟩
  refine ackFrame_steady (hl.sub (by decide)) _ _ _ ?_
  exact Steady.refl _

theorem execNak_steady (group : Nat) (lane : Nat) (value : Nat) (s : State) :
    ∃ t, execNak group lane value s = .next t ∧ Steady 0x6001be106 s.begin t := by
  have hl : Covers 0x6001be106 0x6001be106 := rfl
  refine ⟨_, rfl, ?_⟩
  refine nak_steady (hl.sub (by decide)) _ _ _ _ ?_
  exact Steady.refl _

theorem execShotReport_steady (group : Nat) (first : Nat) (fired : Nat) (lanes : Nat) (s : State) :
    ∃ t, execShotReport group first fired lanes s = .next t ∧ Steady 0x6009ae106 s.begin t := by
  have hl : Covers 0x6009ae106 0x6009ae106 := rfl
  refine ⟨_, rfl, ?_⟩
  refine shotReport_steady (hl.sub (by decide)) _ _ _ _ _ ?_
  exact Steady.refl _

theorem execStatusWord_steady (group : Nat) (value : Nat) (s : State) :
    ∃ t, execStatusWord group value s = .next t ∧ Steady 0xe001be107 s.begin t := by
  have hl : Covers 0xe001be107 0xe001be107 := rfl
  refine ⟨_, rfl, ?_⟩
  refine statusWord_steady (hl.sub (by decide)) _ _ _ ?_
  exact Steady.refl _

theorem execLaneState_steady (group : Nat) (locks : Nat) (ckOk : Bool) (s : State) :
    ∃ t, execLaneState group locks ckOk s = .next t ∧ Steady 0x6001be106 s.begin t := by
  have hl : Covers 0x6001be106 0x6001be106 := rfl
  refine ⟨_, rfl, ?_⟩
  refine laneState_steady (hl.sub (by decide)) _ _ _ _ ?_
  exact Steady.refl _

theorem execFom_steady (group : Nat) (lane : Nat) (value : Nat) (s : State) :
    ∃ t, execFom group lane value s = .next t ∧ Steady 0x38104 s.begin t := by
  have hl : Covers 0x38104 0x38104 := rfl
  refine ⟨_, rfl, ?_⟩
  refine fom_steady (hl.sub (by decide)) _ _ _ _ ?_
  exact Steady.refl _

theorem execMemData_steady (group : Nat) (value : Nat) (s : State) :
    ∃ t, execMemData group value s = .next t ∧ Steady 0xe041be107 s.begin t := by
  have hl : Covers 0xe041be107 0xe041be107 := rfl
  refine ⟨_, rfl, ?_⟩
  refine memData_steady (hl.sub (by decide)) _ _ _ ?_
  exact Steady.refl _

theorem execIdleBk_steady (group : Nat) (s : State) :
    ∃ t, execIdleBk group s = .next t ∧ Steady 0x8004 s.begin t := by
  have hl : Covers 0x8004 0x8004 := rfl
  refine ⟨_, rfl, ?_⟩
  refine idleBk_steady (hl.sub (by decide)) _ _ ?_
  exact Steady.refl _

theorem execBkWordError_steady (code : BkCode) (s : State) :
    ∃ t, execBkWordError code s = .next t ∧ Steady 0xe049be107 s.begin t := by
  have hl : Covers 0xe049be107 0xe049be107 := rfl
  refine ⟨_, rfl, ?_⟩
  refine bkReceive_steady (hl.sub (by decide)) _ _ _ _ ?_
  exact Steady.refl _

theorem execBkLost_steady (group : Nat) (s : State) :
    ∃ t, execBkLost group s = .next t ∧ Steady 0x6001be106 s.begin t := by
  have hl : Covers 0x6001be106 0x6001be106 := rfl
  refine ⟨_, rfl, ?_⟩
  refine bkLost_steady (hl.sub (by decide)) _ _ ?_
  exact Steady.refl _

theorem execAttemptTimeout_steady (group : Nat) (lane : Nat) (alive : Nat) (s : State) :
    ∃ t, execAttemptTimeout group lane alive s = .next t ∧ Steady 0x6001be106 s.begin t := by
  have hl : Covers 0x6001be106 0x6001be106 := rfl
  refine ⟨_, rfl, ?_⟩
  refine attemptTimeout_steady (hl.sub (by decide)) _ _ _ _ ?_
  exact Steady.refl _

theorem execCommandAttemptTimeout_steady (attempt : CmdAttempt) (s : State) :
    ∃ t, execCommandAttemptTimeout attempt s = .next t ∧ Steady 0x6001be106 s.begin t := by
  have hl : Covers 0x6001be106 0x6001be106 := rfl
  refine ⟨_, rfl, ?_⟩
  refine commandTimeout_steady (hl.sub (by decide)) _ _ _ ?_
  exact Steady.refl _

theorem execLinkAccountClose_steady (s : State) :
    ∃ t, execLinkAccountClose s = .next t ∧ Steady 0x92a106 s.begin t := by
  have hl : Covers 0x92a106 0x92a106 := rfl
  refine ⟨_, rfl, ?_⟩
  refine accountClose_steady (hl.sub (by decide)) _ ?_
  exact Steady.refl _

theorem execTrain_steady (party : Nat) (group : Nat) (s : State) :
    ∃ t, execTrain party group s = .next t ∧ Steady 0x1ffffff7ff s.begin t := by
  have hl : Covers 0x1ffffff7ff 0x1ffffff7ff := rfl
  refine ⟨_, rfl, ?_⟩
  refine partyAct_steady (hl.sub (by decide)) _ _ _ _ ?_
  exact Steady.refl _

theorem execTrainingTimeout_steady (group : Nat) (s : State) :
    ∃ t, execTrainingTimeout group s = .next t ∧ Steady 0x13a106 s.begin t := by
  have hl : Covers 0x13a106 0x13a106 := rfl
  refine ⟨_, rfl, ?_⟩
  refine trainingTimeout_steady (hl.sub (by decide)) _ _ ?_
  exact Steady.refl _

theorem execBkSlip_steady (party : Nat) (group : Nat) (s : State) :
    ∃ t, execBkSlip party group s = .next t ∧ Steady 0x1ffffff7ff s.begin t := by
  have hl : Covers 0x1ffffff7ff 0x1ffffff7ff := rfl
  refine ⟨_, rfl, ?_⟩
  refine partyAct_steady (hl.sub (by decide)) _ _ _ _ ?_
  exact Steady.refl _

theorem execBkAlignSlipTest_steady (group : Nat) (good : Bool) (s : State) :
    ∃ t, execBkAlignSlipTest group good s = .next t ∧ Steady 0x28104 s.begin t := by
  have hl : Covers 0x28104 0x28104 := rfl
  refine ⟨_, rfl, ?_⟩
  refine bkSlipTest_steady (hl.sub (by decide)) _ _ _ ?_
  exact Steady.refl _

theorem execFomTimeout_steady (group : Nat) (lane : Nat) (s : State) :
    ∃ t, execFomTimeout group lane s = .next t ∧ Steady 0x38104 s.begin t := by
  have hl : Covers 0x38104 0x38104 := rfl
  refine ⟨_, rfl, ?_⟩
  refine fomTimeout_steady (hl.sub (by decide)) _ _ _ ?_
  exact Steady.refl _

theorem execSpareGo_steady (party : Nat) (group : Nat) (lane : Nat) (s : State) :
    ∃ t, execSpareGo party group lane s = .next t ∧ Steady 0x1ffffff7ff s.begin t := by
  have hl : Covers 0x1ffffff7ff 0x1ffffff7ff := rfl
  refine ⟨_, rfl, ?_⟩
  refine partyField_steady (hl.sub (by decide)) _ _ _ _ _ ?_
  exact Steady.refl _

theorem execBlankAllCheck_steady (s : State) :
    ∃ t, execBlankAllCheck s = .next t ∧ Steady 0x800100106 s.begin t := by
  have hl : Covers 0x800100106 0x800100106 := rfl
  refine ⟨_, rfl, ?_⟩
  refine blankCheck_steady (hl.sub (by decide)) _ ?_
  exact Steady.refl _

theorem execDmaClaim_steady (party : Nat) (ch : Nat) (s : State) :
    ∃ t, execDmaClaim party ch s = .next t ∧ Steady 0x1ffffff7ff s.begin t := by
  have hl : Covers 0x1ffffff7ff 0x1ffffff7ff := rfl
  refine ⟨_, rfl, ?_⟩
  refine partyAct_steady (hl.sub (by decide)) _ _ _ _ ?_
  exact Steady.refl _

theorem execDmaRelease_steady (party : Nat) (ch : Nat) (s : State) :
    ∃ t, execDmaRelease party ch s = .next t ∧ Steady 0x1ffffff7ff s.begin t := by
  have hl : Covers 0x1ffffff7ff 0x1ffffff7ff := rfl
  refine ⟨_, rfl, ?_⟩
  refine partyAct_steady (hl.sub (by decide)) _ _ _ _ ?_
  exact Steady.refl _

theorem execDmaStart_steady (party : Nat) (ch : Nat) (s : State) :
    ∃ t, execDmaStart party ch s = .next t ∧ Steady 0x1ffffff7ff s.begin t := by
  have hl : Covers 0x1ffffff7ff 0x1ffffff7ff := rfl
  refine ⟨_, rfl, ?_⟩
  refine partyAct_steady (hl.sub (by decide)) _ _ _ _ ?_
  exact Steady.refl _

theorem execDmaAbort_steady (party : Nat) (ch : Nat) (s : State) :
    ∃ t, execDmaAbort party ch s = .next t ∧ Steady 0x1ffffff7ff s.begin t := by
  have hl : Covers 0x1ffffff7ff 0x1ffffff7ff := rfl
  refine ⟨_, rfl, ?_⟩
  refine partyAct_steady (hl.sub (by decide)) _ _ _ _ ?_
  exact Steady.refl _

theorem execDmaDescriptorFetch_steady (ch : Nat) (ok : Bool) (host : List Byte) (s : State) :
    ∃ t, execDmaDescriptorFetch ch ok host s = .next t ∧ Steady 0x1c0106 s.begin t := by
  have hl : Covers 0x1c0106 0x1c0106 := rfl
  refine ⟨_, rfl, ?_⟩
  refine dmaFetch_steady (hl.sub (by decide)) _ _ _ _ ?_
  exact Steady.refl _

theorem execDmaBurstDone_steady (ch : Nat) (ok : Bool) (host : List Byte) (s : State) :
    ∃ t, execDmaBurstDone ch ok host s = .next t ∧ Steady 0x31c0106 s.begin t := by
  have hl : Covers 0x31c0106 0x31c0106 := rfl
  refine ⟨_, rfl, ?_⟩
  refine dmaBurst_steady (hl.sub (by decide)) _ _ _ _ ?_
  exact Steady.refl _

theorem execDmaAccessRetry_steady (ch : Nat) (ok : Bool) (host : List Byte) (s : State) :
    ∃ t, execDmaAccessRetry ch ok host s = .next t ∧ Steady 0x31c0106 s.begin t := by
  have hl : Covers 0x31c0106 0x31c0106 := rfl
  refine ⟨_, rfl, ?_⟩
  refine dmaRetry_steady (hl.sub (by decide)) _ _ _ _ ?_
  exact Steady.refl _

theorem execDmaTimerTick_steady (ch : Nat) (s : State) :
    ∃ t, execDmaTimerTick ch s = .next t ∧ Steady 0x40004 s.begin t := by
  have hl : Covers 0x40004 0x40004 := rfl
  refine ⟨_, rfl, ?_⟩
  refine dmaTick_steady (hl.sub (by decide)) _ _ ?_
  exact Steady.refl _

theorem execMemMapCfgWrite_steady (party : Nat) (value : Word) (s : State) :
    ∃ t, execMemMapCfgWrite party value s = .next t ∧ Steady 0x1ffffff7ff s.begin t := by
  have hl : Covers 0x1ffffff7ff 0x1ffffff7ff := rfl
  refine ⟨_, rfl, ?_⟩
  refine partyWrite_steady (hl.sub (by decide)) _ _ _ _ ?_
  exact Steady.refl _

theorem execMemInvalidate_steady (party : Nat) (s : State) :
    ∃ t, execMemInvalidate party s = .next t ∧ Steady 0x1ffffff7ff s.begin t := by
  have hl : Covers 0x1ffffff7ff 0x1ffffff7ff := rfl
  refine ⟨_, rfl, ?_⟩
  refine partyField_steady (hl.sub (by decide)) _ _ _ _ _ ?_
  exact Steady.refl _

theorem execMemInvalidateDone_steady (s : State) :
    ∃ t, execMemInvalidateDone s = .next t ∧ Steady 0x80004 s.begin t := by
  have hl : Covers 0x80004 0x80004 := rfl
  refine ⟨_, rfl, ?_⟩
  refine invalidateDone_steady (hl.sub (by decide)) _ ?_
  exact Steady.refl _

theorem execMemScrub_steady (party : Nat) (s : State) :
    ∃ t, execMemScrub party s = .next t ∧ Steady 0x1ffffff7ff s.begin t := by
  have hl : Covers 0x1ffffff7ff 0x1ffffff7ff := rfl
  refine ⟨_, rfl, ?_⟩
  refine partyField_steady (hl.sub (by decide)) _ _ _ _ _ ?_
  exact Steady.refl _

theorem execScrubPassEnd_steady (us : Nat) (s : State) :
    ∃ t, execScrubPassEnd us s = .next t ∧ Steady 0x180106 s.begin t := by
  have hl : Covers 0x180106 0x180106 := rfl
  refine ⟨_, rfl, ?_⟩
  refine scrubPassEnd_steady (hl.sub (by decide)) _ _ ?_
  exact Steady.refl _

theorem execPatrolPassEnd_steady (upsets : List (Nat × Nat)) (s : State) :
    ∃ t, execPatrolPassEnd upsets s = .next t ∧ Steady 0x180106 s.begin t := by
  have hl : Covers 0x180106 0x180106 := rfl
  refine ⟨_, rfl, ?_⟩
  refine patrolPassEnd_steady (hl.sub (by decide)) _ _ ?_
  exact Steady.refl _

theorem execMemRetire_steady (party : Nat) (phys : Nat) (s : State) :
    ∃ t, execMemRetire party phys s = .next t ∧ Steady 0x1ffffff7ff s.begin t := by
  have hl : Covers 0x1ffffff7ff 0x1ffffff7ff := rfl
  refine ⟨_, rfl, ?_⟩
  refine partyField_steady (hl.sub (by decide)) _ _ _ _ _ ?_
  exact Steady.refl _

theorem execPcCopyDone_steady (s : State) :
    ∃ t, execPcCopyDone s = .next t ∧ Steady 0x180106 s.begin t := by
  have hl : Covers 0x180106 0x180106 := rfl
  refine ⟨_, rfl, ?_⟩
  refine pcCopyDone_steady (hl.sub (by decide)) _ ?_
  exact Steady.refl _

theorem execRefreshReadingStale_steady (stack : Nat) (s : State) :
    ∃ t, execRefreshReadingStale stack s = .next t ∧ Steady 0x4 s.begin t := by
  have hl : Covers 0x4 0x4 := rfl
  refine ⟨_, rfl, ?_⟩
  refine refreshStale_steady (hl.sub (by decide)) _ _ ?_
  exact Steady.refl _

theorem execRetrainBurst_steady (stack : Nat) (s : State) :
    ∃ t, execRetrainBurst stack s = .next t ∧ Steady 0x80004 s.begin t := by
  have hl : Covers 0x80004 0x80004 := rfl
  refine ⟨_, rfl, ?_⟩
  refine retrainBurst_steady (hl.sub (by decide)) _ _ ?_
  exact Steady.refl _

theorem execRetrainBurstDone_steady (stack : Nat) (s : State) :
    ∃ t, execRetrainBurstDone stack s = .next t ∧ Steady 0x8000c s.begin t := by
  have hl : Covers 0x8000c 0x8000c := rfl
  refine ⟨_, rfl, ?_⟩
  refine retrainDone_steady (hl.sub (by decide)) _ _ ?_
  exact Steady.refl _

theorem execSelfRefreshEnter_steady (party : Nat) (stack : Nat) (s : State) :
    ∃ t, execSelfRefreshEnter party stack s = .next t ∧ Steady 0x1ffffff7ff s.begin t := by
  have hl : Covers 0x1ffffff7ff 0x1ffffff7ff := rfl
  refine ⟨_, rfl, ?_⟩
  refine partyAct_steady (hl.sub (by decide)) _ _ _ _ ?_
  exact Steady.refl _

theorem execSelfRefreshExit_steady (party : Nat) (stack : Nat) (s : State) :
    ∃ t, execSelfRefreshExit party stack s = .next t ∧ Steady 0x1ffffff7ff s.begin t := by
  have hl : Covers 0x1ffffff7ff 0x1ffffff7ff := rfl
  refine ⟨_, rfl, ?_⟩
  refine partyAct_steady (hl.sub (by decide)) _ _ _ _ ?_
  exact Steady.refl _

theorem execSelfRefreshAuto_steady (stack : Nat) (s : State) :
    ∃ t, execSelfRefreshAuto stack s = .next t ∧ Steady 0x4 s.begin t := by
  have hl : Covers 0x4 0x4 := rfl
  refine ⟨_, rfl, ?_⟩
  refine selfRefreshAuto_steady (hl.sub (by decide)) _ _ ?_
  exact Steady.refl _

theorem execMemFreqChange_steady (party : Nat) (freq : Nat) (s : State) :
    ∃ t, execMemFreqChange party freq s = .next t ∧ Steady 0x1ffffff7ff s.begin t := by
  have hl : Covers 0x1ffffff7ff 0x1ffffff7ff := rfl
  refine ⟨_, rfl, ?_⟩
  refine partyField_steady (hl.sub (by decide)) _ _ _ _ _ ?_
  exact Steady.refl _

theorem execFreqChangeDone_steady (s : State) :
    ∃ t, execFreqChangeDone s = .next t ∧ Steady 0x8000c s.begin t := by
  have hl : Covers 0x8000c 0x8000c := rfl
  refine ⟨_, rfl, ?_⟩
  refine freqDone_steady (hl.sub (by decide)) _ ?_
  exact Steady.refl _

theorem execFlipArm_steady (party : Nat) (check : Nat) (s : State) :
    ∃ t, execFlipArm party check s = .next t ∧ Steady 0x1ffffff7ff s.begin t := by
  have hl : Covers 0x1ffffff7ff 0x1ffffff7ff := rfl
  refine ⟨_, rfl, ?_⟩
  refine partyField_steady (hl.sub (by decide)) _ _ _ _ _ ?_
  exact Steady.refl _

theorem execSramPatrolPass_steady (island : Nat) (data check : List (Nat × Nat)) (s : State) :
    ∃ t, execSramPatrolPass island data check s = .next t ∧ Steady 0x6001a6106 s.begin t := by
  have hl : Covers 0x6001a6106 0x6001a6106 := rfl
  refine ⟨_, rfl, ?_⟩
  refine sramPatrol_steady (hl.sub (by decide)) _ _ _ ?_
  exact Steady.refl _

theorem execAonPowerUp_steady (straps : Nat) (s : State) :
    ∃ t, execAonPowerUp straps s = .next t ∧ Steady 0x800001805 s.begin t := by
  have hl : Covers 0x800001805 0x800001805 := rfl
  refine ⟨_, rfl, ?_⟩
  refine aonPowerUp_steady (hl.sub (by decide)) _ _ ?_
  exact Steady.refl _

theorem execStartStepTimeout_steady (step : Nat) (s : State) :
    ∃ t, execStartStepTimeout step s = .next t ∧ Steady 0x5 s.begin t := by
  have hl : Covers 0x5 0x5 := rfl
  refine ⟨_, rfl, ?_⟩
  refine startTimeout_steady (hl.sub (by decide)) _ _ ?_
  exact Steady.refl _

theorem execCorePwrgdFall_steady (s : State) :
    ∃ t, execCorePwrgdFall s = .next t ∧ Steady 0x1ffffff53f s.begin t := by
  have hl : Covers 0x1ffffff53f 0x1ffffff53f := rfl
  refine ⟨_, rfl, ?_⟩
  refine corePowerFall_steady (hl.sub (by decide)) _ ?_
  exact Steady.refl _

theorem execSysclkLoss_steady (s : State) :
    ∃ t, execSysclkLoss s = .next t ∧ Steady 0x1ffffff53f s.begin t := by
  have hl : Covers 0x1ffffff53f 0x1ffffff53f := rfl
  refine ⟨_, rfl, ?_⟩
  refine sysclkLoss_steady (hl.sub (by decide)) _ ?_
  exact Steady.refl _

theorem execSysclkRestored_steady (s : State) :
    ∃ t, execSysclkRestored s = .next t ∧ Steady 0x1 s.begin t := by
  have hl : Covers 0x1 0x1 := rfl
  refine ⟨_, rfl, ?_⟩
  refine sysclkRestored_steady (hl.sub (by decide)) _ ?_
  exact Steady.refl _

theorem execRef10mLoss_steady (s : State) :
    ∃ t, execRef10mLoss s = .next t ∧ Steady 0x600106107 s.begin t := by
  have hl : Covers 0x600106107 0x600106107 := rfl
  refine ⟨_, rfl, ?_⟩
  refine refLoss_steady (hl.sub (by decide)) _ ?_
  exact Steady.refl _

theorem execRef10mRestored_steady (s : State) :
    ∃ t, execRef10mRestored s = .next t ∧ Steady 0x1 s.begin t := by
  have hl : Covers 0x1 0x1 := rfl
  refine ⟨_, rfl, ?_⟩
  refine refRestored_steady (hl.sub (by decide)) _ ?_
  exact Steady.refl _

theorem execXtal32Start_steady (running : Bool) (s : State) :
    ∃ t, execXtal32Start running s = .next t ∧ Steady 0x1 s.begin t := by
  have hl : Covers 0x1 0x1 := rfl
  refine ⟨_, rfl, ?_⟩
  refine xtalStart_steady (hl.sub (by decide)) _ _ ?_
  exact Steady.refl _

theorem execJtagInstruction_steady (bypassOrIdcode : Bool) (s : State) :
    ∃ t, execJtagInstruction bypassOrIdcode s = .next t ∧ Steady 0x5 s.begin t := by
  have hl : Covers 0x5 0x5 := rfl
  refine ⟨_, rfl, ?_⟩
  refine jtagInstruction_steady (hl.sub (by decide)) _ _ ?_
  exact Steady.refl _

theorem execPcieLinkUp_steady (party : Nat) (width : Nat) (speed : Nat) (s : State) :
    ∃ t, execPcieLinkUp party width speed s = .next t ∧ Steady 0x4 s.begin t := by
  have hl : Covers 0x4 0x4 := rfl
  refine ⟨_, rfl, ?_⟩
  refine pcieLinkUp_steady (hl.sub (by decide)) _ _ _ _ ?_
  exact Steady.refl _

theorem execEncSample_steady (codes : List (Int × Int)) (s : State) :
    ∃ t, execEncSample codes s = .next t ∧ Steady 0x798106106 s.begin t := by
  have hl : Covers 0x798106106 0x798106106 := rfl
  refine ⟨_, rfl, ?_⟩
  refine encSample_steady (hl.sub (by decide)) _ _ ?_
  exact Steady.refl _

theorem execEncTrackingQualified_steady (ch : Nat) (s : State) :
    ∃ t, execEncTrackingQualified ch s = .next t ∧ Steady 0x10000004 s.begin t := by
  have hl : Covers 0x10000004 0x10000004 := rfl
  refine ⟨_, rfl, ?_⟩
  refine encQualified_steady (hl.sub (by decide)) _ _ ?_
  exact Steady.refl _

theorem execEncAmplitudeFault_steady (ch : Nat) (s : State) :
    ∃ t, execEncAmplitudeFault ch s = .next t ∧ Steady 0x790106106 s.begin t := by
  have hl : Covers 0x790106106 0x790106106 := rfl
  refine ⟨_, rfl, ?_⟩
  refine encAmplitudeFault_steady (hl.sub (by decide)) _ _ ?_
  exact Steady.refl _

theorem execEncYawFault_steady (axis : Nat) (s : State) :
    ∃ t, execEncYawFault axis s = .next t ∧ Steady 0x600106106 s.begin t := by
  have hl : Covers 0x600106106 0x600106106 := rfl
  refine ⟨_, rfl, ?_⟩
  refine encYawFault_steady (hl.sub (by decide)) _ _ ?_
  exact Steady.refl _

theorem execEncSpeedRestart_steady (ch : Nat) (s : State) :
    ∃ t, execEncSpeedRestart ch s = .next t ∧ Steady 0x410000004 s.begin t := by
  have hl : Covers 0x410000004 0x410000004 := rfl
  refine ⟨_, rfl, ?_⟩
  refine encSpeedRestart_steady (hl.sub (by decide)) _ _ ?_
  exact Steady.refl _

theorem execEncIndexEdge_steady (ch : Nat) (rising : Bool) (frac : Nat) (s : State) :
    ∃ t, execEncIndexEdge ch rising frac s = .next t ∧ Steady 0x7f0106106 s.begin t := by
  have hl : Covers 0x7f0106106 0x7f0106106 := rfl
  refine ⟨_, rfl, ?_⟩
  refine indexEdge_steady (hl.sub (by decide)) _ _ _ _ ?_
  exact Steady.refl _

theorem execReref_steady (party : Nat) (ch : Nat) (s : State) :
    ∃ t, execReref party ch s = .next t ∧ Steady 0x1ffffff7ff s.begin t := by
  have hl : Covers 0x1ffffff7ff 0x1ffffff7ff := rfl
  refine ⟨_, rfl, ?_⟩
  refine partyAct_steady (hl.sub (by decide)) _ _ _ _ ?_
  exact Steady.refl _

theorem execZeroX_steady (party : Nat) (s : State) :
    ∃ t, execZeroX party s = .next t ∧ Steady 0x1ffffff7ff s.begin t := by
  have hl : Covers 0x1ffffff7ff 0x1ffffff7ff := rfl
  refine ⟨_, rfl, ?_⟩
  refine partyAct_steady (hl.sub (by decide)) _ _ _ _ ?_
  exact Steady.refl _

theorem execZeroY_steady (party : Nat) (s : State) :
    ∃ t, execZeroY party s = .next t ∧ Steady 0x1ffffff7ff s.begin t := by
  have hl : Covers 0x1ffffff7ff 0x1ffffff7ff := rfl
  refine ⟨_, rfl, ?_⟩
  refine partyAct_steady (hl.sub (by decide)) _ _ _ _ ?_
  exact Steady.refl _

theorem execEncFaultAck_steady (party : Nat) (mask : Nat) (s : State) :
    ∃ t, execEncFaultAck party mask s = .next t ∧ Steady 0x1ffffff7ff s.begin t := by
  have hl : Covers 0x1ffffff7ff 0x1ffffff7ff := rfl
  refine ⟨_, rfl, ?_⟩
  refine partyAct_steady (hl.sub (by decide)) _ _ _ _ ?_
  exact Steady.refl _

theorem execShotTrigger_steady (s : State) :
    ∃ t, execShotTrigger s = .next t ∧ Steady 0xe001be507 s.begin t := by
  have hl : Covers 0xe001be507 0xe001be507 := rfl
  refine ⟨_, rfl, ?_⟩
  refine shotTrigger_steady (hl.sub (by decide)) _ ?_
  exact Steady.refl _

theorem execDeflectionWord_steady (s : State) :
    ∃ t, execDeflectionWord s = .next t ∧ Steady 0x200000000 s.begin t := by
  have hl : Covers 0x200000000 0x200000000 := rfl
  refine ⟨_, rfl, ?_⟩
  refine deflectionWord_steady (hl.sub (by decide)) _ ?_
  exact Steady.refl _

theorem execPathHoldTimeout_steady (s : State) :
    ∃ t, execPathHoldTimeout s = .next t ∧ Steady 0x600106106 s.begin t := by
  have hl : Covers 0x600106106 0x600106106 := rfl
  refine ⟨_, rfl, ?_⟩
  refine pathHoldTimeout_steady (hl.sub (by decide)) _ ?_
  exact Steady.refl _

theorem execHomeX_steady (party : Nat) (s : State) :
    ∃ t, execHomeX party s = .next t ∧ Steady 0x1ffffff7ff s.begin t := by
  have hl : Covers 0x1ffffff7ff 0x1ffffff7ff := rfl
  refine ⟨_, rfl, ?_⟩
  refine partyField_steady (hl.sub (by decide)) _ _ _ _ _ ?_
  exact Steady.refl _

theorem execHomeY_steady (party : Nat) (s : State) :
    ∃ t, execHomeY party s = .next t ∧ Steady 0x1ffffff7ff s.begin t := by
  have hl : Covers 0x1ffffff7ff 0x1ffffff7ff := rfl
  refine ⟨_, rfl, ?_⟩
  refine partyField_steady (hl.sub (by decide)) _ _ _ _ _ ?_
  exact Steady.refl _

theorem execMovePlanner_steady (party : Nat) (s : State) :
    ∃ t, execMovePlanner party s = .next t ∧ Steady 0x1ffffff7ff s.begin t := by
  have hl : Covers 0x1ffffff7ff 0x1ffffff7ff := rfl
  refine ⟨_, rfl, ?_⟩
  refine partyField_steady (hl.sub (by decide)) _ _ _ _ _ ?_
  exact Steady.refl _

theorem execStopPlanner_steady (party : Nat) (s : State) :
    ∃ t, execStopPlanner party s = .next t ∧ Steady 0x1ffffff7ff s.begin t := by
  have hl : Covers 0x1ffffff7ff 0x1ffffff7ff := rfl
  refine ⟨_, rfl, ?_⟩
  refine partyField_steady (hl.sub (by decide)) _ _ _ _ _ ?_
  exact Steady.refl _

theorem execPlannerMoveDone_steady (x y : Int) (s : State) :
    ∃ t, execPlannerMoveDone x y s = .next t ∧ Steady 0x6001ae106 s.begin t := by
  have hl : Covers 0x6001ae106 0x6001ae106 := rfl
  refine ⟨_, rfl, ?_⟩
  refine plannerDone_steady (hl.sub (by decide)) _ _ _ ?_
  exact Steady.refl _

theorem execTurnDwellEnd_steady (s : State) :
    ∃ t, execTurnDwellEnd s = .next t ∧ Steady 0x400000104 s.begin t := by
  have hl : Covers 0x400000104 0x400000104 := rfl
  refine ⟨_, rfl, ?_⟩
  refine dwellEnd_steady (hl.sub (by decide)) _ ?_
  exact Steady.refl _

theorem execWritingSegmentStart_steady (s : State) :
    ∃ t, execWritingSegmentStart s = .next t ∧ Steady 0x400002104 s.begin t := by
  have hl : Covers 0x400002104 0x400002104 := rfl
  refine ⟨_, rfl, ?_⟩
  refine segmentStart_steady (hl.sub (by decide)) _ ?_
  exact Steady.refl _

theorem execSwitchRawEdge_steady (sw : Nat) (was level : Bool) (s : State) :
    ∃ t, execSwitchRawEdge sw was level s = .next t ∧ Steady 0x400000005 s.begin t := by
  have hl : Covers 0x400000005 0x400000005 := rfl
  refine ⟨_, rfl, ?_⟩
  refine switchRaw_steady (hl.sub (by decide)) _ _ _ _ ?_
  exact Steady.refl _

theorem execSwitchFilteredEdge_steady (sw : Nat) (s : State) :
    ∃ t, execSwitchFilteredEdge sw s = .next t ∧ Steady 0x600106106 s.begin t := by
  have hl : Covers 0x600106106 0x600106106 := rfl
  refine ⟨_, rfl, ?_⟩
  refine switchFiltered_steady (hl.sub (by decide)) _ _ ?_
  exact Steady.refl _

theorem execSwitchFilteredInactive_steady (sw : Nat) (s : State) :
    ∃ t, execSwitchFilteredInactive sw s = .next t ∧ Steady 0x400000104 s.begin t := by
  have hl : Covers 0x400000104 0x400000104 := rfl
  refine ⟨_, rfl, ?_⟩
  refine switchInactive_steady (hl.sub (by decide)) _ _ ?_
  exact Steady.refl _

theorem execLatchRearm_steady (party : Nat) (mask : Nat) (s : State) :
    ∃ t, execLatchRearm party mask s = .next t ∧ Steady 0x1ffffff7ff s.begin t := by
  have hl : Covers 0x1ffffff7ff 0x1ffffff7ff := rfl
  refine ⟨_, rfl, ?_⟩
  refine partyAct_steady (hl.sub (by decide)) _ _ _ _ ?_
  exact Steady.refl _

theorem execTrippedAck_steady (party : Nat) (mask : Nat) (s : State) :
    ∃ t, execTrippedAck party mask s = .next t ∧ Steady 0x1ffffff7ff s.begin t := by
  have hl : Covers 0x1ffffff7ff 0x1ffffff7ff := rfl
  refine ⟨_, rfl, ?_⟩
  refine partyAct_steady (hl.sub (by decide)) _ _ _ _ ?_
  exact Steady.refl _

theorem execStoppedAck_steady (party : Nat) (s : State) :
    ∃ t, execStoppedAck party s = .next t ∧ Steady 0x1ffffff7ff s.begin t := by
  have hl : Covers 0x1ffffff7ff 0x1ffffff7ff := rfl
  refine ⟨_, rfl, ?_⟩
  refine partyAct_steady (hl.sub (by decide)) _ _ _ _ ?_
  exact Steady.refl _

theorem execCorePwrgdRise_canon (env : StartEnv) (s : State) : ∃ t, execCorePwrgdRise env s = .next t ∧ Canon 0x180357e32f s.begin t :=
  ⟨_, rfl, corePowerRise_steady rfl _ _ (Canon.refl _)⟩

theorem execOperatingSecondTick_canon (s : State) : ∃ t, execOperatingSecondTick s = .next t ∧ Canon 0x22002 s.begin t :=
  ⟨_, rfl, secondTick_steady rfl _ (Canon.refl _)⟩

theorem execVddAonLoss_canon (s : State) : ∃ t, execVddAonLoss s = .next t ∧ Canon 0x1fffffffff s.begin t :=
  ⟨_, rfl, vddAonLoss_steady rfl _ (Canon.refl _)⟩

theorem execKeyProgram_refuse (which : Nat) (key : List Byte) (s : State) :
    ∃ t f, execKeyProgram which key s = .next t ∧ Steady 0x5 { s.begin with fuses := f } t := by
  obtain ⟨f, hf⟩ := keyProgram_refuse (l := 0x5) rfl which key s.begin
  exact ⟨_, f, rfl, hf⟩

theorem execKeyRevoke_refuse (which : Nat) (s : State) :
    ∃ t f, execKeyRevoke which s = .next t ∧ Steady 0x5 { s.begin with fuses := f } t := by
  obtain ⟨f, hf⟩ := keyRevoke_refuse (l := 0x5) rfl which s.begin
  exact ⟨_, f, rfl, hf⟩

end Sys2Proof.Machine
end

