-- ==== Sys2Proof/WellFormed.lean ====
section
/-! DEFINITION. Which commands are well formed: every operand within the range its row gives it. The meanings are total;
an operand out of range names nothing, and a sender forms none. -/

namespace Sys2Proof

/-- Below a bound. -/
def lt (n bound : Nat) : Bool := decide (n < bound)

/-- Between two bounds, both taken. -/
def within (lo n hi : Nat) : Bool := decide (lo ≤ n) && decide (n ≤ hi)

/-- Parties that issue register accesses: host A 1, host B 2, management 3, service 4 (R7). -/
def isParty (p : Nat) : Bool := within 1 p 4

/-- Host ports: A 1, B 2. -/
def isPort (p : Nat) : Bool := within 1 p 2

/-- A word's offset in BAR0. -/
def isOffset (off : Nat) : Bool := lt off 0x4000000 && off % 4 == 0

/-- An ADC code of 14 bits (R221). -/
def isCode (c : Int) : Bool := decide (-8192 ≤ c) && decide (c ≤ 8191)

/-- A command position in counts: 32 signed bits (R259). -/
def isCount (x : Int) : Bool := decide (-2 ^ 31 ≤ x) && decide (x < 2 ^ 31)

/-- A start's outcomes name units and groups that exist, and a step of R430. -/
def StartEnv.wf (e : StartEnv) : Bool :=
  e.failedTiles.all (lt · 34) && e.failedSlices.all (lt · 25) && within 1 e.reached 8

/-- The command is well formed. -/
def Instr.wf (i : Instr) : Bool :=
  match i with
  | .aonPowerUp straps => lt straps 32
  | .corePwrgdRise env => env.wf
  | .startStepTimeout step => within 1 step 10
  | .corePwrgdFall => true
  | .sysclkLoss => true
  | .ref10mLoss => true
  | .ref10mRestored => true
  | .operatingSecondTick => true
  | .operatingSecondsRead party => isParty party
  | .registerWrite party _ off _ => isParty party && isOffset off
  | .readClear party off => isParty party && isOffset off
  | .leaseAcquire party => isParty party
  | .leaseRelease party => isParty party
  | .leaseKeepalive party => isParty party
  | .leaseWatchdogExpiry => true
  | .servicePodPresent => true
  | .servicePodRemoved => true
  | .gateClose party island => isParty party && lt island 128
  | .gateOpen party island => isParty party && lt island 128
  | .gateReset party island => isParty party && lt island 128
  | .gateLoad party island => isParty party && lt island 128
  | .islandResetDone _ => true
  | .gateRequest island requester seq _ _ off _ => lt island 128 && lt requester 64 && lt seq 256 && isOffset off
  | .gateDrainDone island => lt island 128
  | .gateDrainLimit island => lt island 128
  | .retryRepresent party island => isParty party && lt island 128
  | .requesterTimeout island requester => lt island 128 && lt requester 64
  | .hostReadExpiry party => isPort party
  | .pcieFunctionReset party => isPort party
  | .jobTailWrite party value => isParty party && lt value (2 ^ 32)
  | .takeDescriptor => true
  | .streamReady party value => isParty party && lt value (2 ^ 32)
  | .admissionStart => true
  | .admissionEnd => true
  | .armFurrow => true
  | .preRunStart => true
  | .jobAck party => isParty party
  | .jobCancelHead party => isParty party
  | .jobCancelJob party => isParty party
  | .jobCancelAll party => isParty party
  | .furrowComplete _ => true
  | .tilthTileDecode inst => lt inst 8
  | .harrowSegmentDone tile _ => lt tile 34
  | .harrowSecondOpinionDone _ => true
  | .harrowRetire party tile => isParty party && lt tile 34
  | .harrowAuditEnable party _ => isParty party
  | .madderMultRow row => lt row 65536
  | .madderRowConvert row => lt row 65536
  | .mdrMapBaseWrite party _ _ => isParty party
  | .sowShotCompute group _ => lt group 24
  | .sowAuditorSelfTestDone _ => true
  | .sowRetire party slice => isParty party && lt slice 25
  | .sowAuditEnable party _ => isParty party
  | .checkpointWriteDone => true
  | .laneFrameBoundary group lane => lt group 24 && lt lane 9
  | .ackShot group shot mask => lt group 24 && lt shot 65536 && lt mask 512
  | .ackFrame group seq => lt group 24 && lt seq 256
  | .nak group lane value => lt group 24 && lt lane 9 && lt value (2 ^ 32)
  | .shotReport group first fired lanes => lt group 24 && lt first 65536 && lt fired 16 && lt lanes 256
  | .statusWord group value => lt group 24 && lt value (2 ^ 32)
  | .laneState group locks _ => lt group 24 && lt locks 512
  | .fom group lane value => lt group 24 && lt lane 9 && lt value (2 ^ 32)
  | .memData group value => lt group 24 && lt value (2 ^ 32)
  | .idleBk group => lt group 24
  | .bkWordError code => lt code.group 24 && lt code.raw (2 ^ 50)
  | .bkLost group => lt group 24
  | .attemptTimeout group lane alive => lt group 24 && lt lane 9 && lt alive 256
  | .commandAttemptTimeout attempt => lt attempt.group 24 && lt attempt.seq 256
  | .linkAccountClose => true
  | .train party group => isParty party && lt group 24
  | .trainingTimeout group => lt group 24
  | .bkSlip party group => isParty party && lt group 24
  | .bkAlignSlipTest group _ => lt group 24
  | .fomTimeout group lane => lt group 24 && lt lane 9
  | .spareGo party group lane => isParty party && lt group 24 && lt lane 9
  | .blankAllCheck => true
  | .encSample codes => (codes.length == 4 && codes.all fun e => isCode e.1 && isCode e.2)
  | .encTrackingQualified ch => lt ch 4
  | .encAmplitudeFault ch => lt ch 4
  | .encYawFault axis => lt axis 2
  | .encSpeedRestart ch => lt ch 4
  | .encIndexEdge ch _ frac => lt ch 4 && lt frac 20
  | .reref party ch => isParty party && lt ch 4
  | .zeroX party => isParty party
  | .zeroY party => isParty party
  | .encFaultAck party mask => isParty party && lt mask (2 ^ 32)
  | .shotTrigger => true
  | .deflectionWord => true
  | .pathHoldTimeout => true
  | .homeX party => isParty party
  | .homeY party => isParty party
  | .movePlanner party => isParty party
  | .stopPlanner party => isParty party
  | .plannerMoveDone x y => isCount x && isCount y
  | .turnDwellEnd => true
  | .writingSegmentStart => true
  | .switchRawEdge sw _ _ => lt sw 6
  | .switchFilteredEdge sw => lt sw 6
  | .latchRearm party mask => isParty party && lt mask (2 ^ 32)
  | .trippedAck party mask => isParty party && lt mask (2 ^ 32)
  | .stoppedAck party => isParty party
  | .resumeFurrow => true
  | .repairTraverseArm => true
  | .repairSkip party => isParty party
  | .bankSwapRequest party _ => isParty party
  | .dmaClaim party ch => isParty party && lt ch 16
  | .dmaRelease party ch => isParty party && lt ch 16
  | .dmaStart party ch => isParty party && lt ch 16
  | .dmaAbort party ch => isParty party && lt ch 16
  | .dmaDescriptorFetch ch _ _ => lt ch 16
  | .dmaBurstDone ch _ _ => lt ch 16
  | .dmaAccessRetry ch _ _ => lt ch 16
  | .dmaTimerTick ch => lt ch 16
  | .smbusAddress addr _ => lt addr (2 ^ 32)
  | .smbusRead _ => true
  | .smbusWrite _ _ => true
  | .smbusReadTimeout => true
  | .usbRead space seq length addr => lt space 256 && lt seq 65536 && lt length (2 ^ 32) && lt addr (2 ^ 64)
  | .usbWrite space seq length addr data => lt space 256 && lt seq 65536 && lt length (2 ^ 32) && lt addr (2 ^ 64) && data.length == length
  | .memMapCfgWrite party _ => isParty party
  | .memInvalidate party => isParty party
  | .memScrub party => isParty party
  | .scrubPassEnd us => lt us (2 ^ 32)
  | .patrolPassEnd _ => true
  | .memRetire party phys => isParty party && lt phys 128
  | .pcCopyDone => true
  | .refreshReadingStale stack => lt stack 4
  | .retrainBurst stack => lt stack 4
  | .selfRefreshEnter party stack => isParty party && lt stack 4
  | .selfRefreshExit party stack => isParty party && lt stack 4
  | .selfRefreshAuto stack => lt stack 4
  | .memFreqChange party freq => isParty party && lt freq 4
  | .freqChangeDone => true
  | .flipArm party check => isParty party && lt check 256
  | .fenceNop seq off data => lt seq 256 && lt off 65536 && lt data (2 ^ 32)
  | .fenceRead seq off data => lt seq 256 && lt off 65536 && lt data (2 ^ 32)
  | .fenceWrite seq off data => lt seq 256 && lt off 65536 && lt data (2 ^ 32)
  | .fenceBadFrame _ bytes => lt bytes.length 10
  | .fenceWatchdogExpiry => true
  | .fenceFallow _ => true
  | .revokeLease => true
  | .leaseLock _ => true
  | .thermtripRelease => true
  | .fenceTripClear mask => lt mask (2 ^ 32)
  | .txEnableWrite value => lt value (2 ^ 32)
  | .limitForceWrite value => lt value (2 ^ 32)
  | .serviceEnableWrite _ => true
  | .doseCeilingWrite value => lt value (2 ^ 32)
  | .ledgerAuthorise key => lt key 65536
  | .holdReqEdge => true
  | .doorOkEdge => true
  | .interlockRelease _ => true
  | .hkRound readings _ => readings.length == 52
  | .aonComparatorRead readings => readings.length == 4
  | .thermalStopLimit => true
  | .thermalShutdown heldMs stopMs => lt heldMs 256 && lt stopMs (2 ^ 32)
  | .calRun party item => isParty party && lt item 9
  | .calDueAge item inst => lt item 9 && lt inst 256
  | .calInstanceStart => true
  | .calInstanceDone choice => lt choice 65536
  | .calRetryEligible item inst => lt item 9 && lt inst 256
  | .calOverdue item inst => lt item 9 && lt inst 256
  | .calTestCompose party => isParty party
  | .calTestDone => true
  | .tilthEncode party => isParty party
  | .tilthDecode party => isParty party
  | .tilthResume party => isParty party
  | .tilthSave party => isParty party
  | .tilthRestore party => isParty party
  | .tilthAbort party => isParty party
  | .tilthJobTileDone => true
  | .ledgerHoldExpiry => true
  | .ledgerCommit => true
  | .ledgerFreeze party => isParty party
  | .ledgerUnfreeze party => isParty party
  | .freezeTimeout => true
  | .ldgReadData party => isParty party
  | .clearRequest party => isParty party
  | .clearConfirm party => isParty party
  | .authorisationExpiry => true
  | .telemetryRecord => true
  | .usageClear party => isParty party
  | .chkClaim party => isParty party
  | .chkRelease party => isParty party
  | .chkInit party unit => isParty party && lt unit 4
  | .chkFeed8 party unit _ => isParty party && lt unit 4
  | .chkFeed16 party unit _ => isParty party && lt unit 4
  | .chkFeed32 party unit _ => isParty party && lt unit 4
  | .chkResult party unit => isParty party && lt unit 4
  | .nvlUpdate party => isParty party
  | .nvlAbort party => isParty party
  | .nvlConfirm party => isParty party
  | .nvlAdopt party => isParty party
  | .nvlVerify party target => isParty party && lt target 4
  | .flashOperationDone => true
  | .vddAonLoss => true
  | .xtal32Start _ => true
  | .sysclkRestored => true
  | .jtagInstruction _ => true
  | .keyProgram which key => lt which 2 && key.length == 32
  | .keyRevoke which => lt which 2
  | .pcieLinkUp party width speed => isPort party && lt width 16 && lt speed 16
  | .gateReply island requester => lt island 128 && lt requester 64
  | .switchFilteredInactive sw => lt sw 6
  | .memInvalidateDone => true
  | .retrainBurstDone stack => lt stack 4
  | .sramPatrolPass island data check => lt island 128 && (data.all fun u => lt u.1 (2 ^ 32) && lt u.2 64) &&
    check.all fun u => lt u.1 (2 ^ 32) && lt u.2 8
  | .usageClearDone => true

end Sys2Proof
end

