-- ==== Sys2Proof/Tests/Slice0.lean ====
section
/-! SUPPORT. Tests: what WellFormed refuses, single steps with results taken from the manual, and for each obligation with
hypotheses a concrete state and operands that meet them (witness_<its name>), clause by clause. -/

open Sys2Proof Sys2Proof.Machine

namespace Sys2Proof.Tests

set_option Elab.async false
set_option maxRecDepth 100000
set_option linter.unusedVariables false

/-- A gate that is open, with nothing outstanding. -/
def openGate : Gate := ⟨.opened, false, [], [], [], 0⟩

/-- The block powered and READY, every gate open, the lease held by host A. -/
def live : State :=
  let s := { State.reset with
    pins := { Pins.default with vddAon := true, corePwrgd := true, blankAllL := true }
    gates := (List.range 128).filterMap fun i =>
      if i != 0 && islandAssigned i && !islandFused .F i then some (i, openGate) else none }
  (s.set F.GLB_LEASE_HOLDER 1).set F.GLB_BOOT_STATUS_STATE 2

/-- The state after a command. -/
def after (c : Instr) (s : State) : State := match exec c s with | .next t => t | _ => s

/-- A party's access is carried out at once (Reaches). -/
def reaches (p off : Nat) (s : State) : Bool :=
  let g := s.gate (islandOf off)
  s.reaches p && !islandFused s.cls (islandOf off) && (islandOf off == 0 || (g.st == .opened && !g.outOfService)) &&
    !(s.retrying.any fun e => e.2.requester == p) &&
    !(g.accepted.any fun e => e.1.requester == p && e.1.nonIdem) &&
    !((alGet g.kept p).any fun k => k.seq == g.nextNum p)

theorem reaches_sound (p off : Nat) (s : State) (h : reaches p off s = true) : Reaches p off s := by
  simp only [reaches, Bool.and_eq_true, Bool.or_eq_true, Bool.not_eq_true', beq_iff_eq] at h
  obtain ⟨⟨⟨⟨⟨a, b⟩, c⟩, d⟩, e⟩, f⟩ := h
  exact ⟨a, b, c.imp id fun x => ⟨x.1, x.2⟩, d, e, f⟩

/-- The lease holder's access is carried out at once (Commands). -/
def commands (p off : Nat) (s : State) : Bool := reaches p off s && s.holder == p && p != 3

theorem commands_sound (p off : Nat) (s : State) (h : commands p off s = true) : Commands p off s := by
  simp [commands] at h
  exact ⟨reaches_sound p off s h.1.1, h.1.2, h.2⟩

/-! ### What WellFormed refuses, one ill-formed command for each check -/

theorem test_wf_party : Instr.wf (.leaseAcquire 0) = false ∧ Instr.wf (.leaseAcquire 5) = false := by decide
theorem test_wf_port : Instr.wf (.pcieFunctionReset 3) = false := by decide
theorem test_wf_offset : Instr.wf (.registerWrite 1 false 0x4000000 0) = false ∧ Instr.wf (.readClear 1 6) = false := by
  decide
theorem test_wf_straps : Instr.wf (.aonPowerUp 32) = false := by decide
theorem test_wf_start : Instr.wf (.corePwrgdRise ⟨[34], [], false, true, true, 8⟩) = false ∧
    Instr.wf (.corePwrgdRise ⟨[], [25], false, true, true, 8⟩) = false ∧
    Instr.wf (.corePwrgdRise ⟨[], [], false, true, true, 0⟩) = false ∧
    Instr.wf (.corePwrgdRise ⟨[], [], false, true, true, 9⟩) = false := by decide
theorem test_wf_step : Instr.wf (.startStepTimeout 0) = false ∧ Instr.wf (.startStepTimeout 11) = false := by decide
theorem test_wf_island : Instr.wf (.gateClose 1 128) = false ∧ Instr.wf (.gateReply 128 1) = false := by
  decide
theorem test_wf_requester : Instr.wf (.gateRequest 0 64 0 false false 0 0) = false ∧
    Instr.wf (.gateRequest 0 1 0 false false 2 0) = false ∧ Instr.wf (.gateReply 1 64) = false := by decide
theorem test_wf_sequence : Instr.wf (.commandAttemptTimeout ⟨0, 256⟩) = false ∧ Instr.wf (.ackFrame 0 256) = false := by
  decide
theorem test_wf_value : Instr.wf (.jobTailWrite 1 (2 ^ 32)) = false ∧ Instr.wf (.statusWord 0 (2 ^ 32)) = false := by decide
theorem test_wf_units : Instr.wf (.tilthTileDecode 8) = false ∧ Instr.wf (.harrowRetire 1 34) = false ∧
    Instr.wf (.sowRetire 1 25) = false := by decide
theorem test_wf_link : Instr.wf (.laneFrameBoundary 24 0) = false ∧ Instr.wf (.laneFrameBoundary 0 9) = false ∧
    Instr.wf (.ackShot 0 65536 1) = false ∧ Instr.wf (.shotReport 0 0 16 0) = false ∧
    Instr.wf (.bkWordError ⟨0, false, 2 ^ 50⟩) = false := by decide
theorem test_wf_sample : Instr.wf (.encSample [(0, 0), (0, 0), (0, 0)]) = false ∧
    Instr.wf (.encSample [(0, 0), (0, 0), (0, 0), (8192, 0)]) = false := by decide
theorem test_wf_stage : Instr.wf (.encIndexEdge 0 true 20) = false ∧ Instr.wf (.encYawFault 2) = false ∧
    Instr.wf (.switchRawEdge 6 false true) = false := by decide
theorem test_wf_memory : Instr.wf (.retrainBurst 4) = false ∧ Instr.wf (.memRetire 1 128) = false ∧
    Instr.wf (.flipArm 1 256) = false ∧ Instr.wf (.sramPatrolPass 12 [(0, 64)] []) = false ∧
    Instr.wf (.dmaStart 1 16) = false := by decide
theorem test_wf_usb : Instr.wf (.usbWrite 2 0 4 0 []) = false ∧ Instr.wf (.usbRead 256 0 4 0) = false := by decide
theorem test_wf_fence : Instr.wf (.fenceRead 0 65536 0) = false ∧
    Instr.wf (.fenceBadFrame 72 (List.replicate 10 0)) = false := by decide
theorem test_wf_readings : Instr.wf (.hkRound [] true) = false ∧ Instr.wf (.aonComparatorRead [0, 0, 0]) = false := by decide
theorem test_wf_items : Instr.wf (.calRun 1 9) = false ∧ Instr.wf (.calDueAge 1 256) = false ∧
    Instr.wf (.chkInit 1 4) = false := by decide
theorem test_wf_key : Instr.wf (.keyProgram 0 []) = false ∧ Instr.wf (.keyRevoke 2) = false := by decide
theorem test_wf_good : Instr.wf (.leaseAcquire 1) = true ∧ Instr.wf (.encSample (List.replicate 4 (8191, -8192))) = true ∧
    Instr.wf (.keyProgram 1 (List.replicate 32 0)) = true := by decide

/-- The opcode table gives its rows no bits, so no word spells a command. -/
theorem test_no_word_spells_a_command : decodeTableWord 32 0 = none ∧ decodeTableWord 0 0 = none := by decide

/-! ### Worked examples and tables of the manual -/

/-- The nine characters "123456789". -/
def digits : List Byte := [0x31, 0x32, 0x33, 0x34, 0x35, 0x36, 0x37, 0x38, 0x39]

/-- R402's table gives the results over "123456789". -/
theorem test_check_values : chkFinal 0 (digits.foldl (chkByte 0) (chkInit 0)) = 0xCBF43926 ∧ crc32c digits = 0xE3069283 ∧
    crc16 digits = 0x29B1 := by decide +kernel

/-- The example of R404: the Fence request of R348 checked on U03 gives EC. -/
theorem test_chk_example :
    let s := after (.chkInit 1 3) ((after (.chkClaim 1) live).set (F.CHK_Unn_CTRL_POLY 3) 3)
    let t := after (.chkFeed32 1 3 0x00000080) (after (.chkFeed32 1 3 0x04001102) s)
    t.rd (F.CHK_Unn_RESULT 3).off = 0xEC ∧ t.f (F.CHK_Unn_COUNT_BYTES 3) = 8 := by decide +kernel

/-- R270: when Host A acquires before Host B releases, Host A receives BUSY and the lease is then free. -/
theorem test_lease_order :
    let s := after (.leaseRelease 2) (after (.leaseAcquire 1) (live.set F.GLB_LEASE_HOLDER 2))
    alGet s.leaseResult 1 = some 2 ∧ s.holder = 0 := by decide +kernel

/-- One address under two maps (chapter 12): 2 4000 5ABC lies in physical pseudo-channel 33, and with RESERVE 2 in 51. -/
theorem test_address_map :
    live.physOf 0x240005ABC = 33 ∧
    (after (.memMapCfgWrite 1 0x000C0002) live).physOf 0x240005ABC = 51 ∧
    (after (.memMapCfgWrite 1 0x000C0002) live).capacity = 63 * 2 ^ 30 := by decide +kernel

/-- Worked coverage of chapter 5: rectangle A, x 1,230.5–1,250.0, y 500,040.25–500,100.25. -/
def rectA : List Edge := edgesOf [(19688, 8000644), (20000, 8000644), (20000, 8001604), (19688, 8001604)]

theorem test_coverage_rectangle : coverage rectA 1230 500040 = 96 ∧ coverage rectA 1230 500041 = 128 ∧
    coverage rectA 1231 500040 = 191 ∧ coverage rectA 1230 500100 = 32 ∧ coverage rectA 1249 500100 = 64 ∧
    coverage rectA 1249 500070 = 255 ∧ coverage rectA 1250 500070 = 0 := by decide +kernel

/-- Triangle C of chapter 5: whole, cut on the diagonal, and touched at a corner. -/
theorem test_coverage_triangle :
    let c := edgesOf [(22400, 8000800), (22720, 8000800), (22400, 8001120)]
    coverage c 1400 500050 = 255 ∧ coverage c 1409 500060 = 128 ∧ coverage c 1410 500060 = 0 := by decide +kernel

/-- Saturation and overlap, the last example of that section: 128 and 128 of classes 5 and 9, then 255 of class 5. -/
theorem test_overlap : combine [(128, 5), (128, 9)] = (255 * 256 + 9, true) ∧
    combine [(128, 5), (128, 9), (255, 5)] = (255 * 256 + 128 + 9, true) := by decide

/-- Tile 160 of the worked coding of chapter 4, coded in book 0. -/
theorem test_tilth_slot :
    encodeSlot 4 ⟨List.replicate 8 0, List.replicate 8 0, 0⟩
      ((List.replicate 8 ([0, 0, 0, 64, 255, 255, 255, 255] : List Byte)).flatten) =
      some [0x5FC03F88, 0x00000010, 0, 0] := by decide +kernel

/-- Worked ceiling, class H (chapter 7): 700 quanta under cp 300 send 600, 13 to the first 24 of the sowing order. -/
theorem test_distribution_ceiling :
    let s := { live with fuses := { live.fuses with cls := .H } }
    let d := distribute [] [0, 0] s 0 15 300 1000 1000 (700 * 64)
    d.codes.sum = 600 ∧ d.clamped = true ∧ d.codes.getD (sowOrder 23) 0 = 13 ∧ d.codes.getD (sowOrder 24) 0 = 12 := by
  decide +kernel

/-- The first response of the Fence port carries NONE with its CRC-8 (R348). -/
theorem test_fence_none : Fence.empty.response.take 8 = [0x06, 0, 0, 0, 0, 0, 0, 0] ∧
    crc8 (Fence.empty.response.take 8) = 0x56 := by decide +kernel

/-! ### Hypotheses of a statement over commands -/

/-- A command that is neither of the keys nor of time (LifetimeStateKept). -/
theorem witness_LifetimeStateKept : (∀ w k, Instr.jobAck 1 ≠ .keyProgram w k) ∧ (∀ w, Instr.jobAck 1 ≠ .keyRevoke w) ∧
    Instr.jobAck 1 ≠ .operatingSecondTick ∧ Instr.jobAck 1 ≠ .vddAonLoss ∧ (∀ e, Instr.jobAck 1 ≠ .corePwrgdRise e) := by
  simp

/-! ### The hypotheses of the obligations are met -/

theorem witness_StepRunsFrontCommand :
    (let s : State := State.reset
     s.pending = []) := by
  decide +kernel

theorem witness_CanonicalFormKept :
    (let s : State := { live with pending := [.memScrub 1] }
     s.pending = [.memScrub 1] ∧ Memory.wf dramDefault s.mem.cells = true ∧
       Memory.wf flashDefault s.nvl.flash = true ∧ alSorted s.regs = true ∧
       (match step s with | .next _ => true | _ => false) = true) := by
  decide +kernel

/-- A start in which every step ends in time. -/
def allEnd (n : Nat) : StartEnv := ⟨[], [], false, true, true, n⟩

/-- AON alone has power. -/
def aonUp : State := { State.reset with pins := { Pins.default with vddAon := true } }

theorem witness_StartOutcomes :
    (let s : State := { aonUp with pins := { aonUp.pins with sysclk := false } }
     s.pins.vddAon = true ∧ s.pins.corePwrgd = false ∧ s.on F.FNC_STATUS_THERMTRIP = false ∧
       s.pins.sysclk = false) ∧
    (let s : State := { aonUp with pins := { aonUp.pins with ref10m := false } }
     s.pins.vddAon = true ∧ s.pins.corePwrgd = false ∧ s.on F.FNC_STATUS_THERMTRIP = false ∧
       s.pins.ref10m = false) ∧
    (let s : State := aonUp
     s.pins.vddAon = true ∧ s.pins.corePwrgd = false ∧ s.on F.FNC_STATUS_THERMTRIP = false ∧ s.pins.sysclk = true ∧
       s.pins.ref10m = true ∧ 8 ≤ (allEnd 8).reached ∧ s.gates = [] ∧ s.cal = Cal.empty ∧
       (s.groups.all fun g => s.groupState g == 0) = true) ∧
    (let s : State := { (live.set F.GLB_BOOT_STATUS_STATE 1).set F.GLB_BOOT_STATUS_STEP 9 with link := [(0, { live.grp 0 with phase := 1, tries := 1 })] }.set (F.DRL_Gnn_STATUS_STATE 0) 1
     s.f F.GLB_BOOT_STATUS_STATE = 1 ∧ s.f F.GLB_BOOT_STATUS_STEP = 9 ∧ s.groupState 0 = 1 ∧
       (s.groups.all fun h => h == 0 || s.groupState h != 1) = true ∧ (s.grp 0).phase ≠ 0 ∧ (s.grp 0).tries ≠ 0) ∧
    (let s : State := aonUp
     (allEnd 7).reached < 8) ∧
    (let s : State := (live.set F.GLB_BOOT_STATUS_STATE 1).set F.GLB_BOOT_STATUS_STEP 10
     s.f F.GLB_BOOT_STATUS_STATE = 1 ∧ s.f F.GLB_BOOT_STATUS_STEP = 10) := by
  decide +kernel

theorem witness_CoreDownLosesAllButAon :
    (let s : State := live
     s.pins.corePwrgd = true ∧ s.pins.vddAon = true ∧ s.on F.FNC_STATUS_THERMTRIP = false) := by
  decide +kernel

/-- A furrow's run with 1,656 shots. -/
def aRun : Run :=
  { phase := .writing, nShot := 1656, tq := 0, sf := 8, segFirst := 0, segLast := 1655, fired := true, begun := true
    computed := List.replicate 24 16, mc := 15, cp := 720, maxQuanta := 720, flags := 0, resumes := 0, entries := 0
    causes := 0, unacked := 0, dueCauses := 0, cancelled := false, holdFresh := false, pauseFrom := 0, resumeTable := []
    mc0 := 15, cp0 := 720, mcIn := 15, resumeDue := false, lowered := false, firstSend := 0, captured := 0
    sig := List.replicate 24 (0, 0), groupsFallow := 0, trav := false, mid := false, mainSf := 0, roundOpen := false
    round := 0, runs := [], nextRound := [], repaired := 0, unrepaired := 0, lost := 0, finishing := false, ending := false }

/-- A descriptor of a furrow of 128 rows, the last of its pass. -/
def aDesc : Desc := ⟨1, 0, false, 1, 0, 0, 128, 1, true, 0x10000000, 1024, 0, 7, .admitted, false, 1⟩

/-- A furrow at the head of the queue being run. -/
def running (r : Run) : State := { live with jobs := { Jobs.empty with queue := [aDesc], run := some r, headRead := true } }

theorem witness_ClockAndTapCommands :
    (let s : State := live
     s.jobs.run = none) ∧
    (let s : State := { running aRun with shot := { ShotTiming.empty with committed := some 0 } }
     s.jobs.run = some aRun ∧ aRun.phase ≠ .held ∧ s.shot.committed.isSome = true) ∧
    (let s : State := live
     s.pins.vddAon = true) ∧
    (let s : State := { live with ret := { Retention.empty with seconds := 2 ^ 32 - 1 } }
     s.pins.vddAon = true) := by
  decide +kernel

theorem witness_KeyLifecycle :
    (let s : State := live
     s.fuses.key0State = 0 ∧ s.fuses.key1State = 0 ∧ s.islandOpen 1 = true) ∧
    (let s : State := { live with fuses := { Fuses.default with key0State := 1, key1State := 1 } }
     s.fuses.key0State = 1 ∧ s.fuses.key1State ≠ 0 ∧ s.islandOpen 1 = true) ∧
    (let s : State := { live with fuses := { Fuses.default with key0State := 2, key1State := 1 } }
     s.fuses.key0State = 2 ∧ s.fuses.key1State = 1) ∧
    (let s : State := { live with fuses := { Fuses.default with key0State := 2, key1State := 1 } }
     s.fuses.key0State ≠ 0) := by
  decide +kernel

theorem witness_PcieLinkAndReset :
    (let s : State := live
     s.islandOpen 2 = true ∧ s.islandOpen 3 = true) ∧
    (let s : State := { live with ctx := [(1, live.ctxOf 1), (2, live.ctxOf 2)] }
     (alGet s.gates 3).isSome = true) := by
  decide +kernel

/-- The row of the register map at an offset. -/
def rowAt (off : Nat) : RegRow := (regRow off).getD ⟨"", 0, 0, 0, 0, 0, []⟩


theorem witness_RegisterWriteStores :
    (let s : State := live
     commands 1 F.LDG_TELEM_BASE_LO.off s ∧ (regRow F.LDG_TELEM_BASE_LO.off).isSome ∧
       (rowAt F.LDG_TELEM_BASE_LO.off).settings = true ∧ plainReg F.LDG_TELEM_BASE_LO.off = true ∧
       notOwner 1 F.LDG_TELEM_BASE_LO.off s = false) ∧
    (let s : State := live.set F.GLB_LEASE_HOLDER 4
     commands 1 F.LDG_TELEM_BASE_LO.off live ∧ (rowAt F.LDG_TELEM_BASE_LO.off).settings = true ∧
       plainReg F.LDG_TELEM_BASE_LO.off = true) := by
  decide +kernel

theorem witness_RegisterWriteRefused :
    (let s : State := live
     reaches 2 F.LDG_TELEM_BASE_LO.off s ∧ s.holder ≠ 2 ∧ (rowAt F.LDG_TELEM_BASE_LO.off).settings = true ∧
       plainReg F.LDG_TELEM_BASE_LO.off = true ∧
       ((rowAt F.LDG_TELEM_BASE_LO.off).fields.any fun x => x.acc == .lw && bits 0xFFFFFFFF x.hi x.lo != bits (s.peek 2 F.LDG_TELEM_BASE_LO.off) x.hi x.lo) = true ∧ mgmtOpen F.LDG_TELEM_BASE_LO.off = false) ∧
    (let s : State := live
     reaches 3 F.LDG_TELEM_BASE_LO.off s ∧ s.holder ≠ 3) := by
  decide +kernel

theorem witness_ReadsAnswer :
    (let s : State := live.set F.GLB_REFUSED_COUNT_HOST_A 5
     reaches 1 F.GLB_REFUSED_COUNT.off s ∧ (regRow F.GLB_REFUSED_COUNT.off).isSome ∧
       F.GLB_REFUSED_COUNT.off < 0x1000000 ∧
       ((rowAt F.GLB_REFUSED_COUNT.off).fields.all fun x => decide (x.lo ≤ x.hi) && decide (x.hi < 32)) = true ∧
       ((rowAt F.GLB_REFUSED_COUNT.off).fields.any fun x => x.acc == .rc) = true ∧ reaches 1 0x10 s) ∧
    (let s : State := { live with smbusStatus := 1, fuses := { live.fuses with cls := .Q } }
     s.reaches 3 = true ∧ islandFused s.cls (islandOf 0x120000) = true) := by
  decide +kernel

theorem witness_LeaseCommands :
    (let s : State := live
     reaches 3 F.GLB_LEASE.off s) ∧
    (let s : State := live
     s.pins.vddAon = true ∧ s.pins.loading = false ∧ s.holder ≠ 0 ∧
       reaches 2 F.GLB_LEASE.off (after .revokeLease s) = true) ∧
    (let s : State := live
     reaches 1 F.GLB_LEASE.off s ∧ reaches 2 F.GLB_LEASE.off s ∧ s.holder = 1) ∧
    (let s : State := live.set F.GLB_LEASE_HOLDER 0
     s.on F.FNC_CTRL_LEASE_LOCK = false ∧ s.holder = 0 ∧ reaches 2 F.GLB_LEASE.off s) := by
  decide +kernel

/-- The block with the service pod present and enabled. -/
def pod : State :=
  let s := { live with pins := { live.pins with svcSense := true } }
  (s.set F.FNC_INTERLOCK_CFG_SERVICE_ENABLE 1).set F.FNC_STATUS_SERVICE_PRESENT 1


theorem witness_ServicePod :
    (let s : State := live.set F.FNC_INTERLOCK_CFG_SERVICE_ENABLE 1
     s.pins.vddAon = true) ∧
    (let s : State := pod.set F.GLB_LEASE_HOLDER 4
     s.on F.FNC_STATUS_SERVICE_PRESENT = true ∧ s.holder = 4) := by
  decide +kernel

theorem witness_GateCommandsAccepted :
    (let s : State := live
     commands 1 F.GLB_GATE_CTRL.off s ∧ s.gateCmd = none ∧ s.f F.GLB_BOOT_STATUS_STATE ≠ 1 ∧
       islandAssigned 11 = true ∧ islandFused s.cls 11 = false ∧ s.gateAccepts 11 1 = true ∧
       s.gateAccepts 11 3 = true ∧ s.gateAccepts 11 4 = true ∧ (s.gate 11).st = .opened) ∧
    (let s : State := live.setGate 11 { openGate with st := .closed, outOfService := true }
     s.gateAccepts 11 2 = true ∧ (s.gate 11).st = .closed ∧ (s.gate 11).outOfService = true) := by
  decide +kernel

/-- Slot A of the flash with a DEFAULTS section whose CRC does not match. -/
def badDefaults : List Host.Cell :=
  [(6, 1), (7, 0), (64, 0), (65, 0x10), (66, 0), (67, 0), (68, 8), (69, 0), (70, 0), (71, 0), (72, 3), (73, 0)]

/-- A read by host B of a register of island 11. -/
def aReq : Req := ⟨2, 0, false, false, F.TLT_JOB_STATUS.off, 0, false⟩

/-- A write by host B of a register of island 11 that acts, numbered 5. -/
def actReq : Req := ⟨2, 5, true, true, F.TLT_JOB_CTRL.off, 0, false⟩


theorem witness_GateClosesAndOpens :
    (let s : State := { live.setGate 11 { openGate with st := .closing } with gateCmd := some ⟨1, 11, false⟩ }
     s.gateCmd = some ⟨1, 11, false⟩ ∧ (s.gate 11).st = .closing ∧ (s.gate 11).accepted = [] ∧ s.issued 11 = 0) ∧
    (let s : State := { (live.set F.NVL_STATUS_ACTIVE 2).setGate 11 { openGate with st := .closed } with gateCmd := some ⟨3, 11, false⟩ }
     s.gateCmd = some ⟨3, 11, false⟩ ∧ (s.gate 11).st = .closed ∧ reloadFail 11 false s.begin = none) ∧
    (let s : State := { (live.set F.NVL_STATUS_ACTIVE 0).setGate 11 { openGate with st := .closed } with gateCmd := some ⟨4, 11, false⟩, nvl := { Nvl.empty with flash := badDefaults } }
     s.gateCmd = some ⟨4, 11, false⟩ ∧ (s.gate 11).st = .closed ∧ reloadFail 11 true s.begin ≠ none) := by
  decide +kernel

theorem witness_GateRequests :
    (let s : State := live
     s.canRequest 5 = false) ∧
    (let s : State := live
     islandOf F.TLT_JOB_STATUS.off = 11 ∧ s.canRequest 2 = true ∧ s.gated 11 = true ∧
       (s.retrying.any fun e => e.2.requester == 2 && e.1 == 11) = false ∧
       nonIdem F.TLT_JOB_STATUS.off false = false ∧ (s.gate 11).outOfService = false ∧ (s.gate 11).st = .opened) ∧
    (let s : State := live.setGate 11 { openGate with st := .closing }
     s.canRequest 2 = true ∧ (s.gate 11).outOfService = false ∧ (s.gate 11).st ≠ .opened) ∧
    (let s : State := live.setGate 11 { openGate with st := .closed, outOfService := true }
     s.canRequest 3 = true ∧ s.canRequest 1 = true ∧ (s.gate 11).outOfService = true) ∧
    (let s : State := live.setGate 11 { openGate with nums := [(2, 4)] }
     s.canRequest 2 = true ∧ s.gated 11 = true ∧ nonIdem F.TLT_JOB_CTRL.off true = true ∧
       (s.gate 11).outOfService = false ∧ (s.gate 11).st = .opened ∧ (s.gate 11).accepted = [] ∧
       alGet (s.gate 11).kept 2 = none) ∧
    (let s : State := live.setGate 11 { openGate with nums := [(2, 5)], kept := [(2, ⟨5, 0, 99⟩)] }
     alGet (s.gate 11).kept 2 = some ⟨5, 0, 99⟩ ∧ alGet (s.gate 11).nums 2 = some 5 ∧ (s.gate 11).accepted = []) ∧
    (let s : State := live.setGate 11 { openGate with accepted := [(aReq, 0)] }
     (s.gate 11).accepted = [(aReq, 0)] ∧ aReq.write = false ∧ aReq.nonIdem = false ∧ aReq.direct = false ∧
       engineIsland 2 ≠ 11 ∧ (engineIsland 2 = 0 ∨ (s.gate (engineIsland 2)).st ≠ .closed)) ∧
    (let s : State := (live.setGate 11 { openGate with accepted := [({ aReq with requester := 16 }, 0)] }).setGate (engineIsland 16) { openGate with st := .closed }
     engineIsland 16 ≠ 0 ∧ engineIsland 16 ≠ 11 ∧ (s.gate (engineIsland 16)).st = .closed) := by
  decide +kernel

theorem witness_WaitingRequests :
    (let s : State := { live with retrying := [(11, aReq)] }
     s.retrying = [(11, aReq)] ∧ aReq.direct = false ∧ aReq.nonIdem = false ∧ (s.gate 11).st = .opened ∧
       (s.gate 11).outOfService = false) ∧
    (let s : State := live.setGate 11 { openGate with accepted := [(aReq, 2)] }
     (s.gate 11).accepted = [(aReq, 2)]) ∧
    (let s : State := live.setGate 11 { openGate with accepted := [(aReq, 3)] }
     (s.gate 11).accepted = [(aReq, 3)] ∧ aReq.requester < 8) ∧
    (let s : State := { live with retrying := [(11, aReq)] }
     aReq.write = false ∧ aReq.requester = 2) ∧
    (let s : State := { live with retrying := [(11, { aReq with requester := 3, direct := true })] }
     s.retrying = [(11, { aReq with requester := 3, direct := true })]) := by
  decide +kernel

theorem witness_SmbusAccesses :
    (let s : State := { live with smbusAddr := 0xFFFFFFFC }
     s.pins.vddAon = true) ∧
    (let s : State := { live with smbusAddr := F.TLT_JOB_STATUS.off }
     reaches 3 s.smbusAddr s = true ∧ s.pins.vddAon = true) ∧
    (let s : State := { live with smbusAddr := F.TLT_JOB_STATUS.off }.setGate 11 { openGate with st := .closed, outOfService := true }
     s.reachable s.smbusAddr = false) := by
  decide +kernel

theorem witness_UsbRequests :
    (let s : State := live
     s.pins.svcSense = false) ∧
    (let s : State := { live with pins := { live.pins with svcSense := true } }
     s.pins.svcSense = true ∧ s.islandOpen 4 = true ∧ s.usb = [] ∧ s.on F.FNC_STATUS_SERVICE_PRESENT = false) ∧
    (let s : State := pod
     s.pins.svcSense = true ∧ s.islandOpen 4 = true ∧ s.usb = [] ∧ s.on F.FNC_STATUS_SERVICE_PRESENT = true ∧
       UsbReq.bad ⟨1, 3, 0, 4, 0, [], 0, [], 0⟩ = true ∧ s.reachable 0 = true) ∧
    (let s : State := pod.setGate 11 { openGate with st := .closed }
     s.reachable F.TLT_JOB_STATUS.off = false ∧ (s.gate 11).outOfService = false ∧ F.TLT_JOB_STATUS.off % 4 = 0) ∧
    (let s : State := pod
     s.begin.meetsLocked 64 8 = false ∧ s.begin.memWaits 64 8 = false ∧
       (memWrite 4 64 (sliceBytes [1, 2, 3, 4, 5, 6, 7, 8] 0 8) s.begin).1 = true) ∧
    (let s : State := pod.set F.GLB_LEASE_HOLDER 4
     commands 4 F.LDG_TELEM_BASE_LO.off s ∧ notOwner 4 F.LDG_TELEM_BASE_LO.off s = false ∧
       F.LDG_TELEM_BASE_LO.off % 4 = 0) := by
  decide +kernel

/-- Bytes of a buffer from its cells, unlisted zero. -/
def descCells : List Host.Cell :=
  [(1, 1), (2, 68), (3, 74), (4, 1), (12, 128), (17, 1), (23, 16), (28, 192), (29, 1), (40, 7), (124, 172), (125, 35),
   (126, 126), (127, 200)]

/-- A descriptor of 128 rows waits in host A's ring. -/
def posted : State := { live with ctx := [(1, { Ctx.empty with jobTail := 1, jobRing := descCells })] }

/-- What host A's ring holds at its head. -/
def ringBytes (s : State) : List Byte := (List.range 128).map fun i => cellGet 0 (s.ctxOf 1).jobRing (128 * ((s.ctxOf 1).jobHead % 64) + i)


theorem witness_DescriptorsTaken :
    (let s : State := live
     s.reaches 1 = true ∧ s.reaches 2 = true) ∧
    (let s : State := posted
     s.holder = 1 ∧ s.islandOpen 5 = true ∧ s.mayTake 1 = true ∧ s.jobs.cancelJob = none ∧
       (s.jobs.queue.all fun e => !e.density) = true ∧ (parseDesc 1 0 (ringBytes s)).density = false ∧
       descStatus (ringBytes s) (parseDesc 1 0 (ringBytes s)) s.begin = none) ∧
    (let s : State := { posted with ctx := [(1, { Ctx.empty with jobTail := 1, jobRing := descCells.take 13 })] }
     s.mayTake 1 = true ∧ descStatus (ringBytes s) (parseDesc 1 0 (ringBytes s)) s.begin = some 2) := by
  decide +kernel

/-- A descriptor queued, its stream not yet posted. -/
def queued (d : Desc) : State := { live with ctx := [(1, { Ctx.empty with streamJob := 1 })], jobs := { Jobs.empty with queue := [d] } }


theorem witness_StreamPosted :
    (let s : State := queued { aDesc with stream := .none }
     s.reaches 1 = true ∧ doorbellDesc 1 0 0 s.begin = some { aDesc with stream := .none } ∧ aDesc.feeder = 1 ∧
       (s.jobs.posts.filter fun q => q.1 == 1).length < 16) ∧
    (let s : State := queued aDesc
     doorbellDesc 1 3 65535 s.begin = none) ∧
    (let s : State := { queued { aDesc with stream := .posted } with jobs := { Jobs.empty with queue := [{ aDesc with stream := .posted }], posts := [(1, 1, 0)] } }
     s.islandOpen 5 = true ∧ s.jobs.admitting = none ∧ s.jobs.posts = [(1, 1, 0)]) := by
  decide +kernel

/-- A stream of two segments with one polygon each, at its descriptor's address. -/
def streamCells : List Host.Cell :=
  ([(0, 83), (1, 82), (2, 79), (3, 90), (5, 1), (7, 1), (8, 1), (16, 128), (20, 2), (28, 192), (29, 1), (60, 8),
    (61, 73), (62, 191), (63, 226), (84, 32), (85, 78), (100, 40), (101, 35), (184, 160), (185, 15), (186, 1),
    (320, 21), (324, 3), (328, 24), (332, 2), (339, 213), (340, 3), (344, 32), (348, 190), (349, 177), (350, 48),
    (351, 204), (353, 8), (354, 64), (355, 17), (356, 8), (357, 76), (358, 9), (359, 7), (361, 80), (362, 1),
    (365, 8), (366, 128), (367, 23), (368, 56), (369, 68), (370, 145), (371, 1), (372, 188), (373, 71), (374, 1),
    (377, 4), (379, 240), (384, 1), (387, 213), (388, 2), (392, 16), (396, 72), (397, 167), (398, 232), (399, 36),
    (400, 76), (401, 8), (402, 64), (403, 18), (404, 32), (405, 72), (406, 121), (407, 5), (408, 164), (409, 75),
    (410, 1), (415, 240)] : List (Nat × Byte)).map fun e => (0x10000000 + e.1, e.2)

/-- Its descriptor while it is admitted. -/
def entering : Desc := { aDesc with size := 448, lastInPass := false, stream := .admitting }

/-- Its admission is under way. -/
def admitting (cells : List Host.Cell) : State :=
  { live with
    jobs := { Jobs.empty with queue := [entering], admitting := some (1, 1, 0) }
    mem := { Mem.empty with cells := cells, valid := [0x10000] } }


theorem witness_AdmissionEnds :
    (let s : State := admitting streamCells
     s.jobs.admitting = some (1, 1, 0) ∧ s.begin.memWaits entering.addr entering.size = false ∧
       (s.jobs.queue.find? fun e => e.party == 1 && e.ringSeq == 0) = some entering ∧
       (match (admitDesc entering { s.begin with jobs := { s.begin.jobs with admitting := none } }).1 with | .inr _ => true | .inl _ => false) = true) ∧
    (let s : State := admitting (streamCells.drop 1)
     s.begin.memWaits entering.addr entering.size = false ∧
       (match (admitDesc entering { s.begin with jobs := { s.begin.jobs with admitting := none } }).1 with | .inr _ => false | .inl _ => true) = true) := by
  decide +kernel

/-- The header of the stream of aDesc. -/
def aInfo : StreamInfo := ⟨1, 0, 1, 0, 0, 0x10000000, 1024, 128, 0, 0, 0, 0, 7, []⟩

/-- A calibration instance that holds its result. -/
def calibrated : CalInst := ⟨true, false, false, false, 0, none, 0, 0, false, 0, 0⟩

/-- Everything that lets a furrow arm: referenced encoders, an axis pair homed, an active image, groups ready. -/
def ready (r : Option Run) : State :=
  let s := { live with jobs := { Jobs.empty with queue := [aDesc], run := r, headRead := true } }
  let s := { s with path := { Path.empty with streams := [aInfo], cur := some (Work.start aInfo false 0 []), fieldNext := 3, recs := [(0, List.replicate 8 0)] } }
  let insts := (List.range 9).flatMap fun item =>
    (List.range 240).filterMap fun i => if s.calExists item i then some (256 * item + i, calibrated) else none
  let s := { s with cal := { Cal.empty with insts } }
  let s := (List.range 24).foldl (fun s g => s.set (F.DRL_Gnn_STATUS_STATE g) 2) s
  let s := (List.range 4).foldl (fun s k => s.set (F.ENC_Cnn_STATUS_STATE k) 2) s
  (((s.set F.PLN_STATUS_HOMED_X 1).set F.PLN_STATUS_HOMED_Y 1).set F.NVL_STATUS_ACTIVE 0).set F.FNC_STATUS_BLANK_ALL 0


theorem witness_ArmFurrow :
    (let s : State := ready none
     s.head? = some aDesc ∧ s.furrowArmed = false ∧ s.islandOpen 5 = true ∧ s.f F.GLB_BOOT_STATUS_STATE ≠ 1 ∧
       (jobBegins aDesc s.begin).blockCode aDesc = none ∧ (jobBegins aDesc s.begin).headWaits aDesc = false ∧
       (s.groups.all fun g => s.groupState g == 2) = true) ∧
    (let s : State := { ready none with jobs := { Jobs.empty with queue := [aDesc] } }
     (jobBegins aDesc s.begin).blockCode aDesc = none ∧ (jobBegins aDesc s.begin).headWaits aDesc = true) ∧
    (let s : State := (ready none).set F.PLN_STATUS_HOMED_Y 0
     (jobBegins aDesc s.begin).blockCode aDesc = some 0x1E) := by
  decide +kernel

theorem witness_PreRunStart :
    (let s : State := { ready none with path := { (ready none).path with cur := none, mapJob := 1, maps := [⟨none, []⟩, ⟨some (1, 0, 0), []⟩] }, bankA := [(0x1310600, 0)] }
     s.head? = some aDesc ∧ s.jobs.run = none ∧ s.islandOpen 12 = true ∧
       (let s0 := jobBegins aDesc s.begin; s0.readyToArm aDesc = true ∧ s0.path.preWork = none ∧
       s0.mapNeed aDesc = 1 ∧ s.streamOf aDesc = some aInfo ∧
       (s0.mapIndex (1, 0, 0)).or (s0.freeMap aDesc) = some 1)) := by
  decide +kernel

theorem witness_AckAndCancels :
    (let s : State := running { aRun with phase := .held, unacked := 2 }
     commands 1 F.JOB_CTRL.off s ∧ s.head? = some aDesc ∧
       s.begin.jobs.run = some { aRun with phase := .held, unacked := 2 }) ∧
    (let s : State := { ready none with jobs := { (ready none).jobs with queue := [aDesc, { aDesc with ringSeq := 1, furrow := 1 }, { aDesc with ringSeq := 2, job := 2 }] } }
     commands 1 F.JOB_CTRL.off s ∧ s.jobs.run = none ∧ s.head? = some aDesc) ∧
    (let s : State := { running aRun with shot := { ShotTiming.empty with committed := some 0 } }
     commands 1 F.JOB_CTRL.off s ∧ s.begin.jobs.run = some aRun ∧ aRun.phase ≠ .held ∧
       s.shot.committed.isSome = true) := by
  decide +kernel

/-- A checkpoint at shot 4,096. -/
def aCkpt : Checkpoint := ⟨4096, 0, true, 4000, 15, 720, List.range 24, 0, [], 3, [], [], [], 0⟩


theorem witness_CheckpointAndCompletion :
    (let s : State := { ready (some aRun) with jobs := { (ready (some aRun)).jobs with writing := some aCkpt } }
     s.head? = some aDesc ∧ s.jobs.run = some aRun ∧ s.jobs.writing = some aCkpt ∧ s.mem.ckptWaiting = false) ∧
    (let s : State := ready (some { aRun with sf := 1656, sig := List.replicate 24 (0, 1656) })
     s.begin.furrowOver = true) := by
  decide +kernel

theorem witness_Resume :
    (let s : State := ready (some { aRun with phase := .held, sf := 1656 })
     s.head? = some aDesc ∧ (refitHeld s.begin).mayResume = true ∧ s.streamOf aDesc = some aInfo ∧
       (refitHeld s.begin).jobs.run = some { aRun with phase := .held, sf := 1656 }) ∧
    (let s : State := ready (some { aRun with phase := .held, sf := 1655 })
     (refitHeld s.begin).mayResume = true ∧
       (refitHeld s.begin).jobs.run = some { aRun with phase := .held, sf := 1655 } ∧ aRun.trav = false ∧
       aRun.resumeTable.length < 4096 ∧ 1655 ≤ aRun.segLast) ∧
    (let s : State := ready (some { aRun with phase := .held, sf := 1655, trav := true, lowered := true })
     (refitHeld s.begin).mayResume = true ∧
       (refitHeld s.begin).jobs.run = some { aRun with phase := .held, sf := 1655, trav := true, lowered := true }) ∧
    (let s : State := ready (some { aRun with phase := .held, sf := 1655, resumeTable := List.replicate 4096 ⟨0, false, 0, 15, 720⟩ })
     (refitHeld s.begin).mayResume = true ∧
       (refitHeld s.begin).jobs.run.any (fun r => r.sf == 1655 && decide (4096 ≤ r.resumeTable.length) && !r.trav) = true) := by
  decide +kernel

/-- A repair entry of one shot. -/
def aRepair : RepairEntry := ⟨false, 1, 0, 100, 1, 255⟩

/-- The furrow fired, with an entry to repair. -/
def repairDue : State := { ready (some { aRun with sf := 1656 }) with jobs := { (ready (some { aRun with sf := 1656 })).jobs with repair := [aRepair] } }


theorem witness_RepairTraverse :
    (let s : State := repairDue
     s.begin.traverseDue = true ∧ s.islandOpen 5 = true ∧
       (s.groups.all fun g => !s.outBefore g && s.groupState g != 1) = true ∧
       s.jobs.run = some { aRun with sf := 1656 } ∧ lowestCode s.begin.blocksAgain = none ∧
       commands 1 F.JOB_REPAIR_CTRL.off s ∧ s.head? = some aDesc) ∧
    (let s : State := repairDue.set F.PLN_STATUS_HOMED_X 0
     lowestCode s.begin.blocksAgain = some 0x1E ∧ s.begin.traverseDue = true) := by
  decide +kernel

theorem witness_BankSwap :
    (let s : State := { live with jobs := { Jobs.empty with swapPending := true } }
     commands 1 F.JOB_BANK_CTRL.off s ∧ s.jobs.swapPending = true) ∧
    (let s : State := running aRun
     s.jobs.swapPending = false ∧ s.tableDma = false ∧ s.furrowArmed = true) ∧
    (let s : State := live.set F.JOB_TABLE_SET_NEXT 9
     s.jobs.swapPending = false ∧ s.tableDma = false ∧ s.furrowArmed = false) := by
  decide +kernel

/-- A work whose first segment has one region of two tiles in one tile row. -/
def regionWork : Work :=
  { Work.start aInfo false 0 [] with
    segs := [(0, [8 <<< 28 + 5 <<< 22 + 2 <<< 10, 1 <<< 23 + 2 <<< 10, 0, 0, 0, 0, 0]), (1, [])] }

/-- Tile 0 active at position 0, and work under way. -/
def expanding (w : Work) : State :=
  setRole tileBase 0 0 0 { live with path := { Path.empty with streams := [aInfo], cur := some w } }

/-- The same with decoder instance 0 at that region's tile row. -/
def decoding : State := { expanding regionWork with path := { (expanding regionWork).path with tilth := [(0, false, 0, 0, 0)] } }


theorem witness_TilthAndHarrowAdvance :
    (let s : State := decoding
     alGet s.path.tilth 0 = some (false, 0, 0, 0) ∧ s.begin.work false = some regionWork ∧
       ((regionWork.regions 0)[0]?.any fun g => g.ntx == 2 && g.nty == 1 && regionWork.rowTiles 0 0 g 0 == 0 && regionWork.above 0 0 g 0 0 && (slotRaw (g.slots.take 2)).isNone) = true ∧ slotWords regionWork.info.slot = 2 ∧ s.begin.memWaits aInfo.addr aInfo.size = false) ∧
    (let s : State := expanding regionWork
     alGet s.path.tilth 0 = none ∧
       (match seekRow false (0 + 1024) (regionWork.len + 1) regionWork.decAt s.begin with | (some row, s1) => row == (false, 0, 0, 0) && s1.work false == some regionWork && !(s1.memWaits aInfo.addr aInfo.size) | _ => false) = true) ∧
    (let s : State := expanding { regionWork with segs := [(0, []), (1, [])] }
     s.role tileBase 0 = 0 ∧ s.place tileBase 0 = 0 ∧ s.tileOf 0 = 0 ∧ s.begin.harrowLead < 1024 ∧
       (s.path.cur.any fun w => decide (w.posDone.getD 0 0 < w.len) && w.seg 0 == 0 && w.decoded 0) = true ∧
       (loadSegs false 1 0 s.begin).1 = true) := by
  decide +kernel

/-- An audit whose two CRCs differ, with a second opinion by tile 33. -/
def disputed : State :=
  { expanding { regionWork with segs := [(0, []), (1, [])] } with
    path := { Path.empty with
      cur := some { regionWork with segs := [(0, []), (1, [])] }
      harrowAudit := some ⟨0, false, some 0, some 1, some 2, 0, 32, some 33, [1, 2, 3], 0⟩ } }


theorem witness_AuditOutcomes :
    (let s : State := disputed
     (s.path.harrowAudit.any fun h => h.second == some 33) = true) ∧
    (let s : State := { live with path := { Path.empty with sowAudit := some ⟨23, some 0, 0, 1, 2, true⟩ } }
     (s.path.sowAudit.any fun u => u.testing && u.group == 23) = true) := by
  decide +kernel

/-- Tile 33 and slice 24 stand by. -/
def spares : State := setRole sliceBase 24 1 0 (setRole tileBase 33 1 0 live)


theorem witness_RetireAndAudits :
    (let s : State := spares
     commands 1 F.HRW_RETIRE_CTRL.off s ∧ s.path.tileSwaps = [] ∧ s.path.sliceSwaps = [] ∧ s.role tileBase 33 = 1 ∧
       commands 1 F.SOW_RETIRE_CTRL.off s ∧ islandFused s.cls (64 + 24) = false ∧ s.role sliceBase 24 = 1) ∧
    (let s : State := setRole tileBase 33 4 0 live
     s.role tileBase 33 = 4) ∧
    (let s : State := setRole sliceBase 24 4 0 live
     s.role sliceBase 24 = 4) ∧
    (let s : State := spares
     commands 1 F.HRW_AUDIT_CTRL.off s ∧ commands 1 F.SOW_AUDIT_CTRL.off s ∧ s.path.harrowAudit = none ∧
       s.path.harrowNext.1 < 32 ∧ ((List.range 34).find? fun x => s.role tileBase x == 1).isSome = true ∧
       s.path.sowAudit = none ∧ s.path.sowNext < 32 ∧
       ((List.range 25).find? fun x => s.role sliceBase x == 1).isSome = true) := by
  decide +kernel

/-- An armed furrow whose maps are all zero or complete. -/
def madder : State :=
  let s := ready (some { aRun with sf := 0, computed := List.replicate 24 0 })
  { s with
    path := { s.path with maps := [⟨some (1, 0, 0), [0, 1]⟩, ⟨none, []⟩, ⟨none, []⟩] }
    bankA := [(0x1310600, 1), (0x1310604, 65536), (0x1310610, 0xFFFF1000)] }


theorem witness_MadderAndSowAdvance :
    (let s : State := madder
     s.head? = some aDesc ∧ s.begin.jobs.run.isSome = true ∧ alGet s.path.mult 0 = none ∧ s.madBypass = false ∧
       s.path.multNext = 0 ∧ s.begin.multReady aDesc 0 = true ∧ s.islandOpen 12 = true ∧
       (windowRows aDesc 2 0 s.begin).1.2 = true) ∧
    (let s : State := { ready (some aRun) with path := { (ready (some aRun)).path with cur := some { Work.start aInfo false 0 [] with posDone := List.replicate 32 1 } } }
     s.path.cur.isSome = true ∧ s.path.fieldNext = 3 ∧ 3 < s.harrowRows ∧ s.islandOpen 12 = true ∧
       s.madBypass = true) ∧
    (let s : State := { ready (some { aRun with computed := List.replicate 24 8 }) with path := { (ready none).path with fieldNext := 128 } }
     aRun.computed.length = s.cls.groups ∧
       s.begin.mayCompute aDesc { aRun with computed := List.replicate 24 8 } 8 = true ∧
       s.islandOpen (64 + s.sliceOf 0) = true ∧ s.islandOpen 13 = true) ∧
    (let s : State := ready (some aRun)
     commands 1 F.MDR_MAP_BASE_HI.off s ∧ commands 1 F.MDR_MAP_BASE_LO.off s) := by
  decide +kernel

/-- A Tilth job of two tiles in a row. -/
def aJob : TilthJob := ⟨true, 0, 2, 1, List.replicate 16 0, List.replicate 8 0, 0, 0, 10, 0, 10, 0, 0, false, false⟩

/-- A Tilth job in a state: 1 running, 2 stopped. -/
def jobIn (st : Nat) (j : TilthJob) : State :=
  ({ live with path := { Path.empty with job := some j } }).set F.TLT_JOB_STATUS_STATE st


theorem witness_TilthJobs :
    (let s : State := (live.set F.TLT_JOB_GEOMETRY_NTX 672).set F.TLT_JOB_GEOMETRY_NTY 6241
     commands 1 F.TLT_JOB_CTRL.off s ∧ s.f F.TLT_JOB_STATUS_STATE ≠ 1 ∧ s.on F.TLT_JOB_CTRL_CONTINUE = false ∧
       s.f F.TLT_JOB_GEOMETRY_NTX = 672 ∧ s.f F.TLT_JOB_GEOMETRY_NTY = 6241 ∧ 672 * 6241 ≤ 2 ^ 22) ∧
    (let s : State := (live.set F.TLT_JOB_GEOMETRY_NTX 673).set F.TLT_JOB_GEOMETRY_NTY 1
     672 < s.f F.TLT_JOB_GEOMETRY_NTX) ∧
    (let s : State := jobIn 2 aJob
     s.path.job = some aJob ∧ s.f F.TLT_JOB_STATUS_STATE = 2 ∧ commands 1 F.TLT_JOB_CTRL.off s ∧
       s.tiltHeld = true) ∧
    (let s : State := jobIn 1 aJob
     s.f F.TLT_JOB_STATUS_STATE = 1) ∧
    (let s : State := (jobIn 1 aJob).wr F.TLT_JOB_TILE_COUNT.off 2
     s.path.job = some aJob ∧ s.islandOpen 11 = true ∧ aJob.ntx * aJob.nty ≤ s.rd F.TLT_JOB_TILE_COUNT.off) ∧
    (let s : State := jobIn 1 { aJob with abort := true }
     s.rd F.TLT_JOB_TILE_COUNT.off < 2) ∧
    (let s : State := jobIn 1 aJob
     s.path.job = some aJob ∧ s.f F.TLT_JOB_STATUS_STATE = 1 ∧ s.islandOpen 11 = true ∧
       s.rd F.TLT_JOB_TILE_COUNT.off = 0 ∧ s.begin.tiltWaits aJob 0 = false ∧ aJob.decode = true ∧
       (match memRead 34 (64 * s.rd F.TLT_JOB_SRC.off) (4 * slotWords aJob.slot) s.begin with | ((b, ok), _) => ok && slotWords aJob.slot == 2 && (slotRaw [leAt b 0 4, leAt b 4 4]).isNone) = true) ∧
    (let s : State := jobIn 1 { aJob with decode := false }
     s.begin.tiltWaits { aJob with decode := false } 0 = false ∧
       (match memRead 34 (64 * s.rd F.TLT_JOB_SRC.off) 64 s.begin with | ((b, ok), _) => ok && (encodeSlot (slotWords 0) (aJob.ctx 0) b).isSome) = true) := by
  decide +kernel

/-- Group 0 has its transmitters and is ready, with `x` its link. -/
def linked (r : Option Run) (x : Group) : State :=
  let s := ((ready r).wr F.FNC_TX_ENABLE.off 1).set (F.DRL_Gnn_STATUS_BK_ALIGNED 0) 1
  setGrp 0 x (s.set (F.DRL_Gnn_STATUS_L8_CARRIES 0) 15)


theorem witness_FramesSent :
    (let s : State := linked none Group.idle
     s.linkUp 0 = true ∧ s.laneOut 0 8 = false ∧ (s.grp 0).phase = 0 ∧ (s.grp 0).training = [] ∧
       s.dueCmd 0 8 true = none ∧ s.dueCmd 0 8 false = none ∧ s.groupState 0 = 2 ∧ s.furrowArmed = false) ∧
    (let s : State := (linked (some { aRun with sf := 0, fired := false, phase := .armed, computed := List.replicate 24 64 }) Group.idle).set (F.DRL_Gnn_STATUS_STATE 0) 3
     s.groupState 0 = 3 ∧ s.logical 0 7 = 7 ∧
       (s.jobs.run.any fun r => (s.begin.dueFrame 0 7 r).isNone && !s.begin.isHold 0 0 r) = true ∧
       (s.grp 0).sentTo.length = 8) ∧
    (let s : State := { linked (some { aRun with fired := true, computed := List.replicate 24 64 }) { Group.idle with sentTo := List.replicate 8 20 } with path := { (ready none).path with pay := [(640, List.replicate 8 (List.replicate 672 3))] } }.set (F.DRL_Gnn_STATUS_STATE 0) 3
     s.groupState 0 = 3 ∧ s.logical 0 7 = 7 ∧
       (s.begin.jobs.run.any fun r => (s.begin.dueFrame 0 7 r).isNone && s.begin.mayNew 0 7 r && !s.begin.isHold 0 20 r && r.phase != .held) = true ∧ (s.grp 0).sentTo.length = 8) := by
  decide +kernel

/-- A frame of shot 20 sent on lane 7 with ALIVE 5, its attempts given. -/
def sentGroup (n : Nat) : Group :=
  { Group.idle with
    rings := (List.replicate 7 []) ++ [[⟨20, false, n, false, false, some (7, 5)⟩]]
    lanes := (List.replicate 7 Lane.idle) ++ [⟨6, [⟨5, 1, 20, 7, n⟩], [], 0⟩, ⟨4, [⟨3, 2, 9, 15, n⟩], [], 0⟩]
    cmds := [⟨9, none, [], n, false, some (8, 3)⟩] }

/-- One more failure of a lane's attempt does not lose the lane. -/
def few (x : Group) (p alive : Nat) : Bool :=
  let fails := setOutcome alive true (x.lane p).fails
  !fourFailed fails && decide ((fails.filter fun a => a.2 == some true).length < 16)


theorem witness_LinkAnswers :
    (let s : State := linked none (sentGroup 1)
     s.linkUp 0 = true ∧ s.on (F.DRL_Gnn_STATUS_BK_ALIGNED 0) = true ∧
       (((s.grp 0).cmds.find? fun c => c.seq == 9 && c.last.isSome).isSome) = true) ∧
    (let s : State := linked none (sentGroup 1)
     (s.grp 0).rings.length = 8 ∧
       (((s.grp 0).lane 7).sent.find? fun q => q.kind == 1 && q.key % 65536 == (20 + 65536) % 65536) = some ⟨5, 1, 20, 7, 1⟩ ∧ (((s.grp 0).ring 7).find? fun e => e.shot == 20) = some ⟨20, false, 1, false, false, some (7, 5)⟩) ∧
    (let s : State := linked none (sentGroup 1)
     (setGrp 0 { s.grp 0 with bkLost := false } s.begin).latest 0 7 5 = some ⟨5, 1, 20, 7, 1⟩ ∧
       few (s.grp 0) 7 5 = true ∧ (s.grp 0).rings.length = 8) ∧
    (let s : State := linked (some aRun) (sentGroup 3)
     s.begin.latest 0 7 5 = some ⟨5, 1, 20, 7, 3⟩ ∧ few (s.grp 0) 7 5 = true ∧ (s.grp 0).rings.length = 8) ∧
    (let s : State := linked none (sentGroup 15)
     ((s.grp 0).cmds.find? fun c => c.seq == 9 && !c.due && c.last.isSome) = some ⟨9, none, [], 15, false, some (8, 3)⟩ ∧ few (s.grp 0) 8 3 = true ∧ ((s.grp 0).cmds.all fun e => e.seq != 9 || decide (e.attempts < 16)) = true) ∧
    (let s : State := linked (some aRun) { Group.idle with resolved := [(7, true, [])] }
     (s.grp 0).resolved = [(7, true, [])] ∧ s.linkUp 0 = true) ∧
    (let s : State := linked (some { aRun with sf := 1656 }) { Group.idle with resolved := [(7, true, [])] }
     s.jobs.run = some { aRun with sf := 1656 } ∧ aRun.segLast < 1656) := by
  decide +kernel

theorem witness_LinkWords :
    (let s : State := linked none { Group.idle with bkLost := true }
     s.linkUp 0 = true ∧ s.on (F.DRL_Gnn_STATUS_BK_ALIGNED 0) = true ∧ s.groupState 0 = 2 ∧ s.furrowArmed = false) ∧
    (let s : State := linked none Group.idle
     bkDecode false 0 = none ∧ bkDecode false 691168271257915 = some (0, 0) ∧
       bkDecode false 480910821961124 = some (5, 2 ^ 11)) ∧
    (let s : State := { linked none Group.idle with fence := { Fence.empty with unseen := [0, 1] } }
     (2 ^ 11).testBit 11 = true ∧ s.f F.DRL_HEAD_MEMORY_RESULT = 0) ∧
    (let s : State := { linked none Group.idle with head := { Head.empty with reads := [(0, ⟨false, 0, 64, [], 0⟩)] } }
     alGet s.head.reads 0 = some ⟨false, 0, 64, [], 0⟩ ∧ bits (62 <<< 16 + 0x1234) 27 16 + 1 ≠ 64) := by
  decide +kernel

theorem witness_LinkTraining :
    (let s : State := linked none Group.idle
     commands 1 (F.DRL_Gnn_CTRL 0).off s ∧ s.linkUp 0 = true ∧ s.furrowArmed = false) ∧
    (let s : State := linked none { Group.idle with phase := 3 }
     (s.grp 0).phase ≠ 0 ∧ (s.grp 0).tries = 0) ∧
    (let s : State := linked none { Group.idle with phase := 3, tries := 1 }
     (s.grp 0).tries ≠ 0) ∧
    (let s : State := (linked none { Group.idle with phase := 1 }).set (F.DRL_Gnn_CTRL_AUTO_ALIGN 0) 0
     (s.grp 0).phase = 1 ∧ s.on (F.DRL_Gnn_CTRL_AUTO_ALIGN 0) = false ∧ commands 1 (F.DRL_Gnn_CTRL 0).off s) ∧
    (let s : State := (linked none { Group.idle with phase := 2, slips := 48 }).set (F.DRL_Gnn_CTRL_AUTO_ALIGN 0) 1
     (s.grp 0).phase = 2 ∧ s.on (F.DRL_Gnn_CTRL_AUTO_ALIGN 0) = true) ∧
    (let s : State := (linked none { Group.idle with phase := 2, slips := 49 }).set (F.DRL_Gnn_CTRL_AUTO_ALIGN 0) 1
     (s.grp 0).slips + 1 = 50) ∧
    (let s : State := (linked none Group.idle).set (F.DRL_Gnn_STATUS_LOCKED 0) 0x1FF
     commands 1 (F.DRL_Gnn_CTRL 0).off s ∧ s.laneLocked 0 8 = true ∧ s.laneOut 0 8 = false ∧ s.l8 0 = 15 ∧
       s.rolling 0 = none ∧ s.groupState 0 = 2) ∧
    (let s : State := linked none Group.idle
     alGet (s.grp 0).adapt 8 = none) ∧
    (let s : State := linked none { Group.idle with adapt := [(3, ⟨0, 0, 0, 0, 0, 0, 0, [], (0, 0), true, 5, 1, 0, true⟩)] }
     alGet (s.grp 0).adapt 3 = some ⟨0, 0, 0, 0, 0, 0, 0, [], (0, 0), true, 5, 1, 0, true⟩) := by
  decide +kernel

/-- Channel `k` with the hidden state `c`. -/
def channel (k : Nat) (c : EncChan) (s : State) : State := setEnc k c s


theorem witness_EncoderSamples :
    (let s : State := channel 3 EncChan.idle live
     s.islandOpen 14 = true) ∧
    (let s : State := (channel 2 { EncChan.idle with inside := 50000 } live).set (F.ENC_Cnn_STATUS_STATE 2) 0
     s.encState 2 = 0 ∧ 50000 ≤ (s.encCh 2).inside) ∧
    (let s : State := channel 3 { EncChan.idle with run := live.ampSamples, ref := some 1 } (running aRun)
     s.ampSamples ≤ (s.encCh 3).run ∧ s.encFaulted 19 = false ∧ s.jobs.run = some aRun ∧ s.shot.committed = none) ∧
    (let s : State := { ((running aRun).set (F.ENC_Cnn_STATUS_STATE 2) 2).set (F.ENC_Cnn_STATUS_STATE 3) 2 with yawY := max 1 ((running aRun).f F.ENC_CONFIG_YAW_SAMPLES) }
     (s.yaw 1).isSome = true ∧ max 1 (s.f F.ENC_CONFIG_YAW_SAMPLES) ≤ s.yawRun 1 ∧ s.encFaulted 1 = false) ∧
    (let s : State := { (channel 0 { EncChan.idle with tLast := some 20 } live).set (F.ENC_Cnn_STATUS_SPEED 0) 9 with now := 10000020 }
     (s.encCh 0).tLast = some 20 ∧ 20 + 10000000 ≤ s.now) := by
  decide +kernel

theorem witness_EncoderReferences :
    (let s : State := (channel 3 { EncChan.idle with p := 100, pPrev := 60 } live).set (F.ENC_Cnn_STATUS_STATE 3) 1
     s.islandOpen 14 = true) ∧
    (let s : State := (channel 3 { EncChan.idle with p := 100, pPrev := 60, pulse := some ⟨16, 0, false⟩ } live).set (F.ENC_Cnn_STATUS_STATE 3) 1
     s.encTracks 3 = true ∧ s.f (F.ENC_Cnn_STATUS_DIR 3) = 0 ∧ (s.encCh 3).run = 0 ∧ (s.encCh 3).ref = none ∧
       (80 - 16 : Int).natAbs = 64) ∧
    (let s : State := (channel 3 { EncChan.idle with p := 100, pPrev := 60, pulse := some ⟨16, 0, false⟩, ref := some (-500000) } live).set (F.ENC_Cnn_STATUS_STATE 3) 2
     s.encTracks 3 = true ∧ (s.encCh 3).run = 0 ∧ (s.encCh 3).ref = some (-500000)) ∧
    (let s : State := (channel 3 { EncChan.idle with ref := some 5 } live).set (F.ENC_Cnn_STATUS_STATE 3) 2
     commands 1 (F.ENC_Cnn_CTRL 3).off s ∧ s.furrowArmed = false ∧ s.encState 3 = 2) ∧
    (let s : State := channel 3 { EncChan.idle with ref := some 5 } (running aRun)
     commands 1 (F.ENC_Cnn_CTRL 3).off s ∧ s.furrowArmed = true) ∧
    (let s : State := channel 0 { EncChan.idle with p := 9 } live
     commands 1 F.ENC_YAW_CTRL.off s) ∧
    (let s : State := (live.wr F.ENC_FAULT_STATUS.off 0xFFF03).set (F.ENC_Cnn_STATUS_STATE 3) 3
     commands 1 F.ENC_FAULT_STATUS.off s ∧ 0x80000 &&& 0xFFF03 ≠ 0) := by
  decide +kernel

/-- Channels at rest with references, so that both pair means are 0. -/
def still (s : State) : State := (List.range 4).foldl (fun s k => setEnc k { EncChan.idle with ref := some 0 } s) s

/-- A furrow being written in its segment. -/
def writing (r : Run) : State :=
  let s := still (ready (some r))
  { s with pln := { Planner.empty with motion := .segment } }


theorem witness_ShotTiming :
    (let s : State := { (writing { aRun with sf := 0 }).set F.SHT_PATH_CFG_LATE_LIMIT 5 with shot := { ShotTiming.empty with histY := [5] } }
     s.onPath aDesc = true ∧ s.shot.pathHold = false ∧ s.shotPos aDesc 0 = 0 ∧ s.late 0 5 aDesc.dirsign = true ∧
       (s.jobs.run.any fun r => r.phase == .writing && decide (r.sf ≤ r.segLast)) = true) ∧
    (let s : State := { (writing { aRun with sf := 0 }) with shot := { ShotTiming.empty with histY := (List.range 51).map fun i => -(40 * i : Nat) } }
     s.late 0 0 aDesc.dirsign = false ∧ travel s.shot.histY = some 2000 ∧
       2 * (s.f F.SHT_MODE_CFG_CONT_ENTER : Int) ≤ 125 * 2000 ∧ s.shot.committed = none ∧
       predictShot 0 0 2000 s.fireShift = some s.fireShift ∧ s.fireShift < 1920 ∧ s.onPath aDesc = true) ∧
    (let s : State := { (writing aRun) with shot := { ShotTiming.empty with committed := some 99 } }
     s.islandOpen 14 = true ∧ s.pln.motion = .segment ∧ aRun.fired = true ∧ aRun.sf ≤ aRun.segLast ∧
       aRun.cancelled = false ∧ s.head? = some aDesc) ∧
    (let s : State := { (writing { aRun with sf := 0, fired := false }) with
     shot := { ShotTiming.empty with committed := some 99 }
     path := { (ready none).path with cur := some { Work.start aInfo false 0 [] with posDone := List.replicate 32 2 }, fieldNext := 128 } }
     min s.runRows 192 ≤ s.harrowRows ∧ min s.runRows 128 ≤ s.path.fieldNext ∧ s.islandOpen 14 = true ∧
       s.pln.motion = .segment ∧ s.head? = some aDesc) ∧
    (let s : State := { (writing aRun) with shot := { ShotTiming.empty with committed := some 99, pathHold := true } }
     s.shot.pathHold = true) ∧
    (let s : State := { (writing aRun) with shot := { ShotTiming.empty with pathHold := true } }
     s.shot.pathHold = true ∧ s.jobs.run = some aRun ∧ aRun.phase = .writing ∧ aRun.dueCauses = 0) ∧
    (let s : State := { live with shot := { ShotTiming.empty with seq := 15 } }
     s.islandOpen 14 = true ∧ s.jobs.run = none) ∧
    (let s : State := { (writing aRun).set F.SHT_DEFL_CFG_ENABLE 1 with shot := { ShotTiming.empty with seq := 1, fired := [(7, 0)], histX := List.replicate 51 0, histY := List.replicate 51 0 } }
     s.on F.SHT_DEFL_CFG_ENABLE = true ∧ s.shot.fired ≠ [] ∧ s.inSegment = true ∧ s.head? = some aDesc ∧
       travel s.shot.histX = some 0) := by
  decide +kernel

/-- The planner in a motion. -/
def moving (m : Motion) (s : State) : State := { s with pln := { Planner.empty with motion := m } }


theorem witness_PlannerCommands :
    (let s : State := (still (ready none)).wr F.PLN_TARGET_X.off 0xFFFFFFFF
     commands 1 F.PLN_CMD.off s ∧ s.furrowArmed = false ∧ s.doorStops = false ∧
       s.towardLimit 0 (-1 - s.cmdPos 0) = false ∧ s.towardLimit 1 (0 - s.cmdPos 1) = false ∧ s.encTracks 0 = true ∧
       s.encTracks 1 = true ∧ s.encTracks 2 = true ∧ s.encTracks 3 = true) ∧
    (let s : State := ((still (ready none)).wr F.PLN_TARGET_X.off 0xFFFFFFFF).set F.PLN_SWITCH_STATUS_FILTERED 2
     s.towardLimit 0 (-1 - s.cmdPos 0) = true) ∧
    (let s : State := (still (ready none)).set F.PLN_SWITCH_STATUS_FILTERED 32
     s.switchActive 5 = true) ∧
    (let s : State := live
     s.encTracks 0 = false ∧ s.pln.motion.homing = none) ∧
    (let s : State := running aRun
     s.furrowArmed = true ∧ s.pln.motion.homing = none ∧ commands 1 F.PLN_CMD.off s) ∧
    (let s : State := moving .move live
     s.pln.motion = .move ∧ s.furrowArmed = false) ∧
    (let s : State := running aRun
     s.jobs.run = some aRun ∧ aRun.phase ≠ .held ∧ aRun.dueCauses = 0) ∧
    (let s : State := live.set F.PLN_STATUS_STOPPED 1
     commands 1 F.PLN_STATUS.off s) ∧
    (let s : State := { moving .move live with pln := { Planner.empty with motion := .move, legs := [(0, 5)] } }
     s.islandOpen 14 = true ∧ s.planAtRest = false) ∧
    (let s : State := moving .move live
     s.islandOpen 14 = true ∧ s.planAtRest = true) ∧
    (let s : State := moving .stopping (live.set F.PLN_STATUS_RESULT 5)
     s.pln.motion = .stopping ∧ s.planAtRest = true) ∧
    (let s : State := moving .toStart live
     s.pln.motion = .toStart ∧ s.planAtRest = true) ∧
    (let s : State := moving (.homeSearch 0) live
     s.pln.motion = .homeSearch 0 ∧ s.planAtRest = true) ∧
    (let s : State := moving (.homeBack 1) live
     s.pln.motion = .homeBack 1 ∧ s.planAtRest = true) ∧
    (let s : State := moving (.homeStop 1) (live.set F.PLN_SWITCH_STATUS_FILTERED 32)
     s.pln.motion = .homeStop 1 ∧ s.switchActive 5 = true ∧ s.planAtRest = true) ∧
    (let s : State := moving (.homeRest 1) (still (ready none))
     s.pln.motion = .homeRest 1 ∧ s.pairMean 1 = some 0 ∧ s.planAtRest = true) ∧
    (let s : State := moving .dwell live
     s.pln.motion = .dwell) ∧
    (let s : State := moving .waiting (ready (some { aRun with phase := .armed }))
     s.head? = some aDesc ∧
       (s.begin.jobs.run.any fun r => r.phase == .armed && !r.trav && !r.ending && s.begin.framesSent r) = true ∧
       s.pln.motion = .waiting ∧ s.fence.headLevel = 0 ∧ s.doorStops = false) ∧
    (let s : State := moving .waiting (ready (some { aRun with phase := .traverse, trav := true, roundOpen := true }))
     s.head? = some aDesc ∧
       (s.begin.jobs.run.any fun r => r.phase == .traverse && r.trav && r.roundOpen && decide (r.sf ≤ r.segLast) && !r.ending && s.begin.framesSent r) = true ∧ s.pln.motion = .waiting) := by
  decide +kernel

theorem witness_SwitchEvents :
    (let s : State := setCmdPos 1 (-3) (live.set (F.PLN_SWITCH_CFG_POLARITY 5) 1)
     s.islandOpen 14 = true ∧ s.on (F.PLN_SWITCH_CFG_POLARITY 5) = true ∧
       (s.rd F.PLN_SWITCH_STATUS.off).testBit 13 = false ∧ s.cmdPos 1 = -3) ∧
    (let s : State := live.set (F.PLN_SWITCH_CFG_POLARITY 5) 0
     (s.rd F.PLN_SWITCH_STATUS.off).testBit 13 = false ∧ s.on (F.PLN_SWITCH_CFG_POLARITY 5) = false) ∧
    (let s : State := (live.wr F.PLN_SWITCH_STATUS.off (2 ^ 12)).set (F.PLN_SWITCH_CFG_ACTION 4) 0
     (s.rd F.PLN_SWITCH_STATUS.off).testBit 12 = true ∧ s.pln.motion.homing = none ∧ s.switchAction 4 = 0) ∧
    (let s : State := (moving .move ((running aRun).wr F.PLN_SWITCH_STATUS.off (2 ^ 8))).set (F.PLN_SWITCH_CFG_ACTION 0) 2
     s.switchAction 0 = 2 ∧ s.jobs.run = some aRun ∧ aRun.dueCauses = 0) ∧
    (let s : State := (moving .move (live.wr F.PLN_SWITCH_STATUS.off (2 ^ 13))).set (F.PLN_SWITCH_CFG_ACTION 5) 1
     s.switchAction 5 = 1) ∧
    (let s : State := live.wr F.PLN_SWITCH_STATUS.off (2 ^ 21)
     (s.rd F.PLN_SWITCH_STATUS.off).testBit 21 = true) ∧
    (let s : State := moving (.homeBack 1) ((still (ready none)).wr F.PLN_SWITCH_STATUS.off (2 ^ 21))
     s.pln.motion = .homeBack 1 ∧ s.encState 2 = 2 ∧ s.encState 3 = 2) ∧
    (let s : State := live.wr F.PLN_SWITCH_STATUS.off 0x3F3F3F3F
     commands 1 F.PLN_SWITCH_STATUS.off s) := by
  decide +kernel

theorem witness_DramWords :
    (let s : State := live
     s.memGone 4088 8 = none ∧ 4088 < s.capacity ∧ s.on F.MEM_FLIP_CTRL_ARMED = false ∧ alSorted s.mem.errs = true ∧
       Memory.wf dramDefault s.mem.cells = true ∧ s.blockValid 4088 = false ∧ 4088 / 4096 = (4088 + 8 - 1) / 4096) ∧
    (let s : State := { live with mem := { Mem.empty with valid := [0], errs := [(1, 1)] } }
     s.blockValid 8 = true ∧ alGet s.mem.errs (8 / 8) = some 1 ∧ popCount 1 72 = 1) ∧
    (let s : State := { live with mem := { Mem.empty with valid := [0], errs := [(1, 1 + 2 ^ 71)] } }
     popCount (1 + 2 ^ 71) 72 = 2) ∧
    (let s : State := live.set F.MEM_ERRORS_OUT_OF_RANGE 65535
     s.capacity ≤ s.capacity / 8 * 8 ∧ s.memGone s.capacity 8 = none) ∧
    (let s : State := { live with gates := (7, ⟨.closed, true, [], [], [], 0⟩) :: live.gates.filter fun e => e.1 != 7 }
     (s.memGone 0 8).isSome = true) := by
  decide +kernel

theorem witness_MemoryRanges :
    (let s : State := live
     commands 1 F.MEM_MAP_CFG.off s ∧ s.furrowArmed = false ∧ s.lockedStreams = [] ∧
       ((List.range 16).all fun ch => s.dmaState ch != 2 && s.dmaState ch != 3) = true ∧ s.path.job = none) ∧
    (let s : State := (live.set F.MEM_RANGE_FIRST_ADDR_4K 1).set F.MEM_RANGE_END_ADDR_4K 2
     commands 1 F.MEM_RANGE_CTRL.off s ∧ s.mem.scrub = none ∧ s.meetsLocked 4096 4096 = false) ∧
    (let s : State := { (live.set F.MEM_RANGE_FIRST_ADDR_4K 0x10000).set F.MEM_RANGE_END_ADDR_4K 0x10001 with jobs := { Jobs.empty with queue := [aDesc] } }
     s.meetsLocked 0x10000000 4096 = true) ∧
    (let s : State := { live with mem := { Mem.empty with scrub := some (0, 4096) } }
     s.mem.scrub = some (0, 4096)) ∧
    (let s : State := { live with mem := { Mem.empty with scrub := some (0, 4096), invalidating := true, valid := [0, 1], cells := [(4095, 1), (4096, 2)] } }
     s.mem.scrub = some (0, 4096) ∧ s.mem.invalidating = true ∧ Memory.wf dramDefault s.mem.cells = true) ∧
    (let s : State := { live with mem := { Mem.empty with scrub := some (0, 4096), errs := [(511, 4)], valid := [0] } }
     s.mem.invalidating = false ∧ s.mem.errs = [(511, 4)] ∧ popCount 4 72 = 1 ∧ 8 * 511 < 4096 ∧
       (s.stacksIn 0 4096).any s.shutStacks.contains = false) ∧
    (let s : State := { live.set F.MEM_PATROL_CFG_ENABLE 1 with mem := { Mem.empty with errs := [(511, 4)], valid := [0] } }
     s.mem.scrub = none ∧ s.on F.MEM_PATROL_CFG_ENABLE = true ∧
       s.f (F.MEM_Snn_STATUS_STATE (s.physOf (8 * 511) / 32)) ≠ 2 ∧
       s.islandOpen (7 + s.physOf (8 * 511) / 32) = true) := by
  decide +kernel

/-- A retirement of logical channel 0's pseudo-channel, not yet copied. -/
def retiring : State := { live with mem := { Mem.empty with retire := some ⟨0, 127, false, 0, []⟩ } }

/-- Stack 0 active. -/
def stackUp : State := (live.set (F.MEM_Snn_STATUS_STATE 0) 1).set (F.MEM_Snn_SR_CTRL_AUTO_IDLE_US 0) 1


theorem witness_MemoryUpkeep :
    (let s : State := live.set F.MEM_MAP_CFG_RESERVE 1
     commands 1 F.MEM_RETIRE_CTRL.off s ∧ 0 < s.nPc ∧ s.pcMap 0 < 32 * s.cls.stacks ∧ s.mem.retire = none ∧
       s.nPc ≤ 127 ∧ s.pcRetired 127 = false) ∧
    (let s : State := { retiring with jobs := (running aRun).jobs }
     s.furrowArmed = true ∧
       (s.mem.retire.any fun j => !j.copied && decide (j.slot < 128) && decide (j.phys < 128) && s.islandOpen (7 + j.phys / 32) && s.islandOpen (7 + s.pcMap j.slot / 32)) = true) ∧
    (let s : State := retiring
     s.furrowArmed = false) ∧
    (let s : State := live
     3 < s.cls.stacks) ∧
    (let s : State := stackUp
     s.islandOpen 7 = true ∧ s.f (F.MEM_Snn_STATUS_STATE 0) = 1 ∧ 0 ∉ s.mem.burst ∧ s.mem.freqWaiting = false ∧
       s.mem.notice = false ∧ commands 1 (F.MEM_Snn_SR_CTRL 0).off s) ∧
    (let s : State := { stackUp with mem := { Mem.empty with notice := true } }
     s.mem.notice = true) ∧
    (let s : State := { stackUp with mem := { Mem.empty with burst := [0], freqWaiting := true, freqChange := some 1, ckptWaiting := true } }
     s.mem.burst = [0] ∧ s.mem.freqWaiting = true) ∧
    (let s : State := stackUp.set (F.MEM_Snn_STATUS_STATE 0) 2
     s.f (F.MEM_Snn_STATUS_STATE 0) = 2) ∧
    (let s : State := stackUp
     s.f (F.MEM_Snn_SR_CTRL_AUTO_IDLE_US 0) ≠ 0 ∧ s.furrowArmed = false) ∧
    (let s : State := { stackUp with jobs := (running aRun).jobs }
     s.furrowArmed = true) ∧
    (let s : State := stackUp
     commands 1 F.MEM_FREQ_CTRL.off s ∧ s.mem.freqChange = none ∧ s.mem.retire = none ∧
       ((List.range 4).all fun k => s.islandOpen (7 + k)) = true ∧ s.furrowArmed = false ∧ s.mem.burst = []) ∧
    (let s : State := { stackUp with mem := { Mem.empty with freqChange := some 2 } }
     s.mem.freqChange = some 2 ∧ s.mem.freqWaiting = false) ∧
    (let s : State := live
     commands 1 F.MEM_FLIP_CTRL.off s ∧ s.furrowArmed = false ∧ s.meetsLocked 0 8 = false) ∧
    (let s : State := live
     s.islandOpen (16 + 33) = true ∧ s.mem.sramErrs = []) ∧
    (let s : State := setRole tileBase 33 1 0 live
     s.role tileBase 33 = 1 ∧ s.path.tileSwaps = [] ∧ s.islandOpen 49 = true) ∧
    (let s : State := { running aRun with path := { Path.empty with field := [(3, [])] } }
     s.sramHolds 12 (3 * fwRowWords) = true ∧ s.shot.committed = none ∧ s.islandOpen 12 = true ∧
       s.mem.sramErrs = [] ∧ s.jobs.run = some aRun) := by
  decide +kernel

/-- A channel of host A in a state with a hidden state. -/
def dmaIn (ch st : Nat) (c : DmaChan) : State :=
  { (live.set (F.DMA_CH_nn_STATUS_STATE ch) st).set (F.DMA_CH_nn_STATUS_OWNER ch) 1 with dma := [(ch, c)] }

/-- A copy of 64 bytes from host memory to DRAM, the last of its chain. -/
def aCopy (n : Nat) : DmaDesc := ⟨0, true, false, 0, 0, n, 0, 2 ^ 62, 0⟩

/-- A longer copy, whose first burst has 16 bytes. -/
def aLong : DmaDesc := { aCopy 65536 with src := 4080 }

/-- The 32 bytes of a copy descriptor as the channel reads them. -/
def copyBytes : List Byte :=
  leBytes 4 (2 ^ 23) ++ leBytes 4 64 ++ leBytes 8 0 ++ leBytes 8 (2 ^ 62) ++ leBytes 8 0

/-- The same descriptor, paced by the timer. -/
def pacedBytes : List Byte := leBytes 4 (2 ^ 23 + 2 ^ 20) ++ copyBytes.drop 4


theorem witness_DmaChannels :
    (let s : State := live
     reaches 1 (F.DMA_CH_nn_CTRL 15).off s ∧ s.dmaState 15 = 0) ∧
    (let s : State := dmaIn 15 5 DmaChan.idle
     s.dmaState 15 = 5 ∧ s.dmaOwner 15 = 1 ∧ reaches 1 (F.DMA_CH_nn_CTRL 15).off s ∧
       reaches 2 (F.DMA_CH_nn_CTRL 15).off s) ∧
    (let s : State := dmaIn 15 2 DmaChan.idle
     s.dmaState 15 = 2) ∧
    (let s : State := dmaIn 15 1 DmaChan.idle
     s.dmaState 15 = 1) ∧
    (let s : State := dmaIn 15 4 { DmaChan.idle with desc := some { aCopy 64 with pace := 1 }, read := 32, written := 16 }
     s.dmaState 15 = 4 ∧ (s.chan 15).desc = some { aCopy 64 with pace := 1 } ∧ (s.chan 15).paced = false ∧
       (s.chan 15).timerEvents = 0) ∧
    (let s : State := dmaIn 15 4 { DmaChan.idle with desc := some { aCopy 64 with pace := 1 }, paced := true }
     s.dmaState 15 = 4 ∧ (s.chan 15).paced = true) ∧
    (let s : State := dmaIn 15 3 { DmaChan.idle with desc := some (aCopy 64) }
     s.dmaState 15 = 3) ∧
    (let s : State := dmaIn 15 1 DmaChan.idle
     s.dmaOwner 15 ≠ 2) ∧
    (let s : State := dmaIn 0 2 DmaChan.idle
     s.dmaState 0 = 2 ∧ (s.chan 0).desc = none ∧ (s.chan 0).abort = false ∧ s.dmaCur 0 % 32 = 0 ∧
       space (s.dmaCur 0) = 0 ∧ s.dmaOwner 0 ≠ 4 ∧ dmaCheck 0 copyBytes (parseDma copyBytes) s.begin = 0 ∧
       (parseDma copyBytes).pace = 0) ∧
    (let s : State := dmaIn 0 2 DmaChan.idle
     dmaCheck 0 (List.replicate 32 255) (parseDma (List.replicate 32 255)) s.begin ≠ 0) ∧
    (let s : State := (dmaIn 0 2 DmaChan.idle).set (F.DMA_CH_nn_TIMER_PERIOD_US 0) 1
     dmaCheck 0 pacedBytes (parseDma pacedBytes) s.begin = 0 ∧ (parseDma pacedBytes).pace = 1 ∧
       (s.chan 0).timerEvents = 0) ∧
    (let s : State := (dmaIn 0 2 DmaChan.idle).set (F.DMA_CH_nn_CTRL_RETRY_COUNT 0) 1
     (s.chan 0).retries < s.f (F.DMA_CH_nn_CTRL_RETRY_COUNT 0)) ∧
    (let s : State := dmaIn 0 2 { DmaChan.idle with desc := some aLong }
     space aLong.src = 0 ∧ space aLong.dst = 1 ∧ (burstOf aLong 0).2 < 65536 ∧
       s.writeLocked 1 0 (burstOf aLong 0).2 = false ∧ s.memWaits 0 (burstOf aLong 0).2 = false ∧
       (s.chan 0).abort = false ∧ (memWrite 16 0 (List.replicate (burstOf aLong 0).2 7) s.begin).1 = true) ∧
    (let s : State := dmaIn 0 2 { DmaChan.idle with desc := some (aCopy 64), retryWait := true, retries := 1 }
     (burstOf (aCopy 64) 0).2 = 64 ∧ (s.chan 0).retryWait = true) ∧
    (let s : State := dmaIn 0 2 { DmaChan.idle with desc := some aLong, retryWait := true }
     (s.chan 0).retryWait = true) ∧
    (let s : State := { (dmaIn 0 2 { DmaChan.idle with desc := some (aCopy 64) }).set (F.DMA_CH_nn_CTRL_RETRY_COUNT 0) 0 with
     gates := (7, ⟨.closed, true, [], [], [], 0⟩) :: live.gates.filter fun e => e.1 != 7 }
     s.f (F.DMA_CH_nn_CTRL_RETRY_COUNT 0) ≤ (s.chan 0).retries ∧ s.writeLocked 1 0 64 = false ∧
       (s.memGone 0 64).isSome = true ∧ s.memWaits 0 64 = false) ∧
    (let s : State := (dmaIn 0 2 { DmaChan.idle with desc := some aLong, abort := true }).set (F.DMA_CH_nn_CTRL_KEEP_PARTIAL 0) 0
     (s.chan 0).abort = true ∧ s.on (F.DMA_CH_nn_CTRL_KEEP_PARTIAL 0) = false) ∧
    (let s : State := (dmaIn 0 2 { DmaChan.idle with desc := some aLong, abort := true, release := true }).set (F.DMA_CH_nn_CTRL_KEEP_PARTIAL 0) 0
     (s.chan 0).release = true) ∧
    (let s : State := { dmaIn 0 2 { DmaChan.idle with desc := some { aCopy 64 with dst := 2 ^ 62 + 0x10000000 } } with jobs := { Jobs.empty with queue := [aDesc] } }
     s.writeLocked 1 0x10000000 64 = true) ∧
    (let s : State := (dmaIn 0 2 { DmaChan.idle with desc := some (aCopy 64), retryWait := true, retries := 0 }).set (F.DMA_CH_nn_CTRL_RETRY_COUNT 0) 0
     s.f (F.DMA_CH_nn_CTRL_RETRY_COUNT 0) ≤ (s.chan 0).retries) ∧
    (let s : State := (dmaIn 0 5 { DmaChan.idle with timerEvents := 255 }).set (F.DMA_CH_nn_TIMER_PERIOD_US 0) 1
     s.f (F.DMA_CH_nn_TIMER_PERIOD_US 0) ≠ 0 ∧ (s.chan 0).desc = none ∧ s.dmaState 0 = 5) ∧
    (let s : State := (dmaIn 0 3 { DmaChan.idle with desc := some { aCopy 64 with pace := 1 } }).set (F.DMA_CH_nn_TIMER_PERIOD_US 0) 1
     s.dmaState 0 = 3 ∧ (s.chan 0).desc = some { aCopy 64 with pace := 1 }) := by
  decide +kernel

theorem witness_FenceFrames :
    (let s : State := live
     s.pins.vddAon = true ∧ 0x40 % 4 = 0 ∧ 0x40 ∈ fncOffs) ∧
    (let s : State := { live with pins := { live.pins with loading := true } }
     s.pins.loading = true ∧ 0x18 ∈ fncOffs) ∧
    (let s : State := live
     s.pins.loading = false ∧ 0x1C ∈ fncOffs) ∧
    (let s : State := live
     0x10 ∈ fncOffs) ∧
    (let s : State := live
     0x41 % 4 ≠ 0 ∧ 0x7C ∉ fncOffs) ∧
    (let s : State := live.set F.FNC_SPI_STATS_CRC_ERRORS 255
     crc8 (List.replicate 8 0) ≠ leAt (List.replicate 8 (0 : Byte) ++ [1]) 8 1) := by
  decide +kernel

theorem witness_FenceControls :
    (let s : State := running aRun
     s.pins.vddAon = true ∧ s.pins.loading = false ∧ s.fenceTrip = false ∧ s.jobs.run = some aRun ∧
       aRun.dueCauses = 0) ∧
    (let s : State := (running aRun).set F.FNC_INTERLOCK_CFG_WATCHDOG_MS 1
     s.f F.FNC_INTERLOCK_CFG_WATCHDOG_MS ≠ 0 ∧ s.fenceTrip = false) ∧
    (let s : State := live
     s.holder ≠ 0) ∧
    (let s : State := live.wr F.FNC_TRIP_STATUS.off 15
     s.pins.vddAon = true) ∧
    (let s : State := live.wr F.FNC_TX_ENABLE.off 0xFFFFFF
     23 ∈ s.groups ∧ (s.rd F.FNC_TX_ENABLE.off).testBit 23 = true ∧ (0x7FFFFF : Nat).testBit 23 = false) ∧
    (let s : State := live
     (s.rd F.FNC_TX_ENABLE.off).testBit 23 = false ∧ s.furrowArmed = false ∧ s.islandOpen (96 + 23) = true) ∧
    (let s : State := pod.set F.GLB_LEASE_HOLDER 4
     s.on F.FNC_STATUS_SERVICE_PRESENT = true ∧ s.holder = 4) ∧
    (let s : State := (running aRun).wr F.FNC_DOSE_CEILING.off 0x02D0000F
     (decide (bits (0x02D0000E &&& 0x03FF000F) 3 0 < s.ceilings.1) || decide (min 720 (bits (0x02D0000E &&& 0x03FF000F) 25 16) < s.ceilings.2.2)) = true ∧ s.furrowArmed = true) ∧
    (let s : State := (live.set F.LDG_CLEAR_STATE 1).set F.LDG_CLEAR_NONCE 65535
     s.f F.LDG_CLEAR_STATE = 1 ∧ s.f F.LDG_CLEAR_NONCE = 65535) := by
  decide +kernel

theorem witness_InterlocksAndTrips :
    (let s : State := running aRun
     s.pins.vddAon = true ∧ s.pins.holdReqL = true ∧ s.pins.doorOk = true ∧ s.jobs.run = some aRun ∧
       aRun.dueCauses = 0) ∧
    (let s : State := { live with pins := { live.pins with holdReqL := false, doorOk := false } }
     s.pins.holdReqL = false ∧ s.pins.doorOk = false) ∧
    (let s : State := moving .move ((running aRun).set F.FNC_INTERLOCK_CFG_DOOR_STOPS_STAGE 1)
     s.on F.FNC_INTERLOCK_CFG_DOOR_STOPS_STAGE = true ∧ s.pln.motion = .move) ∧
    (let s : State := { live with fence := { Fence.empty with holdDriver := true, doorDriver := true } }
     s.fence.holdDriver = true) ∧
    (let s : State := { live with fence := { Fence.empty with unseen := [23] } }
     s.fence.unseen ≠ []) ∧
    (let s : State := (running aRun).set F.FNC_STATUS_HW_MODE 0
     highest [0, 0, 0, 8 * (s.tripLevel false : Int)] = some (3, 8 * (s.tripLevel false : Int)) ∧ s.fence.trip = 0 ∧
       s.on F.FNC_STATUS_HW_MODE = false) ∧
    (let s : State := (running aRun).set F.FNC_STATUS_HW_MODE 1
     s.on F.FNC_STATUS_HW_MODE = true) ∧
    (let s : State := { live.set F.FNC_STATUS_THERMTRIP 1 with fence := { Fence.empty with trip := 1 } }
     s.on F.FNC_STATUS_THERMTRIP = true ∧ s.fence.trip = 1 ∧
       8 * (s.restartLevel false : Int) < 8 * s.tripLevel false) ∧
    (let s : State := { live.set F.FNC_STATUS_THERMTRIP 1 with fence := { Fence.empty with trip := 2 } }
     s.fence.trip = 2) ∧
    (let s : State := { moving .stopping live with fence := { Fence.empty with trip := 1 } }
     s.fence.trip = 1 ∧ s.pln.motion ≠ .rest) ∧
    (let s : State := { live with fence := { Fence.empty with trip := 1 } }
     s.pln.motion = .rest ∧ s.on F.FNC_STATUS_THERMTRIP = false) ∧
    (let s : State := ((live.set F.FNC_STATUS_THERMTRIP 1).set F.FNC_STATUS_COOLED 1)
     s.pins.loading = false ∧ s.on F.FNC_STATUS_COOLED = true ∧ s.on F.FNC_STATUS_THERMTRIP = true) ∧
    (let s : State := live.set F.FNC_STATUS_COOLED 0
     s.on F.FNC_STATUS_COOLED = false) := by
  decide +kernel

/-- Readings of 40 °C of every sensor of the die and the stacks. -/
def warm : List (Option Int) := List.replicate 28 (some 320) ++ List.replicate 24 none


theorem witness_RoundsAndTelemetry :
    (let s : State := live
     s.islandOpen 1 = true ∧
       ((List.range 28).all fun i => match roundReading warm i s with | some v => decide (v < 8 * s.tripLevel (decide (24 ≤ i))) | none => true) = true) ∧
    (let s : State := { (live.set F.LDG_TELEM_CFG_ROUNDS 0).set F.LDG_TELEM_CFG_SLOTS 2 with ledger := { Ledger.empty with tRounds := 1, tSeq := 0xFFFFFFFE } }
     s.islandOpen 1 = true ∧ max 1 (s.f F.LDG_TELEM_CFG_ROUNDS) ≤ s.ledger.tRounds ∧ s.f F.LDG_TELEM_CFG_SLOTS ≠ 0 ∧
       s.addr F.LDG_TELEM_BASE_LO.off F.LDG_TELEM_BASE_HI.off % 4096 = 0 ∧ s.inDram 0 512 = true ∧
       s.lockedStreams = [] ∧ s.memGone 0 256 = none ∧ s.on F.MEM_FLIP_CTRL_ARMED = false ∧
       Memory.wf dramDefault s.mem.cells = true) ∧
    (let s : State := { ((live.set F.LDG_TELEM_CFG_SLOTS 1).set F.LDG_TELEM_CFG_ROUNDS 1).wr F.LDG_TELEM_BASE_LO.off 1 with ledger := { Ledger.empty with tRounds := 1 } }
     s.addr F.LDG_TELEM_BASE_LO.off F.LDG_TELEM_BASE_HI.off % 4096 ≠ 0) ∧
    (let s : State := { live with usage := [(3, 4)] }
     commands 1 F.LDG_USAGE_CTRL.off s) ∧
    (let s : State := { live with ledger := { Ledger.empty with usageClearing := true, usageLate := [(5, 6)] } }
     s.ledger.usageClearing = true) := by
  decide +kernel

theorem witness_Calibration :
    (let s : State := live
     commands 1 F.CAL_CTRL.off s ∧ s.calExists 1 0 = true) ∧
    (let s : State := ready none
     s.calExists 1 0 = true ∧ (s.calInst 256).valid = true) ∧
    (let s : State := { live.set F.CAL_CTRL_ENABLE 1 with cal := { Cal.empty with insts := [(256, { calibrated with due := true })] } }
     s.calExists 1 0 = true ∧ (s.calInst 256).due = true ∧ (s.calInst 256).overdue = false ∧
       s.on F.CAL_CTRL_ENABLE = true) ∧
    (let s : State := (after (.calRun 1 1) (ready none)).set F.CAL_CTRL_ENABLE 1
     s.islandOpen 1 = true ∧ s.on F.CAL_CTRL_ENABLE = true ∧ s.cal.running = none ∧
       (s.calAll.find? s.calRunnable).isSome = true) ∧
    (let s : State := (ready none).set F.CAL_CTRL_ENABLE 1
     s.calAll.find? s.calRunnable = none) ∧
    (let s : State := { (ready none) with cal := { (ready none).cal with running := some 256 } }
     s.cal.running = some 256 ∧ ¬(256 / 256 = 4 ∧ s.cal.spare = some 8 ∧ s.cal.step ≠ 5)) ∧
    (let s : State := ((live.set F.CAL_TEST_CTRL_PATTERN 1).set F.CAL_TEST_FURROW_FEEDER 1).set F.CAL_TEST_PARAM_DOSE_STEP 2880
     commands 1 F.CAL_TEST_CTRL.off s ∧ s.f F.CAL_TEST_CTRL_RESULT ≠ 1 ∧
       16 * s.f F.CAL_TEST_PARAM_DOSE_STEP ≤ 46080 ∧ s.f F.CAL_TEST_PARAM_BAND < s.cls.exposures ∧
       s.lockedStreams = [] ∧ s.addr F.CAL_TEST_ADDR_LO.off F.CAL_TEST_ADDR_HI.off = 0 ∧
       s.inDram 0 (testStream 1 0 0 0 0 1 2880).length = true ∧
       s.memGone 0 (testStream 1 0 0 0 0 1 2880).length = none) ∧
    (let s : State := (live.set F.CAL_TEST_FURROW_FEEDER 1).set F.CAL_TEST_PARAM_DOSE_STEP 2881
     46080 < 16 * s.f F.CAL_TEST_PARAM_DOSE_STEP) ∧
    (let s : State := { ((live.set F.CAL_TEST_CTRL_PATTERN 1).set F.CAL_TEST_FURROW_FEEDER 2).wr F.CAL_TEST_ADDR_LO.off 0x10000000 with jobs := { Jobs.empty with queue := [aDesc] } }
     s.meetsLocked (s.addr F.CAL_TEST_ADDR_LO.off F.CAL_TEST_ADDR_HI.off) (testStream (s.f F.CAL_TEST_CTRL_PATTERN) 0 0 0 0 2 0).length = true) ∧
    (let s : State := { live.set F.CAL_TEST_CTRL_RESULT 1 with cal := { Cal.empty with testBytes := 2 ^ 32 + 5 } }
     s.f F.CAL_TEST_CTRL_RESULT = 1) := by
  decide +kernel

/-- A record of eight payload bytes. -/
def aRecord : LedgerRec := ⟨0x100, 0, 1, 1, 0, 0, List.replicate 8 1⟩


theorem witness_LedgerLog :
    (let s : State := { live.set F.NVL_STATUS_FLASH 1 with ret := { Retention.empty with openRec := some aRecord } }
     s.ret.openRec = some aRecord ∧ s.ledgerStopped = false ∧ s.flashPresent = true ∧
       queueBytes s.ret.queue + 64 * bitOf s.ret.loaderConfirm.isSome + aRecord.bytes ≤ 49152) ∧
    (let s : State := { ((live.set F.HK_FLAGS_FLASH_WINDOW 1).set F.NVL_STATUS_FLASH 1) with ret := { Retention.empty with queue := [aRecord] } }
     s.mayCommit = true ∧ s.ret.queue = [aRecord] ∧ s.ledgerStopped = false ∧
       s.f F.LDG_USED_BYTES + aRecord.bytes ≤ ledgerSize - 32) ∧
    (let s : State := { live with ret := { Retention.empty with queue := [aRecord] } }
     reaches 2 F.LDG_CTRL.off s ∧ s.ledger.mode = 0) ∧
    (let s : State := { live.set F.LDG_STATUS_FREEZER 2 with ledger := { Ledger.empty with mode := 2 } }
     s.ledger.mode = 2 ∧ s.f F.LDG_STATUS_FREEZER = 2) ∧
    (let s : State := { live.set F.LDG_STATUS_FREEZER 1 with ledger := { Ledger.empty with mode := 1 } }
     s.f F.LDG_STATUS_FREEZER ≠ 2 ∧ s.holder ≠ 2 ∧ s.ledger.mode = 1) ∧
    (let s : State := live
     s.f F.LDG_CLEAR_STATE ≠ 1 ∧ s.f F.LDG_CLEAR_STATE ≠ 3 ∧ s.f F.LDG_CLEAR_STATE ≠ 4 ∧
       s.f F.LDG_STATUS_FREEZER = 0) ∧
    (let s : State := (live.set F.LDG_CLEAR_STATE 2).set F.LDG_CLEAR_REQUESTER 1
     s.f F.LDG_CLEAR_STATE = 2 ∧ s.f F.LDG_CLEAR_REQUESTER = 1 ∧ s.windowHolds = false) ∧
    (let s : State := ((live.set F.LDG_CLEAR_STATE 2).set F.LDG_CLEAR_REQUESTER 1).set F.HK_FLAGS_FLASH_WINDOW 1
     s.windowHolds = true ∧ s.nvl.flashBusy = 0 ∧ s.nvl.update = none ∧ s.fence.trip = 0) ∧
    (let s : State := { live with ledger := { Ledger.empty with readPtr := [(1, 0x3FFFFC), (2, 8)] } }
     reaches 1 F.LDG_READ_DATA.off s) := by
  decide +kernel

/-- Unit 3 owned by host B, with the polynomial of CRC-32C. -/
def checking : State := live.set (F.CHK_Unn_CTRL_OWNER 3) 2


theorem witness_CheckUnits :
    (let s : State := live
     reaches 2 (F.CHK_Unn_CTRL 3).off s ∧ s.chkOwner 3 = 0) ∧
    (let s : State := after (.chkClaim 2) live
     s.chkOwner 3 = 2) ∧
    (let s : State := after (.chkClaim 2) live
     s.chkOwner 3 = 2 ∧ reaches 2 (F.CHK_Unn_CTRL 3).off s ∧ s.on (F.CHK_Unn_CTRL_ALIVE_EN 3) = false) ∧
    (let s : State := ((after (.chkClaim 2) live).set (F.CHK_Unn_CTRL_ALIVE_EN 3) 1).set (F.CHK_Unn_ALIVE_ALIVE 3) 255
     s.chkOwner 3 = 2 ∧ s.on (F.CHK_Unn_CTRL_ALIVE_EN 3) = true) ∧
    (let s : State := (after (.chkClaim 2) live).set (F.CHK_Unn_COUNT_BYTES 3) (2 ^ 32 - 2)
     reaches 2 (F.CHK_Unn_FEED8 3).off s ∧ reaches 2 (F.CHK_Unn_FEED16 3).off s ∧
       reaches 2 (F.CHK_Unn_FEED32 3).off s ∧ reaches 2 (F.CHK_Unn_RESULT 3).off s) := by
  decide +kernel

/-- An update at a phase. -/
def updating (p : UpdPhase) : Update := ⟨1, p, 0, 0x10000, [], [], 1, 5, false⟩

/-- Slot A active, with an update or none, and a flash operation in progress or none. -/
def loader (u : Option Update) (busy : Nat) : State :=
  { (live.set F.NVL_STATUS_ACTIVE 0).set F.NVL_STATUS_FLASH 1 with nvl := { Nvl.empty with storeValid := true, update := u, flashBusy := busy } }


theorem witness_LoaderCommands :
    (let s : State := loader none 0
     s.ret.loaderConfirm = none ∧ commands 1 F.NVL_CTRL.off s ∧ s.nvl.update = none ∧ s.flashPresent = true ∧
       nth s.nvl.store.erases s.inactiveSlot < 100000 ∧
       (stagedImage ((s.begin.numbered 1 F.NVL_CTRL.off true).set F.NVL_CTRL_CMD 1)).1.2.isSome = true) ∧
    (let s : State := loader (some (updating .erase)) 0
     s.nvl.update.isSome = true) ∧
    (let s : State := { (loader none 0).set F.HK_FLAGS_FLASH_WINDOW 1 with nvl := { Nvl.empty with store := { StoreRec.empty with stateA := 1 } } }
     s.activeSlot = 0 ∧ s.nvl.store.stateOf 0 = 1 ∧ s.mayWrite = true ∧ s.nvl.flashBusy = 0) ∧
    (let s : State := { (loader none 0).set F.HK_FLAGS_FLASH_WINDOW 0 with nvl := { Nvl.empty with store := { StoreRec.empty with stateA := 1 } } }
     s.mayWrite = false ∧ s.nvl.store.stateOf 0 = 1) ∧
    (let s : State := loader none 0
     s.inactiveSlot = 1 ∧ s.nvl.store.stateOf 1 ≠ 1) ∧
    (let s : State := loader (some (updating .verify)) 3
     s.nvl.flashBusy ≠ 0 ∧ s.nvl.suspended = false ∧ s.f F.LDG_CLEAR_STATE ≠ 4 ∧ (updating .verify).abort = false) ∧
    (let s : State := { loader (some (updating .erase)) 2 with nvl := { (loader (some (updating .erase)) 2).nvl with flash := [(0x100FFFF, 1), (0x1010000, 2)] } }
     Memory.wf flashDefault s.nvl.flash = true) := by
  decide +kernel

/-! ### The context record that RESTORE reads (TilthJobs)

A record of 5,440 bytes whose header lies at the end of one block and whose line buffer lies in blocks never written. Its
check value is computed 64 bytes at a time. -/

/-- 64 bytes of zeros taken into a CRC-32C. -/
def zeros64 (c : Nat) : Nat := (List.replicate 64 (0 : Byte)).foldl (crcByteR 0x82F63B78) c

/-- Every value of a list follows from the one before by 64 bytes of zeros. -/
def follows : Nat → List Nat → Bool
  | _, [] => true
  | c, d :: t => zeros64 c == d && follows d t

theorem follows_fold : ∀ (l : List Nat) (c : Nat), follows c l = true →
    (List.replicate (64 * l.length) (0 : Byte)).foldl (crcByteR 0x82F63B78) c = l.getLast?.getD c
  | [], c, _ => by simp
  | d :: t, c, h => by
    simp only [follows, Bool.and_eq_true, beq_iff_eq] at h
    have e : 64 * (d :: t).length = 64 + 64 * t.length := by simp only [List.length_cons]; omega
    rw [e, ← List.replicate_append_replicate, List.foldl_append]
    have z : (List.replicate 64 (0 : Byte)).foldl (crcByteR 0x82F63B78) c = d := h.1
    rw [z, follows_fold t d h.2]
    cases t <;> simp [List.getLast?_cons]

/-- The header of the record: its magic, an array of one tile column, and its check value. -/
def recordHead : List Byte := [49, 84, 76, 84, 0, 0, 1, 128] ++ List.replicate 52 0 ++ [94, 36, 106, 214]

/-- The CRC-32C after the header and after each further 64 bytes. -/
def recordCrcs : List Nat :=
  [4017161504, 1720932631, 4075598133, 3669945019, 3332244, 3607877951, 2384541697, 722290248, 1783163574,
   1160498796, 3628116556, 1477426685, 1039759912, 238337725, 564195748, 1608655248, 1267934350, 4024639231,
   327068779, 3470509872, 2451728151, 3636754220, 2544697925, 372999787, 3638637781, 2873855626, 899267705,
   599665230, 1135306923, 1009471302, 955588494, 790327969, 3510548775, 3892426993, 4118624181, 3731430745,
   3704318319, 1108432822, 4026101058, 749353995, 552097680, 753838961, 457846891, 3169193646, 927719214,
   2359853700, 1221923356, 1845074897, 904397371, 1078963929, 1860701312, 273486787, 181546886, 3508525189,
   577558706, 330171835, 3726953647, 2728490174, 844539350, 98542470, 2355361282, 2881639387, 1027163604,
   1805289424, 233762809, 1269615088, 195579531, 3386435819, 1594443498, 3930604298, 3718577226, 2325255863,
   2882596150, 2010562115, 3148334145, 920149421, 2898421648, 2779146340, 2473484775, 695461048, 1448982671,
   3317951768, 3735130862, 697686945]

/-- The record at its place, 64 × TLT_JOB_CTX. -/
def savedJob : State :=
  { (jobIn 2 aJob).wr F.TLT_JOB_CTX.off 63 with
    mem := { Mem.empty with cells := [(4032, 49), (4033, 84), (4034, 76), (4035, 84), (4038, 1), (4039, 128), (4092, 94), (4093, 36), (4094, 106), (4095, 214)], valid := [0] } }

theorem record_crc_follows : follows 257002352 recordCrcs = true := by decide +kernel

theorem record_crc : crc32c (recordHead.take 60 ++ List.replicate 5376 0) = 3597280350 := by
  have h := follows_fold recordCrcs 257002352 record_crc_follows
  have n : 64 * recordCrcs.length = 5376 := by decide +kernel
  have z : (recordHead.take 60).foldl (crcByteR 0x82F63B78) 0xFFFFFFFF = 257002352 := by decide +kernel
  rw [n] at h
  rw [crc32c, List.foldl_append, z, h]
  decide +kernel

theorem witness_TilthJobs_restore :
    savedJob.tiltHeld = true ∧ commands 1 F.TLT_JOB_CTRL.off savedJob = true ∧
    (memRead 34 (64 * savedJob.rd F.TLT_JOB_CTX.off) 5440 ((savedJob.begin.numbered 1 F.TLT_JOB_CTRL.off true).set F.TLT_JOB_CTRL_CMD 5)).1 =
      (recordHead ++ List.replicate 5376 0, true) ∧
    leAt (recordHead ++ List.replicate 5376 0) 0 4 = 0x544C5431 ∧
    leAt (recordHead ++ List.replicate 5376 0) 60 4 =
      crc32c ((recordHead ++ List.replicate 5376 0).take 60 ++ (recordHead ++ List.replicate 5376 0).drop 64) := by
  refine ⟨by decide +kernel, by decide +kernel, by decide +kernel, by decide +kernel, ?_⟩
  have e : (recordHead ++ List.replicate 5376 (0 : Byte)).take 60 ++ (recordHead ++ List.replicate 5376 0).drop 64 =
      recordHead.take 60 ++ List.replicate 5376 0 := by decide +kernel
  rw [e, record_crc]
  decide +kernel


end Sys2Proof.Tests
end

/-! ## What every command keeps

The statements on scope rest on one inversion of `exec`: each command answers a next state that is `Steady`, but for the
three that move the operating seconds and the two that blow the fuses of a key. -/

namespace Sys2Proof.Machine

/-- The commands that move the operating seconds (R388). -/
def movesSeconds : Instr → Bool
  | .operatingSecondTick | .vddAonLoss | .corePwrgdRise _ => true
  | _ => false

/-- The commands that program or revoke a key (R413). -/
def blowsFuses : Instr → Bool
  | .keyProgram _ _ | .keyRevoke _ => true
  | _ => false

/-- What a command does with the state, by its kind: it keeps the queue, the canonical form, the fuses and the operating
seconds, the last two but where they are its purpose. -/
inductive Effect (c : Instr) (s : State) : Prop
  | ordinary {m : Nat} (h : ∃ t, exec c s = .next t ∧ Steady m s.begin t)
  | ofTime {m : Nat} (hc : movesSeconds c = true) (h : ∃ t, exec c s = .next t ∧ Canon m s.begin t)
  | ofKey {m : Nat} (hc : blowsFuses c = true)
      (h : ∃ t f, exec c s = .next t ∧ Steady m { s.begin with fuses := f } t)

/-- Every command has an effect of one of the three kinds. -/
theorem exec_effect (c : Instr) (s : State) : Effect c s := by
  cases c with
  | aonPowerUp straps => exact .ordinary (execAonPowerUp_steady straps s)
  | corePwrgdRise env => exact .ofTime rfl (execCorePwrgdRise_canon env s)
  | startStepTimeout step => exact .ordinary (execStartStepTimeout_steady step s)
  | corePwrgdFall => exact .ordinary (execCorePwrgdFall_steady s)
  | sysclkLoss => exact .ordinary (execSysclkLoss_steady s)
  | ref10mLoss => exact .ordinary (execRef10mLoss_steady s)
  | ref10mRestored => exact .ordinary (execRef10mRestored_steady s)
  | operatingSecondTick => exact .ofTime rfl (execOperatingSecondTick_canon s)
  | operatingSecondsRead party => exact .ordinary (execOperatingSecondsRead_steady party s)
  | registerWrite party bar2 off value => exact .ordinary (execRegisterWrite_steady party bar2 off value s)
  | readClear party off => exact .ordinary (execReadClear_steady party off s)
  | leaseAcquire party => exact .ordinary (execLeaseAcquire_steady party s)
  | leaseRelease party => exact .ordinary (execLeaseRelease_steady party s)
  | leaseKeepalive party => exact .ordinary (execLeaseKeepalive_steady party s)
  | leaseWatchdogExpiry => exact .ordinary (execLeaseWatchdogExpiry_steady s)
  | servicePodPresent => exact .ordinary (execServicePodPresent_steady s)
  | servicePodRemoved => exact .ordinary (execServicePodRemoved_steady s)
  | gateClose party island => exact .ordinary (execGateClose_steady party island s)
  | gateOpen party island => exact .ordinary (execGateOpen_steady party island s)
  | gateReset party island => exact .ordinary (execGateReset_steady party island s)
  | gateLoad party island => exact .ordinary (execGateLoad_steady party island s)
  | islandResetDone pass => exact .ordinary (execIslandResetDone_steady pass s)
  | gateRequest island requester seq nonIdem write off value =>
    exact .ordinary (execGateRequest_steady island requester seq nonIdem write off value s)
  | gateDrainDone island => exact .ordinary (execGateDrainDone_steady island s)
  | gateDrainLimit island => exact .ordinary (execGateDrainLimit_steady island s)
  | retryRepresent party island => exact .ordinary (execRetryRepresent_steady party island s)
  | requesterTimeout island requester => exact .ordinary (execRequesterTimeout_steady island requester s)
  | hostReadExpiry party => exact .ordinary (execHostReadExpiry_steady party s)
  | pcieFunctionReset party => exact .ordinary (execPcieFunctionReset_steady party s)
  | jobTailWrite party value => exact .ordinary (execJobTailWrite_steady party value s)
  | takeDescriptor => exact .ordinary (execTakeDescriptor_steady s)
  | streamReady party value => exact .ordinary (execStreamReady_steady party value s)
  | admissionStart => exact .ordinary (execAdmissionStart_steady s)
  | admissionEnd => exact .ordinary (execAdmissionEnd_steady s)
  | armFurrow => exact .ordinary (execArmFurrow_steady s)
  | preRunStart => exact .ordinary (execPreRunStart_steady s)
  | jobAck party => exact .ordinary (execJobAck_steady party s)
  | jobCancelHead party => exact .ordinary (execJobCancelHead_steady party s)
  | jobCancelJob party => exact .ordinary (execJobCancelJob_steady party s)
  | jobCancelAll party => exact .ordinary (execJobCancelAll_steady party s)
  | furrowComplete microcodeOk => exact .ordinary (execFurrowComplete_steady microcodeOk s)
  | tilthTileDecode inst => exact .ordinary (execTilthTileDecode_steady inst s)
  | harrowSegmentDone tile bad => exact .ordinary (execHarrowSegmentDone_steady tile bad s)
  | harrowSecondOpinionDone bad => exact .ordinary (execHarrowSecondOpinionDone_steady bad s)
  | harrowRetire party tile => exact .ordinary (execHarrowRetire_steady party tile s)
  | harrowAuditEnable party enable => exact .ordinary (execHarrowAuditEnable_steady party enable s)
  | madderMultRow row => exact .ordinary (execMadderMultRow_steady row s)
  | madderRowConvert row => exact .ordinary (execMadderRowConvert_steady row s)
  | mdrMapBaseWrite party hi value => exact .ordinary (execMdrMapBaseWrite_steady party hi value s)
  | sowShotCompute group bad => exact .ordinary (execSowShotCompute_steady group bad s)
  | sowAuditorSelfTestDone pass => exact .ordinary (execSowAuditorSelfTestDone_steady pass s)
  | sowRetire party slice => exact .ordinary (execSowRetire_steady party slice s)
  | sowAuditEnable party enable => exact .ordinary (execSowAuditEnable_steady party enable s)
  | checkpointWriteDone => exact .ordinary (execCheckpointWriteDone_steady s)
  | laneFrameBoundary group lane => exact .ordinary (execLaneFrameBoundary_steady group lane s)
  | ackShot group shot mask => exact .ordinary (execAckShot_steady group shot mask s)
  | ackFrame group seq => exact .ordinary (execAckFrame_steady group seq s)
  | nak group lane value => exact .ordinary (execNak_steady group lane value s)
  | shotReport group first fired lanes => exact .ordinary (execShotReport_steady group first fired lanes s)
  | statusWord group value => exact .ordinary (execStatusWord_steady group value s)
  | laneState group locks ckOk => exact .ordinary (execLaneState_steady group locks ckOk s)
  | fom group lane value => exact .ordinary (execFom_steady group lane value s)
  | memData group value => exact .ordinary (execMemData_steady group value s)
  | idleBk group => exact .ordinary (execIdleBk_steady group s)
  | bkWordError code => exact .ordinary (execBkWordError_steady code s)
  | bkLost group => exact .ordinary (execBkLost_steady group s)
  | attemptTimeout group lane alive => exact .ordinary (execAttemptTimeout_steady group lane alive s)
  | commandAttemptTimeout attempt => exact .ordinary (execCommandAttemptTimeout_steady attempt s)
  | linkAccountClose => exact .ordinary (execLinkAccountClose_steady s)
  | train party group => exact .ordinary (execTrain_steady party group s)
  | trainingTimeout group => exact .ordinary (execTrainingTimeout_steady group s)
  | bkSlip party group => exact .ordinary (execBkSlip_steady party group s)
  | bkAlignSlipTest group good => exact .ordinary (execBkAlignSlipTest_steady group good s)
  | fomTimeout group lane => exact .ordinary (execFomTimeout_steady group lane s)
  | spareGo party group lane => exact .ordinary (execSpareGo_steady party group lane s)
  | blankAllCheck => exact .ordinary (execBlankAllCheck_steady s)
  | encSample codes => exact .ordinary (execEncSample_steady codes s)
  | encTrackingQualified ch => exact .ordinary (execEncTrackingQualified_steady ch s)
  | encAmplitudeFault ch => exact .ordinary (execEncAmplitudeFault_steady ch s)
  | encYawFault axis => exact .ordinary (execEncYawFault_steady axis s)
  | encSpeedRestart ch => exact .ordinary (execEncSpeedRestart_steady ch s)
  | encIndexEdge ch rising frac => exact .ordinary (execEncIndexEdge_steady ch rising frac s)
  | reref party ch => exact .ordinary (execReref_steady party ch s)
  | zeroX party => exact .ordinary (execZeroX_steady party s)
  | zeroY party => exact .ordinary (execZeroY_steady party s)
  | encFaultAck party mask => exact .ordinary (execEncFaultAck_steady party mask s)
  | shotTrigger => exact .ordinary (execShotTrigger_steady s)
  | deflectionWord => exact .ordinary (execDeflectionWord_steady s)
  | pathHoldTimeout => exact .ordinary (execPathHoldTimeout_steady s)
  | homeX party => exact .ordinary (execHomeX_steady party s)
  | homeY party => exact .ordinary (execHomeY_steady party s)
  | movePlanner party => exact .ordinary (execMovePlanner_steady party s)
  | stopPlanner party => exact .ordinary (execStopPlanner_steady party s)
  | plannerMoveDone x y => exact .ordinary (execPlannerMoveDone_steady x y s)
  | turnDwellEnd => exact .ordinary (execTurnDwellEnd_steady s)
  | writingSegmentStart => exact .ordinary (execWritingSegmentStart_steady s)
  | switchRawEdge sw was level => exact .ordinary (execSwitchRawEdge_steady sw was level s)
  | switchFilteredEdge sw => exact .ordinary (execSwitchFilteredEdge_steady sw s)
  | latchRearm party mask => exact .ordinary (execLatchRearm_steady party mask s)
  | trippedAck party mask => exact .ordinary (execTrippedAck_steady party mask s)
  | stoppedAck party => exact .ordinary (execStoppedAck_steady party s)
  | resumeFurrow => exact .ordinary (execResumeFurrow_steady s)
  | repairTraverseArm => exact .ordinary (execRepairTraverseArm_steady s)
  | repairSkip party => exact .ordinary (execRepairSkip_steady party s)
  | bankSwapRequest party microcodeOk => exact .ordinary (execBankSwapRequest_steady party microcodeOk s)
  | dmaClaim party ch => exact .ordinary (execDmaClaim_steady party ch s)
  | dmaRelease party ch => exact .ordinary (execDmaRelease_steady party ch s)
  | dmaStart party ch => exact .ordinary (execDmaStart_steady party ch s)
  | dmaAbort party ch => exact .ordinary (execDmaAbort_steady party ch s)
  | dmaDescriptorFetch ch ok host => exact .ordinary (execDmaDescriptorFetch_steady ch ok host s)
  | dmaBurstDone ch ok host => exact .ordinary (execDmaBurstDone_steady ch ok host s)
  | dmaAccessRetry ch ok host => exact .ordinary (execDmaAccessRetry_steady ch ok host s)
  | dmaTimerTick ch => exact .ordinary (execDmaTimerTick_steady ch s)
  | smbusAddress addr pecOk => exact .ordinary (execSmbusAddress_steady addr pecOk s)
  | smbusRead pecOk => exact .ordinary (execSmbusRead_steady pecOk s)
  | smbusWrite value pecOk => exact .ordinary (execSmbusWrite_steady value pecOk s)
  | smbusReadTimeout => exact .ordinary (execSmbusReadTimeout_steady s)
  | usbRead space seq length addr => exact .ordinary (execUsbRead_steady space seq length addr s)
  | usbWrite space seq length addr data => exact .ordinary (execUsbWrite_steady space seq length addr data s)
  | memMapCfgWrite party value => exact .ordinary (execMemMapCfgWrite_steady party value s)
  | memInvalidate party => exact .ordinary (execMemInvalidate_steady party s)
  | memScrub party => exact .ordinary (execMemScrub_steady party s)
  | scrubPassEnd us => exact .ordinary (execScrubPassEnd_steady us s)
  | patrolPassEnd upsets => exact .ordinary (execPatrolPassEnd_steady upsets s)
  | memRetire party phys => exact .ordinary (execMemRetire_steady party phys s)
  | pcCopyDone => exact .ordinary (execPcCopyDone_steady s)
  | refreshReadingStale stack => exact .ordinary (execRefreshReadingStale_steady stack s)
  | retrainBurst stack => exact .ordinary (execRetrainBurst_steady stack s)
  | selfRefreshEnter party stack => exact .ordinary (execSelfRefreshEnter_steady party stack s)
  | selfRefreshExit party stack => exact .ordinary (execSelfRefreshExit_steady party stack s)
  | selfRefreshAuto stack => exact .ordinary (execSelfRefreshAuto_steady stack s)
  | memFreqChange party freq => exact .ordinary (execMemFreqChange_steady party freq s)
  | freqChangeDone => exact .ordinary (execFreqChangeDone_steady s)
  | flipArm party check => exact .ordinary (execFlipArm_steady party check s)
  | fenceNop seq off data => exact .ordinary (execFenceNop_steady seq off data s)
  | fenceRead seq off data => exact .ordinary (execFenceRead_steady seq off data s)
  | fenceWrite seq off data => exact .ordinary (execFenceWrite_steady seq off data s)
  | fenceBadFrame cycles bytes => exact .ordinary (execFenceBadFrame_steady cycles bytes s)
  | fenceWatchdogExpiry => exact .ordinary (execFenceWatchdogExpiry_steady s)
  | fenceFallow on => exact .ordinary (execFenceFallow_steady on s)
  | revokeLease => exact .ordinary (execRevokeLease_steady s)
  | leaseLock on => exact .ordinary (execLeaseLock_steady on s)
  | thermtripRelease => exact .ordinary (execThermtripRelease_steady s)
  | fenceTripClear mask => exact .ordinary (execFenceTripClear_steady mask s)
  | txEnableWrite value => exact .ordinary (execTxEnableWrite_steady value s)
  | limitForceWrite value => exact .ordinary (execLimitForceWrite_steady value s)
  | serviceEnableWrite on => exact .ordinary (execServiceEnableWrite_steady on s)
  | doseCeilingWrite value => exact .ordinary (execDoseCeilingWrite_steady value s)
  | ledgerAuthorise key => exact .ordinary (execLedgerAuthorise_steady key s)
  | holdReqEdge => exact .ordinary (execHoldReqEdge_steady s)
  | doorOkEdge => exact .ordinary (execDoorOkEdge_steady s)
  | interlockRelease door => exact .ordinary (execInterlockRelease_steady door s)
  | hkRound readings taken => exact .ordinary (execHkRound_steady readings taken s)
  | aonComparatorRead readings => exact .ordinary (execAonComparatorRead_steady readings s)
  | thermalStopLimit => exact .ordinary (execThermalStopLimit_steady s)
  | thermalShutdown heldMs stopMs => exact .ordinary (execThermalShutdown_steady heldMs stopMs s)
  | calRun party item => exact .ordinary (execCalRun_steady party item s)
  | calDueAge item inst => exact .ordinary (execCalDueAge_steady item inst s)
  | calInstanceStart => exact .ordinary (execCalInstanceStart_steady s)
  | calInstanceDone choice => exact .ordinary (execCalInstanceDone_steady choice s)
  | calRetryEligible item inst => exact .ordinary (execCalRetryEligible_steady item inst s)
  | calOverdue item inst => exact .ordinary (execCalOverdue_steady item inst s)
  | calTestCompose party => exact .ordinary (execCalTestCompose_steady party s)
  | calTestDone => exact .ordinary (execCalTestDone_steady s)
  | tilthEncode party => exact .ordinary (execTilthEncode_steady party s)
  | tilthDecode party => exact .ordinary (execTilthDecode_steady party s)
  | tilthResume party => exact .ordinary (execTilthResume_steady party s)
  | tilthSave party => exact .ordinary (execTilthSave_steady party s)
  | tilthRestore party => exact .ordinary (execTilthRestore_steady party s)
  | tilthAbort party => exact .ordinary (execTilthAbort_steady party s)
  | tilthJobTileDone => exact .ordinary (execTilthJobTileDone_steady s)
  | ledgerHoldExpiry => exact .ordinary (execLedgerHoldExpiry_steady s)
  | ledgerCommit => exact .ordinary (execLedgerCommit_steady s)
  | ledgerFreeze party => exact .ordinary (execLedgerFreeze_steady party s)
  | ledgerUnfreeze party => exact .ordinary (execLedgerUnfreeze_steady party s)
  | freezeTimeout => exact .ordinary (execFreezeTimeout_steady s)
  | ldgReadData party => exact .ordinary (execLdgReadData_steady party s)
  | clearRequest party => exact .ordinary (execClearRequest_steady party s)
  | clearConfirm party => exact .ordinary (execClearConfirm_steady party s)
  | authorisationExpiry => exact .ordinary (execAuthorisationExpiry_steady s)
  | telemetryRecord => exact .ordinary (execTelemetryRecord_steady s)
  | usageClear party => exact .ordinary (execUsageClear_steady party s)
  | chkClaim party => exact .ordinary (execChkClaim_steady party s)
  | chkRelease party => exact .ordinary (execChkRelease_steady party s)
  | chkInit party unit => exact .ordinary (execChkInit_steady party unit s)
  | chkFeed8 party unit value => exact .ordinary (execChkFeed8_steady party unit value s)
  | chkFeed16 party unit value => exact .ordinary (execChkFeed16_steady party unit value s)
  | chkFeed32 party unit value => exact .ordinary (execChkFeed32_steady party unit value s)
  | chkResult party unit => exact .ordinary (execChkResult_steady party unit s)
  | nvlUpdate party => exact .ordinary (execNvlUpdate_steady party s)
  | nvlAbort party => exact .ordinary (execNvlAbort_steady party s)
  | nvlConfirm party => exact .ordinary (execNvlConfirm_steady party s)
  | nvlAdopt party => exact .ordinary (execNvlAdopt_steady party s)
  | nvlVerify party target => exact .ordinary (execNvlVerify_steady party target s)
  | flashOperationDone => exact .ordinary (execFlashOperationDone_steady s)
  | vddAonLoss => exact .ofTime rfl (execVddAonLoss_canon s)
  | xtal32Start running => exact .ordinary (execXtal32Start_steady running s)
  | sysclkRestored => exact .ordinary (execSysclkRestored_steady s)
  | jtagInstruction bypassOrIdcode => exact .ordinary (execJtagInstruction_steady bypassOrIdcode s)
  | keyProgram which key => exact .ofKey rfl (execKeyProgram_refuse which key s)
  | keyRevoke which => exact .ofKey rfl (execKeyRevoke_refuse which s)
  | pcieLinkUp party width speed => exact .ordinary (execPcieLinkUp_steady party width speed s)
  | gateReply island requester => exact .ordinary (execGateReply_steady island requester s)
  | switchFilteredInactive sw => exact .ordinary (execSwitchFilteredInactive_steady sw s)
  | memInvalidateDone => exact .ordinary (execMemInvalidateDone_steady s)
  | retrainBurstDone stack => exact .ordinary (execRetrainBurstDone_steady stack s)
  | sramPatrolPass island data check => exact .ordinary (execSramPatrolPass_steady island data check s)
  | usageClearDone => exact .ordinary (execUsageClearDone_steady s)

/-- A command other than the keys' leaves the fuses. -/
theorem exec_keeps_fuses (c : Instr) (s : State) (hk : blowsFuses c = false) :
    Answers c s fun t => t.fuses = s.fuses := by
  cases exec_effect c s with
  | ordinary h =>
    obtain ⟨t, he, ht⟩ := h
    exact ⟨t, he, ht.fuses⟩
  | ofTime _ h =>
    obtain ⟨t, he, ht⟩ := h
    exact ⟨t, he, ht.fuses⟩
  | ofKey hc _ => simp [hk] at hc

/-- A command other than those of time leaves the operating seconds. -/
theorem exec_keeps_seconds (c : Instr) (s : State) (hk : movesSeconds c = false) :
    Answers c s fun t => t.ret.seconds = s.ret.seconds := by
  cases exec_effect c s with
  | ordinary h =>
    obtain ⟨t, he, ht⟩ := h
    exact ⟨t, he, ht.seconds⟩
  | ofTime hc _ => simp [hk] at hc
  | ofKey _ h =>
    obtain ⟨t, f, he, ht⟩ := h
    exact ⟨t, he, ht.seconds⟩

theorem blowsFuses_eq_false {c : Instr} (hp : ∀ w k, c ≠ .keyProgram w k) (hr : ∀ w, c ≠ .keyRevoke w) :
    blowsFuses c = false := by
  unfold blowsFuses
  split
  · exact absurd rfl (hp _ _)
  · exact absurd rfl (hr _)
  · rfl

theorem movesSeconds_eq_false {c : Instr} (ht : c ≠ .operatingSecondTick) (hv : c ≠ .vddAonLoss)
    (hr : ∀ e, c ≠ .corePwrgdRise e) : movesSeconds c = false := by
  unfold movesSeconds
  split
  · exact absurd rfl ht
  · exact absurd rfl hv
  · exact absurd rfl (hr _)
  · rfl

/-- Settles O5: by the kinds of a command's effect. -/
theorem lifetimeStateKept : Obligations.LifetimeStateKept := by
  unfold Obligations.LifetimeStateKept
  exact ⟨fun c s hp hr => exec_keeps_fuses c s (blowsFuses_eq_false hp hr),
    fun c s ht hv hr => exec_keeps_seconds c s (movesSeconds_eq_false ht hv hr)⟩

/-- Settles O4: the memories are empty, and an empty register list reads its reset values. -/
theorem resetInForm : Obligations.ResetInForm := by
  unfold Obligations.ResetInForm
  obtain ⟨hcells, hflash⟩ := reset_memory_wf
  exact ⟨⟨hcells, hflash, rfl⟩, rfl, fun _ => rfl⟩

end Sys2Proof.Machine


/-! ## Writes of settings registers -/

namespace Sys2Proof.Machine

/-! ### Computed registers -/

/-- The offsets whose value computedReg gives. -/
def computedOffs : List Nat :=
  [0x10, 0x14, F.GLB_BOOT_TIME.off, 0x48, 0x80, 0xC0, 0xC4, 0x104] ++ List.range' 0x110 16 ++
    [F.LDG_READ_ADDR.off, F.LDG_READ_DATA.off, F.CAL_STATUS.off, 0x40014, 0x40018, 0x7032C, 0x70340, 0x70344, 0x70348,
      0x400008]

/-- No computed register is one of settings, and none counts. -/
theorem computed_rows :
    (computedOffs.all fun off => (regRow off).all fun row =>
      !row.settings && row.fields.all fun x => x.acc != .rc) = true := by decide +kernel

theorem computedReg_of_notMem {off : Nat} (h : off ∉ computedOffs) (p : Nat) (s : State) :
    computedReg p off s = none := by
  simp only [computedOffs, List.mem_append, List.mem_cons, List.mem_range'_1, List.not_mem_nil, or_false,
    not_or] at h
  simp only [computedReg, ite_some_none, and_true]
  omega

theorem computedReg_of_settings {off : Nat} {row : RegRow} (hr : regRow off = some row) (hs : row.settings = true)
    (p : Nat) (s : State) : computedReg p off s = none := by
  refine computedReg_of_notMem (fun hm => ?_) p s
  have := List.all_eq_true.1 computed_rows off hm
  simp [hr, hs] at this

/-- A register with a field that counts is not computed. -/
theorem computedReg_of_rc {off : Nat} {row : RegRow} (hr : regRow off = some row) {x : RegField} (hx : x ∈ row.fields)
    (hc : x.acc = .rc) (p : Nat) (s : State) : computedReg p off s = none := by
  refine computedReg_of_notMem (fun hm => ?_) p s
  have := List.all_eq_true.1 computed_rows off hm
  simp only [hr, Option.all_some, Bool.and_eq_true, List.all_eq_true] at this
  obtain ⟨_, hrc⟩ := this
  simpa [hc] using hrc x hx

/-- What a register reads as that is not computed does not depend on a command's beginning. -/
theorem begin_peek (s : State) (p off : Nat) (h : ∀ t, computedReg p off t = none) :
    s.begin.peek p off = s.peek p off := by
  unfold State.peek
  rw [h, h]
  rfl

/-! ### Accesses with no effect but their own -/

/-- An idempotent access takes no number. -/
theorem numbered_idem {p off : Nat} {w : Bool} (s : State) (h : nonIdem off w = false) : s.numbered p off w = s := by
  simp [State.numbered, request, h]

/-- The reply of an idempotent access is not kept. -/
theorem replied_idem {p off : Nat} {w : Bool} (s : State) (v : Nat) (t : State) (h : nonIdem off w = false) :
    s.replied p off w v t = t := by
  simp [State.replied, keepReply, request, h]

theorem written_idem {p off : Nat} (s : State) (f : State → State) (h : nonIdem off true = false) :
    s.written p off f = f s := by
  rw [State.written, replied_idem _ _ _ h, numbered_idem _ h]

/-- A change of registers alone. -/
theorem Steady.onlyRegs {s t : State} (h : Steady 0x4 s.begin t) : OnlyParts [.regs] s t :=
  h.toCanon.only (by intro x; cases x <;> decide)

/-! ### Rows of settings -/

theorem settings_apart {row : RegRow} (h : row.settings = true) : row.apart = true := by
  simp only [RegRow.settings, List.all_eq_true, Bool.and_eq_true] at h
  simp only [RegRow.apart, RegRow.fits, List.all_eq_true, Bool.and_eq_true, bne_iff_ne]
  constructor
  · intro x hx
    obtain ⟨⟨⟨_, hle⟩, hlt⟩, _⟩ := h x hx
    exact ⟨hle, hlt⟩
  · intro x hx
    obtain ⟨⟨⟨hacc, _⟩, _⟩, hsep⟩ := h x hx
    exact ⟨fun hwo => by simp [hwo] at hacc, hsep⟩

theorem settings_acc {row : RegRow} (h : row.settings = true) {x : RegField} (hx : x ∈ row.fields) :
    x.acc = .lw ∨ x.acc = .reserved := by
  simp only [RegRow.settings, List.all_eq_true, Bool.and_eq_true, Bool.or_eq_true, beq_iff_eq] at h
  obtain ⟨⟨⟨hacc, _⟩, _⟩, _⟩ := h x hx
  exact hacc

/-- A settings register has no field of any code but LW and reserved. -/
theorem settings_accMask {row : RegRow} (h : row.settings = true) {q : Acc → Bool} (hl : q .lw = false)
    (hr : q .reserved = false) : accMask row q = 0 := by
  apply Nat.eq_of_testBit_eq
  intro i
  rw [testBit_accMask row (apart_fits row (settings_apart h)), Nat.zero_testBit, inFields, List.any_eq_false]
  intro x hx
  rcases settings_acc h hx with ha | ha <;> simp [ha, hl, hr]

/-- A write of a settings register is idempotent (R32). -/
theorem nonIdem_settings {off : Nat} {row : RegRow} (hr : regRow off = some row) (h : row.settings = true) :
    nonIdem off true = false := by
  simp only [nonIdem, hr, if_true, List.any_eq_false]
  intro x hx
  rcases settings_acc h hx with ha | ha <;> simp [ha]

theorem plainReg_bounds {off : Nat} (h : plainReg off = true) :
    off < 0x1000000 ∧ off ≠ F.JOB_BANK_CTRL.off ∧ off ≠ F.GLB_LEASE.off := by
  simp only [plainReg, Bool.and_eq_true, bne_iff_ne, ne_eq, decide_eq_true_eq] at h ⊢
  omega

/-- REGISTER_WRITE of a settings register, carried out at once, is the register's write. -/
theorem exec_registerWrite_settings {p off : Nat} {row : RegRow} (v : Word) {s : State} (h : Reaches p off s)
    (hr : regRow off = some row) (hs : row.settings = true) (hp : plainReg off = true) :
    exec (.registerWrite p false off v) s = .next (regWriteOk p off v.toNat true s.begin) := by
  obtain ⟨_, hb, _⟩ := plainReg_bounds hp
  change Host.Outcome.next (partyWrite p off v.toNat s.begin) = _
  rw [partyWrite_reaches _ _ _ _ h.begin, written_idem _ _ (nonIdem_settings hr hs), Nat.mod_eq_of_lt v.isLt,
    regWrite, if_neg (fun hh => hb hh.1)]

/-! ### The lease holder's write (O13) -/

/-- A field within a mask takes the bits written; every other bit stands. -/
theorem bits_masked (r v m hi lo : Nat) (hlt : hi < 32) (hm : ∀ i, lo ≤ i → i ≤ hi → m.testBit i = true) :
    bits (((r &&& (0xFFFFFFFF ^^^ m)) ||| (v &&& m)) % 2 ^ 32) hi lo = bits v hi lo := by
  rw [bits_mod_word _ _ _ hlt]
  apply Nat.eq_of_testBit_eq
  intro i
  simp only [bits, Nat.testBit_mod_two_pow, Nat.testBit_shiftRight]
  by_cases hi2 : i < hi + 1 - lo
  · have hone : (0xFFFFFFFF : Nat).testBit (lo + i) = true := by
      rw [show (0xFFFFFFFF : Nat) = 2 ^ 32 - 1 from rfl, Nat.testBit_two_pow_sub_one]
      exact decide_eq_true (by omega)
    simp [hm (lo + i) (by omega) (by omega), hone]
  · simp [hi2]

/-- What an allowed write of a settings register stores: its LW fields, and nothing where it has none. -/
theorem regWriteOk_settings {p off v : Nat} {row : RegRow} {s : State} (h : Permitted p off row s)
    (hr : regRow off = some row) (hs : row.settings = true) (hp : plainReg off = true) :
    regWriteOk p off v true s = storeFields p off v (accMask row Acc.stored) s := by
  have hk : Keeps row (s.peek p off) v := by
    intro x hx hacc
    rcases settings_acc hs hx with ha | ha <;> simp [ha] at hacc
  rw [regWriteOk_allowed p off v true row s h hr (plainReg_bounds hp).1 (settings_apart hs) hk,
    settings_accMask hs (q := fun a => a == .w1s) rfl rfl, settings_accMask hs (q := fun a => a == .w1c) rfl rfl]
  simp [clearBits, setBits']

/-- The stored fields of a plain register: its own register changes alone. -/
theorem storeFields_plain_frame (p off v m : Nat) (s : State) (hp : plainReg off = true) :
    SameRegsBut [off] s (storeFields p off v m s) ∧ Steady 0x4 s (storeFields p off v m s) := by
  by_cases hm : m = 0
  · simp only [storeFields, hm, if_true]
    exact ⟨fun _ _ => rfl, Steady.refl _⟩
  · rw [storeFields_plain p off v m s hp hm]
    exact ⟨fun a ha => rd_wr_other s off _ a (by simpa using ha), State_wr_steady rfl _ _ _ (Steady.refl _)⟩

/-- The LW fields of a plain register read as they were written. -/
theorem bits_storeFields_lw (p v : Nat) {off : Nat} {row : RegRow} (s : State) (hs : row.settings = true)
    (hp : plainReg off = true) {x : RegField} (hx : x ∈ row.fields) (hl : x.acc = .lw) :
    bits ((storeFields p off v (accMask row Acc.stored) s).rd off) x.hi x.lo = bits v x.hi x.lo := by
  have hap := settings_apart hs
  obtain ⟨hle, hlt⟩ := fits_mem row (apart_fits row hap) x hx
  have hbit : ∀ i, x.lo ≤ i → i ≤ x.hi → (accMask row Acc.stored).testBit i = true := fun i h1 h2 => by
    rw [testBit_mask_of row hap _ x hx i h1 h2, hl]
    rfl
  have hm : accMask row Acc.stored ≠ 0 := fun h0 => by
    have := hbit x.lo (Nat.le_refl _) hle
    simp [h0] at this
  rw [storeFields_plain p off v _ s hp hm, rd_wr_same, bits_masked _ _ _ _ _ hlt hbit]

/-- Settles O13: an allowed write of a settings register is the store of its LW fields. -/
theorem registerWriteStores : Obligations.RegisterWriteStores := by
  unfold Obligations.RegisterWriteStores
  intro p off row v s h hr hs hp hn
  have hperm : Permitted p off row s.begin := (h.begin.allowed row hn).permitted s.gates
  obtain ⟨hregs, hparts⟩ := storeFields_plain_frame p off v.toNat (accMask row Acc.stored) s.begin hp
  refine ⟨storeFields p off v.toNat (accMask row Acc.stored) s.begin, ?_, fun x hx hl => ?_, hregs, hparts.onlyRegs⟩
  · rw [exec_registerWrite_settings v h.toReaches hr hs hp, regWriteOk_settings hperm hr hs hp]
  · exact bits_storeFields_lw p v.toNat s.begin hs hp hx hl

/-! ### A write without the lease (O14) -/

/-- The REASON of a party that may not write settings: the lease, or the management party (R441). -/
def settingsReason (p : Nat) : Nat := if p = 3 then 5 else 2

/-- Every LW field of a settings register is denied to a party without the lease. -/
theorem denied_settings {p off : Nat} (row : RegRow) {x : RegField} {s : State} (hh : s.holder ≠ p)
    (hp : plainReg off = true) (hm : mgmtOpen off = false) (hl : x.acc = .lw) :
    denied p off row x s = settingsReason p := by
  obtain ⟨_, _, hne⟩ := plainReg_bounds hp
  simp [denied, settingsReason, hl, hne, hm, hh]

theorem refusal_settings {p off v : Nat} {row : RegRow} {x : RegField} {s : State} (hs : row.settings = true)
    (hh : s.holder ≠ p) (hp : plainReg off = true) (hm : mgmtOpen off = false) (hx : x ∈ row.fields) (hl : x.acc = .lw)
    (hv : bits v x.hi x.lo ≠ bits (s.peek p off) x.hi x.lo) : refusal p off v row s = some (settingsReason p) := by
  have hd := fun y : RegField => denied_settings (p := p) (off := off) row (x := y) (s := s) hh hp hm
  have hne : settingsReason p ≠ 0 := by unfold settingsReason; split <;> simp
  simp only [refusal]
  cases hf : (row.fields.filterMap fun (y : RegField) =>
      if denied p off row y s ≠ 0 ∧ countsRefused y (s.peek p off) v = true then some (denied p off row y s)
      else none) with
  | nil =>
    rw [List.filterMap_eq_nil_iff] at hf
    have := hf x hx
    simp [hd x hl, hne, countsRefused, hl, hv] at this
  | cons r l =>
    have hr : r ∈ r :: l := List.mem_cons_self ..
    rw [← hf, List.mem_filterMap] at hr
    obtain ⟨y, hy, hyr⟩ := hr
    rw [Option.ite_none_right_eq_some] at hyr
    obtain ⟨⟨hy0, _⟩, hyr⟩ := hyr
    rcases settings_acc hs hy with ha | ha
    · rw [hd y ha] at hyr
      simpa using hyr.symm
    · simp [denied, ha] at hy0

/-- A write whose every field is denied reports the refusal and does nothing else. -/
theorem regWriteOk_refused {p off v : Nat} {row : RegRow} {x : RegField} {s : State}
    (hb : islandFused s.cls (islandOf off) = false) (hr : regRow off = some row) (hs : row.settings = true)
    (hh : s.holder ≠ p) (hp : plainReg off = true) (hm : mgmtOpen off = false) (hx : x ∈ row.fields) (hl : x.acc = .lw)
    (hv : bits v x.hi x.lo ≠ bits (s.peek p off) x.hi x.lo) :
    regWriteOk p off v true s = refuse p off (settingsReason p) s := by
  obtain ⟨ho, _, hne⟩ := plainReg_bounds hp
  have hno : ∀ q, q .reserved = false → allowedMask p off row q s = 0 := fun q hq => by
    apply Nat.eq_of_testBit_eq
    intro i
    rw [testBit_allowedMask _ _ _ (apart_fits row (settings_apart hs)), Nat.zero_testBit, inFields, List.any_eq_false]
    intro y hy
    rcases settings_acc hs hy with ha | ha
    · have hd : denied p off row y s ≠ 0 := by
        rw [denied_settings row hh hp hm ha]; unfold settingsReason; split <;> simp
      simp [hd]
    · simp [ha, hq]
  have ho2 : ¬ (0x1000000 ≤ off ∧ off < 0x1500000) := by omega
  unfold regWriteOk
  rw [if_neg (by simp [hb]), if_neg ho2, hr]
  simp only [hne, false_and, if_false, refusal_settings hs hh hp hm hx hl hv]
  rw [hno _ rfl, hno _ rfl, hno _ rfl, hno _ rfl]
  simp [storeFields, clearBits, setBits']

/-- A party that reaches the register map is one of the four (R7). -/
theorem reaches_party {p : Nat} {s : State} (h : s.reaches p = true) : 1 ≤ p ∧ p ≤ 4 := by
  simp only [State.reaches] at h
  split at h
  · omega
  · split at h
    · omega
    · split at h
      · omega
      · simp at h

theorem refusedCount_fits (p : Nat) :
    (refusedCount p).hi < 32 ∧ (refusedCount p).off ≠ F.GLB_REFUSED_LAST.off := by
  unfold refusedCount
  repeat' split
  all_goals decide

theorem refuse_eq {p : Nat} (h : 1 ≤ p ∧ p ≤ 4) (off r : Nat) (s : State) :
    refuse p off r s = (s.inc (refusedCount p) 1).wr F.GLB_REFUSED_LAST.off
      (p <<< 29 + r <<< 26 + off / 4 % 2 ^ 24) := by
  simp only [refuse, h, and_self, if_true]
  rfl

/-- Settles O14: every LW field is denied, so the write is the report of the refusal alone. -/
theorem registerWriteRefused : Obligations.RegisterWriteRefused := by
  unfold Obligations.RegisterWriteRefused
  intro p off row x v s h hh hr hs hp hx hl hm hv
  have hparty := reaches_party h.party
  obtain ⟨hhi, hoff⟩ := refusedCount_fits p
  have hpeek : s.begin.peek p off = s.peek p off := begin_peek s p off (computedReg_of_settings hr hs p)
  refine ⟨refuse p off (settingsReason p) s.begin, ?_, ?_, ?_, ?_, (refuse_steady rfl _ _ _ _ (Steady.refl _)).onlyRegs⟩
  · rw [exec_registerWrite_settings v h hr hs hp,
      regWriteOk_refused (s := s.begin) h.bonded hr hs hh hp hm hx hl (by rw [hpeek]; exact hv)]
  · rw [refuse_eq hparty, f_wr_other _ _ _ _ hoff, State.inc, f_set_same _ _ _ hhi, begin_f]
    exact Nat.mod_eq_of_lt (Nat.lt_of_le_of_lt (Nat.min_le_right _ _) (Nat.sub_lt (Nat.two_pow_pos _) Nat.one_pos))
  · rw [refuse_eq hparty, rd_wr_same]
    have hr5 : settingsReason p ≤ 5 := by unfold settingsReason; split <;> omega
    simp only [Nat.shiftLeft_eq]
    change _ = p * 2 ^ 29 + settingsReason p * 2 ^ 26 + off / 4 % 2 ^ 24
    omega
  · intro a ha
    simp only [List.mem_cons, List.not_mem_nil, or_false, not_or] at ha
    rw [refuse_eq hparty, rd_wr_other _ _ _ _ ha.2, State.inc, rd_set_other _ _ _ _ ha.1, begin_rd]

end Sys2Proof.Machine


/-! ## Reads of registers (O15) -/

namespace Sys2Proof.Machine

/-! ### The RC fields of a register read -/

/-- One step of clearRc: a field that counts returns to its reset value (R12). -/
def clearField (off : Nat) (s : State) (x : RegField) : State :=
  if x.acc == .rc then s.wr off (withBits (s.rd off) x.hi x.lo (bits (regReset s.fuses off) x.hi x.lo)) else s

theorem clearRc_eq_foldl (off : Nat) (row : RegRow) (s : State) :
    clearRc off row s = row.fields.foldl (clearField off) s := rfl

/-- Clearing changes registers alone. -/
theorem foldl_clearField_eq (off : Nat) (l : List RegField) (s : State) :
    l.foldl (clearField off) s = { s with regs := (l.foldl (clearField off) s).regs } := by
  induction l generalizing s with
  | nil => rfl
  | cons x t ih =>
    rw [List.foldl_cons, ih]
    unfold clearField
    split <;> rfl

theorem clearRc_eq (off : Nat) (row : RegRow) (s : State) :
    clearRc off row s = { s with regs := (clearRc off row s).regs } := foldl_clearField_eq off row.fields s

/-- Clearing leaves every other register. -/
theorem clearRc_frame (off : Nat) (row : RegRow) (s : State) : SameRegsBut [off] s (clearRc off row s) := by
  rw [clearRc_eq_foldl]
  generalize row.fields = l
  induction l generalizing s with
  | nil => exact fun _ _ => rfl
  | cons x t ih =>
    intro a ha
    rw [List.foldl_cons, ih _ a ha]
    unfold clearField
    split
    · exact rd_wr_other s off _ a (by simpa using ha)
    · rfl

/-- A register without RC fields stands. -/
theorem clearRc_none {row : RegRow} (h : ∀ x ∈ row.fields, x.acc ≠ .rc) (off : Nat) (s : State) :
    clearRc off row s = s := by
  rw [clearRc_eq_foldl]
  generalize row.fields = l at h
  induction l with
  | nil => rfl
  | cons x t ih =>
    have hx : clearField off s x = s := if_neg (by simpa using h x (List.mem_cons_self ..))
    rw [List.foldl_cons, hx]
    exact ih fun y hy => h y (List.mem_cons_of_mem _ hy)

theorem testBit_bits (n hi lo i : Nat) (h1 : lo ≤ i) (h2 : i ≤ hi) : (bits n hi lo).testBit (i - lo) = n.testBit i := by
  have e : lo + (i - lo) = i := by omega
  simp only [bits, Nat.testBit_mod_two_pow, Nat.testBit_shiftRight, e]
  simp [show i - lo < hi + 1 - lo by omega]

theorem testBit_clearField (off i : Nat) (x : RegField) (s : State) (hi : i < 32) (hx : x.lo ≤ x.hi) :
    ((clearField off s x).rd off).testBit i =
      if x.acc = .rc ∧ x.lo ≤ i ∧ i ≤ x.hi then (regReset s.fuses off).testBit i else (s.rd off).testBit i := by
  unfold clearField
  by_cases hc : x.acc = .rc
  · rw [if_pos (by simp [hc]), rd_wr_same, Nat.testBit_mod_two_pow, testBit_withBits _ _ _ _ _ hx]
    by_cases hin : x.lo ≤ i ∧ i ≤ x.hi
    · simp [hi, hc, hin, testBit_bits _ _ _ _ hin.1 hin.2]
    · simp [hi, hin]
  · rw [if_neg (by simp [hc]), if_neg (by simp [hc])]

/-- A bit of a register after its RC fields are cleared. -/
theorem testBit_clearRc (off i : Nat) (row : RegRow) (s : State) (hi : i < 32)
    (hf : ∀ x ∈ row.fields, x.lo ≤ x.hi ∧ x.hi < 32) :
    ((clearRc off row s).rd off).testBit i =
      if inFields row.fields (fun x => x.acc == .rc) i then (regReset s.fuses off).testBit i
      else (s.rd off).testBit i := by
  rw [clearRc_eq_foldl]
  generalize row.fields = l at hf
  induction l generalizing s with
  | nil => rfl
  | cons x t ih =>
    have hfu : (clearField off s x).fuses = s.fuses := by unfold clearField; split <;> rfl
    rw [List.foldl_cons, ih _ fun y hy => hf y (List.mem_cons_of_mem _ hy), hfu,
      testBit_clearField off i x s hi (hf x (List.mem_cons_self ..)).1]
    have hcons : inFields (x :: t) (fun x => x.acc == .rc) i =
        ((x.acc == .rc && decide (x.lo ≤ i) && decide (i ≤ x.hi)) || inFields t (fun x => x.acc == .rc) i) := rfl
    rw [hcons]
    cases inFields t (fun x => x.acc == .rc) i <;> simp [and_assoc]

/-- An RC field holds what it holds with nothing counted. -/
theorem bits_clearRc (off : Nat) (row : RegRow) (s : State) (hf : ∀ x ∈ row.fields, x.lo ≤ x.hi ∧ x.hi < 32)
    {x : RegField} (hx : x ∈ row.fields) (hc : x.acc = .rc) :
    bits ((clearRc off row s).rd off) x.hi x.lo = bits (regReset s.fuses off) x.hi x.lo := by
  obtain ⟨_, hlt⟩ := hf x hx
  apply Nat.eq_of_testBit_eq
  intro i
  simp only [bits, Nat.testBit_mod_two_pow, Nat.testBit_shiftRight]
  by_cases hi : i < x.hi + 1 - x.lo
  · have hin : inFields row.fields (fun x => x.acc == .rc) (x.lo + i) = true :=
      List.any_eq_true.2 ⟨x, hx, by simp [hc]; omega⟩
    rw [testBit_clearRc off _ row s (by omega) hf, if_pos hin]
  · simp [hi]

/-! ### What a read changes -/

/-- The effect of a read beside its RC fields: the sub-second is latched (R388), or the party's ledger pointer moves on
(R395). -/
def readSide (p off : Nat) (s : State) : State :=
  if off = 0x10 then { s with ret := { s.ret with latchedSub := s.ret.sub } }
  else if off = F.LDG_READ_DATA.off then ledgerAdvance p s
  else s

theorem regRead_bonded {p off : Nat} {row : RegRow} {s : State} (hb : islandFused s.cls (islandOf off) = false)
    (hr : regRow off = some row) : regRead p off s = (s.peek p off, clearRc off row (readSide p off s)) := by
  simp only [regRead, hb, hr, Bool.false_eq_true, if_false]
  rfl

theorem readSide_eq (p off : Nat) (s : State) :
    readSide p off s = { s with ret := (readSide p off s).ret, ledger := (readSide p off s).ledger } := by
  unfold readSide
  split
  · rfl
  · split <;> rfl

/-- What a party's access takes of the gates changes no value that is read: no register whose read is numbered is
computed from a gate. -/
theorem numbered_peek (s : State) (p off : Nat) : (s.numbered p off false).peek p off = s.peek p off := by
  cases hn : nonIdem off false
  case false => rw [numbered_idem _ hn]
  case true =>
    rw [numbered_eq]
    unfold nonIdem at hn
    split at hn
    · exact absurd hn (by simp)
    · rename_i row hr
      simp only [Bool.false_eq_true, if_false, Bool.or_eq_true, beq_iff_eq, List.any_eq_true] at hn
      rcases hn with rfl | ⟨x, hx, hc⟩
      · rfl
      · exact peek_gates p off s _ (computedReg_of_rc hr hx hc p s)

/-! ### The reply -/

/-- The reply of a party's own read: the management party's brings the status of its last write, which then is 0
(R295; log entry 29). -/
theorem answer_direct {r : Req} (hd : r.direct = true) (v : Nat) (s : State) :
    answer r 0 v s = { s with
      smbusStatus := if r.requester = 3 then 0 else s.smbusStatus
      out := s.out ++ [.reply r.requester (if r.requester = 3 then s.smbusStatus else 0) [v]] } := by
  by_cases h3 : r.requester = 3
  · simp only [answer, h3, hd, and_self, if_true]
    rfl
  · simp only [answer, h3, false_and, if_false]
    rfl

theorem request_direct (p off : Nat) (w : Bool) (v : Word) (s : State) :
    (request p off false w true v s).1.direct = true ∧ (request p off false w true v s).1.requester = p := by
  unfold request
  dsimp only
  split <;> exact ⟨rfl, rfl⟩

/-- The state of a read that a party's gate takes at once, before its reply. -/
def State.read (s : State) (p off : Nat) (row : RegRow) : State :=
  s.replied p off false (s.peek p off) (clearRc off row (readSide p off (s.numbered p off false)))

/-- A read that a party's gate takes at once answers the register's value. -/
theorem partyRead_bonded {p off : Nat} {row : RegRow} {s : State} (h : Reaches p off s) (hr : regRow off = some row) :
    partyRead p off s = { s.read p off row with
      smbusStatus := if p = 3 then 0 else (s.read p off row).smbusStatus
      out := (s.read p off row).out ++
        [.reply p (if p = 3 then (s.read p off row).smbusStatus else 0) [s.peek p off]] } := by
  have hb : islandFused (s.numbered p off false).cls (islandOf off) = false := by
    rw [numbered_eq]
    exact h.bonded
  obtain ⟨hd, hq⟩ := request_direct p off false 0 s
  rw [partyRead_reaches p off s h, regRead_bonded hb hr, numbered_peek, answer_direct hd, hq]
  rfl

/-- A read before its reply: gates, registers, retention RAM and the ledger's pointers may have changed. -/
theorem read_eq (s : State) (p off : Nat) (row : RegRow) :
    s.read p off row = { s with
      gates := (s.read p off row).gates, regs := (s.read p off row).regs
      ret := (s.read p off row).ret, ledger := (s.read p off row).ledger } := by
  unfold State.read
  rw [replied_eq, clearRc_eq, readSide_eq, numbered_eq]

/-- Registers after a read, before its reply, are those after its clearing. -/
theorem read_rd (s : State) (p off : Nat) (row : RegRow) (a : Nat) :
    (s.read p off row).rd a = (clearRc off row (readSide p off (s.numbered p off false))).rd a := by
  unfold State.read
  rw [replied_eq]
  rfl

theorem readSide_numbered_rd (s : State) (p off a : Nat) : (readSide p off (s.numbered p off false)).rd a = s.rd a := by
  rw [readSide_eq, numbered_eq]
  rfl

theorem readSide_numbered_fuses (s : State) (p off : Nat) :
    (readSide p off (s.numbered p off false)).fuses = s.fuses := by
  rw [readSide_eq, numbered_eq]

theorem read_frame (s : State) (p off : Nat) (row : RegRow) : SameRegsBut [off] s (s.read p off row) := by
  intro a ha
  rw [read_rd, clearRc_frame _ _ _ a ha, readSide_numbered_rd]

/-- A read changes of the gates nothing but its own number and reply. -/
theorem read_sameGates (s : State) (p off : Nat) (row : RegRow) : SameGates p s (s.read p off row) := by
  refine ((numbered_sameGates s p off false).trans (SameGates.of_eq ?_)).trans (replied_sameGates s _ p off false _)
  rw [clearRc_eq, readSide_eq]

/-- A read that the gate takes at once changes these parts at most. -/
theorem partyRead_accessOnly {p off : Nat} {row : RegRow} {s : State} (h : Reaches p off s)
    (hr : regRow off = some row) :
    AccessOnly p [.regs, .ret, .ledger, .smbusStatus] s (partyRead p off s.begin) := by
  constructor
  · have hs : Steady 0x10100e s.begin (partyRead p off s.begin) := by
      rw [partyRead_reaches p off s.begin h.begin]
      exact answer_steady rfl _ _ _ _ (keepReply_steady rfl _ _ _ _ (regRead_steady rfl _ _ _
        (request_steady rfl _ _ _ _ _ _ _ (Steady.refl _))))
    exact hs.toCanon.only (by intro x; cases x <;> decide)
  · rw [partyRead_bonded h.begin hr]
    exact read_sameGates s.begin p off row

/-- READ_CLEAR of a register that the party reaches (R12). -/
theorem readClear_answers {p off : Nat} {row : RegRow} {s : State} (h : Reaches p off s) (hr : regRow off = some row)
    (hf : ∀ x ∈ row.fields, x.lo ≤ x.hi ∧ x.hi < 32) :
    Answers (.readClear p off) s fun t =>
      t.out = [.reply p (if p = 3 then s.smbusStatus else 0) [s.begin.peek p off]] ∧
      t.smbusStatus = (if p = 3 then 0 else s.smbusStatus) ∧
      (∀ x ∈ row.fields, x.acc = .rc → bits (t.rd off) x.hi x.lo = bits (regReset s.fuses off) x.hi x.lo) ∧
      SameRegsBut [off] s t ∧ AccessOnly p [.regs, .ret, .ledger, .smbusStatus] s t := by
  refine ⟨partyRead p off s.begin, rfl, ?_, ?_, ?_, ?_, partyRead_accessOnly h hr⟩ <;>
    rw [partyRead_bonded h.begin hr]
  · rw [read_eq]
    rfl
  · rw [read_eq]
    rfl
  · intro x hx hc
    change bits ((s.begin.read p off row).rd off) x.hi x.lo = _
    rw [read_rd, bits_clearRc off row _ hf hx hc, readSide_numbered_fuses, begin_fuses]
  · exact read_frame s.begin p off row

/-- A read of a register of an island that is not bonded answers 0 (R5). -/
theorem partyRead_fused {p off : Nat} {s : State} (hp : s.reaches p = true)
    (hb : islandFused s.cls (islandOf off) = true) :
    partyRead p off s = answer ⟨p, 0, false, false, off, 0, true⟩ 0 0 s := by
  have hg : s.gated (islandOf off) = false := by simp [State.gated, hb]
  simp [partyRead, hp, request, hg, present, perform, regRead, hb]

/-- READ_CLEAR of a register of an island that is not bonded. -/
theorem readClear_fused {p off : Nat} {s : State} (hp : s.reaches p = true)
    (hb : islandFused s.cls (islandOf off) = true) :
    Answers (.readClear p off) s fun t =>
      t.out = [.reply p (if p = 3 then s.smbusStatus else 0) [0]] ∧
      t.smbusStatus = (if p = 3 then 0 else s.smbusStatus) ∧ OnlyParts [.smbusStatus] s t := by
  refine ⟨answer ⟨p, 0, false, false, off, 0, true⟩ 0 0 s.begin, ?_, ?_, ?_, ?_⟩
  · exact congrArg Host.Outcome.next (partyRead_fused (s := s.begin) hp hb)
  · rw [answer_direct rfl]
    rfl
  · rw [answer_direct rfl]
    rfl
  · exact (answer_steady (l := 0x1000) rfl _ _ _ _ (Steady.refl _)).toCanon.only (by intro x; cases x <;> decide)

/-! ### The operating seconds -/

/-- GLB_OPERATING_SECONDS is a register of the map, and its read is idempotent. -/
theorem operatingSeconds_row :
    ((regRow 0x10).any fun row => row.fields.all fun x => x.acc != .rc) = true ∧ nonIdem 0x10 false = false := by
  decide +kernel

theorem onlyParts_ret_smbus (s : State) (r : Retention) (n : Nat) (o : List Out) :
    OnlyParts [.ret, .smbusStatus] s { s.begin with ret := r, smbusStatus := n, out := o } := by
  intro x hx
  cases x
  case ret => simp at hx
  case smbusStatus => simp at hx
  all_goals rfl

/-- A read of GLB_OPERATING_SECONDS latches the sub-second (R388). -/
theorem partyRead_operatingSeconds {p : Nat} {s : State} (h : Reaches p 0x10 s) :
    partyRead p 0x10 s = { s with
      ret := { s.ret with latchedSub := s.ret.sub }
      smbusStatus := if p = 3 then 0 else s.smbusStatus
      out := s.out ++ [.reply p (if p = 3 then s.smbusStatus else 0) [s.ret.seconds]] } := by
  obtain ⟨hrow, hidem⟩ := operatingSeconds_row
  obtain ⟨row, hr, hrc⟩ := (Option.any_eq_true _ _).1 hrow
  have hread : s.read p 0x10 row = { s with ret := { s.ret with latchedSub := s.ret.sub } } := by
    rw [State.read, replied_idem _ _ _ hidem, numbered_idem _ hidem, clearRc_none (by simpa using hrc)]
    rfl
  have hpeek : s.peek p 0x10 = s.ret.seconds := by
    simp [State.peek, h.bonded, hr, computedReg]
  rw [partyRead_bonded h hr, hread, hpeek]

/-- Settles O15: a read carried out at once is the register's read, its clearing and the reply. -/
theorem readsAnswer : Obligations.ReadsAnswer := by
  unfold Obligations.ReadsAnswer
  intro p s
  refine ⟨fun off row h hr _ hf => readClear_answers h hr hf, fun off hp hb => readClear_fused hp hb, fun h => ?_⟩
  refine ⟨_, congrArg Host.Outcome.next (partyRead_operatingSeconds h.begin), rfl, rfl, rfl, ?_⟩
  exact onlyParts_ret_smbus s _ _ _

end Sys2Proof.Machine


/-! ## The service pod (O17)

The end of the service party's rights runs through the ledger, the DMA channels, the check units and the loader. None of
them writes a register of AON, where the presence, the enable and the lease are held: `AonKept` follows that through
each operation. -/

namespace Sys2Proof.Machine

/-! ### The registers of AON stand -/

/-- Every register of AON (R24, R437) holds in `t` what it holds in `s`. -/
def AonKept (s t : State) : Prop := ∀ off, off < 0x20000 → t.rd off = s.rd off

theorem AonKept.refl (s : State) : AonKept s s := fun _ _ => rfl

/-- A change beside the registers. -/
theorem AonKept.upd {s t u : State} (h : AonKept s t) (hr : u.regs = t.regs) (hf : u.fuses = t.fuses) : AonKept s u :=
  fun off ho => (rd_congr u t off hr hf).trans (h off ho)

theorem AonKept.putRet {s t : State} (h : AonKept s t) (r : Retention) : AonKept s { t with ret := r } := h

theorem AonKept.putLedger {s t : State} (h : AonKept s t) (l : Ledger) : AonKept s { t with ledger := l } := h

theorem AonKept.putNvl {s t : State} (h : AonKept s t) (n : Nvl) : AonKept s { t with nvl := n } := h

theorem AonKept.wr {s t : State} (h : AonKept s t) {off : Nat} (ho : 0x20000 ≤ off) (v : Nat) :
    AonKept s (t.wr off v) :=
  fun a ha => (rd_wr_other t off v a (by omega)).trans (h a ha)

theorem AonKept.set {s t : State} (h : AonKept s t) {x : Fld} (ho : 0x20000 ≤ x.off) (v : Nat) :
    AonKept s (t.set x v) :=
  h.wr ho _

theorem AonKept.inc {s t : State} (h : AonKept s t) {x : Fld} (ho : 0x20000 ≤ x.off) (n : Nat) :
    AonKept s (t.inc x n) :=
  h.set ho _

theorem AonKept.ite {s a b : State} {c : Prop} [Decidable c] (ha : AonKept s a) (hb : AonKept s b) :
    AonKept s (if c then a else b) := by split <;> assumption

theorem AonKept.foldl {α : Type} {s : State} {f : State → α → State} (l : List α) {t : State} (ht : AonKept s t)
    (hf : ∀ u x, AonKept s u → AonKept s (f u x)) : AonKept s (l.foldl f t) := by
  induction l generalizing t with
  | nil => exact ht
  | cons x l ih => exact ih (hf t x ht)

/-- A field of AON reads the same. -/
theorem AonKept.f {s t : State} (h : AonKept s t) {x : Fld} (ho : x.off < 0x20000) : t.f x = s.f x := by
  simp only [State.f, h x.off ho]

theorem AonKept.on {s t : State} (h : AonKept s t) {x : Fld} (ho : x.off < 0x20000) : t.on x = s.on x := by
  simp only [State.on, h.f ho]

theorem AonKept.holder {s t : State} (h : AonKept s t) : t.holder = s.holder := h.f (by decide)

/-! ### Vectors and ledger events -/

section
variable {s0 s : State}

theorem hstBase_ge (port : Nat) : 0x90000 ≤ hstBase port := by unfold hstBase; split <;> omega

theorem raisePort_aon (port v : Nat) (h : AonKept s0 s) : AonKept s0 (raisePort port v s) := by
  have := hstBase_ge port
  exact AonKept.ite ((h.wr (by omega) _).upd rfl rfl) h

theorem raiseCopy_aon (party v : Nat) (h : AonKept s0 s) : AonKept s0 (raiseCopy party v s) :=
  AonKept.ite (h.upd rfl rfl) h

theorem raise_aon (v : Nat) (h : AonKept s0 s) : AonKept s0 (raise v s) :=
  raiseCopy_aon 4 v (raiseCopy_aon 3 v (raisePort_aon 2 v (raisePort_aon 1 v h)))

theorem raiseTo_aon (party v : Nat) (h : AonKept s0 s) : AonKept s0 (raiseTo party v s) :=
  AonKept.ite (raisePort_aon party v h) (AonKept.ite (raiseCopy_aon party v h) h)

theorem showLedger_aon (h : AonKept s0 s) : AonKept s0 (showLedger s) :=
  ((h.set (by decide) _).set (by decide) _).set (by decide) _

theorem loseRec_aon (sev : Nat) (h : AonKept s0 s) : AonKept s0 (loseRec sev s) :=
  AonKept.ite ((h.inc (by decide) 1).inc (by decide) 1) (h.inc (by decide) 1)

theorem enqueueRec_aon (r : LedgerRec) (h : AonKept s0 s) : AonKept s0 (enqueueRec r s) :=
  AonKept.ite (loseRec_aon _ h) (AonKept.ite (loseRec_aon _ h) (AonKept.ite (loseRec_aon _ h)
    (showLedger_aon (h.upd rfl rfl))))

theorem closeOpenRec_aon (h : AonKept s0 s) : AonKept s0 (closeOpenRec s) := by
  unfold closeOpenRec
  split
  · exact h
  · exact enqueueRec_aon _ (h.upd rfl rfl)

theorem openRec_aon (r : LedgerRec) (h : AonKept s0 s) : AonKept s0 (openRec r s) := by
  have h2 := (closeOpenRec_aon h).upd (u := { closeOpenRec s with
    ret := { (closeOpenRec s).ret with openRec := some r, openAge := 0 } }) rfl rfl
  exact AonKept.ite (raise_aon 11 h2) h2

theorem recordEvent_aon (r : LedgerRec) (h : AonKept s0 s) : AonKept s0 (recordEvent r s) := by
  unfold recordEvent
  split
  · exact AonKept.ite (AonKept.ite (closeOpenRec_aon (h.upd rfl rfl)) (h.upd rfl rfl)) (openRec_aon r h)
  · exact openRec_aon r h

theorem event_aon (typ : Nat) (payload : List Byte) (h : AonKept s0 s) : AonKept s0 (event typ payload s) :=
  AonKept.ite (recordEvent_aon _ h) (AonKept.ite h (h.upd rfl rfl))

/-! ### The freeze, the channels and the check unit of a party -/

theorem endFreeze_aon (h : AonKept s0 s) : AonKept s0 (endFreeze s) :=
  AonKept.ite (showLedger_aon ((h.set (by decide) 0).upd rfl rfl)) h

theorem endFreezeOf_aon (party : Nat) (h : AonKept s0 s) : AonKept s0 (endFreezeOf party s) :=
  AonKept.ite (endFreeze_aon h) h

theorem dmaHalt_aon (ch err : Nat) (h : AonKept s0 s) : AonKept s0 (dmaHalt ch err s) :=
  raiseTo_aon _ _ ((h.set (by simp only; omega) 4).set (by simp only; omega) err)

theorem dmaAbort_aon (ch : Nat) (h : AonKept s0 s) : AonKept s0 (dmaAbort ch s) :=
  AonKept.ite (h.upd rfl rfl) (AonKept.ite (dmaHalt_aon ch 6 h) h)

theorem dmaRelease_aon (ch : Nat) (h : AonKept s0 s) : AonKept s0 (dmaRelease ch s) :=
  AonKept.ite (h.upd rfl rfl) (((dmaAbort_aon ch h).wr (by simp only; omega) 0).upd rfl rfl)

theorem dmaDrop_aon (ch : Nat) (h : AonKept s0 s) : AonKept s0 (dmaDrop ch s) :=
  dmaRelease_aon ch (AonKept.ite (h.upd rfl rfl) h)

theorem dmaDropAll_aon (party : Nat) (h : AonKept s0 s) : AonKept s0 (dmaDropAll party s) :=
  AonKept.foldl _ h fun _ ch hu => AonKept.ite (dmaDrop_aon ch hu) hu

theorem chkRelease_aon (party : Nat) (h : AonKept s0 s) : AonKept s0 (chkRelease party s) :=
  AonKept.ite (h.set (by decide) 0) h

/-! ### The loader -/

theorem showWear_aon (region count : Nat) (h : AonKept s0 s) : AonKept s0 (showWear region count s) := by
  have ho : 0x20000 ≤ F.NVL_WEAR_A.off + 4 * region := by simp only; omega
  have h1 := h.wr ho (withBits (s.rd (F.NVL_WEAR_A.off + 4 * region)) 16 0 (satN 17 count))
  have h2 := h1.wr ho (withBits ((s.wr (F.NVL_WEAR_A.off + 4 * region)
    (withBits (s.rd (F.NVL_WEAR_A.off + 4 * region)) 16 0 (satN 17 count))).rd (F.NVL_WEAR_A.off + 4 * region)) 30 30 1)
  exact AonKept.ite (AonKept.ite h2 (event_aon _ _ h2)) h1

theorem showStore_aon (h : AonKept s0 s) : AonKept s0 (showStore s) := by
  refine AonKept.foldl _ ?_ fun _ _ hu => showWear_aon _ _ hu
  exact (((((h.set (by decide) _).set (by decide) _).set (by decide) _).set (by decide) _).set (by decide) _).set
    (by decide) _

theorem flashProgram_aon (a : Nat) (l : List Byte) (h : AonKept s0 s) : AonKept s0 (flashProgram a l s) := h.upd rfl rfl

theorem flashErase_aon (a n : Nat) (h : AonKept s0 s) : AonKept s0 (flashErase a n s) := h.upd rfl rfl

theorem storeProgram_aon (r : StoreRec) (h : AonKept s0 s) : AonKept s0 (storeProgram r s) :=
  showStore_aon (AonKept.putNvl (flashProgram_aon _ _ (AonKept.ite (flashErase_aon _ _ h) h)) _)

theorem programRec_aon (r : LedgerRec) (h : AonKept s0 s) : AonKept s0 (programRec r s) :=
  ((flashProgram_aon _ _ h).set (by decide) _).inc (by decide) 1

theorem commitOne_aon (h : AonKept s0 s) : AonKept s0 (commitOne s) := by
  unfold commitOne
  split
  · exact h
  · exact AonKept.ite (showLedger_aon (loseRec_aon _ (AonKept.putRet h _)))
      (AonKept.ite (showLedger_aon (programRec_aon _ (AonKept.putRet h _)))
        (showLedger_aon (AonKept.putLedger (programRec_aon _ (loseRec_aon _ (AonKept.putRet h _))) _)))

theorem commitAll_aon (n : Nat) (h : AonKept s0 s) : AonKept s0 (commitAll n s) := by
  induction n generalizing s with
  | zero => exact h
  | succ n ih => exact ih (commitOne_aon h)

theorem clearProceed_aon (h : AonKept s0 s) : AonKept s0 (clearProceed s) :=
  AonKept.ite (showLedger_aon (AonKept.putNvl (AonKept.set (storeProgram_aon _
    (AonKept.putLedger (commitAll_aon _ h) _)) (by decide) 4) _)) h

theorem nvlResult_aon (n : Nat) (h : AonKept s0 s) : AonKept s0 (nvlResult n s) := h.set (by decide) n

theorem updateEnd_aon (result : Nat) (h : AonKept s0 s) : AonKept s0 (updateEnd result s) :=
  nvlResult_aon result ((h.set (by decide) 1).upd rfl rfl)

theorem showProgress_aon (u : Update) (h : AonKept s0 s) : AonKept s0 (showProgress u s) := h.wr (by decide) _

/-- A CONFIRM that waits goes ahead, or still waits. -/
theorem flashNext_aon (h : AonKept s0 s) : AonKept s0 (flashNext s) := by
  unfold flashNext
  extract_lets +onlyGivenNames _ _ s1 s2
  have h1 : AonKept s0 s1 := by
    unfold s1
    split
    · exact AonKept.ite (nvlResult_aon 2 (storeProgram_aon _ (h.upd rfl rfl))) h
    · exact h
  have h2 : AonKept s0 s2 := AonKept.ite (clearProceed_aon h1) h1
  split
  · exact h2
  · exact AonKept.ite h2 (AonKept.ite (updateEnd_aon 6 h2)
      (AonKept.ite (h2.set (x := F.NVL_STATUS_STATE) (by decide) 3)
        (showProgress_aon _ ((h2.set (x := F.NVL_STATUS_STATE) (by decide) _).upd rfl rfl))))

theorem nvlAbort_aon (h : AonKept s0 s) : AonKept s0 (nvlAbort s) := by
  unfold nvlAbort
  split
  · exact AonKept.ite h (flashNext_aon (h.upd rfl rfl))
  · exact h

end

/-! ### The end of a lease -/

/-- Of AON's registers a lease that ends changes the holder alone (R271). -/
theorem leaseEnd_aon (reason : Nat) {s : State} (hh : s.holder ≠ 0) :
    AonKept (s.set F.GLB_LEASE_HOLDER 0) (leaseEnd reason s) := by
  unfold leaseEnd
  rw [if_neg hh]
  exact endFreezeOf_aon _ (raise_aon 3 (event_aon _ _ ((AonKept.refl _).set (by decide) 0)))

/-! ### The end of the service party's rights -/

/-- A gate without the service party's accepted requests. -/
def Gate.dropService (g : Gate) : Gate :=
  { g with accepted := g.accepted.filter fun (x : Req × Nat) => x.1.requester != 4 }

/-- What the service party's rights drop: its requests, their places at the gates, its USB requests and its copies of
the event registers (R9, R296). -/
def dropService (s : State) : State :=
  { s with
    retrying := s.retrying.filter fun (e : Nat × Req) => e.2.requester != 4
    gates := s.gates.map fun (e : Nat × Gate) => (e.1, e.2.dropService)
    usb := []
    evPending := alErase s.evPending 4, evEnable := alErase s.evEnable 4 }

/-- The service party's lease ends where it holds it. -/
def endServiceLease (s : State) : State := if s.holder = 4 then leaseEnd 3 s else s

/-- An update that the service party started is aborted (R422). -/
def abortService (s : State) : State :=
  if (match s.nvl.update with | some u => u.starter == 4 | none => false) then nvlAbort s else s

/-- The end of the service party's rights. -/
def loseRights (s : State) : State :=
  abortService (dropService (chkRelease 4 (endFreezeOf 4 (dmaDropAll 4 (endServiceLease s)))))

/-- SERVICE_PRESENT is stored, and where it falls the rights end (R9, R359). -/
theorem serviceRights_eq (s : State) :
    serviceRights s =
      let on := s.pins.svcSense && s.on F.FNC_INTERLOCK_CFG_SERVICE_ENABLE
      let t := s.set F.FNC_STATUS_SERVICE_PRESENT (bitOf on)
      if s.on F.FNC_STATUS_SERVICE_PRESENT && !on then loseRights t else t := rfl

/-- After the lease the end of the rights leaves AON's registers. -/
theorem loseRights_aon (s : State) : AonKept (endServiceLease s) (loseRights s) := by
  have h : AonKept (endServiceLease s)
      (dropService (chkRelease 4 (endFreezeOf 4 (dmaDropAll 4 (endServiceLease s))))) :=
    (chkRelease_aon 4 (endFreezeOf_aon 4 (dmaDropAll_aon 4 (AonKept.refl _)))).upd rfl rfl
  exact AonKept.ite (nvlAbort_aon h) h

/-- Of AON's registers the end of the rights changes GLB_LEASE at most. -/
theorem loseRights_rd (s : State) (a : Nat) (ha : a < 0x20000) (hl : a ≠ F.GLB_LEASE.off) :
    (loseRights s).rd a = s.rd a := by
  rw [loseRights_aon s a ha, endServiceLease]
  split
  · rename_i h4
    rw [leaseEnd_aon 3 (by simp [h4]) a ha, rd_set_other s F.GLB_LEASE_HOLDER 0 a hl]
  · rfl

theorem loseRights_holder (s : State) : (loseRights s).holder = if s.holder = 4 then 0 else s.holder := by
  rw [(loseRights_aon s).holder, endServiceLease]
  split
  · rename_i h4
    rw [(leaseEnd_aon 3 (by simp [h4])).holder]
    exact f_set_same _ _ _ (by decide)
  · rfl

theorem alGet_map {α β : Type} (f : α → β) (l : List (Nat × α)) (a : Nat) :
    alGet (l.map fun e => (e.1, f e.2)) a = (alGet l a).map f := by
  induction l with
  | nil => rfl
  | cons e t ih =>
    simp only [List.map_cons, alGet, ih]
    split
    · rfl
    · split <;> rfl

theorem dropService_accepted (s : State) (i : Nat) :
    ((dropService s).gate i).accepted = (s.gate i).accepted.filter fun (x : Req × Nat) => x.1.requester != 4 := by
  unfold State.gate dropService
  dsimp only
  rw [alGet_map Gate.dropService]
  cases alGet s.gates i <;> rfl

/-- The abort of an update leaves the requests. -/
theorem abortService_requests (s : State) :
    (abortService s).usb = s.usb ∧ (abortService s).retrying = s.retrying ∧ (abortService s).gates = s.gates := by
  have h : Steady 0x500106 s (abortService s) := Steady.ite (nvlAbort_steady rfl s (Steady.refl s)) (Steady.refl s)
  exact ⟨h.parts .usb rfl, h.parts .retrying rfl, h.parts .gates rfl⟩

/-- None of the service party's requests waits or awaits a reply once its rights have ended. -/
theorem loseRights_requests (s : State) :
    (loseRights s).usb = [] ∧ (∀ e ∈ (loseRights s).retrying, e.2.requester ≠ 4) ∧
      ∀ i, ∀ e ∈ ((loseRights s).gate i).accepted, e.1.requester ≠ 4 := by
  unfold loseRights
  generalize chkRelease 4 (endFreezeOf 4 (dmaDropAll 4 (endServiceLease s))) = t
  obtain ⟨husb, hretry, hgates⟩ := abortService_requests (dropService t)
  refine ⟨husb, fun e he => ?_, fun i e he => ?_⟩
  · rw [hretry] at he
    simpa using (List.mem_filter.1 he).2
  · have hg : (abortService (dropService t)).gate i = (dropService t).gate i := by unfold State.gate; rw [hgates]
    rw [hg, dropService_accepted] at he
    simpa using (List.mem_filter.1 he).2

/-! ### The pod -/

theorem serviceRights_pins (s : State) : (serviceRights s).pins = s.pins :=
  (serviceRights_steady (l := 0x100054032e) rfl s (Steady.refl s)).parts .pins rfl

/-- SERVICE_PRESENT is the pod's presence and SERVICE_ENABLE together. -/
theorem serviceRights_present (s : State) :
    (serviceRights s).on F.FNC_STATUS_SERVICE_PRESENT =
      (s.pins.svcSense && s.on F.FNC_INTERLOCK_CFG_SERVICE_ENABLE) := by
  have hset : ∀ b, (s.set F.FNC_STATUS_SERVICE_PRESENT (bitOf b)).on F.FNC_STATUS_SERVICE_PRESENT = b := fun b => by
    rw [State.on, f_set_same _ _ _ (by decide)]
    cases b <;> rfl
  rw [serviceRights_eq]
  dsimp only
  split
  · rw [State.on, State.f, loseRights_rd _ _ (by decide) (by decide)]
    exact hset _
  · exact hset _

/-- The lease of another party stands. -/
theorem serviceRights_holder {s : State} (h : s.holder ≠ 4) : (serviceRights s).holder = s.holder := by
  have hset : ∀ v, (s.set F.FNC_STATUS_SERVICE_PRESENT v).holder = s.holder := fun v => f_set_other _ _ _ _ (by decide)
  rw [serviceRights_eq]
  dsimp only
  split
  · rw [loseRights_holder, hset, if_neg h]
  · exact hset _

/-- Where SERVICE_PRESENT falls, the rights end. -/
theorem serviceRights_falls {s : State} (hwas : s.on F.FNC_STATUS_SERVICE_PRESENT = true)
    (hoff : s.pins.svcSense = false) :
    ∃ t : State, t.holder = s.holder ∧ serviceRights s = loseRights t := by
  refine ⟨s.set F.FNC_STATUS_SERVICE_PRESENT 0, f_set_other _ _ _ _ (by decide), ?_⟩
  rw [serviceRights_eq]
  simp [hwas, hoff, bitOf]

/-- The state in which a command finds the pod's sense changed. -/
def State.sensed (s : State) (present : Bool) : State := { s.begin with pins := { s.pins with svcSense := present } }

theorem podSense_powered {s : State} (h : s.pins.vddAon = true) (present : Bool) :
    podSense present s.begin = serviceRights (s.sensed present) := by
  simp [podSense, h, State.sensed]

/-- Settles O17: the presence is stored from the pod and the enable, and its fall ends the rights. -/
theorem servicePod : Obligations.ServicePod := by
  unfold Obligations.ServicePod
  intro s hv
  refine ⟨⟨_, congrArg Host.Outcome.next (podSense_powered hv true), ?_, serviceRights_present _⟩,
    ⟨_, congrArg Host.Outcome.next (podSense_powered hv false), ?_, serviceRights_present _, fun hwas => ?_,
      fun hh => serviceRights_holder (s := s.sensed false) hh⟩⟩
  · rw [serviceRights_pins]
    rfl
  · rw [serviceRights_pins]
    rfl
  · obtain ⟨t, hh, ht⟩ := serviceRights_falls (s := s.sensed false) hwas rfl
    rw [ht]
    exact ⟨fun h4 => by rw [loseRights_holder, if_pos (hh.trans h4)], loseRights_requests t⟩

end Sys2Proof.Machine


/-! ## Streams in the store (O25, O26, O28) -/

namespace Sys2Proof.Machine

/-! ### Admission reports -/

theorem bits_lt (v hi lo : Nat) : bits v hi lo < 2 ^ (hi + 1 - lo) := Nat.mod_lt _ (Nat.two_pow_pos _)

/-- A port's JOB_ADMIT_STATUS as the report gives it (R89). -/
theorem admitReport_status (port state pass result furrow job seg : Nat) (inSeg : Bool) (offset : Nat) (s : State) :
    (admitReport port state pass result furrow job seg inSeg offset s).rd (admitBase port) =
      (state * 2 ^ 30 + pass * 2 ^ 24 + result * 2 ^ 16 + furrow) % 2 ^ 32 := by
  unfold admitReport
  rw [rd_wr_other _ _ _ _ (by omega), rd_wr_other _ _ _ _ (by omega), rd_wr_other _ _ _ _ (by omega),
    rd_wr_other _ _ _ _ (by omega), rd_wr_same]
  simp only [Nat.shiftLeft_eq]

/-- Its JOB_ADMIT_JOB. -/
theorem admitReport_job (port state pass result furrow job seg : Nat) (inSeg : Bool) (offset : Nat) (s : State) :
    (admitReport port state pass result furrow job seg inSeg offset s).rd (admitBase port + 4) = job % 2 ^ 32 := by
  unfold admitReport
  rw [rd_wr_other _ _ _ _ (by omega), rd_wr_other _ _ _ _ (by omega), rd_wr_other _ _ _ _ (by omega), rd_wr_same]

@[simp] theorem admitReport_jobs (port state pass result furrow job seg : Nat) (inSeg : Bool) (offset : Nat) (s : State) :
    (admitReport port state pass result furrow job seg inSeg offset s).jobs = s.jobs := rfl

@[simp] theorem admitReport_path (port state pass result furrow job seg : Nat) (inSeg : Bool) (offset : Nat) (s : State) :
    (admitReport port state pass result furrow job seg inSeg offset s).path = s.path := rfl

/-- A vector raised on a port writes that port's HST_x_INT_PENDING alone. -/
theorem raisePort_rd_other (port v a : Nat) (s : State) (h : a ≠ hstBase port + 8) :
    (raisePort port v s).rd a = s.rd a := by
  unfold raisePort
  dsimp only
  split
  · rw [emit_rd, rd_wr_other _ _ _ _ h]
  · rfl

@[simp] theorem raisePort_jobs (port v : Nat) (s : State) : (raisePort port v s).jobs = s.jobs :=
  (raisePort_steady (l := 0x4) rfl port v s (Steady.refl s)).parts .jobs rfl

@[simp] theorem raisePort_path (port v : Nat) (s : State) : (raisePort port v s).path = s.path :=
  (raisePort_steady (l := 0x4) rfl port v s (Steady.refl s)).parts .path rfl

/-- The admission reports lie below the ports' HST_x_INT_PENDING. -/
theorem admitBase_lt_pending (port : Nat) : admitBase port + 16 < hstBase port + 8 := by
  unfold admitBase hstBase
  split <;> omega

/-- A report stands while its port's interrupt is raised (R89): JOB_ADMIT_STATUS. -/
theorem reported_status (port v state pass result furrow job seg : Nat) (inSeg : Bool) (offset : Nat) (s : State) :
    (raisePort port v (admitReport port state pass result furrow job seg inSeg offset s)).rd (admitBase port) =
      (state * 2 ^ 30 + pass * 2 ^ 24 + result * 2 ^ 16 + furrow) % 2 ^ 32 := by
  have hlt := admitBase_lt_pending port
  rw [raisePort_rd_other _ _ _ _ (by omega), admitReport_status]

/-- The same of JOB_ADMIT_JOB. -/
theorem reported_job (port v state pass result furrow job seg : Nat) (inSeg : Bool) (offset : Nat) (s : State) :
    (raisePort port v (admitReport port state pass result furrow job seg inSeg offset s)).rd (admitBase port + 4) =
      job % 2 ^ 32 := by
  have hlt := admitBase_lt_pending port
  rw [raisePort_rd_other _ _ _ _ (by omega), admitReport_job]

/-! ### Descriptors marked in the queue -/

/-- What a test still picks of a queue whose picked entries were marked has that mark. -/
theorem mem_map_stream {p : Desc → Bool} {st : StreamSt} {l : List Desc} :
    ∀ e ∈ l.map (fun e => if p e then { e with stream := st } else e), p e = true → e.stream = st := by
  intro e he hpe
  obtain ⟨a, _, rfl⟩ := List.mem_map.1 he
  by_cases ha : p a = true
  · rw [if_pos ha]
  · rw [if_neg ha] at hpe
    exact absurd hpe ha

/-- The queue's entries of a descriptor, once marked, have the stream state given. -/
theorem mapDesc_stream (d : Desc) (st : StreamSt) (s : State) :
    ∀ e ∈ (mapDesc d (fun e => { e with stream := st }) s).jobs.queue, e.same d = true → e.stream = st :=
  mem_map_stream (p := fun e => e.same d)

/-! ### The doorbell and the beginning of an admission (O25) -/

/-- A doorbell of a port that reaches its window is `streamReady` (R269). -/
theorem exec_streamReady {p : Nat} (v : Nat) {s : State} (hp : p = 1 ∨ p = 2) (hr : s.reaches p = true) :
    exec (.streamReady p v) s = .next (streamReady p v s.begin) := by
  have hw : registerWrite p true 0x14 v s.begin = streamReady p v s.begin := by
    unfold registerWrite
    rw [if_pos rfl, if_pos (show s.begin.reaches p = true from hr)]
    rcases hp with rfl | rfl <;> rfl
  exact congrArg Host.Outcome.next hw

/-- A post joins those that wait, and its descriptor is locked (R85, R86). -/
def postStream (port : Nat) (d : Desc) (s : State) : State :=
  let t := mapDesc d (fun e => { e with stream := .posted }) s
  { t with jobs := { t.jobs with posts := t.jobs.posts ++ [(port, d.party, d.ringSeq)] } }

/-- A feeder's doorbell for an unlocked descriptor, with room for the post. -/
theorem streamReady_posts {p v : Nat} {d : Desc} {s : State} (hp : p = 1 ∨ p = 2)
    (hd : doorbellDesc (s.ctxOf p).streamJob (bits v 17 16) (bits v 15 0) s = some d) (hf : d.feeder = p)
    (hl : d.locked = false) (hn : (s.jobs.posts.filter fun q => q.1 == p).length < 16) :
    streamReady p v s =
      admitReport p 1 (bits v 17 16) 0 (bits v 15 0) (s.ctxOf p).streamJob 0 false 0 (postStream p d s) := by
  have hport : (!(p == 1 || p == 2)) = false := by rcases hp with rfl | rfl <;> rfl
  simp only [streamReady, hport, hd, hf, hl, Nat.not_le.2 hn, ne_eq, not_true_eq_false, Bool.false_eq_true, if_false]
  rfl

/-- A doorbell that names no descriptor is refused with NO_DESCRIPTOR (R280). -/
theorem streamReady_refuses {p v : Nat} {s : State} (hp : p = 1 ∨ p = 2)
    (hd : doorbellDesc (s.ctxOf p).streamJob (bits v 17 16) (bits v 15 0) s = none) :
    streamReady p v s = raisePort p 2
      (admitReport p 3 (bits v 17 16) 0x14 (bits v 15 0) (s.ctxOf p).streamJob 0 false 0 s) := by
  have hport : (!(p == 1 || p == 2)) = false := by rcases hp with rfl | rfl <;> rfl
  simp only [streamReady, hport, hd, Bool.false_eq_true, if_false]

/-- The oldest post is taken for admission, and its descriptor marked (R86). -/
def takePost (q : Nat × Nat × Nat) (rest : List (Nat × Nat × Nat)) (s : State) : State :=
  { s with jobs := { s.jobs with
    admitting := some q, posts := rest
    queue := s.jobs.queue.map fun e =>
      if e.party == q.2.1 && e.ringSeq == q.2.2 then { e with stream := .admitting } else e } }

theorem admissionStart_takes {q : Nat × Nat × Nat} {rest : List (Nat × Nat × Nat)} {s : State}
    (ho : s.islandOpen 5 = true) (ha : s.jobs.admitting = none) (hq : s.jobs.posts = q :: rest) :
    admissionStart s = takePost q rest s := by
  simp only [admissionStart, ha, hq, ho, Bool.not_true, Bool.false_eq_true, if_false]
  rfl

theorem takePost_stream (q : Nat × Nat × Nat) (rest : List (Nat × Nat × Nat)) (s : State) :
    ∀ e ∈ (takePost q rest s).jobs.queue, e.party = q.2.1 → e.ringSeq = q.2.2 → e.stream = .admitting := by
  intro e he hparty hseq
  exact mem_map_stream (p := fun e => e.party == q.2.1 && e.ringSeq == q.2.2) e he
    (by simp [hparty, hseq])

/-- Settles O25: the three outcomes of a doorbell and of ADMISSION_START, each by its equation. -/
theorem streamPosted : Obligations.StreamPosted := by
  unfold Obligations.StreamPosted
  intro p v s
  have hpass := bits_lt v 17 16
  have hfurrow := bits_lt v 15 0
  refine ⟨fun hp hr => ⟨fun d hd hf hl hn => ?posted, fun hd => ?refused⟩, fun q rest ho ha hq => ?taken⟩
  case posted =>
    have hs : Steady 0x2004 s.begin (streamReady p v s.begin) := streamReady_steady rfl p v _ (Steady.refl _)
    have ht := streamReady_posts (s := s.begin) hp hd hf hl hn
    refine ⟨_, exec_streamReady v hp hr, ?_, ?_, hs.toCanon.only (by intro x; cases x <;> decide)⟩
    · rw [ht, admitReport_jobs]
      rfl
    · rw [ht, admitReport_status]
      omega
  case refused =>
    have ht := streamReady_refuses (s := s.begin) hp hd
    have hs : Steady 0x4 s.begin (streamReady p v s.begin) := by
      rw [ht]
      exact raisePort_steady rfl _ _ _ (admitReport_steady rfl _ _ _ _ _ _ _ _ _ _ (Steady.refl _))
    refine ⟨_, exec_streamReady v hp hr, ?_, ?_, hs.onlyRegs⟩
    · rw [ht, reported_status]
      omega
    · rw [ht, reported_job]
      rfl
  case taken =>
    have hs : Steady 0x2000 s.begin (admissionStart s.begin) := admissionStart_steady rfl _ (Steady.refl _)
    have ht : admissionStart s.begin = takePost q rest s.begin := admissionStart_takes ho ha hq
    refine ⟨admissionStart s.begin, rfl, ?_, ?_, ?_, hs.toCanon.only (by intro x; cases x <;> decide)⟩
    · rw [ht]; rfl
    · rw [ht]; rfl
    · rw [ht]; exact takePost_stream q rest s.begin

/-! ### The end of an admission (O26) -/

/-- The state in which the stream of an admission is checked: the admission is over. -/
def State.admissionOver (s : State) : State := { s with jobs := { s.jobs with admitting := none } }

/-- A stream that passed is kept for the data path, and its descriptor is admitted (R86). -/
def keepStream (d : Desc) (i : StreamInfo) (s : State) : State :=
  let t := mapDesc d (fun e => { e with stream := .admitted }) s
  { t with path := { t.path with streams := i :: t.path.streams } }

section
variable {port party seq : Nat} {d : Desc} {s : State}

/-- ADMISSION_END of a stream that passes its checks (R89). -/
theorem admissionEnd_passes (ha : s.jobs.admitting = some (port, party, seq))
    (hd : (s.jobs.queue.find? fun e => e.party == party && e.ringSeq == seq) = some d)
    (hm : s.memWaits d.addr d.size = false) {i : StreamInfo} {t : State}
    (hr : admitDesc d s.admissionOver = (.inr i, t)) :
    admissionEnd s = raisePort port 2 (admitReport port 2 d.pass 0 d.furrow d.job 0 false 0 (keepStream d i t)) := by
  unfold State.admissionOver at hr
  simp only [admissionEnd, ha, hd, hm, hr, Bool.false_eq_true, if_false]
  rfl

/-- ADMISSION_END of a stream that fails a check (R88, R89). -/
theorem admissionEnd_fails (ha : s.jobs.admitting = some (port, party, seq))
    (hd : (s.jobs.queue.find? fun e => e.party == party && e.ringSeq == seq) = some d)
    (hm : s.memWaits d.addr d.size = false) {f : AdmitFail} {t : State}
    (hr : admitDesc d s.admissionOver = (.inl f, t)) :
    admissionEnd s = raisePort port 2 (admitReport port 3 d.pass f.code d.furrow d.job (f.seg.getD 0) f.seg.isSome f.off
      (unlockStream d t)) := by
  unfold State.admissionOver at hr
  simp only [admissionEnd, ha, hd, hm, hr, Bool.false_eq_true, if_false]

end

@[simp] theorem dropPre_jobs (s : State) : (dropPre s).jobs = s.jobs :=
  (dropPre_steady (l := 0x4004) rfl s (Steady.refl s)).parts .jobs rfl

/-- Of the queue an unlocking changes the stream of its descriptor alone. -/
theorem unlockStream_queue (d : Desc) (s : State) :
    (unlockStream d s).jobs.queue = (mapDesc d (fun e => { e with stream := .none }) s).jobs.queue := by
  unfold unlockStream
  dsimp only
  split
  · split
    · rw [dropPre_jobs]
    · rfl
  · rfl

/-- Settles O26: the equations of the two ends of an admission. -/
theorem admissionEnds : Obligations.AdmissionEnds := by
  unfold Obligations.AdmissionEnds
  intro port party seq d s ha _ hd hm
  refine ⟨fun i s2 hr => ?passed, fun f s2 hr => ?failed⟩
  case passed =>
    have ht := admissionEnd_passes (s := s.begin) ha hd hm hr
    refine ⟨_, congrArg Host.Outcome.next ht, ?_, ?_, ?_, ?_⟩
    · rw [raisePort_path]; rfl
    · rw [raisePort_jobs]; rfl
    · rw [raisePort_jobs]; exact mapDesc_stream d .admitted s2
    · rw [reported_status, Nat.zero_mul, Nat.add_zero]
  case failed =>
    have ht := admissionEnd_fails (s := s.begin) ha hd hm hr
    refine ⟨_, congrArg Host.Outcome.next ht, ?_, reported_status ..⟩
    rw [raisePort_jobs, admitReport_jobs, unlockStream_queue]
    exact mapDesc_stream d .none s2

/-! ### The pre-run (O28) -/

/-- Of the data path the end of an audit unit changes the audit alone (R128). -/
theorem cutTileUnit_path (pre : Bool) (s : State) :
    (cutTileUnit pre s).path = { s.path with harrowAudit := (cutTileUnit pre s).path.harrowAudit } := by
  unfold cutTileUnit
  split
  · split <;> rfl
  · rfl

theorem takeTileUnit_path (h : HarrowAudit) (k : Nat) (s : State) :
    (takeTileUnit h k s).path = { s.path with harrowAudit := (takeTileUnit h k s).path.harrowAudit } := rfl

/-- Of the data path the beginning of an expansion changes the audit alone (R128). -/
theorem startTileUnit_path (pre : Bool) (s : State) :
    (startTileUnit pre s).path = { s.path with harrowAudit := (startTileUnit pre s).path.harrowAudit } := by
  have hcut := cutTileUnit_path pre s
  unfold startTileUnit
  dsimp only
  split
  · split
    · rw [takeTileUnit_path, hcut]
    · exact hcut
  · exact hcut

/-- A stream's header is kept while the maps change. -/
theorem jobBegins_streamOf (d e : Desc) (s : State) : (jobBegins d s).streamOf e = s.streamOf e := by
  unfold jobBegins
  split
  · rfl
  · unfold mapsClear dropPre State.streamOf
    rw [cutTileUnit_path]

theorem jobBegins_jobs (d : Desc) (s : State) : (jobBegins d s).jobs = s.jobs :=
  (jobBegins_steady (l := 0x4004) rfl d s (Steady.refl s)).parts .jobs rfl

theorem jobBegins_islandOpen (d : Desc) (s : State) (i : Nat) : (jobBegins d s).islandOpen i = s.islandOpen i := by
  unfold State.islandOpen State.gate
  rw [(jobBegins_steady (l := 0x4004) rfl d s (Steady.refl s)).parts .gates rfl]

theorem readyToArm_admitted {s : State} {d : Desc} (h : s.readyToArm d = true) : d.stream = .admitted := by
  simp only [State.readyToArm, Bool.and_eq_true, beq_iff_eq] at h
  obtain ⟨⟨⟨⟨hadm, _⟩, _⟩, _⟩, _⟩ := h
  exact hadm

/-- PRE_RUN_START for a head that lacks its own map expands the head's stream (R138). -/
theorem preRunStart_ownMap {d : Desc} {i : StreamInfo} {s : State} (hh : s.head? = some d) (hrun : s.jobs.run = none)
    (ho : s.islandOpen 12 = true) (hready : (jobBegins d s).readyToArm d = true)
    (hpre : (jobBegins d s).path.preWork = none) (hneed : (jobBegins d s).mapNeed d = 1)
    (hi : s.streamOf d = some i) : preRunStart s = preBegin d i (jobBegins d s) := by
  have hdue : (jobBegins d s).preRunDue d = true := by
    simp [State.preRunDue, jobBegins_jobs, hrun, hready, hpre]
  simp [preRunStart, hh, hdue, jobBegins_islandOpen, ho, hneed, jobBegins_streamOf, hi, hpre,
    readyToArm_admitted hready]

/-- The map that an expansion is written into: as it is where it holds the stripe's rows, else empty (R138). -/
def openMap (ident : Nat × Nat × Nat) (m : DensMap) : DensMap := if m.ident = some ident then m else ⟨some ident, []⟩

theorem openMap_ident (ident : Nat × Nat × Nat) (m : DensMap) : (openMap ident m).ident = some ident := by
  unfold openMap
  split
  · assumption
  · rfl

/-- The three maps with one opened for a stripe. -/
def openMaps (ident : Nat × Nat × Nat) (k : Nat) (maps : List DensMap) : List DensMap :=
  (List.range 3).map fun j =>
    if j = k then openMap ident (maps.getD k ⟨none, []⟩) else maps.getD j ⟨none, []⟩

theorem openMaps_ident (ident : Nat × Nat × Nat) {k : Nat} (hk : k < 3) (maps : List DensMap) :
    ((openMaps ident k maps).getD k ⟨none, []⟩).ident = some ident := by
  simp [openMaps, hk, openMap_ident]

/-- The map that an expansion takes is one of the three. -/
theorem mapSlot_lt {d : Desc} {ident : Nat × Nat × Nat} {k : Nat} {s : State}
    (h : (s.mapIndex ident).or (s.freeMap d) = some k) : k < 3 := by
  rcases Option.or_eq_some_iff.1 h with h | ⟨_, h⟩
  · exact List.mem_range.1 (List.mem_of_find?_eq_some h)
  · exact List.mem_range.1 (List.mem_of_find?_eq_some h)

/-- A prepass or pre-run that finds a map begins there, in the place of one before. -/
theorem preBegin_eq {d : Desc} {i : StreamInfo} {k : Nat} {s : State}
    (h : (s.mapIndex (i.job, i.pass, i.furrow)).or (s.freeMap d) = some k) :
    preBegin d i s = startTileUnit true { dropPre s with path := { (dropPre s).path with
      preWork := some (Work.start i true 0 []), preMap := k
      maps := openMaps (i.job, i.pass, i.furrow) k s.path.maps } } := by
  have hmaps : (dropPre s).path.maps = s.path.maps := by
    unfold dropPre
    rw [cutTileUnit_path]
  cases hm : s.mapIndex (i.job, i.pass, i.furrow) with
  | some j =>
    obtain rfl : j = k := by simpa [hm] using h
    simp only [preBegin, hm, hmaps]
    rfl
  | none =>
    have hf : s.freeMap d = some k := by simpa [hm] using h
    simp only [preBegin, hm, hf, hmaps]
    rfl

/-- Settles O28: PRE_RUN_START is the beginning of the head's expansion, whose map is one of the three. (The plain name
is the model's operation.) -/
theorem preRunStartBegins : Obligations.PreRunStart := by
  unfold Obligations.PreRunStart
  intro d i k s hh hrun ho s0 ident hready hpre hneed hi hk
  have hrun0 : s.begin.jobs.run = none := by simp [State.begin, hrun]
  have ht : preRunStart s.begin = preBegin d i s0 := preRunStart_ownMap (s := s.begin) hh hrun0 ho hready hpre hneed hi
  have hs : Steady 0x4004 s.begin (preRunStart s.begin) := preRunStart_steady rfl _ (Steady.refl _)
  refine ⟨preRunStart s.begin, rfl, ?work, ?map, ?ident, hs.toCanon.only (by intro x; cases x <;> decide)⟩
  all_goals rw [ht, preBegin_eq hk, startTileUnit_path]
  case ident => exact openMaps_ident ident (mapSlot_lt hk) _

end Sys2Proof.Machine

/-! ## Audits and retirement of the Harrow's tiles and the sowing slices (O35, O36)

A verdict and a retirement record events, raise vectors and may put the furrow in fallow. None of that writes the STATUS
register of a tile or a slice, nor the register of a verdict: the frames below list the registers that these operations
write. -/

namespace Sys2Proof.Machine

/-! ### Frames of registers -/

namespace SameRegsBut

variable {l : List Nat} {s t u : State}

theorem refl (l : List Nat) (s : State) : SameRegsBut l s s := fun _ _ => rfl

/-- A change beside the registers. -/
theorem upd (h : SameRegsBut l s t) (hr : u.regs = t.regs) (hf : u.fuses = t.fuses) : SameRegsBut l s u :=
  fun a ha => (rd_congr u t a hr hf).trans (h a ha)

theorem wr (h : SameRegsBut l s t) {off : Nat} (ho : off ∈ l) (v : Nat) : SameRegsBut l s (t.wr off v) :=
  fun a ha => (rd_wr_other t off v a fun e => ha (e ▸ ho)).trans (h a ha)

theorem set (h : SameRegsBut l s t) {x : Fld} (ho : x.off ∈ l) (v : Nat) : SameRegsBut l s (t.set x v) := h.wr ho _

theorem inc (h : SameRegsBut l s t) {x : Fld} (ho : x.off ∈ l) (n : Nat) : SameRegsBut l s (t.inc x n) := h.set ho _

theorem ite {a b : State} {c : Prop} [Decidable c] (ha : SameRegsBut l s a) (hb : SameRegsBut l s b) :
    SameRegsBut l s (if c then a else b) := by split <;> assumption

theorem foldl {α : Type} {f : State → α → State} (es : List α) (h : SameRegsBut l s t)
    (hf : ∀ u x, SameRegsBut l s u → SameRegsBut l s (f u x)) : SameRegsBut l s (es.foldl f t) := by
  induction es generalizing t with
  | nil => exact h
  | cons x es ih => exact ih (hf t x h)

end SameRegsBut

/-- The registers that a ledger event and its vectors may change: the ledger's, and the ports' pending interrupts. -/
def eventRegs : List Nat := [F.LDG_STATUS.off, F.LDG_LOST.off, hstBase 1 + 8, hstBase 2 + 8]

/-- Those that the end of a calibration and a hold of the furrow may change. -/
def holdRegs : List Nat :=
  eventRegs ++ [F.CAL_PREEMPT.off, F.CAL_STATUS.off, F.JOB_STATUS.off, F.JOB_LAST_HOLD.off,
    F.SHT_STATUS.off, F.PLN_STATUS.off, F.SOW_AUDIT_STATUS.off]

theorem eventRegs_subset_holdRegs : eventRegs ⊆ holdRegs := List.subset_append_left ..

section
variable {l : List Nat} {s0 s : State}

/-! ### Vectors and ledger events -/

theorem raiseCopy_frame (party v : Nat) (h : SameRegsBut l s0 s) : SameRegsBut l s0 (raiseCopy party v s) :=
  .ite (h.upd rfl rfl) h

section
variable (hl : eventRegs ⊆ l)
include hl

theorem raisePort_frame (port v : Nat) (h : SameRegsBut l s0 s) : SameRegsBut l s0 (raisePort port v s) := by
  have ho : hstBase port + 8 ∈ l := hl (by unfold hstBase; split <;> decide)
  exact .ite ((h.wr ho _).upd rfl rfl) h

theorem raise_frame (v : Nat) (h : SameRegsBut l s0 s) : SameRegsBut l s0 (raise v s) :=
  raiseCopy_frame 4 v (raiseCopy_frame 3 v (raisePort_frame hl 2 v (raisePort_frame hl 1 v h)))

theorem showLedger_frame (h : SameRegsBut l s0 s) : SameRegsBut l s0 (showLedger s) :=
  ((h.set (hl (by decide)) _).set (hl (by decide)) _).set (hl (by decide)) _

theorem loseRec_frame (sev : Nat) (h : SameRegsBut l s0 s) : SameRegsBut l s0 (loseRec sev s) :=
  .ite ((h.inc (hl (by decide)) 1).inc (hl (by decide)) 1) (h.inc (hl (by decide)) 1)

theorem enqueueRec_frame (r : LedgerRec) (h : SameRegsBut l s0 s) : SameRegsBut l s0 (enqueueRec r s) :=
  .ite (loseRec_frame hl _ h) (.ite (loseRec_frame hl _ h) (.ite (loseRec_frame hl _ h)
    (showLedger_frame hl (h.upd rfl rfl))))

theorem closeOpenRec_frame (h : SameRegsBut l s0 s) : SameRegsBut l s0 (closeOpenRec s) := by
  unfold closeOpenRec
  split
  · exact h
  · exact enqueueRec_frame hl _ (h.upd rfl rfl)

theorem openRec_frame (r : LedgerRec) (h : SameRegsBut l s0 s) : SameRegsBut l s0 (openRec r s) := by
  have h2 := (closeOpenRec_frame hl h).upd (u := { closeOpenRec s with
    ret := { (closeOpenRec s).ret with openRec := some r, openAge := 0 } }) rfl rfl
  exact .ite (raise_frame hl 11 h2) h2

theorem recordEvent_frame (r : LedgerRec) (h : SameRegsBut l s0 s) : SameRegsBut l s0 (recordEvent r s) := by
  unfold recordEvent
  split
  · exact .ite (.ite (closeOpenRec_frame hl (h.upd rfl rfl)) (h.upd rfl rfl)) (openRec_frame hl r h)
  · exact openRec_frame hl r h

theorem event_frame (typ : Nat) (payload : List Byte) (h : SameRegsBut l s0 s) :
    SameRegsBut l s0 (event typ payload s) :=
  .ite (recordEvent_frame hl _ h) (.ite h (h.upd rfl rfl))

end

/-! ### The end of a calibration and a hold of the furrow -/

theorem calPreempt_frame (h : SameRegsBut holdRegs s0 s) : SameRegsBut holdRegs s0 (calPreempt s) := by
  unfold calPreempt
  split
  · exact h
  · exact event_frame eventRegs_subset_holdRegs _ _
      (((h.upd rfl rfl).inc (x := F.CAL_PREEMPT_PREEMPTED) (by decide) 1).set (by decide) 0)

theorem setMotion_frame (m : Motion) (h : SameRegsBut holdRegs s0 s) : SameRegsBut holdRegs s0 (setMotion m s) :=
  have hs := h.upd (u := { s with pln := { s.pln with motion := m } }) rfl rfl
  .ite hs (raise_frame eventRegs_subset_holdRegs 6 (hs.set (by decide) _))

theorem plannerStop_frame (h : SameRegsBut holdRegs s0 s) : SameRegsBut holdRegs s0 (plannerStop s) := by
  have hr : SameRegsBut holdRegs s0 (plnResult 8 s) :=
    .ite h (raise_frame eventRegs_subset_holdRegs 6 (h.set (by decide) 8))
  unfold plannerStop
  split
  · exact h
  · exact h
  · exact setMotion_frame .rest h
  · exact setMotion_frame .rest h
  · exact setMotion_frame .stopping ((SameRegsBut.ite hr h).upd rfl rfl)

theorem jobState_frame (st code : Nat) (h : SameRegsBut holdRegs s0 s) : SameRegsBut holdRegs s0 (jobState st code s) :=
  have ho : F.JOB_STATUS.off ∈ holdRegs := by decide
  have hs := (h.set (x := F.JOB_STATUS_STATE) ho st).set (x := F.JOB_STATUS_CODE) ho code
  .ite (raise_frame eventRegs_subset_holdRegs 1 hs) hs

theorem writeResume_frame (sf : Nat) (h : SameRegsBut holdRegs s0 s) : SameRegsBut holdRegs s0 (writeResume sf s) := by
  unfold writeResume
  split
  · exact h.upd rfl rfl
  · exact h

theorem cutSliceUnit_frame (h : SameRegsBut holdRegs s0 s) : SameRegsBut holdRegs s0 (cutSliceUnit s) := by
  unfold cutSliceUnit
  split
  · exact .ite h ((h.upd rfl rfl).set (x := F.SOW_AUDIT_STATUS_STATE) (by decide) 0)
  · exact h

theorem raiseOne_frame (code : Nat) (h : SameRegsBut holdRegs s0 s) : SameRegsBut holdRegs s0 (raiseOne code s) := by
  unfold raiseOne
  split
  · exact h
  · rename_i r _
    refine .ite ?held ?fresh
    case held =>
      have hrun := fun r' : Run => h.upd (u := setRun r' s) rfl rfl
      have hcause := fun r' : Run => SameRegsBut.ite (c := r.holdFresh ∧ code < (setRun r' s).f F.JOB_LAST_HOLD_CAUSE)
        ((hrun r').set (x := F.JOB_LAST_HOLD_CAUSE) (by decide) code) (hrun r')
      exact event_frame eventRegs_subset_holdRegs _ _
        (.ite ((hcause _).set (x := F.JOB_STATUS_NEEDS_ACK) (by decide) 1) (hcause _))
    case fresh =>
      have hcut := fun r' : Run => (writeResume_frame r.sf (h.upd (u := setRun r' s) rfl rfl)).upd
        (u := withdraw (writeResume r.sf (setRun r' s))) rfl rfl
      have hjob := fun r' : Run => (((hcut r').set (x := F.JOB_LAST_HOLD_CAUSE) (by decide) code).set
        (x := F.JOB_LAST_HOLD_SHOT) (by decide) r.sf).set
        (x := F.JOB_STATUS_NEEDS_ACK) (by decide) (bitOf (code < 0x10))
      have hsht := fun r' : Run => raise_frame eventRegs_subset_holdRegs 6
        (((hjob r').set (x := F.SHT_STATUS_STATE) (by decide) 5).set (x := F.SHT_STATUS_NEXT_SHOT) (by decide) r.sf)
      exact event_frame eventRegs_subset_holdRegs _ _ (plannerStop_frame (jobState_frame 5 0 (hsht _)))

theorem dueCause_frame (code : Nat) (h : SameRegsBut holdRegs s0 s) : SameRegsBut holdRegs s0 (dueCause code s) := by
  have hc : SameRegsBut holdRegs s0 (raiseCause code s) := by
    unfold raiseCause
    split
    · exact h
    · exact .foldl _ (raiseOne_frame code (cutSliceUnit_frame (h.upd rfl rfl))) fun _ c hu => raiseOne_frame c hu
  unfold dueCause
  split
  · exact h
  · exact .ite hc (h.upd rfl rfl)

end

/-! ### The auditors -/

/-- A unit becomes the auditor of the place `a`: its STATUS and the status field `x` say so, and `w` is the data path
with the audit. -/
def appoint (base t a : Nat) (x : Fld) (w : Path) (s : State) : State :=
  { auditPlace base t a s with path := w }.set x t

/-- The data path with a new audit by a tile (R126, R128). -/
def tileAudit (t : Nat) (s : State) : Path :=
  { s.path with harrowAudit := some ⟨s.path.harrowNext.1, s.path.harrowNext.2, none, none, none,
    (auditPlace tileBase t s.path.harrowNext.1 s).tileOf s.path.harrowNext.1, t, none, [], 0⟩ }

/-- The shot from which on a new slice audit may take a unit (R176). -/
def State.auditFrom (s : State) : Nat :=
  match s.jobs.run with
  | some r => r.computed.getD s.path.sowNext 0 + s.auditWait
  | none => 0

/-- The data path with a new audit by a slice (R175). -/
def sliceAudit (s : State) : Path :=
  { s.path with sowAudit := some ⟨s.path.sowNext, none, s.auditFrom, 0xFFFFFFFF, 0xFFFFFFFF, false⟩ }

/-- The first tile that is free becomes the auditor where there is none (R126). -/
theorem fillTileAuditor_appoints {t : Nat} {l : List Nat} {s : State} (hon : s.on F.HRW_AUDIT_CTRL_ENABLE = true)
    (hn : s.path.harrowAudit = none) (hi : s.idleUnits tileBase = t :: l) :
    fillTileAuditor s =
      auditState false 0 (appoint tileBase t s.path.harrowNext.1 F.HRW_AUDIT_STATUS_AUDITOR (tileAudit t s) s) := by
  simp only [fillTileAuditor, hon, hn, hi, Bool.not_true, Bool.false_eq_true, Option.isSome_none, if_false]
  rfl

/-- The first slice that is free becomes the auditor where there is none (R175). -/
theorem fillSliceAuditor_appoints {t : Nat} {l : List Nat} {s : State} (hon : s.on F.SOW_AUDIT_CTRL_ENABLE = true)
    (hn : s.path.sowAudit = none) (hi : s.idleUnits sliceBase = t :: l) :
    fillSliceAuditor s =
      auditState true 0 (appoint sliceBase t s.path.sowNext F.SOW_AUDIT_STATUS_AUDITOR (sliceAudit s) s) := by
  simp only [fillSliceAuditor, hon, hn, hi, Bool.not_true, Bool.false_eq_true, Option.isSome_none, if_false]
  rfl

/-- All that the filling of the auditor's place can do. -/
theorem fillTileAuditor_cases (s : State) :
    fillTileAuditor s = s ∨ (∃ st, fillTileAuditor s = auditState false st s) ∨
      ∃ t, t ∈ s.idleUnits tileBase ∧ fillTileAuditor s =
        auditState false 0 (appoint tileBase t s.path.harrowNext.1 F.HRW_AUDIT_STATUS_AUDITOR (tileAudit t s) s) := by
  cases hon : s.on F.HRW_AUDIT_CTRL_ENABLE with
  | false => exact .inr (.inl ⟨3, by simp [fillTileAuditor, hon]⟩)
  | true =>
    cases hn : s.path.harrowAudit with
    | some h => exact .inl (by simp [fillTileAuditor, hon, hn])
    | none =>
      cases hi : s.idleUnits tileBase with
      | nil => exact .inr (.inl ⟨2, by simp [fillTileAuditor, hon, hn, hi]⟩)
      | cons t l => exact .inr (.inr ⟨t, List.mem_cons_self .., fillTileAuditor_appoints hon hn hi⟩)

theorem fillSliceAuditor_cases (s : State) :
    fillSliceAuditor s = s ∨ (∃ st, fillSliceAuditor s = auditState true st s) ∨
      ∃ t, t ∈ s.idleUnits sliceBase ∧ fillSliceAuditor s =
        auditState true 0 (appoint sliceBase t s.path.sowNext F.SOW_AUDIT_STATUS_AUDITOR (sliceAudit s) s) := by
  cases hon : s.on F.SOW_AUDIT_CTRL_ENABLE with
  | false => exact .inr (.inl ⟨3, by simp [fillSliceAuditor, hon]⟩)
  | true =>
    cases hn : s.path.sowAudit with
    | some u => exact .inl (by simp [fillSliceAuditor, hon, hn])
    | none =>
      cases hi : s.idleUnits sliceBase with
      | nil => exact .inr (.inl ⟨2, by simp [fillSliceAuditor, hon, hn, hi]⟩)
      | cons t l => exact .inr (.inr ⟨t, List.mem_cons_self .., fillSliceAuditor_appoints hon hn hi⟩)

/-! ### What a retirement leaves of a verdict -/

/-- The rotation of the Harrow's and of the sowing audits stands (R128, R176). -/
def SameTurns (s t : State) : Prop := t.path.harrowNext = s.path.harrowNext ∧ t.path.sowNext = s.path.sowNext

/-- The registers in which audits show their verdicts, and the rotation of the audits, stand. -/
structure VerdictKept (s t : State) : Prop where
  harrow : t.rd F.HRW_MISMATCH_0.off = s.rd F.HRW_MISMATCH_0.off
  sow : t.rd F.SOW_MISMATCH_0.off = s.rd F.SOW_MISMATCH_0.off
  turns : SameTurns s t

namespace VerdictKept

variable {s t u : State}

theorem refl (s : State) : VerdictKept s s := ⟨rfl, rfl, rfl, rfl⟩

theorem trans (h : VerdictKept s t) (k : VerdictKept t u) : VerdictKept s u :=
  ⟨k.harrow.trans h.harrow, k.sow.trans h.sow, k.turns.1.trans h.turns.1, k.turns.2.trans h.turns.2⟩

/-- A change beside the registers and the rotation. -/
theorem upd (h : VerdictKept s t) (hr : u.regs = t.regs) (hf : u.fuses = t.fuses) (hn : SameTurns t u) :
    VerdictKept s u :=
  h.trans ⟨rd_congr u t _ hr hf, rd_congr u t _ hr hf, hn⟩

/-- Both verdicts are shown 28h into a block of registers. -/
theorem wr (h : VerdictKept s t) {off : Nat} (ho : off % 0x1000 ≠ 0x28) (v : Nat) : VerdictKept s (t.wr off v) :=
  h.trans ⟨rd_wr_other t off v _ fun e => ho (e ▸ rfl), rd_wr_other t off v _ fun e => ho (e ▸ rfl), rfl, rfl⟩

theorem set (h : VerdictKept s t) {x : Fld} (ho : x.off % 0x1000 ≠ 0x28) (v : Nat) : VerdictKept s (t.set x v) :=
  h.wr ho _

theorem putPath (h : VerdictKept s t) {w : Path} (hh : w.harrowNext = t.path.harrowNext)
    (hs : w.sowNext = t.path.sowNext) : VerdictKept s { t with path := w } :=
  h.upd rfl rfl ⟨hh, hs⟩

theorem ite {a b : State} {c : Prop} [Decidable c] (ha : VerdictKept s a) (hb : VerdictKept s b) :
    VerdictKept s (if c then a else b) := by split <;> assumption

/-- A change of registers that a hold changes. -/
theorem frame (h : VerdictKept s t) (k : SameRegsBut holdRegs t u) (hn : SameTurns t u) : VerdictKept s u :=
  h.trans ⟨k _ (by decide), k _ (by decide), hn⟩

end VerdictKept

theorem SameTurns.of_path {s t : State} (h : t.path = s.path) : SameTurns s t := by rw [SameTurns, h]; exact ⟨rfl, rfl⟩

@[simp] theorem raise_path (v : Nat) (s : State) : (raise v s).path = s.path :=
  (raise_steady (l := 0x104) rfl v s (Steady.refl s)).parts .path rfl

@[simp] theorem event_path (typ : Nat) (payload : List Byte) (s : State) : (event typ payload s).path = s.path :=
  (event_steady (l := 0x100106) rfl typ payload s (Steady.refl s)).parts .path rfl

@[simp] theorem calPreempt_path (s : State) : (calPreempt s).path = s.path :=
  (calPreempt_steady (l := 0x120106) rfl s (Steady.refl s)).parts .path rfl

@[simp] theorem raiseOne_path (code : Nat) (s : State) : (raiseOne code s).path = s.path :=
  (raiseOne_steady (l := 0x600102106) rfl code s (Steady.refl s)).parts .path rfl

theorem cutSliceUnit_turns (s : State) : SameTurns s (cutSliceUnit s) := by
  unfold cutSliceUnit
  split
  · split
    · exact ⟨rfl, rfl⟩
    · exact ⟨rfl, rfl⟩
  · exact ⟨rfl, rfl⟩

theorem foldl_raiseOne_path (l : List Nat) (s : State) : (l.foldl (fun s c => raiseOne c s) s).path = s.path := by
  induction l generalizing s with
  | nil => rfl
  | cons c l ih => rw [List.foldl_cons, ih, raiseOne_path]

theorem dueCause_turns (code : Nat) (s : State) : SameTurns s (dueCause code s) := by
  have hc : SameTurns s (raiseCause code s) := by
    unfold raiseCause
    split
    · exact ⟨rfl, rfl⟩
    · dsimp only
      rw [SameTurns, foldl_raiseOne_path, raiseOne_path]
      exact cutSliceUnit_turns (setRun _ s)
  unfold dueCause
  split
  · exact ⟨rfl, rfl⟩
  · split
    · exact hc
    · exact ⟨rfl, rfl⟩

/-- The record of a retirement, and its vector (R129, R178). -/
def reported (typ : Nat) (payload : List Byte) (s : State) : State := raise 8 (event typ payload s)

theorem place_lt (s : State) (base t : Nat) : s.place base t < 32 := bits_lt _ 4 0

section
variable {s0 s : State}

theorem reported_verdict (typ : Nat) (payload : List Byte) (h : VerdictKept s0 s) :
    VerdictKept s0 (reported typ payload s) :=
  h.frame (raise_frame eventRegs_subset_holdRegs 8 (event_frame eventRegs_subset_holdRegs typ payload (.refl _ s)))
    (.of_path (by rw [reported, raise_path, event_path]))

theorem dueCause_verdict (code : Nat) (h : VerdictKept s0 s) : VerdictKept s0 (dueCause code s) :=
  h.frame (dueCause_frame code (.refl _ s)) (dueCause_turns code s)

theorem calPreempt_verdict (h : VerdictKept s0 s) : VerdictKept s0 (calPreempt s) :=
  h.frame (calPreempt_frame (.refl _ s)) (.of_path (calPreempt_path s))

theorem setRole_verdict {base : Nat} (hb : base % 0x1000 = 0) (t role place : Nat) (h : VerdictKept s0 s) :
    VerdictKept s0 (setRole base t role place s) :=
  h.wr (by omega) _

theorem serveTile_verdict (t : Nat) {a : Nat} (ha : a < 32) (h : VerdictKept s0 s) : VerdictKept s0 (serveTile t a s) :=
  setRole_verdict rfl t 0 a (h.wr (by omega) _)

theorem serveSlice_verdict (t : Nat) {g : Nat} (hg : g < 32) (h : VerdictKept s0 s) :
    VerdictKept s0 (serveSlice t g s) :=
  setRole_verdict rfl t 0 g (h.wr (by omega) _)

theorem takeUnit_verdict (base t : Nat) (h : VerdictKept s0 s) : VerdictKept s0 (takeUnit base t s) :=
  .ite (.ite (h.upd rfl rfl ⟨rfl, rfl⟩) (h.upd rfl rfl ⟨rfl, rfl⟩)) (.ite (calPreempt_verdict h) h)

theorem takeSpare_verdict (base : Nat) (h : VerdictKept s0 s) : VerdictKept s0 (takeSpare base s).2 := by
  unfold takeSpare
  split
  · exact takeUnit_verdict base _ h
  · split
    · exact takeUnit_verdict base _ h
    · exact h

theorem takeLowest_verdict (h : VerdictKept s0 s) : VerdictKept s0 (takeLowest s).2 := by
  unfold takeLowest
  split
  · exact takeUnit_verdict tileBase _ h
  · exact h

theorem flagRun_verdict (bit : Nat) (h : VerdictKept s0 s) : VerdictKept s0 (flagRun bit s) := by
  unfold flagRun
  split
  · exact h.upd rfl rfl ⟨rfl, rfl⟩
  · exact h

theorem auditState_verdict (sow : Bool) (st : Nat) (h : VerdictKept s0 s) : VerdictKept s0 (auditState sow st s) :=
  .ite (h.set (by decide) st) (h.set (by decide) st)

theorem appoint_verdict {base : Nat} (hb : base % 0x1000 = 0) (t a : Nat) {x : Fld} (hx : x.off % 0x1000 ≠ 0x28)
    {w : Path} (hn : w.harrowNext = s.path.harrowNext ∧ w.sowNext = s.path.sowNext) (h : VerdictKept s0 s) :
    VerdictKept s0 (appoint base t a x w s) :=
  ((h.wr (by omega) _).putPath hn.1 hn.2).set hx t

theorem fillTileAuditor_verdict (h : VerdictKept s0 s) : VerdictKept s0 (fillTileAuditor s) := by
  rcases fillTileAuditor_cases s with he | ⟨st, he⟩ | ⟨t, _, he⟩ <;> rw [he]
  · exact h
  · exact auditState_verdict false st h
  · exact auditState_verdict false 0 (appoint_verdict rfl t _ (by decide) ⟨rfl, rfl⟩ h)

theorem fillSliceAuditor_verdict (h : VerdictKept s0 s) : VerdictKept s0 (fillSliceAuditor s) := by
  rcases fillSliceAuditor_cases s with he | ⟨st, he⟩ | ⟨t, _, he⟩ <;> rw [he]
  · exact h
  · exact auditState_verdict true st h
  · exact auditState_verdict true 0 (appoint_verdict rfl t _ (by decide) ⟨rfl, rfl⟩ h)

end

/-! ### A retirement in its parts -/

/-- The unit that takes over from a retired tile, by how it is chosen (R129, R132). -/
def tileSuccessor (by' : Successor) (s : State) : Option Nat × State :=
  match by' with
  | .named b => (some b, takeUnit tileBase b s)
  | .spare => takeSpare tileBase s
  | .lowest => takeLowest s

/-- The slice that takes over from a retired one (R177, R179). -/
def sliceSuccessor (by' : Successor) (s : State) : Option Nat × State :=
  match by' with
  | .named b => (some b, takeUnit sliceBase b s)
  | _ => takeSpare sliceBase s

/-- A furrow being written or held is marked with what its signature tells of (R283). -/
def markRun (bit : Nat) (running : Bool) (s : State) : State := if running then flagRun bit s else s

/-- An active tile leaves its position: to its successor, at the next checkpoint where a furrow is written, or bare
(R130, R132). -/
def handTile (t a cause : Nat) (q : Option Nat × State) : Nat × State :=
  let (sub, s) := q
  let s' := markRun 3 s.writing s
  match sub with
  | some b =>
    if s.writing then
      let u := setRole tileBase b 1 0 s'
      (1, fillTileAuditor { u with path := { u.path with
        tileSwaps := u.path.tileSwaps ++ [⟨t, a, cause, b, nextCheckpoint u.firstUncomputed, 0⟩] } })
    else (1, fillTileAuditor (serveTile b a (setRole tileBase t 4 0 s')))
  | none =>
    let u := setRole tileBase t 4 0 s'
    (2, if u.furrowArmed then dueCause 0x09 u else u)

/-- An active slice leaves its group, as `handTile` (R178, R179). -/
def handSlice (t g cause at' first : Nat) (running : Bool) (q : Option Nat × State) : Nat × State :=
  let (sub, s) := q
  let s' := markRun 4 running s
  match sub with
  | some b =>
    if running then
      let u := setRole sliceBase b 1 0 s'
      (1, fillSliceAuditor { u with path := { u.path with
        sliceSwaps := u.path.sliceSwaps ++ [⟨t, g, cause, b, at', first⟩] } })
    else (1, fillSliceAuditor (serveSlice b g (setRole sliceBase t 4 0 s')))
  | none =>
    let u := setRole sliceBase t 4 0 s'
    (2, if u.furrowArmed then dueCause 0x0A u else u)

/-- A tile that cannot be retired: there is none, or it is retired already, or its swap is pending (R131). -/
def State.tileGone (s : State) (t : Nat) : Prop :=
  34 ≤ t ∨ s.role tileBase t = 4 ∨ (s.path.tileSwaps.any fun w => w.unit == t) = true

/-- A slice that cannot be retired (R179). -/
def State.sliceGone (s : State) (t : Nat) : Prop :=
  25 ≤ t ∨ islandFused s.cls (64 + t) = true ∨ s.role sliceBase t = 4 ∨
    (s.path.sliceSwaps.any fun w => w.unit == t) = true

section
variable {t cause : Nat} {by' : Successor} {s : State}

theorem retireTile_gone (h : s.tileGone t) : retireTile t cause by' s = (3, s) := if_pos h

theorem retireSlice_gone (h : s.sliceGone t) : retireSlice t cause by' s = (3, s) := if_pos h

/-- A tile that serves no position is retired at once (R131). -/
theorem retireTile_idle (h : ¬ s.tileGone t) (hr : s.role tileBase t ≠ 0) : ∃ payload,
    retireTile t cause by' s =
      (1, fillTileAuditor (setRole tileBase t 4 0 (takeUnit tileBase t (reported 0x203 payload s)))) :=
  ⟨_, (if_neg h).trans (if_pos (by simpa using hr))⟩

/-- A slice that serves no group is retired at once (R179). -/
theorem retireSlice_idle (h : ¬ s.sliceGone t) (hr : s.role sliceBase t ≠ 0) : ∃ payload,
    retireSlice t cause by' s =
      (1, fillSliceAuditor (setRole sliceBase t 4 0 (takeUnit sliceBase t (reported 0x206 payload s)))) :=
  ⟨_, (if_neg h).trans (if_pos (by simpa using hr))⟩

/-- A tile that serves a position hands it over. -/
theorem retireTile_active (h : ¬ s.tileGone t) (hr : s.role tileBase t = 0) : ∃ payload,
    retireTile t cause by' s =
      handTile t (s.place tileBase t) cause (tileSuccessor by' (reported 0x203 payload s)) := by
  cases by' <;> exact ⟨_, (if_neg h).trans (if_neg (by simpa using hr))⟩

/-- A slice that serves a group hands it over. -/
theorem retireSlice_active (h : ¬ s.sliceGone t) (hr : s.role sliceBase t = 0) : ∃ payload at' first,
    retireSlice t cause by' s =
      handSlice t (s.place sliceBase t) cause at' first s.writing (sliceSuccessor by' (reported 0x206 payload s)) := by
  cases by' <;> exact ⟨_, _, _, (if_neg h).trans (if_neg (by simpa using hr))⟩

end

section
variable {s0 s : State}

theorem tileSuccessor_verdict (by' : Successor) (h : VerdictKept s0 s) : VerdictKept s0 (tileSuccessor by' s).2 := by
  cases by' with
  | named b => exact takeUnit_verdict tileBase b h
  | spare => exact takeSpare_verdict tileBase h
  | lowest => exact takeLowest_verdict h

theorem sliceSuccessor_verdict (by' : Successor) (h : VerdictKept s0 s) : VerdictKept s0 (sliceSuccessor by' s).2 := by
  cases by' with
  | named b => exact takeUnit_verdict sliceBase b h
  | spare => exact takeSpare_verdict sliceBase h
  | lowest => exact takeSpare_verdict sliceBase h

theorem handTile_verdict (t cause : Nat) {a : Nat} (ha : a < 32) {q : Option Nat × State} (h : VerdictKept s0 q.2) :
    VerdictKept s0 (handTile t a cause q).2 := by
  have hf : VerdictKept s0 (markRun 3 q.2.writing q.2) := .ite (flagRun_verdict 3 h) h
  unfold handTile
  dsimp only
  split
  · split
    · exact fillTileAuditor_verdict ((setRole_verdict rfl _ 1 0 hf).putPath rfl rfl)
    · exact fillTileAuditor_verdict (serveTile_verdict _ ha (setRole_verdict rfl t 4 0 hf))
  · have hr := setRole_verdict (base := tileBase) rfl t 4 0 hf
    exact .ite (dueCause_verdict 0x09 hr) hr

theorem handSlice_verdict (t cause at' first : Nat) (running : Bool) {g : Nat} (hg : g < 32) {q : Option Nat × State}
    (h : VerdictKept s0 q.2) : VerdictKept s0 (handSlice t g cause at' first running q).2 := by
  have hf : VerdictKept s0 (markRun 4 running q.2) := .ite (flagRun_verdict 4 h) h
  unfold handSlice
  dsimp only
  split
  · split
    · exact fillSliceAuditor_verdict ((setRole_verdict rfl _ 1 0 hf).putPath rfl rfl)
    · exact fillSliceAuditor_verdict (serveSlice_verdict _ hg (setRole_verdict rfl t 4 0 hf))
  · have hr := setRole_verdict (base := sliceBase) rfl t 4 0 hf
    exact .ite (dueCause_verdict 0x0A hr) hr

/-- A retirement leaves the verdicts shown, and the rotation of the audits. -/
theorem retireTile_verdict (t cause : Nat) (by' : Successor) (h : VerdictKept s0 s) :
    VerdictKept s0 (retireTile t cause by' s).2 := by
  by_cases hg : s.tileGone t
  · rw [retireTile_gone hg]
    exact h
  by_cases hr : s.role tileBase t = 0
  · obtain ⟨payload, he⟩ := retireTile_active (cause := cause) (by' := by') hg hr
    rw [he]
    exact handTile_verdict t cause (place_lt ..) (tileSuccessor_verdict by' (reported_verdict 0x203 payload h))
  · obtain ⟨payload, he⟩ := retireTile_idle (cause := cause) (by' := by') hg hr
    rw [he]
    exact fillTileAuditor_verdict (setRole_verdict rfl t 4 0 (takeUnit_verdict _ t (reported_verdict 0x203 payload h)))

/-- As `retireTile_verdict`, for a slice. -/
theorem retireSlice_verdict (t cause : Nat) (by' : Successor) (h : VerdictKept s0 s) :
    VerdictKept s0 (retireSlice t cause by' s).2 := by
  by_cases hg : s.sliceGone t
  · rw [retireSlice_gone hg]
    exact h
  by_cases hr : s.role sliceBase t = 0
  · obtain ⟨payload, at', first, he⟩ := retireSlice_active (cause := cause) (by' := by') hg hr
    rw [he]
    exact handSlice_verdict t cause at' first _ (place_lt ..)
      (sliceSuccessor_verdict by' (reported_verdict 0x206 payload h))
  · obtain ⟨payload, he⟩ := retireSlice_idle (cause := cause) (by' := by') hg hr
    rw [he]
    exact fillSliceAuditor_verdict
      (setRole_verdict rfl t 4 0 (takeUnit_verdict _ t (reported_verdict 0x206 payload h)))

end

/-! ### The verdicts (O35) -/

/-- The verdict of a second opinion is shown, and the audit is over (R129). -/
def harrowVerdict (second outcome : Nat) (s : State) : State :=
  let t := (s.set F.HRW_MISMATCH_0_OUTCOME outcome).set F.HRW_MISMATCH_0_SECOND_TILE second
  { t with path := { t.path with harrowNext := nextUnit t.path.harrowNext, harrowAudit := none } }

/-- The outcome of a second opinion over a unit, by its CRC: 1 for the live tile, 2 for the auditor, 3 for neither. -/
def HarrowAudit.outcome (h : HarrowAudit) (c : Option Nat) : Nat := if c = h.live then 1 else if c = h.aud then 2 else 3

theorem HarrowAudit.outcome_lt (h : HarrowAudit) (c : Option Nat) : h.outcome c < 8 := by
  unfold HarrowAudit.outcome
  split
  · decide
  · split <;> decide

/-- What follows a verdict leaves it. -/
theorem harrowOutcome_verdict (h : HarrowAudit) (second outcome : Nat) (s : State) :
    VerdictKept (harrowVerdict second outcome s) (harrowOutcome h (some second) outcome s) := by
  have hv := auditState_verdict false 0 (.refl (harrowVerdict second outcome s))
  unfold harrowOutcome
  exact .ite (fillTileAuditor_verdict (retireTile_verdict _ 0 .spare hv))
    (.ite (fillTileAuditor_verdict (retireTile_verdict _ 0 (.named h.auditor) hv))
      (fillTileAuditor_verdict (retireTile_verdict _ 0 .lowest (setRole_verdict rfl h.auditor 1 0 hv))))

/-- What a verdict shows. -/
theorem harrowVerdict_shows {second outcome : Nat} (h2 : second < 64) (ho : outcome < 8) (s : State) :
    (harrowVerdict second outcome s).f F.HRW_MISMATCH_0_OUTCOME = outcome ∧
      (harrowVerdict second outcome s).f F.HRW_MISMATCH_0_SECOND_TILE = second := by
  constructor
  · calc (harrowVerdict second outcome s).f F.HRW_MISMATCH_0_OUTCOME
        = (s.set F.HRW_MISMATCH_0_OUTCOME outcome).f F.HRW_MISMATCH_0_OUTCOME :=
          f_set_apart _ F.HRW_MISMATCH_0_SECOND_TILE _ second rfl (by decide) (by decide) (by decide)
      _ = outcome % 8 := f_set_same s F.HRW_MISMATCH_0_OUTCOME outcome (by decide)
      _ = outcome := Nat.mod_eq_of_lt ho
  · exact (f_set_same _ F.HRW_MISMATCH_0_SECOND_TILE second (by decide)).trans (Nat.mod_eq_of_lt h2)

theorem harrowSecond_eq {h : HarrowAudit} {second : Nat} {s : State} (hh : s.path.harrowAudit = some h)
    (h2 : h.second = some second) (bad : List (Nat × Nat)) :
    harrowSecond bad s = harrowOutcome h (some second) (h.outcome (some (recordsCrc (spoil bad h.recs)))) s := by
  simp only [harrowSecond, hh, h2]
  rfl

/-- The verdict of the auditor slice's self-test is shown, and the audits go on to the next group (R177). -/
def sliceVerdict (g : Nat) (pass : Bool) (s : State) : State :=
  { s with path := { s.path with sowNext := (g + 1) % s.cls.groups } }.set F.SOW_MISMATCH_0_OUTCOME
    (if pass then 2 else 1)

theorem sowSelfTest_verdict {u : SowAudit} {s : State} (hu : s.path.sowAudit = some u) (ht : u.testing = true)
    (pass : Bool) : VerdictKept (sliceVerdict u.group pass s) (sowSelfTest pass s) := by
  have hv := auditState_verdict true 0 (.refl (sliceVerdict u.group pass s))
  unfold sowSelfTest
  split
  · rename_i hn
    simp [hu] at hn
  rename_i u' hu'
  obtain rfl : u' = u := by simpa [hu] using hu'.symm
  rw [if_neg (by simp [ht])]
  exact .ite (fillSliceAuditor_verdict (retireSlice_verdict _ 0 _ hv))
    (fillSliceAuditor_verdict (retireSlice_verdict _ 0 .spare hv))

/-- Settles O35: the verdict is shown first, and no retirement that follows writes its register. -/
theorem auditOutcomes : Obligations.AuditOutcomes := by
  unfold Obligations.AuditOutcomes
  intro s
  refine ⟨fun h t2 bad hh h2 hlt => ?harrow, fun u pass hu ht => ?sow⟩
  case harrow =>
    have hv := harrowOutcome_verdict h t2 (h.outcome (some (recordsCrc (spoil bad h.recs)))) s.begin
    obtain ⟨hout, hsecond⟩ := harrowVerdict_shows hlt (h.outcome_lt (some (recordsCrc (spoil bad h.recs)))) s.begin
    refine ⟨_, congrArg Host.Outcome.next (harrowSecond_eq (s := s.begin) hh h2 bad), ?_, ?_, hv.turns.1⟩
    · rw [State.f, hv.harrow]
      exact hout
    · rw [State.f, hv.harrow]
      exact hsecond
  case sow =>
    have hv := sowSelfTest_verdict (s := s.begin) hu ht pass
    refine ⟨sowSelfTest pass s.begin, rfl, ?_, hv.turns.2⟩
    rw [State.f, hv.sow]
    refine (f_set_same _ F.SOW_MISMATCH_0_OUTCOME _ (by decide)).trans ?_
    cases pass <;> rfl

/-! ### Roles (O36) -/

/-- ROLE of a STATUS word. -/
theorem bits_role {role place : Nat} (hr : role < 8) (hp : place < 2 ^ 29) :
    bits ((role <<< 29 + place) % 2 ^ 32) 31 29 = role := by
  simp only [bits, Nat.shiftLeft_eq, Nat.shiftRight_eq_div_pow]
  omega

/-- A unit has the role it was given. -/
theorem role_setRole_same {role place : Nat} (hr : role < 8) (hp : place < 2 ^ 29) (base t : Nat) (s : State) :
    (setRole base t role place s).role base t = role := by
  rw [State.role, setRole, rd_wr_same, bits_role hr hp]

theorem role_auditPlace_same (base t : Nat) {a : Nat} (ha : a < 32) (s : State) :
    (auditPlace base t a s).role base t = 2 := by
  rw [State.role, auditPlace, rd_wr_same, bits_role (by decide) (by rw [Nat.shiftLeft_eq]; omega)]

/-- Roles stand where the registers that change are no STATUS registers. -/
theorem role_set_other {base : Nat} (hb : base % 0x1000 = 0) (t : Nat) {x : Fld} (hx : x.off % 0x1000 ≠ 0) (v : Nat)
    (s : State) : (s.set x v).role base t = s.role base t := by
  rw [State.role, rd_set_other s x v _ (by omega), ← State.role]

theorem role_auditState {base : Nat} (hb : base % 0x1000 = 0) (t : Nat) (sow : Bool) (st : Nat) (s : State) :
    (auditState sow st s).role base t = s.role base t := by
  cases sow
  · exact role_set_other hb t (by decide) st s
  · exact role_set_other hb t (by decide) st s

/-- An appointment changes the role of the unit appointed alone. -/
theorem role_appoint_other {base t u : Nat} (hb : base % 0x1000 = 0) (hu : u ≠ t) (a : Nat) {x : Fld}
    (hx : x.off % 0x1000 ≠ 0) (w : Path) (s : State) : (appoint base t a x w s).role base u = s.role base u :=
  (role_set_other hb u hx t { auditPlace base t a s with path := w }).trans
    (congrArg (bits · 31 29) (rd_wr_other s _ _ _ (by omega)))

theorem role_of_mem_idleUnits {base t : Nat} {s : State} (h : t ∈ s.idleUnits base) : s.role base t = 1 := by
  have := (List.mem_filter.1 h).2
  simp only [Bool.and_eq_true, beq_iff_eq] at this
  exact this.1

/-- Units that do not stand by keep their roles while an auditor is appointed. -/
theorem role_fillTileAuditor {u : Nat} {s : State} (h : s.role tileBase u ≠ 1) :
    (fillTileAuditor s).role tileBase u = s.role tileBase u := by
  rcases fillTileAuditor_cases s with he | ⟨st, he⟩ | ⟨t, ht, he⟩ <;> rw [he]
  · exact role_auditState rfl u false st s
  · have hu : u ≠ t := fun e => h (e ▸ role_of_mem_idleUnits ht)
    rw [role_auditState rfl, role_appoint_other rfl hu _ (by decide)]

theorem role_fillSliceAuditor {u : Nat} {s : State} (h : s.role sliceBase u ≠ 1) :
    (fillSliceAuditor s).role sliceBase u = s.role sliceBase u := by
  rcases fillSliceAuditor_cases s with he | ⟨st, he⟩ | ⟨t, ht, he⟩ <;> rw [he]
  · exact role_auditState rfl u true st s
  · have hu : u ≠ t := fun e => h (e ▸ role_of_mem_idleUnits ht)
    rw [role_auditState rfl, role_appoint_other rfl hu _ (by decide)]

/-- The appointment of an auditor makes no switch. -/
theorem fillSliceAuditor_swaps (s : State) : (fillSliceAuditor s).path.sliceSwaps = s.path.sliceSwaps := by
  rcases fillSliceAuditor_cases s with he | ⟨st, he⟩ | ⟨t, _, he⟩ <;> rw [he] <;> rfl

/-- The record of a retirement leaves the roles. -/
theorem role_reported {base : Nat} (hb : 0x300000 ≤ base) (t typ : Nat) (payload : List Byte) (s : State) :
    (reported typ payload s).role base t = s.role base t := by
  have hframe : SameRegsBut eventRegs s (reported typ payload s) :=
    raise_frame (List.Subset.refl _) 8 (event_frame (List.Subset.refl _) typ payload (.refl _ s))
  have ho : base + 0x1000 * t ∉ eventRegs := by
    intro hm
    have : base + 0x1000 * t < 0x100000 := (by decide : ∀ a ∈ eventRegs, a < 0x100000) _ hm
    omega
  rw [State.role, hframe _ ho, ← State.role]

/-- A unit in standby has nothing to end when it is taken. -/
theorem takeUnit_standby {base t : Nat} {s : State} (h : s.role base t = 1) : takeUnit base t s = s := by
  simp [takeUnit, h]

/-! ### Units retired by command -/

section
variable {u cause : Nat} {by' : Successor} {s : State}

/-- A tile in standby is retired at once, with RESULT 1 (R131). -/
theorem retireTile_standby (hu : u < 34) (hw : s.path.tileSwaps = []) (hr : s.role tileBase u = 1) :
    (retireTile u cause by' s).1 = 1 ∧ (retireTile u cause by' s).2.role tileBase u = 4 := by
  have hg : ¬ s.tileGone u := by simp [State.tileGone, hr, hw, hu]
  obtain ⟨payload, he⟩ := retireTile_idle (cause := cause) (by' := by') hg (by simp [hr])
  have h4 := role_setRole_same (role := 4) (place := 0) (by decide) (by decide) tileBase u (reported 0x203 payload s)
  rw [he, takeUnit_standby (by rw [role_reported (by decide), hr])]
  exact ⟨rfl, (role_fillTileAuditor (by simp [h4])).trans h4⟩

/-- A slice in standby is retired at once, with RESULT 1, and no switch comes to wait (R179). -/
theorem retireSlice_standby (hu : u < 25) (hf : islandFused s.cls (64 + u) = false) (hw : s.path.sliceSwaps = [])
    (hr : s.role sliceBase u = 1) :
    (retireSlice u cause by' s).1 = 1 ∧ (retireSlice u cause by' s).2.role sliceBase u = 4 ∧
      (retireSlice u cause by' s).2.path.sliceSwaps = [] := by
  have hg : ¬ s.sliceGone u := by simp [State.sliceGone, hr, hw, hu, hf]
  obtain ⟨payload, he⟩ := retireSlice_idle (cause := cause) (by' := by') hg (by simp [hr])
  have h4 := role_setRole_same (role := 4) (place := 0) (by decide) (by decide) sliceBase u (reported 0x206 payload s)
  rw [he, takeUnit_standby (by rw [role_reported (by decide), hr])]
  refine ⟨rfl, (role_fillSliceAuditor (by simp [h4])).trans h4, ?_⟩
  rw [fillSliceAuditor_swaps, setRole, wr_path, reported, raise_path, event_path, hw]

end

/-- A held furrow without pending switches has none to make. -/
theorem settleSwaps_none {s : State} (h : s.path.sliceSwaps = []) : settleSwaps s = s := by
  have ha : applySliceSwaps anySwap s = s := by simp [applySliceSwaps, h]
  unfold settleSwaps
  split
  · rw [ha, ite_self]
  · rfl

/-! ### The commands' registers -/

/-- A lease holder's command through a plain register that is not computed. -/
theorem partyField_plain {p k acts : Nat} {x : Fld} {s : State} (h : Commands p x.off s)
    (hr : ((regRow x.off).any fun row => row.takes x acts) = true) (hc : x.off ∉ computedOffs)
    (hn : notOwner p x.off s = false) (hpl : plainReg x.off = true) :
    partyField p x k acts s = s.written p x.off fun t => setBits' p x.off acts true (t.set x k) := by
  obtain ⟨row, hrow, ht⟩ := (Option.any_eq_true _ _).1 hr
  exact partyField_commands p x k acts row s h hrow (computedReg_of_notMem hc p s) hn hpl ht

/-- The numbering of an access and its reply change no register. -/
theorem written_rd (s : State) (p off : Nat) (f : State → State) (a : Nat) :
    (s.written p off f).rd a = (f (s.numbered p off true)).rd a := by
  rw [State.written, replied_eq]
  rfl

theorem written_f (s : State) (p off : Nat) (f : State → State) (x : Fld) :
    (s.written p off f).f x = (f (s.numbered p off true)).f x :=
  congrArg (bits · x.hi x.lo) (written_rd s p off f x.off)

theorem written_role (s : State) (p off : Nat) (f : State → State) (base t : Nat) :
    (s.written p off f).role base t = (f (s.numbered p off true)).role base t :=
  congrArg (bits · 31 29) (written_rd s p off f (base + 0x1000 * t))

theorem numbered_rd (s : State) (p off : Nat) (w : Bool) (a : Nat) : (s.numbered p off w).rd a = s.rd a := by
  rw [numbered_eq]
  rfl

/-- A write whose effect is one on registers. -/
theorem written_accessOnly {p off : Nat} {s : State} {f : State → State}
    (hf : Steady 0x4 (s.begin.numbered p off true) (f (s.begin.numbered p off true))) :
    AccessOnly p [.regs] s (s.begin.written p off f) := by
  have hn : Steady 0xC s.begin (s.begin.numbered p off true) := request_steady rfl _ _ _ _ _ _ _ (Steady.refl _)
  have hs : Steady 0xC s.begin (s.begin.written p off f) := keepReply_steady rfl _ _ _ _ (hn.trans (hf.wider rfl))
  exact ⟨hs.toCanon.only (by intro x; cases x <;> decide), written_sameGates s.begin p off f (hf.parts .gates rfl)⟩

/-- HRW_RETIRE of a tile, between the numbering of the write and its reply (R131). -/
def retireTileCmd (u : Nat) (s : State) : State :=
  let q := retireTile u 3 .spare (s.set F.HRW_RETIRE_CTRL_TILE u)
  q.2.set F.HRW_RETIRE_CTRL_RESULT q.1

/-- SOW_RETIRE of a slice, between the numbering of the write and its reply (R179). -/
def retireSliceCmd (u : Nat) (s : State) : State :=
  let q := retireSlice u 4 .spare (s.set F.SOW_RETIRE_CTRL_SLICE u)
  settleSwaps (q.2.set F.SOW_RETIRE_CTRL_RESULT q.1)

theorem retire_rows :
    ((regRow F.HRW_RETIRE_CTRL.off).any fun row => row.takes F.HRW_RETIRE_CTRL_TILE (1 <<< 31)) = true ∧
      ((regRow F.SOW_RETIRE_CTRL.off).any fun row => row.takes F.SOW_RETIRE_CTRL_SLICE (1 <<< 31)) = true := by
  decide +kernel

section
variable {p u : Nat} {s : State}

theorem setBits_harrowRetire (s : State) : setBits' p F.HRW_RETIRE_CTRL.off (1 <<< 31) true s =
    let q := retireTile (s.f F.HRW_RETIRE_CTRL_TILE) 3 .spare s
    q.2.set F.HRW_RETIRE_CTRL_RESULT q.1 := rfl

theorem setBits_sowRetire (s : State) : setBits' p F.SOW_RETIRE_CTRL.off (1 <<< 31) true s =
    let q := retireSlice (s.f F.SOW_RETIRE_CTRL_SLICE) 4 .spare s
    settleSwaps (q.2.set F.SOW_RETIRE_CTRL_RESULT q.1) := rfl

theorem exec_harrowRetire (h : Commands p F.HRW_RETIRE_CTRL.off s) (hu : u < 34) :
    exec (.harrowRetire p u) s = .next (s.begin.written p F.HRW_RETIRE_CTRL.off (retireTileCmd u)) := by
  have hset (t : State) : setBits' p F.HRW_RETIRE_CTRL.off (1 <<< 31) true (t.set F.HRW_RETIRE_CTRL_TILE u) =
      retireTileCmd u t := by
    have hf : (t.set F.HRW_RETIRE_CTRL_TILE u).f F.HRW_RETIRE_CTRL_TILE = u :=
      (f_set_same t F.HRW_RETIRE_CTRL_TILE u (by decide)).trans (Nat.mod_eq_of_lt (by simp only; omega))
    rw [setBits_harrowRetire, hf, retireTileCmd]
  have he := partyField_plain (x := F.HRW_RETIRE_CTRL_TILE) (k := u) h.begin retire_rows.1 (by decide) rfl (by decide)
  exact congrArg Host.Outcome.next (he.trans (congrArg _ (funext hset)))

theorem exec_sowRetire (h : Commands p F.SOW_RETIRE_CTRL.off s) (hu : u < 25) :
    exec (.sowRetire p u) s = .next (s.begin.written p F.SOW_RETIRE_CTRL.off (retireSliceCmd u)) := by
  have hset (t : State) : setBits' p F.SOW_RETIRE_CTRL.off (1 <<< 31) true (t.set F.SOW_RETIRE_CTRL_SLICE u) =
      retireSliceCmd u t := by
    have hf : (t.set F.SOW_RETIRE_CTRL_SLICE u).f F.SOW_RETIRE_CTRL_SLICE = u :=
      (f_set_same t F.SOW_RETIRE_CTRL_SLICE u (by decide)).trans (Nat.mod_eq_of_lt (by simp only; omega))
    rw [setBits_sowRetire, hf, retireSliceCmd]
  have he := partyField_plain (x := F.SOW_RETIRE_CTRL_SLICE) (k := u) h.begin retire_rows.2 (by decide) rfl (by decide)
  exact congrArg Host.Outcome.next (he.trans (congrArg _ (funext hset)))

end

/-- The state in which a retirement is carried out: the write is numbered, and its unit `u` is in the field `x`. -/
def State.selected (s : State) (p : Nat) (x : Fld) (u : Nat) : State := (s.begin.numbered p x.off true).set x u

section
variable {p u : Nat} {x : Fld} {s : State}

theorem selected_path : (s.selected p x u).path = s.path := by
  rw [State.selected, numbered_eq]
  rfl

theorem selected_cls : (s.selected p x u).cls = s.cls := by
  rw [State.selected, numbered_eq]
  rfl

theorem role_selected {base : Nat} (hb : base % 0x1000 = 0) (hx : x.off % 0x1000 ≠ 0) (t : Nat) :
    (s.selected p x u).role base t = s.role base t := by
  rw [State.selected, role_set_other hb t hx, State.role, numbered_rd]
  rfl

end

section
variable {p u : Nat} {s : State}

/-- Where no switch waits, a held furrow has none to make after the command. -/
theorem retireSliceCmd_eq {q : Nat × State} (he : retireSlice u 4 .spare (s.selected p F.SOW_RETIRE_CTRL_SLICE u) = q)
    (hw : q.2.path.sliceSwaps = []) :
    retireSliceCmd u (s.begin.numbered p F.SOW_RETIRE_CTRL.off true) = q.2.set F.SOW_RETIRE_CTRL_RESULT q.1 := by
  subst he
  exact settleSwaps_none hw

/-- HRW_RETIRE of a tile in standby (R131). -/
theorem harrowRetire_standby (h : Commands p F.HRW_RETIRE_CTRL.off s) (hu : u < 34) (hw : s.path.tileSwaps = [])
    (hr : s.role tileBase u = 1) : Answers (.harrowRetire p u) s fun t =>
      t.role tileBase u = 4 ∧ t.f F.HRW_RETIRE_CTRL_RESULT = 1 := by
  obtain ⟨hres, hrole⟩ := retireTile_standby (cause := 3) (by' := .spare)
    (s := s.selected p F.HRW_RETIRE_CTRL_TILE u) hu (by rw [selected_path, hw])
    (by rw [role_selected rfl (by decide), hr])
  refine ⟨_, exec_harrowRetire h hu, (written_role ..).trans ?_, (written_f ..).trans ?_⟩
  · exact (role_set_other rfl u (x := F.HRW_RETIRE_CTRL_RESULT) (by decide) _ _).trans hrole
  · exact (f_set_same _ F.HRW_RETIRE_CTRL_RESULT _ (by decide)).trans (congrArg (· % 4) hres)

/-- HRW_RETIRE of a tile retired already (R131). -/
theorem harrowRetire_retired (h : Commands p F.HRW_RETIRE_CTRL.off s) (hu : u < 34) (hr : s.role tileBase u = 4) :
    Answers (.harrowRetire p u) s fun t => t.f F.HRW_RETIRE_CTRL_RESULT = 3 ∧
      SameRegsBut [F.HRW_RETIRE_CTRL.off] s t ∧ AccessOnly p [.regs] s t := by
  have hg : (s.selected p F.HRW_RETIRE_CTRL_TILE u).tileGone u :=
    .inr (.inl (by rw [role_selected rfl (by decide), hr]))
  have hcmd : retireTileCmd u (s.begin.numbered p F.HRW_RETIRE_CTRL.off true) =
      (s.selected p F.HRW_RETIRE_CTRL_TILE u).set F.HRW_RETIRE_CTRL_RESULT 3 :=
    congrArg (fun q : Nat × State => q.2.set F.HRW_RETIRE_CTRL_RESULT q.1) (retireTile_gone hg)
  have hregs : SameRegsBut [F.HRW_RETIRE_CTRL.off] (s.begin.numbered p F.HRW_RETIRE_CTRL.off true)
      ((s.selected p F.HRW_RETIRE_CTRL_TILE u).set F.HRW_RETIRE_CTRL_RESULT 3) :=
    ((SameRegsBut.refl _ _).set (by decide) u).set (by decide) 3
  refine ⟨_, exec_harrowRetire h hu, (written_f ..).trans ?_, fun a ha => ?_, written_accessOnly ?_⟩
  · rw [hcmd]
    exact f_set_same _ F.HRW_RETIRE_CTRL_RESULT 3 (by decide)
  · rw [written_rd, hcmd, hregs a ha, numbered_rd, begin_rd]
  · rw [hcmd]
    exact State_set_steady rfl _ _ _ (State_set_steady rfl _ _ _ (Steady.refl _))

/-- SOW_RETIRE of a slice in standby (R179). -/
theorem sowRetire_standby (h : Commands p F.SOW_RETIRE_CTRL.off s) (hu : u < 25)
    (hf : islandFused s.cls (64 + u) = false) (hw : s.path.sliceSwaps = []) (hr : s.role sliceBase u = 1) :
    Answers (.sowRetire p u) s fun t => t.role sliceBase u = 4 ∧ t.f F.SOW_RETIRE_CTRL_RESULT = 1 := by
  obtain ⟨hres, hrole, hswaps⟩ := retireSlice_standby (cause := 4) (by' := .spare)
    (s := s.selected p F.SOW_RETIRE_CTRL_SLICE u) hu (by rw [selected_cls, hf]) (by rw [selected_path, hw])
    (by rw [role_selected rfl (by decide), hr])
  have hcmd := retireSliceCmd_eq rfl hswaps
  refine ⟨_, exec_sowRetire h hu, (written_role ..).trans ?_, (written_f ..).trans ?_⟩
  · rw [hcmd]
    exact (role_set_other rfl u (x := F.SOW_RETIRE_CTRL_RESULT) (by decide) _ _).trans hrole
  · rw [hcmd]
    exact (f_set_same _ F.SOW_RETIRE_CTRL_RESULT _ (by decide)).trans (congrArg (· % 4) hres)

/-- SOW_RETIRE of a slice retired already (R179). -/
theorem sowRetire_retired (h : Commands p F.SOW_RETIRE_CTRL.off s) (hu : u < 25) (hw : s.path.sliceSwaps = [])
    (hr : s.role sliceBase u = 4) :
    Answers (.sowRetire p u) s fun t => t.f F.SOW_RETIRE_CTRL_RESULT = 3 := by
  have hg : (s.selected p F.SOW_RETIRE_CTRL_SLICE u).sliceGone u :=
    .inr (.inr (.inl (by rw [role_selected rfl (by decide), hr])))
  refine ⟨_, exec_sowRetire h hu, (written_f ..).trans ?_⟩
  rw [retireSliceCmd_eq (retireSlice_gone hg) (by rw [selected_path, hw])]
  exact f_set_same _ F.SOW_RETIRE_CTRL_RESULT 3 (by decide)

end

/-! ### The audits' enables -/

/-- The registers of an audit: the STATUS registers of its units, its ENABLE, and AUDITOR and STATE of its status. -/
structure AuditRegs where
  base : Nat
  enable : Fld
  auditor : Fld
  state : Fld

/-- These registers are apart from each other. -/
structure AuditRegs.Apart (r : AuditRegs) : Prop where
  base : r.base % 0x1000 = 0
  enable : r.enable.off % 0x1000 ≠ 0
  status : r.state.off % 0x1000 ≠ 0
  other : r.enable.off ≠ r.state.off
  same : r.auditor.off = r.state.off
  above : r.auditor.hi < r.state.lo
  width : r.state.lo ≤ r.state.hi ∧ r.state.hi < 32

def tileAuditRegs : AuditRegs :=
  ⟨tileBase, F.HRW_AUDIT_CTRL_ENABLE, F.HRW_AUDIT_STATUS_AUDITOR, F.HRW_AUDIT_STATUS_STATE⟩

def sliceAuditRegs : AuditRegs :=
  ⟨sliceBase, F.SOW_AUDIT_CTRL_ENABLE, F.SOW_AUDIT_STATUS_AUDITOR, F.SOW_AUDIT_STATUS_STATE⟩

theorem tileAuditRegs_apart : tileAuditRegs.Apart :=
  ⟨by decide, by decide, by decide, by decide, by decide, by decide, by decide⟩

theorem sliceAuditRegs_apart : sliceAuditRegs.Apart :=
  ⟨by decide, by decide, by decide, by decide, by decide, by decide, by decide⟩

section
variable {r : AuditRegs} (hr : r.Apart)
include hr

/-- After an appointment ENABLE is as it was, and the unit's role and the status show the auditor. -/
theorem appoint_shows {a b : Nat} (ha : a < 32) (hb : b < 2 ^ (r.auditor.hi + 1 - r.auditor.lo)) (w : Path)
    (s : State) :
    let t := (appoint r.base b a r.auditor w s).set r.state 0
    t.f r.enable = s.f r.enable ∧ t.role r.base b = 2 ∧ t.f r.auditor = b ∧ t.f r.state = 0 := by
  obtain ⟨hbase, henable, hstatus, hother, hsame, habove, hle, hlt⟩ := hr
  have hplace : ({ auditPlace r.base b a s with path := w } : State).f r.enable = s.f r.enable :=
    f_wr_other s _ _ r.enable (by omega)
  dsimp only
  refine ⟨?_, ?_, ?_, ?_⟩
  · rw [f_set_other _ _ _ _ hother, appoint, f_set_other _ _ _ _ (by rw [hsame]; exact hother), hplace]
  · rw [role_set_other hbase b hstatus, appoint, role_set_other hbase b (by rw [hsame]; exact hstatus)]
    exact role_auditPlace_same r.base b ha s
  · rw [f_set_apart _ _ _ _ hsame hle (by omega) (.inl habove), appoint, f_set_same _ _ _ (by omega)]
    exact Nat.mod_eq_of_lt hb
  · rw [f_set_same _ _ _ hlt, Nat.zero_mod]

end

/-- The units of a kind of which none is promised to a switch: the lowest in standby is the first that is free. -/
theorem idleUnits_of_find {base b n : Nat} {s : State} (hn : (if base = tileBase then 34 else 25) = n)
    (hp : ∀ t, s.promised base t = false) (h : ((List.range n).find? fun x => s.role base x == 1) = some b) :
    ∃ l, s.idleUnits base = b :: l := by
  refine List.head?_eq_some_iff.1 ?_
  rw [State.idleUnits, hn, List.head?_filter, ← h]
  simp [hp]

/-- A one-bit field stored reads as it was written. -/
theorem on_set_bit (x : Fld) (h : x.hi = x.lo) (hx : x.hi < 32) (b : Bool) (s : State) :
    (s.set x (bitOf b)).on x = b := by
  rw [State.on, f_set_same _ _ _ hx, h, Nat.add_sub_cancel_left]
  cases b <;> rfl

section
variable {b : Nat} {s : State}

/-- ENABLE is set with no auditor: the lowest tile in standby becomes one (R126). -/
theorem harrowAuditEnable_on (hw : s.path.tileSwaps = []) (hn : s.path.harrowAudit = none)
    (ha : s.path.harrowNext.1 < 32) (hb : ((List.range 34).find? fun x => s.role tileBase x == 1) = some b) :
    (harrowAuditEnable true s).on F.HRW_AUDIT_CTRL_ENABLE = true ∧ (harrowAuditEnable true s).role tileBase b = 2 ∧
      (harrowAuditEnable true s).f F.HRW_AUDIT_STATUS_AUDITOR = b ∧
      (harrowAuditEnable true s).f F.HRW_AUDIT_STATUS_STATE = 0 := by
  have hlt : b < 34 := List.mem_range.1 (List.mem_of_find?_eq_some hb)
  have hon := on_set_bit F.HRW_AUDIT_CTRL_ENABLE rfl (by decide) true s
  have hroles (t : Nat) : (s.set F.HRW_AUDIT_CTRL_ENABLE (bitOf true)).role tileBase t = s.role tileBase t :=
    role_set_other rfl t (by decide) _ s
  obtain ⟨l, hi⟩ := idleUnits_of_find (base := tileBase) (s := s.set F.HRW_AUDIT_CTRL_ENABLE (bitOf true)) rfl
    (fun t => by simp [State.promised, hw]) (by simp only [hroles]; exact hb)
  have he : harrowAuditEnable true s = _ := fillTileAuditor_appoints hon hn hi
  rw [he]
  obtain ⟨henable, hshows⟩ := appoint_shows tileAuditRegs_apart ha (Nat.lt_trans hlt (by decide)) (tileAudit b _) _
  exact ⟨(congrArg (· == 1) henable).trans hon, hshows⟩

/-- ENABLE is set with no auditor: the lowest slice in standby becomes one (R175). -/
theorem sowAuditEnable_on (hw : s.path.sliceSwaps = []) (hn : s.path.sowAudit = none)
    (ha : s.path.sowNext < 32) (hb : ((List.range 25).find? fun x => s.role sliceBase x == 1) = some b) :
    (sowAuditEnable true s).on F.SOW_AUDIT_CTRL_ENABLE = true ∧ (sowAuditEnable true s).role sliceBase b = 2 ∧
      (sowAuditEnable true s).f F.SOW_AUDIT_STATUS_AUDITOR = b ∧
      (sowAuditEnable true s).f F.SOW_AUDIT_STATUS_STATE = 0 := by
  have hlt : b < 25 := List.mem_range.1 (List.mem_of_find?_eq_some hb)
  have hon := on_set_bit F.SOW_AUDIT_CTRL_ENABLE rfl (by decide) true s
  have hroles (t : Nat) : (s.set F.SOW_AUDIT_CTRL_ENABLE (bitOf true)).role sliceBase t = s.role sliceBase t :=
    role_set_other rfl t (by decide) _ s
  obtain ⟨l, hi⟩ := idleUnits_of_find (base := sliceBase) (s := s.set F.SOW_AUDIT_CTRL_ENABLE (bitOf true)) rfl
    (fun t => by simp [State.promised, show sliceBase ≠ tileBase by decide, hw]) (by simp only [hroles]; exact hb)
  have he : sowAuditEnable true s = _ := fillSliceAuditor_appoints hon hn hi
  rw [he]
  obtain ⟨henable, hshows⟩ := appoint_shows sliceAuditRegs_apart ha (Nat.lt_trans hlt (by decide)) (sliceAudit _) _
  exact ⟨(congrArg (· == 1) henable).trans hon, hshows⟩

/-- The auditor, where there is one, stands by again. -/
def releaseAuditor (base : Nat) (s : State) : State :=
  match s.auditor? base with
  | some t => setRole base t 1 0 s
  | none => s

theorem releaseAuditor_f {base : Nat} (hb : base % 0x1000 = 0) {x : Fld} (hx : x.off % 0x1000 ≠ 0) (s : State) :
    (releaseAuditor base s).f x = s.f x := by
  unfold releaseAuditor
  split
  · exact f_wr_other s _ _ x (by omega)
  · rfl

/-- ENABLE is cleared: the audit ends (R126). -/
theorem harrowAuditEnable_off (s : State) :
    (harrowAuditEnable false s).on F.HRW_AUDIT_CTRL_ENABLE = false ∧
      (harrowAuditEnable false s).f F.HRW_AUDIT_STATUS_STATE = 3 ∧
      (harrowAuditEnable false s).path.harrowAudit = none := by
  have he : harrowAuditEnable false s = auditState false 3 (dropTileAudit
      (releaseAuditor tileBase (s.set F.HRW_AUDIT_CTRL_ENABLE (bitOf false)))) := by
    simp only [harrowAuditEnable, Bool.false_eq_true, if_false]
    rfl
  refine ⟨?_, ?_, ?_⟩ <;> rw [he]
  · refine Eq.trans (congrArg (· == 1) ?_) (on_set_bit F.HRW_AUDIT_CTRL_ENABLE rfl (by decide) false s)
    exact (f_set_other _ F.HRW_AUDIT_STATUS_STATE _ 3 (by decide)).trans (releaseAuditor_f rfl (by decide) _)
  · exact f_set_same _ F.HRW_AUDIT_STATUS_STATE 3 (by decide)
  · rfl

/-- ENABLE is cleared: the audit ends (R175). -/
theorem sowAuditEnable_off (s : State) :
    (sowAuditEnable false s).on F.SOW_AUDIT_CTRL_ENABLE = false ∧
      (sowAuditEnable false s).f F.SOW_AUDIT_STATUS_STATE = 3 ∧ (sowAuditEnable false s).path.sowAudit = none := by
  have he : sowAuditEnable false s = auditState true 3 (dropSliceAudit
      (releaseAuditor sliceBase (s.set F.SOW_AUDIT_CTRL_ENABLE (bitOf false)))) := by
    simp only [sowAuditEnable, Bool.false_eq_true, if_false]
    rfl
  refine ⟨?_, ?_, ?_⟩ <;> rw [he]
  · refine Eq.trans (congrArg (· == 1) ?_) (on_set_bit F.SOW_AUDIT_CTRL_ENABLE rfl (by decide) false s)
    exact (f_set_other _ F.SOW_AUDIT_STATUS_STATE _ 3 (by decide)).trans (releaseAuditor_f rfl (by decide) _)
  · exact f_set_same _ F.SOW_AUDIT_STATUS_STATE 3 (by decide)
  · rfl

end

/-! ### The writes of the enables -/

/-- A lease holder's write of one field of a settings register is the store of its LW fields (R12). -/
theorem partyField_settings {p k : Nat} {x : Fld} {row : RegRow} {s : State} (h : Commands p x.off s)
    (hr : regRow x.off = some row) (hs : row.settings = true) (hn : notOwner p x.off s = false)
    (ho : x.off < 0x1000000) (hb : x.off ≠ F.JOB_BANK_CTRL.off) :
    partyField p x k 0 s =
      storeFields p x.off (withBits (s.kept p x.off) x.hi x.lo k % 2 ^ 32) (accMask row Acc.stored) s := by
  have hk : ∀ v, Keeps row (s.peek p x.off) v := fun v y hy hacc => by
    rcases settings_acc hs hy with ha | ha <;> simp [ha] at hacc
  have hperm : Permitted p x.off row s := (h.allowed row hn).permitted s.gates
  rw [partyField, partyWrite_reaches _ _ _ _ h.toReaches, written_idem _ _ (nonIdem_settings hr hs), Nat.or_zero,
    regWrite, if_neg (fun hh => hb hh.1), regWriteOk_allowed p x.off _ true row s hperm hr ho (settings_apart hs)
      (hk _),
    settings_accMask hs (q := fun a => a == .w1s) rfl rfl, settings_accMask hs (q := fun a => a == .w1c) rfl rfl]
  simp [clearBits, setBits']

/-- The audits' controls are settings registers with ENABLE as bit 31. -/
theorem auditCtrl_rows :
    ((regRow F.HRW_AUDIT_CTRL.off).any fun row => row.settings && (accMask row Acc.stored).testBit 31) = true ∧
      ((regRow F.SOW_AUDIT_CTRL.off).any fun row => row.settings && (accMask row Acc.stored).testBit 31) = true := by
  decide +kernel

/-- A lease holder's write of bit 31 of a settings register that has one there. -/
theorem partyField_bit31 {p off : Nat} {b : Bool} {s : State} (h : Commands p off s)
    (hr : ((regRow off).any fun row => row.settings && (accMask row Acc.stored).testBit 31) = true)
    (hn : notOwner p off s = false) (ho : off < 0x1000000) (hb : off ≠ F.JOB_BANK_CTRL.off) :
    ∃ v m, v.testBit 31 = b ∧ m ≠ 0 ∧ partyField p ⟨off, 31, 31⟩ (bitOf b) 0 s = storeFields p off v m s := by
  obtain ⟨row, hrow, hrow2⟩ := (Option.any_eq_true _ _).1 hr
  obtain ⟨hs, hbit⟩ := Bool.and_eq_true_iff.1 hrow2
  refine ⟨_, _, ?_, fun h0 => ?_, partyField_settings (x := ⟨off, 31, 31⟩) h hrow hs hn ho hb⟩
  · rw [Nat.testBit_mod_two_pow, testBit_withBits _ _ _ _ _ (Nat.le_refl _)]
    cases b <;> simp [bitOf]
  · simp [h0] at hbit

section
variable {p : Nat} {s : State}

theorem exec_harrowAuditEnable (h : Commands p F.HRW_AUDIT_CTRL.off s) (b : Bool) :
    exec (.harrowAuditEnable p b) s = .next (harrowAuditEnable b s.begin) := by
  obtain ⟨v, m, rfl, hm, he⟩ := partyField_bit31 (b := b) h.begin auditCtrl_rows.1 rfl (by decide) (by decide)
  exact congrArg Host.Outcome.next (he.trans (if_neg hm))

theorem exec_sowAuditEnable (h : Commands p F.SOW_AUDIT_CTRL.off s) (b : Bool) :
    exec (.sowAuditEnable p b) s = .next (sowAuditEnable b s.begin) := by
  obtain ⟨v, m, rfl, hm, he⟩ := partyField_bit31 (b := b) h.begin auditCtrl_rows.2 rfl (by decide) (by decide)
  exact congrArg Host.Outcome.next (he.trans (if_neg hm))

theorem harrowAuditEnable_parts (b : Bool) : OnlyParts [.regs, .path] s (harrowAuditEnable b s.begin) :=
  (harrowAuditEnable_steady (l := 0x4004) rfl b _ (Steady.refl s.begin)).toCanon.only (by intro x; cases x <;> decide)

theorem sowAuditEnable_parts (b : Bool) : OnlyParts [.regs, .path] s (sowAuditEnable b s.begin) :=
  (sowAuditEnable_steady (l := 0x4004) rfl b _ (Steady.refl s.begin)).toCanon.only (by intro x; cases x <;> decide)

end

/-- Settles O36: the commands come to a retirement or to the enable's operation, each of which is known by its cases. -/
theorem retireAndAudits : Obligations.RetireAndAudits := by
  unfold Obligations.RetireAndAudits
  intro p u s htile hslice
  refine ⟨fun h hu => ⟨harrowRetire_standby h hu htile, harrowRetire_retired h hu⟩,
    fun h hu hf => ⟨sowRetire_standby h hu hf hslice, sowRetire_retired h hu hslice⟩,
    fun h => ⟨?harrowOff, fun b hn ha hb => ?harrowOn⟩, fun h => ⟨?sowOff, fun b hn ha hb => ?sowOn⟩⟩
  case harrowOff =>
    obtain ⟨hon, hstate, haudit⟩ := harrowAuditEnable_off s.begin
    exact ⟨_, exec_harrowAuditEnable h false, hon, hstate, haudit, harrowAuditEnable_parts false⟩
  case harrowOn =>
    obtain ⟨hon, hrole, hauditor, hstate⟩ := harrowAuditEnable_on (s := s.begin) htile hn ha hb
    exact ⟨_, exec_harrowAuditEnable h true, hon, hrole, hauditor, hstate, harrowAuditEnable_parts true⟩
  case sowOff =>
    obtain ⟨hon, hstate, haudit⟩ := sowAuditEnable_off s.begin
    exact ⟨_, exec_sowAuditEnable h false, hon, hstate, haudit, sowAuditEnable_parts false⟩
  case sowOn =>
    obtain ⟨hon, hrole, hauditor, hstate⟩ := sowAuditEnable_on (s := s.begin) hslice hn ha hb
    exact ⟨_, exec_sowAuditEnable h true, hon, hrole, hauditor, hstate, sowAuditEnable_parts true⟩

end Sys2Proof.Machine

/-! ## Madder's rows, the sowing of a shot and the map base (O37)

A group's codes are computed amid switches of slices, guard trips and uncorrectable words, which may put the furrow in
fallow. None of that ends the run or touches its account of the shots computed: `Computed` is kept by each of them. -/

namespace Sys2Proof.Machine

/-! ### The account of the shots computed -/

/-- A run of `n` shots is under way, in which each group has computed the shots before its entry of `c`. -/
def Computed (c : List Nat) (n : Nat) (s : State) : Prop :=
  ∃ r, s.jobs.run = some r ∧ r.computed = c ∧ r.nShot = n

section
variable {c : List Nat} {n : Nat} {s t : State}

namespace Computed

theorem setRun {r : Run} (hc : r.computed = c) (hn : r.nShot = n) : Computed c n (setRun r s) := ⟨r, rfl, hc, hn⟩

theorem of_jobs (h : Computed c n s) (hj : t.jobs = s.jobs) : Computed c n t := by
  rw [Computed, hj]
  exact h

/-- An operation that changes parts other than the job sequencer. -/
theorem steady (k : Steady 0x1fffffdfff s t) (h : Computed c n s) : Computed c n t := h.of_jobs (k.parts .jobs rfl)

theorem set (h : Computed c n s) (x : Fld) (v : Nat) : Computed c n (s.set x v) := h.of_jobs rfl

theorem ite {a b : State} {p : Prop} [Decidable p] (ha : Computed c n a) (hb : Computed c n b) :
    Computed c n (if p then a else b) := by split <;> assumption

theorem foldl {α : Type} {f : State → α → State} (es : List α) (h : Computed c n s)
    (hf : ∀ u x, Computed c n u → Computed c n (f u x)) : Computed c n (es.foldl f s) := by
  induction es generalizing s with
  | nil => exact h
  | cons x es ih => exact ih (hf s x h)

end Computed

/-! ### A hold of the furrow -/

theorem event_computed (typ : Nat) (payload : List Byte) (h : Computed c n s) : Computed c n (event typ payload s) :=
  h.steady (event_steady rfl _ _ _ (.refl _))

theorem raise_computed (v : Nat) (h : Computed c n s) : Computed c n (raise v s) :=
  h.steady (raise_steady rfl _ _ (.refl _))

theorem raiseOne_computed (code : Nat) (h : Computed c n s) : Computed c n (raiseOne code s) := by
  obtain ⟨r, hr, hc, hn⟩ := h
  unfold raiseOne
  rw [hr]
  refine .ite ?held ?fresh
  case held =>
    refine event_computed _ _ (.ite (.set (.ite (.set ?_ _ _) ?_) _ _) (.ite (.set ?_ _ _) ?_))
    all_goals exact .setRun hc hn
  case fresh =>
    refine event_computed _ _ (.steady (plannerStop_steady rfl _ (.refl _)) ?_)
    refine .steady (jobState_steady rfl _ _ _ (.refl _)) (raise_computed _ ?_)
    refine .set (.set (.set (.set (.set (.steady (withdraw_steady rfl _ (.refl _)) ?_) _ _) _ _) _ _) _ _) _ _
    exact .steady (writeResume_steady rfl _ _ (.refl _)) (.setRun hc hn)

theorem raiseCause_computed (code : Nat) (h : Computed c n s) : Computed c n (raiseCause code s) := by
  obtain ⟨r, hr, hc, hn⟩ := h
  unfold raiseCause
  rw [hr]
  have hcut : Computed c n (cutSliceUnit (setRun { r with dueCauses := 0 } s)) :=
    .steady (cutSliceUnit_steady rfl _ (.refl _)) (.setRun hc hn)
  exact .foldl _ (raiseOne_computed code hcut) fun _ x hu => raiseOne_computed x hu

theorem dueCause_computed (code : Nat) (h : Computed c n s) : Computed c n (dueCause code s) := by
  have hcause := raiseCause_computed code h
  obtain ⟨r, hr, hc, hn⟩ := h
  unfold dueCause
  rw [hr]
  exact .ite hcause (.setRun hc hn)

/-! ### The field window read -/

theorem fwBad_computed (w : Nat) (h : Computed c n s) : Computed c n (fwBad w s) :=
  dueCause_computed _ (raise_computed _ (event_computed _ _ (h.of_jobs rfl)))

theorem fwWord_computed (patrol : Bool) (w m : Nat) (h : Computed c n s) : Computed c n (fwWord patrol w m s) := by
  unfold fwWord
  split
  · exact h
  · exact .steady (fwFixed_steady rfl _ (.refl _)) (.ite (h.of_jobs rfl) h)
  · exact fwBad_computed w h
  · exact .ite (fwBad_computed w (h.of_jobs rfl)) (h.of_jobs rfl)

theorem fwRead_computed (shot rows : Nat) (h : Computed c n s) : Computed c n (fwRead shot rows s) :=
  .foldl _ h fun _ _ hu => .ite (fwWord_computed _ _ _ hu) hu

/-! ### Switches and retirements of slices -/

theorem takeUnit_computed (base t : Nat) (h : Computed c n s) : Computed c n (takeUnit base t s) :=
  h.steady (takeUnit_steady rfl _ _ _ (.refl _))

theorem takeSpare_computed (base : Nat) (h : Computed c n s) : Computed c n (takeSpare base s).2 :=
  h.steady (takeSpare_steady rfl _ _ (.refl _))

theorem fillSliceAuditor_computed (h : Computed c n s) : Computed c n (fillSliceAuditor s) :=
  h.steady (fillSliceAuditor_steady rfl _ (.refl _))

/-- A place left without a unit puts an armed furrow in fallow. -/
theorem bare_computed (code : Nat) (h : Computed c n s) : Computed c n (if s.furrowArmed then dueCause code s else s) :=
  .ite (dueCause_computed code h) h

theorem applySwap_computed (base : Nat) (w : PendingSwap) (h : Computed c n s) : Computed c n (applySwap base w s) := by
  unfold applySwap
  extract_lets _ t1
  have h1 : Computed c n t1 := h.of_jobs rfl
  clear_value t1
  have hsub : Computed c n (if t1.role base w.by' = 1 ∧ !t1.promised base w.by' then (some w.by', t1)
      else takeSpare base t1).2 := by
    split
    · exact h1
    · exact takeSpare_computed base h1
  revert hsub
  generalize (if t1.role base w.by' = 1 ∧ !t1.promised base w.by' then (some w.by', t1) else takeSpare base t1) = q
  obtain ⟨sub, u⟩ := q
  intro hu
  cases sub with
  | some b => exact .ite (hu.of_jobs rfl) (hu.of_jobs rfl)
  | none => exact bare_computed _ hu

theorem applySliceSwaps_computed (due : PendingSwap → Bool) (h : Computed c n s) :
    Computed c n (applySliceSwaps due s) :=
  .ite h (fillSliceAuditor_computed (.foldl _ h fun _ w hu => applySwap_computed sliceBase w hu))

theorem settleSwaps_computed (h : Computed c n s) : Computed c n (settleSwaps s) := by
  unfold settleSwaps
  split
  · exact .ite (applySliceSwaps_computed _ h) h
  · exact h

theorem markRun_computed (bit : Nat) (running : Bool) (h : Computed c n s) : Computed c n (markRun bit running s) := by
  have hs := h
  obtain ⟨r, hr, hc, hn⟩ := h
  unfold markRun flagRun
  rw [hr]
  exact .ite (.setRun hc hn) hs

theorem sliceSuccessor_computed (by' : Successor) (h : Computed c n s) : Computed c n (sliceSuccessor by' s).2 := by
  cases by' with
  | named b => exact takeUnit_computed _ _ h
  | spare => exact takeSpare_computed _ h
  | lowest => exact takeSpare_computed _ h

theorem handSlice_computed (t g cause at' first : Nat) (running : Bool) {q : Option Nat × State}
    (h : Computed c n q.2) : Computed c n (handSlice t g cause at' first running q).2 := by
  obtain ⟨sub, s⟩ := q
  have hm : Computed c n (markRun 4 running s) := markRun_computed 4 running h
  cases sub with
  | some b => cases running <;> exact fillSliceAuditor_computed (hm.of_jobs rfl)
  | none => exact bare_computed _ (hm.of_jobs (t := setRole sliceBase t 4 0 (markRun 4 running s)) rfl)

theorem retireSlice_computed (t cause : Nat) (by' : Successor) (h : Computed c n s) :
    Computed c n (retireSlice t cause by' s).2 := by
  have hrep : ∀ payload, Computed c n (reported 0x206 payload s) :=
    fun _ => raise_computed _ (event_computed _ _ h)
  by_cases hg : s.sliceGone t
  · rw [retireSlice_gone hg]
    exact h
  · by_cases hr : s.role sliceBase t = 0
    · obtain ⟨payload, at', first, he⟩ := retireSlice_active (cause := cause) (by' := by') hg hr
      rw [he]
      exact handSlice_computed _ _ _ _ _ _ (sliceSuccessor_computed by' (hrep payload))
    · obtain ⟨payload, he⟩ := retireSlice_idle (cause := cause) (by' := by') hg hr
      rw [he]
      exact fillSliceAuditor_computed (.of_jobs (takeUnit_computed _ _ (hrep payload)) rfl)

theorem guardTrip_computed (g t shot : Nat) (codes : List Nat) (h : Computed c n s) :
    Computed c n (guardTrip g t shot codes s) := by
  refine .ite h (settleSwaps_computed (dueCause_computed _ (retireSlice_computed _ _ _ (.foldl _ h fun u x hu => ?_))))
  exact event_computed _ _ (hu.of_jobs rfl)

/-! ### A shot reached -/

theorem captureCheckpoint_computed (shot : Nat) {r : Run} (hc : r.computed = c) (hn : r.nShot = n)
    (h : Computed c n s) : Computed c n (captureCheckpoint shot r s) := by
  unfold captureCheckpoint
  split
  · exact h
  · exact ⟨{ r with captured := shot }, rfl, hc, hn⟩

theorem reachShot_computed (shot : Nat) (h : Computed c n s) : Computed c n (reachShot shot s) := by
  have hs := h
  obtain ⟨r, hr, hc, hn⟩ := h
  unfold reachShot
  rw [hr]
  dsimp -zeta only
  extract_lets +onlyGivenNames sw s1
  have hsw : Computed c n sw := applySliceSwaps_computed _ hs
  have h1 : Computed c n s1 := .ite (.ite (captureCheckpoint_computed shot hc hn hsw) hsw) hs
  clear_value s1
  obtain ⟨r1, hr1, hc1, hn1⟩ := h1
  rw [hr1]
  dsimp only
  split
  · exact .setRun hc1 hn1
  · split <;> exact .setRun hc1 hn1

theorem sigShots_computed (g k : Nat) (h : Computed c n s) : Computed c n (sigShots g k s) := by
  induction k generalizing s with
  | zero => exact h
  | succ k ih =>
    have hs := h
    obtain ⟨r, hr, hc, hn⟩ := h
    unfold sigShots
    rw [hr]
    dsimp only
    split
    · exact .ite (ih ⟨_, rfl, hc, hn⟩) hs
    · exact hs

theorem sigAdvance_computed (g : Nat) (h : Computed c n s) : Computed c n (sigAdvance g s) := sigShots_computed g 70 h

/-! ### The shot of a group (R160) -/

/-- The slice of a group computes its next shot, and the account says so: what comes before and after leaves it. -/
theorem sowShot_computed {g : Nat} {bad : List BadCode} {d : Desc} {r : Run} (hh : s.head? = some d)
    (hr : s.jobs.run = some r) (hg : g < s.cls.groups) (hm : s.mayCompute d r (r.computed.getD g 0) = true)
    (ho : s.islandOpen (64 + s.sliceOf g) = true) (ho13 : s.islandOpen 13 = true) :
    Computed (r.computed.set g (r.computed.getD g 0 + 1)) r.nShot (sowShot g bad s) := by
  have h0 : Computed r.computed r.nShot s := ⟨r, hr, rfl, rfl⟩
  unfold sowShot
  rw [hh, hr]
  dsimp -zeta only
  extract_lets +onlyGivenNames shot s1 s2
  rw [if_neg (by simp only [shot, hm, ho, ho13]; simpa using hg)]
  have h1 : Computed r.computed r.nShot s1 := .ite (fwRead_computed _ _ (reachShot_computed _ h0)) h0
  have h2 : Computed r.computed r.nShot s2 := applySliceSwaps_computed _ h1
  clear_value s2
  obtain ⟨r2, hr2, hc2, hn2⟩ := h2
  rw [hr2]
  dsimp -zeta only
  -- The codes and the signature come first; `r3` is the run with the shot computed.
  extract_lets +onlyGivenNames _ _ _ _ _ _ _ _ _ _ _ _ _ r3 s3 _ s4 s5 s6 s7
  have h3 : Computed (r.computed.set g (shot + 1)) r.nShot s3 := .setRun (congrArg (·.set g (shot + 1)) hc2) hn2
  have h4 : Computed (r.computed.set g (shot + 1)) r.nShot s4 := .ite (h3.of_jobs rfl) h3
  have h5 : Computed (r.computed.set g (shot + 1)) r.nShot s5 :=
    .ite (h4.steady (sowAuditShot_steady rfl _ _ _ _ _ _ (.refl _))) h4
  have h7 : Computed (r.computed.set g (shot + 1)) r.nShot s7 :=
    guardTrip_computed _ _ _ _ (sigAdvance_computed g h5)
  have hheat := h7.steady (heatUpdate_steady rfl shot (r3.nShot - 1) s7 (.refl _))
  exact .ite (hheat.steady (releaseRows_steady rfl _ (.refl _))) h7

end

/-! ### A row of multipliers (R142, R144) -/

/-- A row whose window is read is computed, and the next one is due. -/
theorem multRow_computes {d : Desc} {r : Run} {m : Nat} {win : List (Nat × List Nat)} {s s1 : State}
    (hh : s.head? = some d) (hr : s.jobs.run = some r) (hnone : alGet s.path.mult m = none)
    (hb : s.madBypass = false) (hm : m < d.rows / 64) (hnext : m = s.path.multNext) (hready : s.multReady d m = true)
    (ho : s.islandOpen 12 = true)
    (hw : let j := jobRow d.furrow (d.rows / 64) m
      windowRows d (min (d.rows / 64) (j + 167) - (j - min j 166)) (j - min j 166) s = ((win, true), s1)) :
    (multRow m s).path.mult =
        alSet s1.path.mult m ((multipliers s1 win (jobRow d.furrow (d.rows / 64) m)).map Prod.fst) ∧
      (multRow m s).path.multNext = m + 1 := by
  unfold multRow
  rw [hh, hr]
  dsimp only at hw ⊢
  rw [if_neg (by simp [hnone]), if_neg (by simp [hb, hready, ho, ← hnext, hm]), hw]
  dsimp only
  rw [if_neg (by simp)]
  split <;> exact ⟨rfl, rfl⟩

/-! ### A row of target doses (R134, R135, R145, R148) -/

theorem engineWrite_path (q a : Nat) (l : List Byte) (s : State) : (engineWrite q a l s).path = s.path :=
  (engineWrite_steady (l := 0x180106) rfl q a l s (.refl s)).parts .path rfl

theorem foldl_engineWrite_path {α : Type} (es : List α) (q : Nat) (a : α → Nat) (l : α → List Byte) (s : State) :
    (es.foldl (fun t e => engineWrite q (a e) (l e) t) s).path = s.path := by
  induction es generalizing s with
  | nil => rfl
  | cons e es ih => rw [List.foldl_cons, ih, engineWrite_path]

/-- Of the data path a capture changes itself alone (R103). -/
theorem captureRow_path (y : Nat) (recs es : List Nat) (s : State) :
    ∃ c, (captureRow y recs es s).path = { s.path with capture := c } := by
  unfold captureRow
  split
  · dsimp only
    split
    · exact ⟨_, rfl⟩
    · split
      · exact ⟨_, by rw [foldl_engineWrite_path]⟩
      · exact ⟨none, by rw [raise_path, set_path, engineWrite_path, foldl_engineWrite_path]⟩
  · exact ⟨_, rfl⟩

theorem map_fst_zipIdx {α β : Type} (f : α → β) (l : List α) : (l.zipIdx.map fun e => f e.1) = l.map f := by
  rw [show (fun e : α × Nat => f e.1) = f ∘ Prod.fst from rfl, ← List.map_map, List.zipIdx_map_fst]

/-- With BYPASS a row's entries take multiplier 1 (R148). -/
theorem rowConvert_bypassed {d : Desc} {r : Run} {w : Work} {y : Nat} {s : State} (hh : s.head? = some d)
    (hr : s.jobs.run = some r) (hc : s.path.cur = some w) (hnext : y = s.path.fieldNext) (hrows : y < d.rows)
    (hrec : y < s.harrowRows) (hfree : y < 4096) (ho : s.islandOpen 12 = true) (hb : s.madBypass = true) :
    (rowConvert y s).path.fieldNext = y + 1 ∧
      (rowConvert y s).path.field = alSet s.path.field y ((s.recRow y).map fun x =>
        fieldEntry (nth w.info.doses (recClass x) % 65536) 16384 x) := by
  unfold rowConvert
  rw [hh, hr, hc]
  rcases interpRows d.rows y with ⟨j0, j1⟩
  dsimp -zeta only
  extract_lets +onlyGivenNames m0 m1 free recs es _ s1 s2 _ s3
  have hfree' : free = true := by simp [free, hfree]
  rw [if_neg (by simp [← hnext, hrows, hrec, hfree', ho, hb])]
  have hes : es = recs.map fun x => fieldEntry (nth w.info.doses (recClass x) % 65536) 16384 x := by
    simp only [es, hb, if_true]
    exact map_fst_zipIdx (fun x => fieldEntry (nth w.info.doses (recClass x) % 65536) 16384 x) recs
  have hpath : s2.path = s1.path := (fwWrite_steady (l := 0x80004) rfl y s1 (.refl s1)).parts .path rfl
  have h2 : s2.path.fieldNext = y + 1 ∧ s2.path.field = alSet s.path.field y es := by
    rw [hpath]
    exact ⟨rfl, rfl⟩
  rw [← hes]
  split
  · exact h2
  · obtain ⟨cap, hcap⟩ := captureRow_path y recs es (rowFlags d r y es s3)
    rw [hcap]
    exact h2

/-! ### The map base (R158) -/

theorem furrowArmed_begin (s : State) : s.begin.furrowArmed = s.furrowArmed := by
  simp [State.furrowArmed, State.begin]

/-- MDR_MAP_BASE_HI or _LO. -/
def mapBaseOff (hi : Bool) : Nat := if hi then F.MDR_MAP_BASE_HI.off else F.MDR_MAP_BASE_LO.off

/-- The bits of the map base that its registers store. -/
def mapBaseMask (hi : Bool) : Nat := if hi then 0xF else 0xFFFFFFFF

theorem mapBase_row (hi : Bool) :
    ((regRow (mapBaseOff hi)).any fun row => row.settings && accMask row Acc.stored == mapBaseMask hi) = true := by
  revert hi
  decide +kernel

theorem notOwner_mapBase (p : Nat) (hi : Bool) (s : State) : notOwner p (mapBaseOff hi) s = false := by
  cases hi <;> rfl

/-- A lease holder's write of a settings register is the store of its LW fields (R12). -/
theorem partyWrite_settings {p off v : Nat} {row : RegRow} {s : State} (h : Commands p off s)
    (hr : regRow off = some row) (hs : row.settings = true) (hn : notOwner p off s = false)
    (ho : off < 0x1000000) (hb : off ≠ F.JOB_BANK_CTRL.off) :
    partyWrite p off v s = storeFields p off (v % 2 ^ 32) (accMask row Acc.stored) s := by
  have hk : Keeps row (s.peek p off) (v % 2 ^ 32) := fun y hy hacc => by
    rcases settings_acc hs hy with ha | ha <;> simp [ha] at hacc
  have hperm : Permitted p off row s := (h.allowed row hn).permitted s.gates
  rw [partyWrite_reaches _ _ _ _ h.toReaches, written_idem _ _ (nonIdem_settings hr hs), regWrite,
    if_neg (fun hh => hb hh.1), regWriteOk_allowed p off _ true row s hperm hr ho (settings_apart hs) hk,
    settings_accMask hs (q := fun a => a == .w1s) rfl rfl, settings_accMask hs (q := fun a => a == .w1c) rfl rfl]
  simp [clearBits, setBits']

/-- A register of the map base with a word written to it. -/
def State.mapBaseWord (s : State) (hi : Bool) (v : Word) : Nat :=
  (s.rd (mapBaseOff hi) &&& (0xFFFFFFFF ^^^ mapBaseMask hi)) ||| (v.toNat &&& mapBaseMask hi)

theorem exec_mdrMapBaseWrite {p : Nat} {hi : Bool} {s : State} (h : Commands p (mapBaseOff hi) s) (v : Word) :
    exec (.mdrMapBaseWrite p hi v) s = .next (mdrMapBase (mapBaseOff hi) (s.mapBaseWord hi v) s.begin) := by
  obtain ⟨row, hrow, hrow2⟩ := (Option.any_eq_true _ _).1 (mapBase_row hi)
  obtain ⟨hs, hm⟩ := Bool.and_eq_true_iff.1 hrow2
  have hw : partyWrite p (mapBaseOff hi) v.toNat s.begin =
      storeFields p (mapBaseOff hi) v.toNat (mapBaseMask hi) s.begin := by
    rw [partyWrite_settings h.begin hrow hs (notOwner_mapBase p hi _) (by cases hi <;> decide) (by cases hi <;> decide),
      beq_iff_eq.1 hm, Nat.mod_eq_of_lt v.isLt]
  refine congrArg Host.Outcome.next (hw.trans ?_)
  cases hi <;> rfl

/-- The maps become free, and the prepass that would fill one ends (R138). -/
theorem mapsClear_path (s : State) :
    (mapsClear s).path.maps = List.replicate 3 ⟨none, []⟩ ∧ (mapsClear s).path.preWork = none := by
  unfold mapsClear dropPre
  rw [cutTileUnit_path]
  exact ⟨rfl, rfl⟩

theorem cutTileUnit_frame (pre : Bool) (s : State) : SameRegsBut [F.HRW_AUDIT_STATUS.off] s (cutTileUnit pre s) := by
  unfold cutTileUnit
  split
  · exact .ite (.set (.upd (.refl _ _) rfl rfl) (x := F.HRW_AUDIT_STATUS_STATE) (by decide) 0) (.refl _ _)
  · exact .refl _ _

/-- The end of a prepass writes no register of the map base. -/
theorem mapsClear_rd (hi : Bool) (s : State) : (mapsClear s).rd (mapBaseOff hi) = s.rd (mapBaseOff hi) :=
  cutTileUnit_frame true _ (mapBaseOff hi) (by cases hi <;> decide)

/-- The low bits of either register are among those stored. -/
theorem bits_mapBaseWord (hi : Bool) (v : Word) (s : State) :
    bits (s.mapBaseWord hi v % 2 ^ 32) 3 0 = bits v.toNat 3 0 := by
  have hmask : ∀ hi, ∀ i < 4, (mapBaseMask hi).testBit i = true := by decide
  exact bits_masked _ _ _ 3 0 (by decide) fun i _ h3 => hmask hi i (Nat.lt_succ_of_le h3)

theorem mapBaseWord_lo (v : Word) (s : State) : s.mapBaseWord false v % 2 ^ 32 = v.toNat := by
  have hv : v.toNat &&& 0xFFFFFFFF = v.toNat % 2 ^ 32 := Nat.and_two_pow_sub_one_eq_mod v.toNat 32
  simpa [State.mapBaseWord, mapBaseMask, hv] using v.isLt

/-- With a furrow armed the write is discarded and noted (R158). -/
theorem mdrMapBase_armed (off w : Nat) {s : State} (ha : s.furrowArmed = true) :
    mdrMapBase off w s.begin = s.begin.set F.MDR_STATUS_BASE_REFUSED 1 :=
  if_pos ((furrowArmed_begin s).trans ha)

theorem mdrMapBase_idle (off w : Nat) {s : State} (ha : s.furrowArmed = false) :
    mdrMapBase off w s.begin = mapsClear (s.begin.wr off w) :=
  if_neg (by simp [furrowArmed_begin, ha])

/-- Settles O37: each command comes to its operation, of which the lemmas above give the row, the count or the word. -/
theorem madderAndSowAdvance : Obligations.MadderAndSowAdvance := by
  unfold Obligations.MadderAndSowAdvance
  refine ⟨fun d r s hh hr => ⟨?mult, ?row, ?shot⟩, fun p hi v s h => ⟨fun ha => ?armed, fun ha => ?idle⟩⟩
  case mult =>
    intro m win s1 n j lo hnone hb hm hnext hready ho hw
    obtain ⟨hmult, hdue⟩ := multRow_computes (s := s.begin) hh hr hnone hb hm hnext hready ho hw
    exact ⟨_, rfl, by rw [hmult, alGet_alSet_same], hdue⟩
  case row =>
    intro y w hc hnext hrows hrec hfree ho hb
    obtain ⟨hdue, hfield⟩ := rowConvert_bypassed (s := s.begin) hh hr hc hnext hrows hrec hfree ho hb
    exact ⟨_, rfl, hdue, by rw [hfield, alGet_alSet_same]; rfl⟩
  case shot =>
    intro g bad hg hlen hm ho ho13
    obtain ⟨r', hr', hc, hn⟩ := sowShot_computed (s := s.begin) (bad := bad.map fun b => ⟨b.1, b.2.1, b.2.2⟩)
      hh hr hg hm ho ho13
    exact ⟨_, rfl, r', hr', by simp [hc, hlen, hg], hn⟩
  case armed =>
    have hs : Steady 0x4 s.begin (s.begin.set F.MDR_STATUS_BASE_REFUSED 1) := State_set_steady rfl _ _ _ (.refl _)
    refine ⟨_, (exec_mdrMapBaseWrite h v).trans (congrArg _ (mdrMapBase_armed _ _ ha)), ?_, ?_, hs.onlyRegs⟩
    · simp [State.on]
    · exact rd_set_other _ _ _ _ (by cases hi <;> decide)
  case idle =>
    have hs : Steady 0x4004 s.begin (mapsClear (s.begin.wr (mapBaseOff hi) (s.mapBaseWord hi v))) :=
      mapsClear_steady rfl _ (State_wr_steady rfl _ _ _ (.refl _))
    obtain ⟨hmaps, hpre⟩ := mapsClear_path (s.begin.wr (mapBaseOff hi) (s.mapBaseWord hi v))
    have hrd := (mapsClear_rd hi (s.begin.wr (mapBaseOff hi) (s.mapBaseWord hi v))).trans (rd_wr_same ..)
    refine ⟨_, (exec_mdrMapBaseWrite h v).trans (congrArg _ (mdrMapBase_idle _ _ ha)), ?_, fun hlo => ?_, hmaps, hpre,
      hs.toCanon.only (by intro x; cases x <;> decide)⟩
    · exact (congrArg (bits · 3 0) hrd).trans (bits_mapBaseWord hi v s)
    · subst hlo
      exact hrd.trans (mapBaseWord_lo v s)

end Sys2Proof.Machine
